-- ==== Sys2Proof/Word.lean ====
section
/-! DEFINITION. The words of the machine and the one shape every sparse store has. -/
namespace Sys2Proof

/-- One byte of memory or scratchpad (R2). -/
abbrev Byte := BitVec 8
/-- One instruction word, one lane slot, one accumulator word (R51, R107, R283). -/
abbrev Word := BitVec 32
/-- One scalar register, mask, status register or literal (R20, R115). -/
abbrev Dword := BitVec 64

/-- A sparse store: (key, value) pairs. In canonical form the keys rise strictly and no pair holds the
store's default value (`Machine.Tbl.Canon`, Machine/Table.lean), so equal contents are equal lists. -/
abbrev Tbl (α : Type) := List (Nat × α)

/-- The lane count, status register LANES (R6). -/
abbrev lanes : Nat := 64
/-- Cores of one module, 24 on each of 8 dies (R12); a core's number is die * 24 + core (R231). -/
abbrev numCores : Nat := 192

end Sys2Proof
end

