-- ==== Sys2Proof/Config.lean ====
section
/-! DEFINITION. What the manual leaves open: constants without a body, which nothing can evaluate. A statement
about the machine holds for every value of them. -/
namespace Sys2Proof.Config

/-- Core clock cycles that pass in step n of the machine: any number (R19; log 2). -/
opaque elapsed : Nat → Nat

/-- Free choices: which of several enabled steps comes next, and the counts and codes that the manual leaves open. The
argument is 1,024 times the step, plus a number below 1,024 for what the choice is about (R19, R302; log 1, 6, 12, 14). -/
opaque freeChoice : Nat → Nat

/-- How many steps an action that stays enabled may wait for its turn: some bound (R34, R44; log 1). -/
opaque patience : Nat

/-- Whether a special function or activation, which R76 and R77 bound to the two codes beside its exact value, returns
the upper one. Arguments: function code, type code (R118), operand codes (log 5). -/
opaque specialUp : Nat → Nat → List Nat → Bool

/-- Whether a zero result of a special function, whose sign R76 does not give, has the other sign than the exact value
(log 5). -/
opaque specialZero : Nat → Nat → List Nat → Bool

/-- What VFUSE gives for SiLU and GELU at −∞, of which the manual states no result: the code, and whether INV is set. Arguments:
activation, type code, the codes of t and c (R77, R198; log 49). -/
opaque openCode : Nat → Nat → List Nat → Nat
opaque openInv : Nat → Nat → List Nat → Bool

/-- A byte the manual calls unpredictable, or of a value that it does not state: an overlap of a copy's source and destination (R265), of areas of a
walk (R330) or of a correcting operation (R377), the rest of a faulted copy's destination (R274), the start of an empty
range (R236), an element on which REDs of several kinds met (R220). Arguments: the step, the byte's offset (log 6, 50, 51). -/
opaque freeByte : Nat → Nat → BitVec 8

/-- A byte of another module's memory, as that module has it at this step (log 7). -/
opaque peerByte : Nat → Nat → BitVec 8

/-- Whether a byte of another module's memory still holds what this module wrote there last, when this module reads it
at a step (log 7). Arguments: the step, the address. -/
opaque peerKeeps : Nat → Nat → Bool
/-- Whether the link between two other modules is live at a step (R471; log 7). -/
opaque peerLink : Nat → Nat → Nat → Bool

/-- What the die directories of other modules hold of lines whose entries move to this module at a step: line, core (192·(1 + m) on
are module m's) and state, 1 S, 2 O, 3 E, 4 G, 5 M (R472; log 7). -/
opaque peerHolds : Nat → List (Nat × Nat × Nat)

/-- The token that a fault-queue entry carries, before it is made unique (R431; log 8). -/
opaque token : Nat → Nat

/-- A SHA-256 digest of an image or key, and an RSA-3072 signature of a report (R489, R492; log 10). -/
opaque digest : List (BitVec 8) → Nat
opaque sign : List Nat → Nat

/-- The base addresses the trusted firmware sets at boot: CTXTAB, SVCENTRY, LPBASE, FQBASE, SQBASE, DBBASE,
FLBASE, MCBASE, numbered 0 to 7 (R490; log 4). -/
opaque bootBase : Nat → BitVec 64
/-- Whether an HBM channel, and whether a Wileg port, trains at boot (R466, R482, R490; log 4). -/
opaque channelTrains : Nat → Bool
opaque portTrains : Nat → Bool
/-- The vendor key that a trusted firmware's image carries (R489; log 10). -/
opaque vendorKey : Nat → Nat
/-- The access tables as the trusted firmware writes them: entry k of a channel, entry m of a fold die (R483, R484, R490;
log 4). -/
opaque bootAccess : Nat → Nat → BitVec 64
opaque bootFoldAccess : Nat → Nat → BitVec 64
/-- The measurement and the version of the boot code in ROM, and the certificate of the identity key (R489, R492; log 10). -/
opaque romDigest : Nat
opaque romVersion : Nat
opaque certificate : List Nat
/-- Context entry 0 as the trusted firmware writes it at boot, but for VALID (R387, R490; log 4). -/
opaque bootEntry : BitVec 512

end Sys2Proof.Config
end

