-- ==== Sys2Proof/Syntax.lean ====
section
/-! DEFINITION. The instructions: one constructor for each row of the opcode table, words first, then the steps
of the hardware that have no word. Operand records keep the form an instruction was written in, so that decoding
an encoded instruction gives it back. -/
namespace Sys2Proof

/-- The guard of an extended form: mask register GM, polarity GP (R114). ⟨0, false⟩ is no guard. -/
structure Guard where
  gm : Nat := 0
  gp : Bool := false
  deriving DecidableEq, Repr

/-- Format AS (R110): registers D, A; B a register, or an immediate when `bi`; `u` the unsigned form; the literal
replaces B (R115). -/
structure SOps where
  d : Nat := 0
  a : Nat := 0
  b : Nat := 0
  bi : Bool := false
  u : Bool := false
  lit : Option Dword := none
  deriving DecidableEq, Repr

/-- Format B (R111): scalar or mask register A, displacement in words or, in the literal forms, in bytes. -/
structure BOps where
  a : Nat := 0
  disp : Int := 0
  ext : Bool := false
  lit : Option Dword := none
  g : Guard := {}
  deriving DecidableEq, Repr

/-- Formats A and I (R109, R112, R113): register or code fields D, A, B (IMM7 in format I), C, the function field
BF, XF, the rounding mode, the saturate bit, the guard; the literal is operand B of a vector form (R115). -/
structure VOps where
  d : Nat := 0
  a : Nat := 0
  b : Nat := 0
  ext : Bool := false
  c : Nat := 0
  bf : Nat := 0
  xf : Nat := 0
  rm : Nat := 0
  sat : Bool := false
  lit : Option Word := none
  g : Guard := {}
  deriving DecidableEq, Repr

/-- Format M (R121): data register, offset register (`ov` a vector), buffer index, register or rank register,
lookahead, displacement literal; SCOPE, TAG, SIZE, DS, BR, ORD of the extended form. -/
structure MOps where
  d : Nat := 0
  off : Nat := 0
  ov : Bool := false
  bt : Nat := 0
  la : Nat := 0
  ext : Bool := false
  lit : Option Dword := none
  scope : Nat := 0
  tag : Nat := 0
  size : Nat := 0
  ds : Bool := false
  br : Bool := false
  ord : Nat := 0
  g : Guard := {}
  deriving DecidableEq, Repr

/-- AMO, CAS and RED (R122). -/
structure AOps where
  d : Nat := 0
  off : Nat := 0
  b : Nat := 0
  c : Nat := 0
  op : Nat := 0
  ty : Nat := 0
  scope : Nat := 0
  ord : Nat := 0
  ov : Bool := false
  br : Bool := false
  bt : Nat := 0
  la : Nat := 0
  lit : Option Dword := none
  g : Guard := {}
  deriving DecidableEq, Repr

/-- Format Q of majors 0x2C to 0x3B (R123): FENCE's SCOPE and KIND stand in `x` and `y`; the barrier number and
SA; SD, SA and SPACE of the task queue; SA and OPT of the engines. -/
structure QOps where
  x : Nat := 0
  sa : Nat := 0
  y : Nat := 0
  la : Nat := 0
  ext : Bool := false
  g : Guard := {}
  deriving DecidableEq, Repr

/-- Format Q of major 0x3D (R123, R393). -/
structure POps where
  sd : Nat := 0
  sa : Nat := 0
  deriving DecidableEq, Repr

/-- A near-cache line's state (R455). -/
inductive LineState where
  | m | o | e | s | g | i
  deriving DecidableEq, Repr

/-- A register or table field that has no behaviour of its own (R7, REGISTER_WRITE). -/
inductive HwReg where
  | sigHead                       -- HEAD of the signal queue (R398)
  | fqDesc (q : Nat)              -- RING and EN of fault queue q (R430)
  | fqHead (q : Nat)              -- HEAD of fault queue q (R430)
  | logHead                       -- HEAD of the module fault log (R452)
  | access (c k : Nat)            -- entry k of channel c's access table (R483)
  | foldAccess (f m : Nat)        -- entry of source module m at fold die f (R484)
  | chset (n k : Nat)             -- word k (0 to 7) of channel-set entry n, EN unchanged (R478)
  | memory (pa : Nat)             -- eight bytes at a physical address: tables in memory (R387, R418, R423)
  deriving DecidableEq, Repr

/-- A gang that is to stop for its pre-emption, and its cores that fail to stop (R409, R451). -/
structure GangStop where
  grid : Nat
  fails : List Nat := []
  deriving DecidableEq, Repr

/-- What a store to a launch port carries, and whether it is one aligned store of 64 bytes (R401). -/
structure PortStore where
  record : BitVec 512
  whole : Bool := true
  deriving DecidableEq, Repr

/-- The virtual channel of a STOP or GO, whether it comes from the peer (R469), and whether the peer's sign asks for a replay
instead (R470). -/
structure FlowSign where
  vc : Nat
  peers : Bool := false
  ask : Bool := false
  deriving DecidableEq, Repr

/-- A signature, taken to be what it was made with: the key, and the digest that was signed (R489; log 10). -/
structure Signature where
  key : Nat
  digest : Nat
  deriving DecidableEq, Repr

/-- A unit whose corrected errors are counted (R450, R452): CLASS and INDEX. -/
structure HwUnit where
  cls : Nat := 0
  idx : Nat := 0
  deriving DecidableEq, Repr

inductive Instr where
  -- scalar integer, majors 0x00 to 0x02 (R139 to R143)
  | sadd (o : SOps) | ssub (o : SOps) | smul (o : SOps) | smulh (o : SOps) | sdiv (o : SOps) | srem (o : SOps)
  | smin (o : SOps) | smax (o : SOps) | sand (o : SOps) | sor (o : SOps) | sxor (o : SOps) | sandn (o : SOps)
  | sshl (o : SOps) | sshr (o : SOps) | ssra (o : SOps) | srol (o : SOps) | smov (o : SOps) | sli (o : SOps)
  | sclz (o : SOps) | spop (o : SOps) | sbfx (o : SOps) | sbfi (o : SOps) | ssel (o : SOps)
  | scmp (cc : Nat) (o : SOps)
  -- branches, major 0x04 (R145)
  | jmp (o : BOps) | brz (o : BOps) | brnz (o : BOps) | brLt (o : BOps) | brLe (o : BOps) | brGt (o : BOps)
  | brGe (o : BOps) | call (o : BOps) | brmAny (o : BOps) | brmAll (o : BOps) | brmNone (o : BOps)
  -- majors 0x05 and 0x06 (R146 to R166)
  | jmpr (o : VOps) | callr (o : VOps) | ret (o : VOps) | exit (o : VOps) | yield (o : VOps) | sleep (o : VOps)
  | nop (o : VOps) | elect (o : VOps) | sleepto (o : VOps) | trap (o : VOps) | tret (o : VOps)
  | tretSkip (o : VOps) | tretPass (o : VOps) | rdsr (o : VOps) | rdsrC (o : VOps) | rdclk (o : VOps)
  -- integer and logic, majors 0x08 to 0x0D (R173 to R176)
  | vaddI32 (o : VOps) | vsubI32 (o : VOps) | vmulI32 (o : VOps) | vmulhI32 (o : VOps) | vmadI32 (o : VOps)
  | vminI32 (o : VOps) | vmaxI32 (o : VOps) | vabsI32 (o : VOps)
  | vaddN32 (o : VOps) | vsubN32 (o : VOps) | vmulN32 (o : VOps) | vmulhN32 (o : VOps) | vmadN32 (o : VOps)
  | vminN32 (o : VOps) | vmaxN32 (o : VOps)
  | vand (o : VOps) | vor (o : VOps) | vxor (o : VOps) | vshl (o : VOps) | vshr (o : VOps) | vsra (o : VOps)
  | vsel (o : VOps) | vmov (o : VOps) | vcmpI32 (cc : Nat) (o : VOps) | vcmpN32 (cc : Nat) (o : VOps)
  | vbcast (o : VOps) | vextr (o : VOps) | vlane (o : VOps)
  -- floating point, majors 0x10 to 0x13 (R177 to R180)
  | vfaddF32 (o : VOps) | vfsubF32 (o : VOps) | vfmulF32 (o : VOps) | vfmaF32 (o : VOps) | vfminF32 (o : VOps)
  | vfmaxF32 (o : VOps) | vfsgnF32 (o : VOps) | vfclassF32 (o : VOps)
  | vfaddBf16 (o : VOps) | vfsubBf16 (o : VOps) | vfmulBf16 (o : VOps) | vfmaBf16 (o : VOps) | vfminBf16 (o : VOps)
  | vfmaxBf16 (o : VOps) | vfsgnBf16 (o : VOps) | vfclassBf16 (o : VOps)
  | vfaddF16 (o : VOps) | vfsubF16 (o : VOps) | vfmulF16 (o : VOps) | vfmaF16 (o : VOps) | vfminF16 (o : VOps)
  | vfmaxF16 (o : VOps) | vfsgnF16 (o : VOps) | vfclassF16 (o : VOps)
  | vfcmp (cc : Nat) (o : VOps)
  -- special functions, majors 0x14 and 0x15 (R181)
  | vexp (o : VOps) | vexp2 (o : VOps) | vlog2 (o : VOps) | vrcp (o : VOps) | vrsqrt (o : VOps) | vsqrt (o : VOps)
  | vsin (o : VOps) | vcos (o : VOps) | vtanh (o : VOps) | vsigm (o : VOps) | vgelu (o : VOps)
  -- conversions and tags, major 0x16 (R182 to R186)
  | vcvt (o : VOps) | vtag (o : VOps) | vscaleApply (o : VOps) | vscaleFind (o : VOps) | vzpPack (o : VOps)
  | vzpExtr (o : VOps)
  -- cross-lane, major 0x18 (R187 to R192)
  | vxlaneDn (o : VOps) | vxlaneUp (o : VOps) | vxlaneBfly (o : VOps) | vshuf (o : VOps) | vred (o : VOps)
  | vscan (o : VOps) | vballot (o : VOps) | vtopk (o : VOps)
  -- row statistics and normalisation, majors 0x19 and 0x1C (R193 to R198)
  | vstatAcc (o : VOps) | vstatRd (o : VOps) | vstatClr (o : VOps) | vrmax (o : VOps) | vnorm (o : VOps)
  | vfuse (o : VOps)
  -- iterators and the sweep form, majors 0x1D and 0x1E (R199 to R203)
  | itset (o : VOps) | itrd (o : VOps) | sweep (itn : Nat) (inner : Instr)
  -- loads and stores, majors 0x20 to 0x25 (R204 to R216)
  | ld (o : MOps) | st (o : MOps) | sld (o : MOps) | sst (o : MOps) | ldx (o : MOps) | stx (o : MOps)
  -- atomics and reductions, majors 0x28 to 0x2A (R217 to R221)
  | amo (o : AOps) | cas (o : AOps) | red (o : AOps)
  -- fences and barriers, major 0x2C (R222 to R229)
  | fence (o : QOps) | barinit (o : QOps) | bararr (o : QOps) | barwait (o : QOps) | baraw (o : QOps) | barq (o : QOps)
  -- task queue, ranges, launch, major 0x2D (R230 to R237)
  | tqdef (o : QOps) | tqdone (o : QOps) | tqget (o : QOps) | rngget (o : QOps) | glaunch (o : QOps)
  -- copies, major 0x30 (R262 to R275)
  | cpy (o : QOps) | cpyt (o : QOps) | cpym (o : QOps) | gath (o : QOps) | scat (o : QOps) | cpyst (o : QOps)
  -- matrix, major 0x34 (R252 to R261)
  | mxzero (o : QOps) | mxmul (o : QOps) | mxmulSp (o : QOps) | mxpair (o : QOps) | mxpairSp (o : QOps)
  | mxrd (o : QOps) | mxwr (o : QOps)
  -- correcting mode, major 0x38 (R371 to R382)
  | mxbeta (o : QOps) | mxdelta (o : QOps) | mxsolve (o : QOps)
  -- prefix walk, majors 0x3A and 0x3B (R345 to R363)
  | pwinit (o : QOps) | pwjoin (o : QOps) | pwleave (o : QOps) | pwrun (o : QOps) | pwrunResume (o : QOps)
  | pwwait (o : QOps) | pwstat (o : QOps)
  | btmap (o : QOps) | btinv (o : QOps) | btcow (o : QOps) | kvput (o : QOps) | massdec (o : QOps) | massmin (o : QOps)
  -- privileged, major 0x3D (R386 to R399)
  | mfpr (o : POps) | mtpr (o : POps) | eret (o : POps) | tlbinv (o : POps) | bufinv (o : POps) | cachefl (o : POps)
  | ctxsave (o : POps) | ctxload (o : POps) | halt (o : POps) | signal (o : POps)
  -- the repeat word, major 0x3E (R129 to R132): CNT, STR, SEL as encoded
  | rep (cnt str sel : Nat)
  -- steps of the hardware that `step` itself starts: issue (R36 to R38, waits that end, results that arrive; what is no
  -- instruction, R134, R408)
  | groupSwap (core : Nat) | forcedSwap (core : Nat) | swapEnd (core : Nat) | sleepWake (core grp : Nat)
  | sleeptoResume (core grp : Nat) | loadComplete (core grp : Nat) | storePerform | mscAtomicStep
  | gLineEvict (core line : Nat) | tqgetRearrive (core grp : Nat) | tqgetDeadline (core grp : Nat)
  | illegalInstruction (sub : Nat) | codeFetchFault (sub va : Nat)
  -- engines (R242 to R247, R272, R335)
  | engineOpStart (core serial : Nat) | engineOpComplete (core serial : Nat)
  | engineOpFault (core serial code sub off : Nat) | copyLateExpiry (core serial : Nat) | walkNode (core : Nat)
  -- translation, queues, service entries, gangs, admission (R390, R391, R400 to R415, R426 to R432)
  | pageWalk (core ctx va : Nat) | faultQueuePost (q : Nat) | serviceFaultPost (core : Nat)
  | serviceEntryPreempt (core : Nat) | serviceEntryRestore (core : Nat) | serviceEntryRequest (core : Nat)
  | preemptGang (stop : GangStop) | gangResume (grid : Nat) | admissionStep | gridEnd (grid : Nat)
  -- errors, coherence, links, memory (R441 to R488)
  | scoreboardMismatch (core : Nat) | signatureCompare (core : Nat)
  | recallComplete (fold line : Nat) | requestRetry (core : Nat) | wayReservationExpire (fold set : Nat)
  | dieInvalidate (die line : Nat) | ownerForward (die line : Nat) (write : Bool) | writeback (core line : Nat)
  | dieDirectoryReport (core line : Nat) (st : LineState) | acknowledgement (id : Nat) | messageResend (id : Nat)
  | foldBridgeTimeout (fold : Nat) | foldRehashSet (set : Nat) | restripeGranule (n : Nat)
  | bankRefreshDue (ch pc bank : Nat) | allBankRefreshDone (ch pc : Nat)
  -- steps that the outside starts, through `inputs`: words to the shepherd's registers and queues
  | fqResolve (w : Dword) | doorbell (core : Nat) (lo hi : Dword)
  | launchPortPost (port poster : Nat) (store : PortStore) | lctlPreempt (ctx gridid : Nat)
  | lctlKill (ctx gridid : Nat) | sapoolWrite (w : Dword)
  | chsetEnable (n : Nat) | chsetDisable (n : Nat) | registerWrite (r : HwReg) (w : Dword) | shepherdFullBarrier (n : Nat)
  -- errors, and requests of cores to the directory (R441 to R464)
  | uncorrectableError (core grp sub : Nat) (unit : HwUnit) | correctedError (unit : HwUnit) | errorWindowReset
  | dirRead (core line : Nat) | dirWrite (core line : Nat) | dirRed (core line : Nat)
  -- links and the domain (R465 to R475)
  | flitReceive (fold port vc seq : Nat) (crcOk : Bool) | flowStop (fold port : Nat) (sign : FlowSign) | flowGo (fold port : Nat) (sign : FlowSign)
  | linkTrain (fold port lanesUp roundTrip : Nat)
  | domformMessage (fold port peer peerFold m : Nat) (ident : Dword) | domformTimeout
  | foldDieFailure (fold : Nat) | foldRebuildComplete
  -- boot and management (R489 to R495)
  | moduleReset | bootStageVerify (version : Nat) (sig : Signature) (image : Nat)
  | mgmtStatus | mgmtUpdate (stage : Nat) (image : Nat) | mgmtPartset (n : Nat) (w : Dword) | mgmtModnum (n : Nat)
  | mgmtErrthr (n : Nat) | mgmtChset (n k : Nat) (w : Dword) | mgmtAttest (nonce : BitVec 256) | mgmtResync
  | mgmtEnroll (key : Nat) (signedByOld fromServer : Bool) | mgmtDomform (m : Nat) (ident : Dword)
  | outletTempHigh | outletTempCritical | outletTempFall
  deriving DecidableEq, Repr

end Sys2Proof
end

