-- ==== Sys2Proof/Machine/Encoding.lean ====
section
/-! DEFINITION. The opcode map (R116, R117) and what each instruction asks of its fields (R113, R118 to R124, R133):
an instruction with its operands is a `Form`, and a form that breaks no rule has no cause. Shared by WellFormed and
Decode. -/
namespace Sys2Proof
open Instr

/-- An instruction word's format, codes and operands, before its name is known. -/
inductive Form where
  | sc (maj min : Nat) (o : SOps)
  | br (cond : Nat) (o : BOps)
  | vec (maj min : Nat) (o : VOps)
  | sweep (itn maj min : Nat) (o : VOps)
  | mem (maj : Nat) (o : MOps)
  | atm (maj : Nat) (o : AOps)
  | q (maj qop : Nat) (o : QOps)
  | priv (qop : Nat) (o : POps)
  | rep (cnt str sel : Nat)
  deriving DecidableEq, Repr

/-! The opcode map from codes to names (R117). -/

def scInstr (maj min : Nat) (o : SOps) : Option Instr :=
  match maj, min with
  | 0, 0 => some (sadd o) | 0, 1 => some (ssub o) | 0, 2 => some (smul o) | 0, 3 => some (smulh o)
  | 0, 4 => some (sdiv o) | 0, 5 => some (srem o) | 0, 6 => some (smin o) | 0, 7 => some (smax o)
  | 0, 8 => some (sand o) | 0, 9 => some (sor o) | 0, 10 => some (sxor o) | 0, 11 => some (sandn o)
  | 0, 12 => some (sshl o) | 0, 13 => some (sshr o) | 0, 14 => some (ssra o) | 0, 15 => some (srol o)
  | 1, 0 => some (smov o) | 1, 1 => some (sli o) | 1, 2 => some (sclz o) | 1, 3 => some (spop o)
  | 1, 4 => some (sbfx o) | 1, 5 => some (sbfi o) | 1, 6 => some (ssel o)
  | 2, n => if n < 6 then some (scmp n o) else none
  | _, _ => none

def brInstr (cond : Nat) (o : BOps) : Option Instr :=
  match cond with
  | 0 => some (jmp o) | 1 => some (brz o) | 2 => some (brnz o) | 3 => some (brLt o) | 4 => some (brLe o)
  | 5 => some (brGt o) | 6 => some (brGe o) | 7 => some (call o) | 8 => some (brmAny o) | 9 => some (brmAll o)
  | 10 => some (brmNone o) | _ => none

def ctlInstr (maj min : Nat) (o : VOps) : Option Instr :=
  match maj, min with
  | 0x05, 0 => some (jmpr o) | 0x05, 1 => some (callr o) | 0x05, 2 => some (ret o) | 0x05, 3 => some (Instr.exit o)
  | 0x05, 4 => some (yield o) | 0x05, 5 => some (sleep o) | 0x05, 6 => some (nop o) | 0x05, 7 => some (elect o)
  | 0x06, 0 => some (sleepto o) | 0x06, 1 => some (trap o)
  | 0x06, 2 => if o.d % 4 = 0 then some (tret o) else if o.d % 4 = 1 then some (tretSkip o)
               else if o.d % 4 = 2 then some (tretPass o) else none
  | 0x06, 3 => if 16 < o.a then none else if o.b % 2 = 0 then some (rdsr o)
               else if o.a = 0 then some (rdsrC o) else none
  | 0x06, 4 => some (rdclk o)
  | _, _ => none

def intInstr (maj min : Nat) (o : VOps) : Option Instr :=
  match maj, min with
  | 0x08, 0 => some (vaddI32 o) | 0x08, 1 => some (vsubI32 o) | 0x08, 2 => some (vmulI32 o)
  | 0x08, 3 => some (vmulhI32 o) | 0x08, 4 => some (vmadI32 o) | 0x08, 5 => some (vminI32 o)
  | 0x08, 6 => some (vmaxI32 o) | 0x08, 7 => some (vabsI32 o)
  | 0x09, 0 => some (vaddN32 o) | 0x09, 1 => some (vsubN32 o) | 0x09, 2 => some (vmulN32 o)
  | 0x09, 3 => some (vmulhN32 o) | 0x09, 4 => some (vmadN32 o) | 0x09, 5 => some (vminN32 o)
  | 0x09, 6 => some (vmaxN32 o)
  | 0x0A, 0 => some (vand o) | 0x0A, 1 => some (vor o) | 0x0A, 2 => some (vxor o) | 0x0A, 3 => some (vshl o)
  | 0x0A, 4 => some (vshr o) | 0x0A, 5 => some (vsra o) | 0x0A, 6 => some (vsel o) | 0x0A, 7 => some (vmov o)
  | 0x0B, n => if n < 6 then some (vcmpI32 n o) else none
  | 0x0C, n => if n < 6 then some (vcmpN32 n o) else none
  | 0x0D, 0 => some (vbcast o) | 0x0D, 1 => some (vextr o) | 0x0D, 2 => some (vlane o)
  | _, _ => none

def fltInstr (maj min : Nat) (o : VOps) : Option Instr :=
  match maj, min with
  | 0x10, 0 => some (vfaddF32 o) | 0x10, 1 => some (vfsubF32 o) | 0x10, 2 => some (vfmulF32 o)
  | 0x10, 3 => some (vfmaF32 o) | 0x10, 4 => some (vfminF32 o) | 0x10, 5 => some (vfmaxF32 o)
  | 0x10, 6 => some (vfsgnF32 o) | 0x10, 7 => some (vfclassF32 o)
  | 0x11, 0 => some (vfaddBf16 o) | 0x11, 1 => some (vfsubBf16 o) | 0x11, 2 => some (vfmulBf16 o)
  | 0x11, 3 => some (vfmaBf16 o) | 0x11, 4 => some (vfminBf16 o) | 0x11, 5 => some (vfmaxBf16 o)
  | 0x11, 6 => some (vfsgnBf16 o) | 0x11, 7 => some (vfclassBf16 o)
  | 0x12, 0 => some (vfaddF16 o) | 0x12, 1 => some (vfsubF16 o) | 0x12, 2 => some (vfmulF16 o)
  | 0x12, 3 => some (vfmaF16 o) | 0x12, 4 => some (vfminF16 o) | 0x12, 5 => some (vfmaxF16 o)
  | 0x12, 6 => some (vfsgnF16 o) | 0x12, 7 => some (vfclassF16 o)
  | 0x13, n => if n < 6 ∧ o.d / 16 % 4 ≠ 3 then some (vfcmp n o) else none
  | _, _ => none

def sfuInstr (maj min : Nat) (o : VOps) : Option Instr :=
  match maj, min with
  | 0x14, 0 => some (vexp o) | 0x14, 1 => some (vexp2 o) | 0x14, 2 => some (vlog2 o) | 0x14, 3 => some (vrcp o)
  | 0x14, 4 => some (vrsqrt o) | 0x14, 5 => some (vsqrt o) | 0x14, 6 => some (vsin o) | 0x14, 7 => some (vcos o)
  | 0x15, 0 => some (vtanh o) | 0x15, 1 => some (vsigm o) | 0x15, 2 => some (vgelu o)
  | _, _ => none

/-- Elements per slot of a format tag (R51). -/
def elems (tag : Nat) : Nat :=
  if tag = 2 ∨ tag = 3 ∨ tag = 9 then 2 else if tag = 4 ∨ tag = 5 ∨ tag = 10 ∨ tag = 11 then 4
  else if tag = 6 ∨ tag = 12 then 8 else 1

/-- The pairs of VCVT (R184). -/
def cvtPair (sf dt : Nat) : Bool :=
  let flt := fun t => t = 1 || t = 2 || t = 3
  let int := fun t => t = 7 || t = 8 || t = 9 || t = 10
  let nar := fun t => t = 4 || t = 5
  let ob := fun t => t = 11 || t = 12
  (flt sf && (flt dt && sf != dt || nar dt || dt = 6 || int dt || ob dt))
    || (nar sf && flt dt) || (sf = 6 && flt dt) || (int sf && (flt dt || int dt && sf != dt))
    || (ob sf && (flt dt || dt = 7))

def cvtInstr (maj min : Nat) (o : VOps) : Option Instr :=
  let dt := o.bf % 16
  let sf := o.bf / 16 % 16
  let op := o.bf / 256 % 4
  match maj, min with
  | 0x16, 0 => if op = 0 ∧ cvtPair sf dt then some (vcvt o) else none
  | 0x16, 1 => if o.b ≤ 12 then some (vtag o) else none
  | 0x16, 2 => if dt = 6 ∧ (sf = 1 ∨ sf = 2 ∨ sf = 3) then
                 (if op = 0 then some (vscaleApply o) else if op = 1 then some (vscaleFind o) else none) else none
  | 0x16, 3 => if op = 0 ∧ (dt = 11 ∨ dt = 12) ∧ (sf = 7 ∨ sf = 8) then some (vzpPack o)
               else if op = 1 ∧ dt = 8 ∧ (sf = 11 ∨ sf = 12) then some (vzpExtr o) else none
  | _, _ => none

/-- VRED and VSCAN: the operation and type tag that B holds (R189). -/
def redCodeOk (b : Nat) : Bool :=
  let op := b % 8
  let t := b / 8 % 16
  op < 6 && (t = 7 || t = 8 || ((t = 1 || t = 2 || t = 3) && op < 3))

/-- Lane, statistic, fused and iterator instructions (R118). An ITRD whose IMM7 is no word of the record is of no instruction: subcode
0x02 (DESIGN CHOICE, log 72). -/
def lanInstr (maj min : Nat) (o : VOps) : Option Instr :=
  match maj, min with
  | 0x18, 0 => some (vxlaneDn o) | 0x18, 1 => some (vxlaneUp o) | 0x18, 2 => some (vxlaneBfly o)
  | 0x18, 3 => some (vshuf o)
  | 0x18, 4 => if redCodeOk o.b then some (vred o) else none
  | 0x18, 5 => if redCodeOk o.b then some (vscan o) else none
  | 0x18, 6 => some (vballot o) | 0x18, 7 => some (vtopk o)
  | 0x19, 0 => if o.d % 4 = 0 then (if o.d / 4 % 4 = 3 then none else some (vstatAcc o))
               else if o.d % 4 = 1 then some (vstatRd o) else if o.d % 4 = 2 then some (vstatClr o) else none
  | 0x19, 1 => some (vrmax o) | 0x19, 2 => some (vnorm o)
  | 0x1C, 0 => if o.bf % 8 < 5 ∧ o.bf / 8 % 4 ≠ 3 then some (vfuse o) else none
  | 0x1D, 0 => some (itset o)
  | 0x1D, 1 => if o.b < 4 then some (itrd o) else none
  | _, _ => none

def vecInstr (maj min : Nat) (o : VOps) : Option Instr :=
  if maj < 0x08 then ctlInstr maj min o
  else if maj < 0x10 then intInstr maj min o
  else if maj < 0x14 then fltInstr maj min o
  else if maj < 0x16 then sfuInstr maj min o
  else if maj < 0x18 then cvtInstr maj min o
  else lanInstr maj min o

/-- Whether a minor code can stand inside a sweep (R120). -/
def sweepable (maj min : Nat) : Bool :=
  (maj = 0x08 && min < 8) || (maj = 0x09 && min < 7) || (maj = 0x0A && min < 8)
    || ((maj = 0x10 || maj = 0x11 || maj = 0x12) && min < 7) || (maj = 0x13 && min < 6)
    || (maj = 0x14 && min < 8) || (maj = 0x15 && min < 3) || (maj = 0x1C && min = 0)

def memInstr (maj : Nat) (o : MOps) : Option Instr :=
  match maj with
  | 0x20 => some (ld o) | 0x21 => some (st o) | 0x22 => some (sld o) | 0x23 => some (sst o)
  | 0x24 => some (ldx o) | 0x25 => some (stx o) | _ => none

def atmInstr (maj : Nat) (o : AOps) : Option Instr :=
  match maj with
  | 0x28 => some (amo o) | 0x29 => some (cas o) | 0x2A => some (red o) | _ => none

def qInstr (maj qop : Nat) (o : QOps) : Option Instr :=
  match maj, qop with
  | 0x2C, 0 => some (fence o) | 0x2C, 1 => some (barinit o) | 0x2C, 2 => some (bararr o) | 0x2C, 3 => some (barwait o)
  | 0x2C, 4 => some (baraw o) | 0x2C, 5 => some (barq o)
  | 0x2D, 0 => some (tqdef o) | 0x2D, 1 => some (tqdone o) | 0x2D, 2 => some (tqget o) | 0x2D, 3 => some (rngget o)
  | 0x2D, 4 => some (glaunch o)
  | 0x30, 0 => some (cpy o) | 0x30, 1 => some (cpyt o) | 0x30, 2 => some (cpym o) | 0x30, 3 => some (gath o)
  | 0x30, 4 => some (scat o) | 0x30, 5 => some (cpyst o)
  | 0x34, 0 => some (mxzero o) | 0x34, 1 => some (mxmul o) | 0x34, 2 => some (mxmulSp o) | 0x34, 3 => some (mxpair o)
  | 0x34, 4 => some (mxpairSp o) | 0x34, 5 => some (mxrd o) | 0x34, 6 => some (mxwr o)
  | 0x38, 0 => some (mxbeta o) | 0x38, 1 => some (mxdelta o) | 0x38, 2 => some (mxsolve o)
  | 0x3A, 0 => some (pwinit o) | 0x3A, 1 => some (pwjoin o) | 0x3A, 2 => some (pwleave o)
  | 0x3A, 3 => if o.y / 4 % 2 = 0 then some (pwrun o) else some (pwrunResume o)
  | 0x3A, 4 => some (pwwait o) | 0x3A, 5 => some (pwstat o)
  | 0x3B, 0 => some (btmap o) | 0x3B, 1 => some (btinv o) | 0x3B, 2 => some (btcow o) | 0x3B, 3 => some (kvput o)
  | 0x3B, 4 => some (massdec o) | 0x3B, 5 => some (massmin o)
  | _, _ => none

def privInstr (qop : Nat) (o : POps) : Option Instr :=
  match qop with
  | 0 => some (mfpr o) | 1 => some (mtpr o) | 2 => some (eret o) | 3 => some (tlbinv o) | 4 => some (bufinv o)
  | 5 => some (cachefl o) | 6 => some (ctxsave o) | 7 => some (ctxload o) | 8 => some (halt o) | 9 => some (signal o)
  | _ => none

/-- The instruction a form names, if its codes are assigned. -/
def Form.instr : Form → Option Instr
  | .sc maj min o => scInstr maj min o
  | .br cond o => brInstr cond o
  | .vec maj min o => vecInstr maj min o
  | .sweep itn maj min o =>
    if sweepable maj min then (vecInstr maj min o).map (Instr.sweep itn) else none
  | .mem maj o => memInstr maj o
  | .atm maj o => atmInstr maj o
  | .q maj qop o => qInstr maj qop o
  | .priv qop o => privInstr qop o
  | .rep cn sr sl => some (Instr.rep cn sr sl)

/-! What a field must hold. -/

/-- A field's class: `vec`/`sca` the first of a run of registers, `mskTy` VFCMP's D (a mask below its TY, R180), `code k` a
k-bit code, `any` all bits used. -/
inductive FRule where
  | vec (run : Nat) | sca (run : Nat) | msk | mskTy | itr | zero | code (k : Nat) | any
  deriving DecidableEq, Repr

/-- The causes of R133 that a field's value raises; `regs` is the group's register allocation (R124). VFCMP's D names a mask, so
a nonzero bit above its TY is subcode 0x05 and not 0x03 (DEDUCED, log 69). -/
def FRule.causes (regs f : Nat) : FRule → List Nat
  | .vec run => if f + run ≤ regs then [] else [5]
  | .sca run => if f + run ≤ 64 then [] else [5]
  | .msk => if f < 16 then [] else [5]
  | .mskTy => if f < 64 then [] else [5]
  | .itr => if f < 8 then [] else [5]
  | .zero => if f = 0 then [] else [3]
  | .code k => if f < 2 ^ k then [] else [3]
  | .any => []

/-- A row of the map in format A or I: field rules, whether the base and literal forms exist, the marks of R171. -/
structure VRow where
  d : FRule := .zero
  a : FRule := .zero
  b : FRule := .zero
  c : FRule := .zero
  bf : FRule := .zero
  xf : FRule := .zero
  fmtI : Bool := false
  lit : Bool := false
  base : Bool := true
  rounds : Bool := false
  sat : Bool := false
  clash : Bool := false      -- register runs that may not overlap do (0x05)

/-- VCVT's runs: source registers, destination registers (R183). -/
def cvtRuns (sf dt : Nat) : Nat × Nat :=
  let n := max (elems sf) (elems dt)
  (n / elems sf, n / elems dt)

def v3 : VRow := { d := .vec 1, a := .vec 1, b := .vec 1, lit := true }
def v2 : VRow := { d := .vec 1, a := .vec 1 }

/-- The row of a control or system code (R118, R150 to R166). -/
def ctlRow (maj min : Nat) : Option VRow :=
  match maj, min with
  | 0x05, 0 => some { a := .sca 1 } | 0x05, 1 => some { a := .sca 1 }
  | 0x05, 2 => some {} | 0x05, 3 => some {} | 0x05, 4 => some {} | 0x05, 5 => some {} | 0x05, 6 => some {}
  | 0x05, 7 => some { d := .msk }
  | 0x06, 0 => some { d := .sca 1, a := .sca 1, b := .sca 1 }
  | 0x06, 1 => some { b := .any, fmtI := true }
  | 0x06, 2 => some { d := .code 2 }
  | 0x06, 3 => some { d := .sca 1, a := .any, b := .code 1 }
  | 0x06, 4 => some { d := .sca 1 }
  | _, _ => none

/-- The row of a code of majors 0x16 to 0x1D (R182 to R200). VRED 'rounds and saturates (ADD only)' (R189): the words limit
both RM and SAT to ADD, and VSCAN, which combines alike, carries the same marks (DEDUCED, log 45). -/
def movRow (maj min : Nat) (o : VOps) : Option VRow :=
  let dt := o.bf % 16
  let sf := o.bf / 16 % 16
  match maj, min with
  | 0x16, 0 =>
    let (ns, nd) := cvtRuns sf dt
    let comp := sf = 6 ∨ dt = 6 ∨ sf = 11 ∨ dt = 11 ∨ sf = 12 ∨ dt = 12
    some { d := .vec nd, a := .vec ns, c := if comp then .vec 1 else .zero, bf := .code 10, base := false,
           rounds := true, sat := true, clash := comp ∧ o.d ≤ o.c ∧ o.c < o.d + nd }
  | 0x16, 1 => some { d := .vec 1, a := .vec 1, b := .any, fmtI := true }
  | 0x16, 2 =>
    let find := o.bf / 256 % 4 = 1
    some { d := .vec 1, a := .vec (8 / elems sf), c := if find then .zero else .vec 1, bf := .code 10,
           base := false, rounds := !find, sat := !find }
  | 0x16, 3 => some { d := .vec 1, a := .vec 1, bf := .code 10, base := false, sat := o.bf / 256 % 4 = 0 }
  | 0x18, 0 => some { v2 with b := .any, fmtI := true } | 0x18, 1 => some { v2 with b := .any, fmtI := true }
  | 0x18, 2 => some { v2 with b := .any, fmtI := true }
  | 0x18, 3 => some v3
  | 0x18, 4 => some { v2 with b := .code 7, rounds := o.b % 8 = 0, sat := o.b % 8 = 0 }
  | 0x18, 5 => some { v2 with b := .code 7, rounds := o.b % 8 = 0, sat := o.b % 8 = 0 }
  | 0x18, 6 => some { d := .msk, a := .vec 1 }
  | 0x18, 7 =>
    let n := (o.bf % 128 + 64) / 64
    some { d := .vec n, a := .vec 1, b := .vec 1, c := .vec n, bf := .code 7, xf := .msk, base := false,
           clash := o.d < o.c + n ∧ o.c < o.d + n }
  | 0x19, 0 =>
    if o.d % 4 = 0 then some { d := .code 4, a := .sca 1, b := .vec 1, lit := true }
    else if o.d % 4 = 1 then some { d := .code 2, a := .sca 1, b := .vec 2 }
    else some { d := .code 2, a := .sca 1, lit := o.d % 4 = 3 }
  | 0x19, 1 => some { d := .vec 2, a := .vec 1, b := .vec 1, lit := true }
  | 0x19, 2 => some { d := .vec 1, a := .vec 1, b := .sca 1, rounds := true, sat := true }
  | 0x1C, 0 => some { d := .vec 1, a := .vec 1, b := .vec 1, c := .vec 1, bf := .code 5, xf := .vec 1, base := false,
                      rounds := true, sat := true }
  | 0x1D, 0 => some { d := .itr, a := .sca 4 }
  | 0x1D, 1 => some { d := .sca 1, a := .itr, b := .any, fmtI := true }
  | _, _ => none

/-- The row of a code of format A or I, none where the minor code is unassigned. -/
def vecRow (maj min : Nat) (o : VOps) : Option VRow :=
  if maj < 0x08 then ctlRow maj min
  else match maj with
  | 0x08 =>
    if min = 7 then some { v2 with sat := true }
    else if min < 7 then some { v3 with c := if min = 4 ∧ o.ext then .vec 1 else .zero,
                                        sat := min = 0 ∨ min = 1 ∨ min = 2 ∨ min = 4 } else none
  | 0x09 =>
    if min < 7 then some { v3 with c := if min = 4 ∧ o.ext then .vec 1 else .zero,
                                   sat := min = 0 ∨ min = 1 ∨ min = 2 ∨ min = 4 } else none
  | 0x0A =>
    if min < 6 then some v3
    else if min = 6 then some { v3 with c := .msk, lit := false, base := false }
    else if min = 7 then some v2 else none
  | 0x0B => if min < 6 then some { v3 with d := .msk } else none
  | 0x0C => if min < 6 then some { v3 with d := .msk } else none
  | 0x0D =>
    if min = 0 then some { d := .vec 1, a := .sca 1 }
    else if min = 1 then some { d := .sca 1, a := .vec 1, b := .sca 1 }
    else if min = 2 then some { d := .vec 1 } else none
  | 0x10 | 0x11 | 0x12 =>
    if min < 4 then some { v3 with c := if min = 3 ∧ o.ext then .vec 1 else .zero, rounds := true, sat := true }
    else if min < 7 then some v3 else if min = 7 then some v2 else none
  | 0x13 => if min < 6 then some { v3 with d := .mskTy } else none
  | 0x14 => if min < 8 then some { v2 with b := .code 2 } else none
  | 0x15 => if min < 3 then some { v2 with b := .code 2 } else none
  | _ => movRow maj min o

/-- Whether TY in B of a special function is assigned (R118, R181). -/
def sfuTyOk (maj : Nat) (o : VOps) : Bool := !((maj = 0x14 || maj = 0x15) && o.b % 4 = 3)

def Guard.causes (g : Guard) : List Nat := if g.gm = 0 ∧ g.gp then [3] else []

def sub (b : Bool) (n : Nat) : List Nat := if b then [n] else []

/-- Causes of a format A or I form in a row that exists, overlaps judged on whole forms only (R113, R115, R118, R119, R133). -/
def VRow.causes (r : VRow) (regs : Nat) (whole : Bool) (o : VOps) : List Nat :=
  r.d.causes regs o.d ++ r.a.causes regs o.a
    ++ (if o.lit.isSome then FRule.zero else r.b).causes regs o.b
    ++ r.c.causes regs o.c ++ r.bf.causes regs o.bf
    ++ (match r.xf with
        | .vec n => if o.xf < 1024 then (FRule.vec n).causes regs o.xf else [3]
        | x => x.causes regs o.xf)
    ++ sub (!r.rounds && o.rm != 0) 3 ++ sub (!r.sat && o.sat) 3 ++ sub (r.clash && whole) 5 ++ o.g.causes

/-- Whether the row has the form's length (R116). -/
def VRow.lenOk (r : VRow) (ext lit : Bool) : Bool := (ext || r.base) && (!lit || r.lit)

/-! Scalar format. -/

def scUOk (maj min : Nat) : Bool :=
  (maj = 0 && 3 ≤ min && min < 8) || (maj = 1 && min = 4) || (maj = 2 && 2 ≤ min && min < 6)

def scLenOk (maj min : Nat) (lit : Bool) : Bool :=
  if maj = 1 && min = 1 then lit else if maj = 1 && (min = 2 || min = 3) then !lit else true

def SOps.causes (maj min : Nat) (o : SOps) : List Nat :=
  sub (o.u && !scUOk maj min) 2
    ++ sub (maj = 1 && (min = 0 || min = 1) && o.a != 0) 3
    ++ sub ((o.lit.isSome || maj = 1 && (min = 2 || min = 3)) && (o.b != 0 || o.bi)) 3

/-! Branch format (R111, R118, R145). -/

def BOps.causes (cond : Nat) (o : BOps) : List Nat :=
  (if 8 ≤ cond then FRule.msk else if cond = 0 ∨ cond = 7 then FRule.zero else FRule.sca 1).causes 0 o.a
    ++ (match o.lit with
        | none => []
        | some l => sub (o.disp != 0) 3 ++ sub (l.toNat % 4 != 0) 3)
    ++ o.g.causes

/-! Memory formats (R121, R122, R206, R217). -/

def MOps.causes (maj regs : Nat) (o : MOps) : List Nat :=
  let load := maj % 2 = 0
  let sp := maj = 0x22 ∨ maj = 0x23
  let x := maj = 0x24 ∨ maj = 0x25
  (if o.ds then FRule.sca 1 else FRule.vec 1).causes regs o.d
    ++ (if o.ov then FRule.vec 1 else FRule.sca 1).causes regs o.off
    ++ (if sp then FRule.zero else if x ∨ o.br then FRule.sca 1 else FRule.any).causes regs o.bt
    ++ sub (!load && o.la != 0) 3
    ++ sub (12 < o.tag || (!load && o.tag != 0)) 2
    ++ sub (load && (o.size = 1 || o.size = 2) && !(o.tag = 7 || o.tag = 8)) 2
    ++ sub (o.size = 3 && (maj != 0x21 || o.ds)) 2
    ++ sub (o.ds && (o.size != 0 || o.tag != 0 || o.ov)) 2
    ++ sub (o.br && (sp ∨ x)) 2
    ++ sub (!(o.ord = 0 || (load && o.ord = 1) || (!load && o.ord = 2))) 2
    ++ sub (o.scope = 7 || (o.ord = 0 && o.scope != 0)) 2
    ++ o.g.causes

def AOps.causes (maj regs : Nat) (o : AOps) : List Nat :=
  (if maj = 0x2A then FRule.zero else FRule.vec 1).causes regs o.d
    ++ (if o.ov then FRule.vec 1 else FRule.sca 1).causes regs o.off
    ++ (FRule.vec 1).causes regs o.b
    ++ (if maj = 0x29 then FRule.vec 1 else FRule.zero).causes regs o.c
    ++ (if o.br then FRule.sca 1 else FRule.any).causes regs o.bt
    ++ sub (3 < o.ty || o.op = 7 || (o.op = 6 && maj != 0x28) || (3 ≤ o.op && o.op < 6 && 2 ≤ o.ty)) 2
    ++ sub (maj = 0x29 && o.op != 0) 2
    ++ sub (o.scope = 7 || (o.ord = 0 && o.scope != 0)) 2
    ++ sub (maj = 0x2A && !(o.ord = 0 || o.ord = 2)) 2
    ++ sub (maj = 0x2A && o.la != 0) 3
    ++ o.g.causes

/-! Format Q (R123, R222, R225, R231, R238, R241, R345, R371, R372). -/

/-- How many scalar registers an engine instruction's run holds, its result first (R239). -/
def runLen (maj qop : Nat) : Nat :=
  match maj, qop with
  | 0x30, 0 => 4 | 0x30, 1 => 5 | 0x30, 2 => 4 | 0x30, 3 => 5 | 0x30, 4 => 5 | 0x30, 5 => 2
  | 0x34, 0 => 2 | 0x34, 1 => 6 | 0x34, 2 => 6 | 0x34, 3 => 8 | 0x34, 4 => 8 | 0x34, 5 => 4 | 0x34, 6 => 3
  | 0x38, 0 => 2 | 0x38, 1 => 4 | 0x38, 2 => 5
  | 0x3A, 5 => 1 | 0x3A, _ => 2
  | 0x3B, 0 => 3 | 0x3B, 1 => 2 | 0x3B, 2 => 3 | 0x3B, 3 => 3 | 0x3B, 4 => 3 | 0x3B, 5 => 4
  | _, _ => 1

/-- The OPT bits an engine instruction defines (R241, R345, R372). -/
def optMask (maj qop : Nat) : Nat :=
  match maj, qop with
  | 0x30, 4 => 0b01111 | 0x30, 5 => 0 | 0x30, _ => 0b00011
  | 0x34, 0 => 0b00011 | 0x34, 5 => 0b00011 | 0x34, 6 => 0b00011 | 0x34, _ => 0b01111
  | 0x38, 0 => 0b00111 | 0x38, _ => 0b01111
  | 0x3A, 3 => 0b00111 | 0x3A, _ => 0
  | 0x3B, _ => 0b00011
  | _, _ => 0

/-- In majors 0x2C and 0x2D, `x` is the field at [19:15] or [20:15], `sa` the one above it, `y` what is left:
FENCE has SCOPE in `x`, KIND in `y`. In the engine majors `x` is ITB:ITA, `sa` SA, `y` OPT. -/
def QOps.causes (maj qop : Nat) (o : QOps) : List Nat :=
  (if maj = 0x2C then
     (if qop = 0 then sub (o.x = 7) 2 ++ sub (o.y = 0) 2 ++ sub (o.sa != 0) 3 ++ sub (o.la != 0) 3
      else sub (o.y != 0) 3 ++ sub (qop = 4 && o.sa != 0) 3 ++ sub (!(qop = 2 || qop = 5) && o.la != 0) 3)
   else if maj = 0x2D then
     sub (o.y / 4 != 0) 3 ++ sub (qop != 3 && o.y % 4 != 0) 3
       ++ (if qop = 2 ∨ qop = 3 then FRule.sca 2 else FRule.sca 1).causes 0 o.x
   else
     sub (o.x != 0) 3 ++ sub (o.la != 0) 3 ++ sub ((o.y &&& (31 - optMask maj qop)) != 0) 3
       ++ (FRule.sca (runLen maj qop)).causes 0 o.sa)
    ++ o.g.causes

def POps.causes (qop : Nat) (o : POps) : List Nat := sub ((qop = 2 || qop = 8) && (o.sd != 0 || o.sa != 0)) 3

/-- Every cause of R133, but for the length and the fetch, that a form with an assigned major raises; `whole` when
all its words are at hand. -/
def Form.causes (regs : Nat) (whole : Bool) (f : Form) : List Nat :=
  sub f.instr.isNone 2 ++
    match f with
    | .sc maj min o => o.causes maj min
    | .br cond o => o.causes cond
    | .vec maj min o => sub (!sfuTyOk maj o) 2 ++ (match vecRow maj min o with | some r => r.causes regs whole o | none => [])
    | .sweep _ maj min o =>
      sub (!sfuTyOk maj o) 2 ++ (match vecRow maj min o with | some r => r.causes regs whole o | none => [])
    | .mem maj o => o.causes maj regs
    | .atm maj o => o.causes maj regs
    | .q maj qop o => o.causes maj qop
    | .priv qop o => o.causes qop
    | .rep _ _ _ => []

/-- A form read from `n` words that are at hand: a code in an extension word beyond them, where 0 would be unassigned, stands
at an assigned value, so that no cause is found in a word that is not there (R133): B of VRED and VSCAN, ORD of a load or
store. -/
def Form.cutAt (n : Nat) : Form → Form
  | .vec 0x18 min o => .vec 0x18 min (if o.ext ∧ n < 2 ∧ (min = 4 ∨ min = 5) then { o with b := 56 } else o)
  | .mem maj o => .mem maj (if o.ext ∧ n < 3 then { o with ord := if maj % 2 = 0 then 1 else 2 } else o)
  | f => f

/-- Whether the form has the length it was written in (R116). -/
def Form.lenOk : Form → Bool
  | .sc maj min o => scLenOk maj min o.lit.isSome
  | .vec maj min o => match vecRow maj min o with | some r => r.lenOk o.ext o.lit.isSome | none => true
  | .sweep _ maj min o =>
    o.ext && (match vecRow maj min o with | some r => !o.lit.isSome || !sweepable maj min || r.lit | none => true)
  | _ => true

/-! From an instruction back to its form. -/

def Instr.vecForm : Instr → Option (Nat × Nat × VOps)
  | jmpr o => some (0x05, 0, o) | callr o => some (0x05, 1, o) | ret o => some (0x05, 2, o) | Instr.exit o => some (0x05, 3, o)
  | yield o => some (0x05, 4, o) | sleep o => some (0x05, 5, o) | nop o => some (0x05, 6, o) | elect o => some (0x05, 7, o)
  | sleepto o => some (0x06, 0, o) | trap o => some (0x06, 1, o) | tret o => some (0x06, 2, o)
  | tretSkip o => some (0x06, 2, o) | tretPass o => some (0x06, 2, o) | rdsr o => some (0x06, 3, o)
  | rdsrC o => some (0x06, 3, o) | rdclk o => some (0x06, 4, o)
  | vaddI32 o => some (0x08, 0, o) | vsubI32 o => some (0x08, 1, o) | vmulI32 o => some (0x08, 2, o)
  | vmulhI32 o => some (0x08, 3, o) | vmadI32 o => some (0x08, 4, o) | vminI32 o => some (0x08, 5, o)
  | vmaxI32 o => some (0x08, 6, o) | vabsI32 o => some (0x08, 7, o)
  | vaddN32 o => some (0x09, 0, o) | vsubN32 o => some (0x09, 1, o) | vmulN32 o => some (0x09, 2, o)
  | vmulhN32 o => some (0x09, 3, o) | vmadN32 o => some (0x09, 4, o) | vminN32 o => some (0x09, 5, o)
  | vmaxN32 o => some (0x09, 6, o)
  | vand o => some (0x0A, 0, o) | vor o => some (0x0A, 1, o) | vxor o => some (0x0A, 2, o) | vshl o => some (0x0A, 3, o)
  | vshr o => some (0x0A, 4, o) | vsra o => some (0x0A, 5, o) | vsel o => some (0x0A, 6, o) | vmov o => some (0x0A, 7, o)
  | vcmpI32 n o => some (0x0B, n, o) | vcmpN32 n o => some (0x0C, n, o)
  | vbcast o => some (0x0D, 0, o) | vextr o => some (0x0D, 1, o) | vlane o => some (0x0D, 2, o)
  | vfaddF32 o => some (0x10, 0, o) | vfsubF32 o => some (0x10, 1, o) | vfmulF32 o => some (0x10, 2, o)
  | vfmaF32 o => some (0x10, 3, o) | vfminF32 o => some (0x10, 4, o) | vfmaxF32 o => some (0x10, 5, o)
  | vfsgnF32 o => some (0x10, 6, o) | vfclassF32 o => some (0x10, 7, o)
  | vfaddBf16 o => some (0x11, 0, o) | vfsubBf16 o => some (0x11, 1, o) | vfmulBf16 o => some (0x11, 2, o)
  | vfmaBf16 o => some (0x11, 3, o) | vfminBf16 o => some (0x11, 4, o) | vfmaxBf16 o => some (0x11, 5, o)
  | vfsgnBf16 o => some (0x11, 6, o) | vfclassBf16 o => some (0x11, 7, o)
  | vfaddF16 o => some (0x12, 0, o) | vfsubF16 o => some (0x12, 1, o) | vfmulF16 o => some (0x12, 2, o)
  | vfmaF16 o => some (0x12, 3, o) | vfminF16 o => some (0x12, 4, o) | vfmaxF16 o => some (0x12, 5, o)
  | vfsgnF16 o => some (0x12, 6, o) | vfclassF16 o => some (0x12, 7, o)
  | vfcmp n o => some (0x13, n, o)
  | vexp o => some (0x14, 0, o) | vexp2 o => some (0x14, 1, o) | vlog2 o => some (0x14, 2, o) | vrcp o => some (0x14, 3, o)
  | vrsqrt o => some (0x14, 4, o) | vsqrt o => some (0x14, 5, o) | vsin o => some (0x14, 6, o) | vcos o => some (0x14, 7, o)
  | vtanh o => some (0x15, 0, o) | vsigm o => some (0x15, 1, o) | vgelu o => some (0x15, 2, o)
  | vcvt o => some (0x16, 0, o) | vtag o => some (0x16, 1, o) | vscaleApply o => some (0x16, 2, o)
  | vscaleFind o => some (0x16, 2, o) | vzpPack o => some (0x16, 3, o) | vzpExtr o => some (0x16, 3, o)
  | vxlaneDn o => some (0x18, 0, o) | vxlaneUp o => some (0x18, 1, o) | vxlaneBfly o => some (0x18, 2, o)
  | vshuf o => some (0x18, 3, o) | vred o => some (0x18, 4, o) | vscan o => some (0x18, 5, o)
  | vballot o => some (0x18, 6, o) | vtopk o => some (0x18, 7, o)
  | vstatAcc o => some (0x19, 0, o) | vstatRd o => some (0x19, 0, o) | vstatClr o => some (0x19, 0, o)
  | vrmax o => some (0x19, 1, o) | vnorm o => some (0x19, 2, o) | vfuse o => some (0x1C, 0, o)
  | itset o => some (0x1D, 0, o) | itrd o => some (0x1D, 1, o)
  | _ => none

def Instr.qForm : Instr → Option (Nat × Nat × QOps)
  | fence o => some (0x2C, 0, o) | barinit o => some (0x2C, 1, o) | bararr o => some (0x2C, 2, o)
  | barwait o => some (0x2C, 3, o) | baraw o => some (0x2C, 4, o) | barq o => some (0x2C, 5, o)
  | tqdef o => some (0x2D, 0, o) | tqdone o => some (0x2D, 1, o) | tqget o => some (0x2D, 2, o)
  | rngget o => some (0x2D, 3, o) | glaunch o => some (0x2D, 4, o)
  | cpy o => some (0x30, 0, o) | cpyt o => some (0x30, 1, o) | cpym o => some (0x30, 2, o) | gath o => some (0x30, 3, o)
  | scat o => some (0x30, 4, o) | cpyst o => some (0x30, 5, o)
  | mxzero o => some (0x34, 0, o) | mxmul o => some (0x34, 1, o) | mxmulSp o => some (0x34, 2, o)
  | mxpair o => some (0x34, 3, o) | mxpairSp o => some (0x34, 4, o) | mxrd o => some (0x34, 5, o) | mxwr o => some (0x34, 6, o)
  | mxbeta o => some (0x38, 0, o) | mxdelta o => some (0x38, 1, o) | mxsolve o => some (0x38, 2, o)
  | pwinit o => some (0x3A, 0, o) | pwjoin o => some (0x3A, 1, o) | pwleave o => some (0x3A, 2, o)
  | pwrun o => some (0x3A, 3, o) | pwrunResume o => some (0x3A, 3, o) | pwwait o => some (0x3A, 4, o)
  | pwstat o => some (0x3A, 5, o)
  | btmap o => some (0x3B, 0, o) | btinv o => some (0x3B, 1, o) | btcow o => some (0x3B, 2, o) | kvput o => some (0x3B, 3, o)
  | massdec o => some (0x3B, 4, o) | massmin o => some (0x3B, 5, o)
  | _ => none

/-- The form of an instruction word; none for a step of the hardware, which has no word. -/
def Instr.form : Instr → Option Form
  | sadd o => some (.sc 0 0 o) | ssub o => some (.sc 0 1 o) | smul o => some (.sc 0 2 o) | smulh o => some (.sc 0 3 o)
  | sdiv o => some (.sc 0 4 o) | srem o => some (.sc 0 5 o) | smin o => some (.sc 0 6 o) | smax o => some (.sc 0 7 o)
  | sand o => some (.sc 0 8 o) | sor o => some (.sc 0 9 o) | sxor o => some (.sc 0 10 o) | sandn o => some (.sc 0 11 o)
  | sshl o => some (.sc 0 12 o) | sshr o => some (.sc 0 13 o) | ssra o => some (.sc 0 14 o) | srol o => some (.sc 0 15 o)
  | smov o => some (.sc 1 0 o) | sli o => some (.sc 1 1 o) | sclz o => some (.sc 1 2 o) | spop o => some (.sc 1 3 o)
  | sbfx o => some (.sc 1 4 o) | sbfi o => some (.sc 1 5 o) | ssel o => some (.sc 1 6 o) | scmp n o => some (.sc 2 n o)
  | jmp o => some (.br 0 o) | brz o => some (.br 1 o) | brnz o => some (.br 2 o) | brLt o => some (.br 3 o)
  | brLe o => some (.br 4 o) | brGt o => some (.br 5 o) | brGe o => some (.br 6 o) | call o => some (.br 7 o)
  | brmAny o => some (.br 8 o) | brmAll o => some (.br 9 o) | brmNone o => some (.br 10 o)
  | Instr.sweep n i => match i.vecForm with | some (maj, min, o) => some (.sweep n maj min o) | none => none
  | ld o => some (.mem 0x20 o) | st o => some (.mem 0x21 o) | sld o => some (.mem 0x22 o) | sst o => some (.mem 0x23 o)
  | ldx o => some (.mem 0x24 o) | stx o => some (.mem 0x25 o)
  | amo o => some (.atm 0x28 o) | cas o => some (.atm 0x29 o) | red o => some (.atm 0x2A o)
  | mfpr o => some (.priv 0 o) | mtpr o => some (.priv 1 o) | eret o => some (.priv 2 o) | tlbinv o => some (.priv 3 o)
  | bufinv o => some (.priv 4 o) | cachefl o => some (.priv 5 o) | ctxsave o => some (.priv 6 o)
  | ctxload o => some (.priv 7 o) | halt o => some (.priv 8 o) | signal o => some (.priv 9 o)
  | Instr.rep c t l => some (.rep c t l)
  | i => match i.vecForm with
    | some (maj, min, o) => some (.vec maj min o)
    | none => match i.qForm with
      | some (maj, qop, o) => some (.q maj qop o)
      | none => none

end Sys2Proof
end

