-- ==== Sys2Proof/WellFormed.lean ====
section
/-! DEFINITION. Well-formed instructions: those that stand for some instruction words. -/
namespace Sys2Proof

/-- A guard's fields, and none in a form without extension words (R112, R114). -/
def Guard.fits (g : Guard) (ext : Bool) : Bool := if ext then g.gm < 16 else g == {}

/-- Format AS (R110). -/
def SOps.fits (o : SOps) : Bool := o.d < 64 && o.a < 64 && o.b < 64

/-- Format B (R111). -/
def BOps.fits (o : BOps) : Bool :=
  o.a < 64 && (-8192 : Int) ≤ o.disp && o.disp < 8192 && o.g.fits o.ext

/-- Formats A and I: 7-bit fields in the base word, 10-bit fields in the extension words (R109, R112, R113). -/
def VOps.fits (fmtI : Bool) (o : VOps) : Bool :=
  o.g.fits o.ext && o.rm < 4 &&
  if o.ext then
    o.d < 1024 && o.a < 1024 && o.b < (if fmtI then 128 else 1024) && o.c < 1024 && o.xf < 4096
      && o.bf < (if fmtI then 2 ^ 14 else 2 ^ 21)
  else o.d < 128 && o.a < 128 && o.b < 128 && o.c == 0 && o.bf == 0 && o.xf == 0 && o.rm == 0 && !o.sat

/-- Format M of loads and stores (R121): the base form is a plain word access of a vector register. -/
def MOps.fits (o : MOps) : Bool :=
  o.g.fits o.ext && o.la < 16 &&
  if o.ext then
    o.d < 1024 && o.off < 1024 && o.bt < 4096 && o.scope < 8 && o.tag < 16 && o.size < 4 && o.ord < 4
  else o.d < 128 && o.off < 64 && o.bt < 64 && o.scope == 0 && o.tag == 0 && o.size == 0 && !o.ds && !o.br && o.ord == 0

/-- AMO, CAS, RED (R122): extended only. -/
def AOps.fits (o : AOps) : Bool :=
  o.g.fits true && o.d < 1024 && o.off < 1024 && o.b < 1024 && o.c < 1024 && o.op < 8 && o.ty < 8 && o.scope < 8
    && o.ord < 4 && o.bt < 4096 && o.la < 16

/-- Format Q (R123): the widths of the three fields above QOP. -/
def QOps.fits (maj qop : Nat) (o : QOps) : Bool :=
  o.g.fits o.ext && o.la < 16 &&
  if maj = 0x2C then
    if qop = 0 then o.x < 8 && o.y < 4 && o.sa < 4096 else o.x < 32 && o.sa < 64 && o.y < 64
  else o.x < 64 && o.sa < 64 && o.y < 32

/-- Every field within its width. -/
def Form.fits : Form → Bool
  | .sc _ _ o => o.fits
  | .br cond o => o.fits && cond < 16
  | .vec maj min o => o.fits (match vecRow maj min o with | some r => r.fmtI | none => false)
  | .sweep itn _ _ o => o.fits false && itn < 8 && o.bf == 0
  | .mem _ o => o.fits
  | .atm _ o => o.fits
  | .q maj qop o => o.fits maj qop
  | .priv _ o => o.sd < 64 && o.sa < 64
  | .rep cnt str sel => cnt < 64 && str < 16 && sel < 16

/-- An instruction that its own encoding can hold and that breaks no rule of R107 to R134 with a full register
allocation. The hardware's own steps have no word and are not well-formed. -/
def Instr.wellFormed (i : Instr) : Bool :=
  match i.form with
  | none => false
  | some f => f.instr == some i && f.fits && f.lenOk && (f.causes 768 true).isEmpty

abbrev WellFormed (i : Instr) : Prop := i.wellFormed = true

end Sys2Proof
end

