-- ==== Sys2Proof/Decode.lean ====
section
/-! DEFINITION. From instruction words to instructions (R107 to R134), and back. -/
namespace Sys2Proof

/-- Bits hi down to lo of w. -/
def bits (w hi lo : Nat) : Nat := w / 2 ^ lo % 2 ^ (hi + 1 - lo)

/-- Bit n of w. -/
def bit (w n : Nat) : Bool := w / 2 ^ n % 2 = 1

/-- w as a signed number of n bits. -/
def signed (n w : Nat) : Int := if w < 2 ^ (n - 1) then (w : Int) else (w : Int) - 2 ^ n

/-- Format B's 14-bit displacement as a field (R111). -/
def dispField (d : Int) : Nat := (d % 16384).toNat

/-- The words of one instruction: base, X1, X2, literal. Words that are not there read as 0 (R107). -/
structure Words where
  w : Nat
  x1 : Nat := 0
  x2 : Nat := 0
  lit : Option Dword := none
  deriving DecidableEq, Repr

/-- What a decode answers: an instruction with its length in words, or an illegal instruction's subcode (R133). -/
inductive Decoded where
  | ok (i : Instr) (len : Nat)
  | illegal (sub : Nat)
  deriving DecidableEq, Repr

def Words.ext (x : Words) : Bool := bit x.w 0
def Words.guard (x : Words) : Guard := ⟨bits x.x2 13 10, bit x.x2 14⟩
/-- A vector form's literal (R115). -/
def Words.litW (x : Words) : Option Word := x.lit.map (fun l => l.setWidth 32)

/-! One decoder for each format: the form, and the causes of R133 that its record cannot show (bits that stand in no
field of the record). -/

/-- Format AS (R110). -/
def decAS (maj : Nat) (x : Words) : Form × List Nat :=
  let w := x.w
  (.sc maj (8 * bits w 24 24 + bits w 10 8)
    { d := bits w 16 11, a := bits w 23 18, b := bits w 30 25, bi := bit w 31, u := bit w 17, lit := x.lit }, [])

/-- Format B (R111, R113). -/
def decB (x : Words) : Form × List Nat :=
  let w := x.w
  (.br (bits w 11 8)
    { a := bits w 17 12, disp := signed 14 (bits w 31 18), ext := x.ext, lit := x.lit, g := x.guard },
    sub (x.x1 != 0) 3 ++ sub (bits x.x2 9 0 != 0 || bit x.x2 15 || bits x.x2 31 16 != 0) 3)

/-- Formats A and I (R109, R112, R113): the operands. -/
def decVOps (fmtI : Bool) (w : Nat) (bf : Nat) (x : Words) : VOps :=
  if x.ext then
    { d := bits x.x1 9 0, a := bits x.x1 19 10, b := if fmtI then bits w 31 25 else bits x.x1 29 20, ext := true,
      c := bits x.x2 9 0, bf := bf, xf := bits x.x2 31 20, rm := bits x.x1 31 30, sat := bit x.x2 15, lit := x.litW,
      g := x.guard }
  else { d := bits w 17 11, a := bits w 24 18, b := bits w 31 25, lit := x.litW }

/-- What a vector form's words hold beyond the record: XLA, a literal's high half, XB beside IMM7 (R113, R115). -/
def decVExtra (fmtI : Bool) (x : Words) : List Nat :=
  sub (bits x.x2 19 16 != 0) 3 ++ sub (fmtI && bits x.x1 29 20 != 0) 3
    ++ (match x.lit with | some l => sub (l.toNat / 2 ^ 32 != 0) 3 | none => [])

/-- Whether a code is of format I (R117). -/
def fmtIOf (maj min : Nat) : Bool :=
  (maj = 0x06 && min = 1) || (maj = 0x16 && min = 1) || (maj = 0x18 && min < 3) || (maj = 0x1D && min = 1)

def decV (maj : Nat) (x : Words) : Form × List Nat :=
  let min := bits x.w 10 8
  let fi := fmtIOf maj min
  (.vec maj min (decVOps fi x.w (if fi then bits x.w 24 11 else bits x.w 31 11) x), decVExtra fi x)

/-- The sweep form (R120). -/
def decSweep (x : Words) : Form × List Nat :=
  (.sweep (bits x.w 14 12) (bits x.w 20 15) (bits x.w 23 21) (decVOps false 0 0 x),
    sub (bits x.w 11 8 != 0 || bits x.w 31 24 != 0) 3 ++ decVExtra false x)

/-- Format M of loads and stores (R121). -/
def decM (maj : Nat) (x : Words) : Form × List Nat :=
  let w := x.w
  if x.ext then
    let mf := bits x.x2 9 0
    (.mem maj { d := bits x.x1 9 0, off := bits x.x1 19 10, ov := bit w 15, bt := bits x.x2 31 20, la := bits x.x2 19 16,
                ext := true, lit := x.lit, scope := bits w 14 12, tag := bits mf 3 0, size := bits mf 5 4, ds := bit mf 6,
                br := bit mf 7, ord := bits mf 9 8, g := x.guard },
      sub (bits w 11 8 != 0 || bits w 31 16 != 0) 3 ++ sub (bits x.x1 31 20 != 0) 3 ++ sub (bit x.x2 15) 3)
  else
    (.mem maj { d := bits w 24 18, off := bits w 30 25, ov := bit w 31, bt := bits w 17 12, la := bits w 11 8,
                lit := x.lit }, [])

/-- AMO, CAS, RED (R122). A nonzero X1.RM or X2.SAT is one of R217's other combinations, subcode 0x02. -/
def decA (maj : Nat) (x : Words) : Form × List Nat :=
  let w := x.w
  (.atm maj { d := bits x.x1 9 0, off := bits x.x1 19 10, b := bits x.x1 29 20, c := bits x.x2 9 0, op := bits w 14 12,
              ty := bits w 17 15, scope := bits w 20 18, ord := bits w 22 21, ov := bit w 23, br := bit w 24,
              bt := bits x.x2 31 20, la := bits x.x2 19 16, lit := x.lit, g := x.guard },
    sub (bits w 11 8 != 0 || bits w 31 25 != 0) 3 ++ sub (bits x.x1 31 30 != 0) 2 ++ sub (bit x.x2 15) 2)

/-- Format Q of majors 0x2C to 0x3B (R113, R123). -/
def decQ (maj : Nat) (x : Words) : Form × List Nat :=
  let w := x.w
  let qop := bits w 14 12
  let (fx, fsa, fy) :=
    if maj = 0x2C then
      if qop = 0 then (bits w 17 15, bits w 31 20, bits w 19 18) else (bits w 19 15, bits w 25 20, bits w 31 26)
    else (bits w 20 15, bits w 26 21, bits w 31 27)
  (.q maj qop { x := fx, sa := fsa, y := fy, la := if x.ext then bits x.x2 19 16 else bits w 11 8, ext := x.ext,
                g := x.guard },
    sub (x.ext && bits w 11 8 != 0) 3 ++ sub (x.x1 != 0) 3
      ++ sub (bits x.x2 9 0 != 0 || bit x.x2 15 || bits x.x2 31 20 != 0) 3)

/-- Format Q of major 0x3D (R109, R123). -/
def decP (x : Words) : Form × List Nat :=
  let w := x.w
  (.priv (bits w 15 12) { sd := bits w 21 16, sa := bits w 27 22 }, sub (bits w 11 8 != 0 || bits w 31 28 != 0) 3)

/-- REP (R109, R129). -/
def decRep (x : Words) : Form × List Nat :=
  let w := x.w
  (.rep (bits w 13 8) (bits w 21 18) (bits w 17 14), sub (bits w 31 22 != 0) 3)

/-- The majors of R116 with the lengths each may have; none for an unassigned major. -/
def majLens (maj : Nat) : Option (List Nat) :=
  if maj ≤ 0x02 then some [0, 2]
  else if maj = 0x04 then some [0, 1, 2, 3]
  else if maj = 0x05 ∨ maj = 0x06 then some [0, 1]
  else if maj = 0x1C then some [1]
  else if maj = 0x1E then some [1, 3]
  else if (0x08 ≤ maj ∧ maj ≤ 0x0D) ∨ (0x10 ≤ maj ∧ maj ≤ 0x16) ∨ maj = 0x18 ∨ maj = 0x19 ∨ maj = 0x1D then
    some [0, 1, 2, 3]
  else if 0x20 ≤ maj ∧ maj ≤ 0x25 then some [0, 1, 2, 3]
  else if 0x28 ≤ maj ∧ maj ≤ 0x2A then some [1, 3]
  else if maj = 0x2C ∨ maj = 0x2D ∨ maj = 0x30 ∨ maj = 0x34 ∨ maj = 0x38 ∨ maj = 0x3A ∨ maj = 0x3B then some [0, 1]
  else if maj = 0x3D ∨ maj = 0x3E then some [0]
  else none

/-- A word's form and its extra causes, by its major's format. -/
def decForm (maj : Nat) (x : Words) : Form × List Nat :=
  if maj ≤ 0x02 then decAS maj x
  else if maj = 0x04 then decB x
  else if maj = 0x1E then decSweep x
  else if maj < 0x20 then decV maj x
  else if maj < 0x26 then decM maj x
  else if maj < 0x2B then decA maj x
  else if maj < 0x3D then decQ maj x
  else if maj = 0x3D then decP x
  else decRep x

/-- Whether the minor code, where the format of R109 places it, is assigned: what is still judged when the length is
not one the instruction has (R134). -/
def minorAssigned (maj w : Nat) : Bool :=
  if maj ≤ 0x02 then (scInstr maj (8 * bits w 24 24 + bits w 10 8) {}).isSome
  else if maj = 0x04 then bits w 11 8 < 11
  else if maj < 0x1E then (vecRow maj (bits w 10 8) {}).isSome
  else if maj < 0x2C then true
  else if maj < 0x3D then (qInstr maj (bits w 14 12) {}).isSome
  else if maj = 0x3D then bits w 15 12 < 10
  else true

/-- The lowest of some causes. -/
def lowest (cs : List Nat) : Option Nat := cs.min?

/-- How many words LEN names (R108). -/
def lenWords (len : Nat) : Nat := if len = 0 then 1 else if len = 3 then 5 else 3

/-- The words at hand, read in the order of R107. -/
def splitWords (len : Nat) (ws : List Nat) : Words :=
  let w := ws.getD 0 0
  let pair := fun i => some (BitVec.ofNat 64 (ws.getD i 0 + 2 ^ 32 * ws.getD (i + 1) 0))
  if len = 0 then { w := w }
  else if len = 1 then { w := w, x1 := ws.getD 1 0, x2 := ws.getD 2 0 }
  else if len = 2 then { w := w, lit := pair 1 }
  else { w := w, x1 := ws.getD 1 0, x2 := ws.getD 2 0, lit := pair 3 }

/-- The instruction at the head of `ws`, the words from the base word's address to the end of the grid's code, for a
group with `regs` vector registers; otherwise the lowest subcode that applies (R133, R134). -/
def decode (regs : Nat) (ws : List Nat) : Decoded :=
  let w := ws.getD 0 0
  let len := w % 4
  let maj := bits w 7 2
  let short := fun n => sub (ws.length < n) 7
  if maj = 0x3F then .illegal ((lowest (sub ws.isEmpty 7 ++ [1])).getD 1)
  else match majLens maj with
  | none => .illegal 2
  | some lens =>
    if len ∉ lens then .illegal ((lowest (sub (!minorAssigned maj w) 2 ++ [4])).getD 4)
    else
      let n := lenWords len
      let (g, extra) := decForm maj (splitWords len ws)
      let f := g.cutAt ws.length
      if !f.lenOk then .illegal ((lowest (sub (!minorAssigned maj w) 2 ++ [4])).getD 4)
      else match lowest (f.causes regs (n ≤ ws.length) ++ extra ++ short n), f.instr with
        | none, some i => .ok i n
        | some c, _ => .illegal c
        | none, none => .illegal 2

/-! The encoder: the words of an instruction, from the same tables. -/

/-- LEN of a form (R108). -/
def lenOf (ext lit : Bool) : Nat := (if ext then 1 else 0) + (if lit then 2 else 0)

def toBit (b : Bool) : Nat := if b then 1 else 0

/-- The two words of a literal (R115). -/
def litWords : Option Dword → List Nat
  | none => []
  | some l => [l.toNat % 2 ^ 32, l.toNat / 2 ^ 32]

def litWordsV : Option Word → List Nat
  | none => []
  | some l => [l.toNat, 0]

/-- X2's guard bits (R112). -/
def Guard.x2 (g : Guard) : Nat := g.gm * 2 ^ 10 + toBit g.gp * 2 ^ 14

/-- X1 and X2 of formats A and I. -/
def VOps.xWords (fmtI : Bool) (o : VOps) : List Nat :=
  if o.ext then
    [o.d + o.a * 2 ^ 10 + (if fmtI then 0 else o.b * 2 ^ 20) + o.rm * 2 ^ 30,
     o.c + o.g.x2 + toBit o.sat * 2 ^ 15 + o.xf * 2 ^ 20]
  else []

def Form.encode : Form → List Nat
  | .sc maj min o =>
    (lenOf false o.lit.isSome + maj * 4 + min % 8 * 2 ^ 8 + o.d * 2 ^ 11 + toBit o.u * 2 ^ 17 + o.a * 2 ^ 18
      + min / 8 * 2 ^ 24 + o.b * 2 ^ 25 + toBit o.bi * 2 ^ 31) :: litWords o.lit
  | .br cond o =>
    (lenOf o.ext o.lit.isSome + 0x04 * 4 + cond * 2 ^ 8 + o.a * 2 ^ 12 + dispField o.disp * 2 ^ 18)
      :: ((if o.ext then [0, o.g.x2] else []) ++ litWords o.lit)
  | .vec maj min o =>
    let fi := fmtIOf maj min
    (lenOf o.ext o.lit.isSome + maj * 4 + min * 2 ^ 8
      + (if o.ext then o.bf * 2 ^ 11 + (if fi then o.b * 2 ^ 25 else 0)
         else o.d * 2 ^ 11 + o.a * 2 ^ 18 + o.b * 2 ^ 25)) :: (o.xWords fi ++ litWordsV o.lit)
  | .sweep itn maj min o =>
    (lenOf true o.lit.isSome + 0x1E * 4 + itn * 2 ^ 12 + maj * 2 ^ 15 + min * 2 ^ 21)
      :: (o.xWords false ++ litWordsV o.lit)
  | .mem maj o =>
    if o.ext then
      (lenOf true o.lit.isSome + maj * 4 + o.scope * 2 ^ 12 + toBit o.ov * 2 ^ 15)
        :: (o.d + o.off * 2 ^ 10)
        :: (o.tag + o.size * 2 ^ 4 + toBit o.ds * 2 ^ 6 + toBit o.br * 2 ^ 7 + o.ord * 2 ^ 8 + o.g.x2 + o.la * 2 ^ 16
             + o.bt * 2 ^ 20) :: litWords o.lit
    else
      (lenOf false o.lit.isSome + maj * 4 + o.la * 2 ^ 8 + o.bt * 2 ^ 12 + o.d * 2 ^ 18 + o.off * 2 ^ 25
        + toBit o.ov * 2 ^ 31) :: litWords o.lit
  | .atm maj o =>
    (lenOf true o.lit.isSome + maj * 4 + o.op * 2 ^ 12 + o.ty * 2 ^ 15 + o.scope * 2 ^ 18 + o.ord * 2 ^ 21
      + toBit o.ov * 2 ^ 23 + toBit o.br * 2 ^ 24)
      :: (o.d + o.off * 2 ^ 10 + o.b * 2 ^ 20) :: (o.c + o.g.x2 + o.la * 2 ^ 16 + o.bt * 2 ^ 20) :: litWords o.lit
  | .q maj qop o =>
    (lenOf o.ext false + maj * 4 + (if o.ext then 0 else o.la * 2 ^ 8) + qop * 2 ^ 12 + o.x * 2 ^ 15
      + (if maj = 0x2C then
           if qop = 0 then o.y * 2 ^ 18 + o.sa * 2 ^ 20 else o.sa * 2 ^ 20 + o.y * 2 ^ 26
         else o.sa * 2 ^ 21 + o.y * 2 ^ 27))
      :: (if o.ext then [0, o.g.x2 + o.la * 2 ^ 16] else [])
  | .priv qop o => [0x3D * 4 + qop * 2 ^ 12 + o.sd * 2 ^ 16 + o.sa * 2 ^ 22]
  | .rep cnt str sel => [0x3E * 4 + cnt * 2 ^ 8 + sel * 2 ^ 14 + str * 2 ^ 18]

/-- The words of an instruction; none for a step of the hardware. -/
def encode (i : Instr) : List Nat := match i.form with | some f => f.encode | none => []

/-- The words of a number of nbits bits, least significant word first, filled with zero words up to the longest
instruction. -/
def tableWords (nbits w : Nat) : List Nat :=
  let v := w % 2 ^ nbits
  [v % 2 ^ 32, v / 2 ^ 32 % 2 ^ 32, v / 2 ^ 64 % 2 ^ 32, v / 2 ^ 96 % 2 ^ 32, v / 2 ^ 128 % 2 ^ 32]

/-- The instruction this decoder reads from an opcode-table word, for a group with all 768 vector registers. -/
def decodeTableWord (nbits w : Nat) : Option Instr :=
  match decode 768 (tableWords nbits w) with
  | .ok i _ => some i
  | .illegal _ => none

end Sys2Proof
end

