-- ==== Sys2Proof/Machine/Numeric.lean ====
section
/-! DEFINITION. Number formats and exact arithmetic (R51 to R70): a code is read as an exact value, the exact result is
formed in integers, and one function rounds it. Results come with the FLAGS bits they raise (R71). -/
namespace Sys2Proof.Machine
open Sys2Proof

/-! ## FLAGS bits (R71) -/
def fINV : Nat := 1
def fDZ : Nat := 2
def fOVF : Nat := 4
def fUNF : Nat := 8
def fINX : Nat := 16
def fSAT : Nat := 32

/-- A result: a code and the flags it raises. -/
structure FRes where
  code : Nat
  fl : Nat := 0
  deriving DecidableEq, Repr

/-- A floating-point format: exponent and fraction bits, bias; `ieee` with infinities and NaNs (R52, R53). -/
structure Fmt where
  eb : Nat
  mb : Nat
  bias : Nat
  ieee : Bool := true
  deriving DecidableEq, Repr

def F32 : Fmt := ⟨8, 23, 127, true⟩
def BF16 : Fmt := ⟨8, 7, 127, true⟩
def F16 : Fmt := ⟨5, 10, 15, true⟩
def E4M3 : Fmt := ⟨4, 3, 7, false⟩
def E5M2 : Fmt := ⟨5, 2, 15, false⟩
def E2M1 : Fmt := ⟨2, 1, 1, false⟩

/-- The format of a tag (R51); F32 for tags without one. -/
def fmtOfTag (t : Nat) : Fmt :=
  if t = 2 then BF16 else if t = 3 then F16 else if t = 4 then E4M3 else if t = 5 then E5M2 else if t = 6 then E2M1 else F32
/-- The format of TY (R118). -/
def fmtOfTy (t : Nat) : Fmt := fmtOfTag (t + 1)

def Fmt.width (f : Fmt) : Nat := 1 + f.eb + f.mb
def Fmt.signBit (f : Fmt) : Nat := 2 ^ (f.eb + f.mb)
/-- The code of the largest finite magnitude. -/
def Fmt.maxCode (f : Fmt) : Nat := if f.ieee then (2 ^ f.eb - 1) * 2 ^ f.mb - 1 else 2 ^ (f.eb + f.mb) - 1
def Fmt.infCode (f : Fmt) : Nat := (2 ^ f.eb - 1) * 2 ^ f.mb
/-- The canonical NaN (R70). -/
def Fmt.nan (f : Fmt) : Nat := f.infCode + 2 ^ (f.mb - 1)
/-- The exponent of the smallest step. -/
def Fmt.qmin (f : Fmt) : Int := 1 - (f.bias : Int) - f.mb

/-- A value: a NaN (signalling or quiet), an infinity, or ±m·2^e exactly. -/
inductive Fv where
  | nan (sig : Bool) | inf (neg : Bool) | fin (neg : Bool) (m : Nat) (e : Int)
  deriving DecidableEq, Repr

/-- The value of a code (R51 to R53). -/
def Fmt.val (f : Fmt) (c : Nat) : Fv :=
  let neg := bit c (f.eb + f.mb)
  let e := c / 2 ^ f.mb % 2 ^ f.eb
  let m := c % 2 ^ f.mb
  if f.ieee ∧ e = 2 ^ f.eb - 1 then
    if m = 0 then .inf neg else .nan (m < 2 ^ (f.mb - 1))
  else if e = 0 then .fin neg m f.qmin
  else .fin neg (m + 2 ^ f.mb) (f.qmin + e - 1)

def Fmt.sgn (f : Fmt) (neg : Bool) (mag : Nat) : Nat := if neg then f.signBit + mag else mag

/-! ## Rounding (R67 to R69) -/

/-- floor of log2 of a/b, for a and b above 0. -/
def fracLog (a b : Nat) : Int :=
  let k : Int := (Nat.log2 a : Int) - Nat.log2 b
  let lt := if 0 ≤ k then a < b * 2 ^ k.toNat else a * 2 ^ (-k).toNat < b
  if lt then k - 1 else k

/-- Whether a magnitude with remainder rounds up to the next integer. cmp: remainder against one half. -/
def roundsUp (mode : Nat) (neg odd : Bool) (rem2 den : Nat) : Bool :=
  if rem2 = 0 then false
  else if mode = 0 then den < rem2 || (rem2 = den && odd)
  else if mode = 1 then false
  else if mode = 2 then !neg
  else neg

/-- num/den·2^e in units of 2^q: the rounded integer, and whether it is exact. -/
def roundUnits (mode : Nat) (neg : Bool) (num den : Nat) (e q : Int) : Nat × Bool :=
  let sh := e - q
  let a := if 0 ≤ sh then num * 2 ^ sh.toNat else num
  let b := if 0 ≤ sh then den else den * 2 ^ (-sh).toNat
  let n := a / b
  let r := a % b
  (if roundsUp mode neg (n % 2 = 1) (2 * r) b then n + 1 else n, r = 0)

/-- Round ±num/den·2^e to a format: overflow, saturation, underflow and inexactness as R68 and R69 state. -/
def Fmt.round (f : Fmt) (mode : Nat) (sat neg : Bool) (num den : Nat) (e : Int) : FRes :=
  if num = 0 then ⟨f.sgn neg 0, 0⟩
  else
    let lg := fracLog num den + e
    let q := max (lg - f.mb) f.qmin
    let (n, exact) := roundUnits mode neg num den e q
    let c := (q - f.qmin).toNat * 2 ^ f.mb + n
    if f.maxCode < c then
      if !f.ieee ∨ sat then ⟨f.sgn neg f.maxCode, fSAT⟩
      else
        let toInf := mode = 0 ∨ (mode = 2 ∧ !neg) ∨ (mode = 3 ∧ neg)
        ⟨f.sgn neg (if toInf then f.infCode else f.maxCode), fOVF ||| fINX⟩
    else
      let tiny := lg < f.qmin + f.mb
      ⟨f.sgn neg c, if exact then 0 else if tiny then fINX ||| fUNF else fINX⟩

/-- Round a signed exact sum m·2^e; an exact zero takes the given sign. -/
def Fmt.roundInt (f : Fmt) (mode : Nat) (sat : Bool) (zneg : Bool) (m : Int) (e : Int) : FRes :=
  if m = 0 then ⟨f.sgn zneg 0, 0⟩ else f.round mode sat (m < 0) m.natAbs 1 e

/-! ## Exact dyadic sums -/

/-- An exact number m·2^e. -/
structure Dy where
  m : Int
  e : Int
  deriving DecidableEq, Repr

def Dy.zero : Dy := ⟨0, 0⟩
def Dy.add (a b : Dy) : Dy :=
  let e := min a.e b.e
  ⟨a.m * 2 ^ (a.e - e).toNat + b.m * 2 ^ (b.e - e).toNat, e⟩
def Dy.mul (a b : Dy) : Dy := ⟨a.m * b.m, a.e + b.e⟩
def Dy.neg (a : Dy) : Dy := ⟨-a.m, a.e⟩
def Dy.lt (a b : Dy) : Bool := (a.add b.neg).m < 0
def Dy.eq (a b : Dy) : Bool := (a.add b.neg).m = 0
def dyOf (neg : Bool) (m : Nat) (e : Int) : Dy := ⟨if neg then -(m : Int) else m, e⟩
def Fv.dy : Fv → Dy | .fin n m e => dyOf n m e | _ => .zero
def Fv.isNan : Fv → Bool | .nan _ => true | _ => false
def Fv.isSnan : Fv → Bool | .nan s => s | _ => false
def Fv.isInf : Fv → Bool | .inf _ => true | _ => false
def Fv.sign : Fv → Bool | .nan _ => false | .inf n => n | .fin n _ _ => n
def Fv.isZero : Fv → Bool | .fin _ m _ => m = 0 | _ => false
def Fv.flip : Fv → Fv | .nan s => .nan s | .inf n => .inf !n | .fin n m e => .fin (!n) m e

/-! ## Operations (R68, R70, R177, R178) -/

/-- The canonical NaN, INV when a source is signalling (R70). -/
def Fmt.nanOf (f : Fmt) (xs : List Fv) : FRes := ⟨f.nan, if xs.any Fv.isSnan then fINV else 0⟩
def Fmt.invalid (f : Fmt) : FRes := ⟨f.nan, fINV⟩
def Fmt.infR (f : Fmt) (neg : Bool) : FRes := ⟨f.sgn neg f.infCode, 0⟩

/-- The sign of an exact zero sum of two terms (R68). -/
def zeroSign (mode : Nat) (a b : Fv) : Bool :=
  if a.isZero && b.isZero && a.sign = b.sign then a.sign else mode = 3

def Fmt.addV (f : Fmt) (mode : Nat) (sat : Bool) (a b : Fv) : FRes :=
  if a.isNan || b.isNan then f.nanOf [a, b]
  else if a.isInf && b.isInf && a.sign != b.sign then f.invalid
  else if a.isInf then f.infR a.sign
  else if b.isInf then f.infR b.sign
  else let d := a.dy.add b.dy; f.roundInt mode sat (zeroSign mode a b) d.m d.e

def Fv.mul (a b : Fv) : Fv :=
  let n := a.sign != b.sign
  match a, b with
  | .fin _ m e, .fin _ m' e' => .fin n (m * m') (e + e')
  | _, _ => .inf n

def Fmt.mulV (f : Fmt) (mode : Nat) (sat : Bool) (a b : Fv) : FRes :=
  if a.isNan || b.isNan then f.nanOf [a, b]
  else if (a.isInf && b.isZero) || (a.isZero && b.isInf) then f.invalid
  else match a.mul b with
    | .fin n m e => f.round mode sat n m 1 e
    | x => f.infR x.sign

/-- a·b + c, rounded once (R68). -/
def Fmt.fmaV (f : Fmt) (mode : Nat) (sat : Bool) (a b c : Fv) : FRes :=
  if (a.isInf && b.isZero) || (a.isZero && b.isInf) then f.invalid
  else if a.isNan || b.isNan || c.isNan then f.nanOf [a, b, c]
  else f.addV mode sat (a.mul b) c

def Fmt.add (f : Fmt) (mode : Nat) (sat : Bool) (a b : Nat) : FRes := f.addV mode sat (f.val a) (f.val b)
def Fmt.sub (f : Fmt) (mode : Nat) (sat : Bool) (a b : Nat) : FRes :=
  f.addV mode sat (f.val a) (f.val b).flip
def Fmt.mul (f : Fmt) (mode : Nat) (sat : Bool) (a b : Nat) : FRes := f.mulV mode sat (f.val a) (f.val b)
def Fmt.fma (f : Fmt) (mode : Nat) (sat : Bool) (a b c : Nat) : FRes := f.fmaV mode sat (f.val a) (f.val b) (f.val c)

/-- Order of two values that are no NaN; `strict` orders −0 below +0 (R178). -/
def Fv.less (strict : Bool) (a b : Fv) : Bool :=
  match a, b with
  | .inf n, .inf n' => n && !n'
  | .inf n, _ => n
  | _, .inf n' => !n'
  | x, y => x.dy.lt y.dy || (strict && x.isZero && y.isZero && x.sign && !y.sign)

/-- VFMIN and VFMAX: one operand exactly (R178). -/
def Fmt.minmax (f : Fmt) (wantMax : Bool) (a b : Nat) : FRes :=
  let x := f.val a
  let y := f.val b
  if x.isNan || y.isNan then f.nanOf [x, y]
  else if wantMax then ⟨if x.less true y then b else a, 0⟩ else ⟨if y.less true x then b else a, 0⟩

/-- VFSGN (R178). -/
def Fmt.copySign (f : Fmt) (a b : Nat) : FRes :=
  if (f.val a).isNan then f.nanOf [f.val a] else ⟨f.sgn (bit b (f.eb + f.mb)) (a % f.signBit), 0⟩

/-- The class bit of a code (R179). -/
def Fmt.classBit (f : Fmt) (c : Nat) : Nat :=
  match f.val c with
  | .nan s => if s then 8 else 9
  | .inf n => if n then 0 else 7
  | .fin n m _ => if m = 0 then (if n then 3 else 4)
                  else if m < 2 ^ f.mb then (if n then 2 else 5) else (if n then 1 else 6)

/-- VFCMP: the condition cc, and INV (R180). -/
def Fmt.cmp (f : Fmt) (cc a b : Nat) : Bool × Nat :=
  let x := f.val a
  let y := f.val b
  if x.isNan || y.isNan then
    (cc = 1, if x.isSnan || y.isSnan || 2 ≤ cc then fINV else 0)
  else
    let lt := x.less false y
    let gt := y.less false x
    let eq := !lt && !gt
    (if cc = 0 then eq else if cc = 1 then !eq else if cc = 2 then lt else if cc = 3 then !gt else if cc = 4 then gt else !lt, 0)

/-! ## Conversions (R60, R63, R66, R69) -/

/-- To a floating format of 8 bits and more (R66, R68, R69). -/
def Fmt.ofV (f : Fmt) (mode : Nat) (sat : Bool) (x : Fv) : FRes :=
  match x with
  | .nan s => if f.ieee then ⟨f.nan, if s then fINV else 0⟩ else ⟨0, fINV⟩
  | .inf n => if f.ieee then f.infR n else ⟨f.sgn n f.maxCode, fSAT⟩
  | .fin n m e => f.round mode sat n m 1 e

/-- An exact value rounded to an integer (R66). -/
def Fv.toInt (mode : Nat) (x : Fv) : Int × Bool :=
  match x with
  | .fin n m e =>
    let (k, exact) := roundUnits mode n m 1 e 0
    (if n then -(k : Int) else k, exact)
  | _ => (0, true)

/-- Clamp to a range; SAT when it changes the value. -/
def clampTo (lo hi v : Int) : Int × Nat := if v < lo then (lo, fSAT) else if hi < v then (hi, fSAT) else (v, 0)

/-- Range of an integer format by tag (R51). -/
def intRange (t : Nat) : Int × Int :=
  if t = 7 then (-2 ^ 31, 2 ^ 31 - 1) else if t = 8 then (0, 2 ^ 32 - 1) else if t = 9 then (-2 ^ 15, 2 ^ 15 - 1)
  else (-2 ^ 7, 2 ^ 7 - 1)
/-- Bits of an element of a format (R51). -/
def elemBits (t : Nat) : Nat := 32 / elems t
def intCode (t : Nat) (v : Int) : Nat := (v % 2 ^ elemBits t).toNat
def intVal (t c : Nat) : Int := if t = 7 ∨ t = 9 ∨ t = 10 then signed (elemBits t) c else c

/-- To an integer format (R66). A value that is clamped after an inexact rounding sets SAT alone, as R68 and R69 say of their
clamps (DEDUCED, log 44). -/
def toIntFmt (t mode : Nat) (x : Fv) : FRes :=
  let (lo, hi) := intRange t
  match x with
  | .nan _ => ⟨0, fINV⟩
  | .inf n => ⟨intCode t (if n then lo else hi), fSAT⟩
  | x =>
    let (v, exact) := x.toInt mode
    let (c, fl) := clampTo lo hi v
    ⟨intCode t c, if fl = 0 then (if exact then 0 else fINX) else fl⟩

/-- To an offset-binary code with zero point z (R63). A code that is clamped after an inexact rounding sets SAT and INX, as
R63 says of the two steps, though R71 keeps INX from a clamped result (DEDUCED, log 44). -/
def toObFmt (t mode z : Nat) (x : Fv) : FRes :=
  let hi : Int := if t = 11 then 255 else 15
  match x with
  | .nan _ => ⟨z, fINV⟩
  | .inf n => ⟨if n then 0 else hi.toNat, fSAT⟩
  | x =>
    let (v, exact) := x.toInt mode
    let (c, fl) := clampTo 0 hi (v + z)
    ⟨c.toNat, fl ||| (if exact then 0 else fINX)⟩

/-- The value of a block scale code (R57): none for NaN. -/
def scaleVal (c : Nat) : Option (Nat × Int) :=
  if c = 255 then none else if c < 32 then some (c, -7) else some (32 + c % 32, (c / 32 : Int) - 8)

/-- FP4_ROUND of x / s (R60): code, flags. -/
def fp4Round (mode : Nat) (neg : Bool) (m : Nat) (e : Int) (s : Nat × Int) : FRes :=
  if m = 0 then ⟨E2M1.sgn neg 0, 0⟩ else E2M1.round mode true neg m s.1 (e - s.2)

/-- The larger of two magnitudes, an infinity above all. -/
def magLt (a b : Fv) : Bool :=
  match a, b with
  | .inf _, _ => false
  | _, .inf _ => true
  | .fin _ m e, .fin _ m' e' => (dyOf false m e).lt (dyOf false m' e')
  | _, _ => false

/-- The scale that R60 chooses for eight values, with its flags: NaN, all zero, in range, or above 31. -/
def fp4Scale (xs : List Fv) : FRes :=
  if xs.any Fv.isNan then ⟨255, fINV⟩
  else
    let a := xs.foldl (fun a x => if magLt a x then x else a) (.fin false 0 0)
    match a with
    | .fin _ m e =>
      if m = 0 then ⟨0, 0⟩
      else
        let ok := fun c => match scaleVal c with
          | some (sm, se) => !(dyOf false (6 * sm) se).lt (dyOf false m e)
          | none => false
        match (List.range 255).find? ok with
        | some c => ⟨c, 0⟩
        | none => ⟨254, fSAT⟩
    | _ => ⟨254, fSAT⟩

/-- One element of a block under a given scale (R60, R185). A NaN sets INV under a NaN scale too, where R185 also says that
no flag is set (DEDUCED, log 41). -/
def fp4Elem (mode sc : Nat) (x : Fv) : FRes :=
  match x with
  | .nan _ => ⟨0, fINV⟩
  | x =>
    match scaleVal sc with
    | none => ⟨0, 0⟩
    | some s =>
      if s.1 = 0 then ⟨E2M1.sgn x.sign 0, if x.isZero then 0 else fSAT⟩
      else match x with
        | .inf n => ⟨E2M1.sgn n 7, fSAT⟩
        | .fin n m e => fp4Round mode n m e s
        | .nan _ => ⟨0, fINV⟩

/-! ## The exponent table (R78) -/

/-- T[j] in units of 2^-23: the integer nearest to 2^(j/64 + 23), that is, the n with (2n - 1)^64 < 2^(j + 24·64) and
(2n + 1)^64 above it. -/
def expTableFind (target : Nat) : Nat → Nat → Nat
  | 0, lo => lo
  | k + 1, lo => if (2 * (lo + 2 ^ k) - 1) ^ 64 < target then expTableFind target k (lo + 2 ^ k) else expTableFind target k lo
def expTable (j : Nat) : Nat := if j = 0 then 2 ^ 23 else if j = 64 then 2 ^ 24 else expTableFind (2 ^ (j + 24 * 64)) 24 0

/-- EXP2T of R78, rounded to a format. -/
def exp2t (out : Fmt) (x : Nat) : Nat :=
  match F32.val x with
  | .nan _ => if out.ieee then out.nan else 0
  | .inf true => 0
  | .inf false => if out.ieee then out.infCode else out.maxCode
  | .fin neg m e =>
    -- x as an integer number of 2^-k steps; far magnitudes are cut where the result no longer changes
    let big := 20 ≤ fracLog (max m 1) 1 + e
    let d := dyOf neg m e
    let k := (max 0 (-d.e)).toNat
    let v : Int := if 0 ≤ d.e then d.m * 2 ^ d.e.toNat else d.m
    let n := v / 2 ^ k
    let f := (v - n * 2 ^ k).toNat
    let j := 64 * f / 2 ^ k
    let u := 64 * f - j * 2 ^ k
    let y := expTable j * 2 ^ k + (expTable (j + 1) - expTable j) * u
    if big then (if neg then 0 else if out.ieee then out.infCode else out.maxCode)
    else (out.round 0 false false y 1 (n - 23 - k)).code

end Sys2Proof.Machine
end

