-- ==== Sys2Proof/Machine/Special.lean ====
section
/-! DEFINITION. The special functions (R76) and the activations of the fused form (R77): the exact value is computed to
`prec` binary places, and the result is one of the two codes beside it, which one the free choice of log 5 says. -/
namespace Sys2Proof.Machine
open Sys2Proof

/-! ## Fixed point: an integer v stands for v·2^-prec -/

def prec : Nat := 800
/-- One, in fixed point. -/
def fix1 : Nat := 2 ^ prec

/-- t + t·x/k + t·x²/(k(k + 1)) + … -/
def expTerms (x : Nat) : Nat → Nat → Nat → Nat
  | 0, _, _ => 0
  | n + 1, k, t => t + expTerms x n (k + 1) (t * x / fix1 / k)
/-- e^r for r below 1. -/
def expFrac (r : Nat) : Nat := expTerms r 180 1 fix1

/-- p/k + p·z/(k + 2) + p·z²/(k + 4) + … -/
def lnTerms (z : Nat) : Nat → Nat → Nat → Nat
  | 0, _, _ => 0
  | n + 1, k, p => p / k + lnTerms z n (k + 2) (p * z / fix1)
/-- ln m for m from 1 to 2. -/
def lnFix (m : Nat) : Nat :=
  let z := (m - fix1) * fix1 / (m + fix1)
  2 * lnTerms (z * z / fix1) 260 1 z
def ln2Fix : Nat := lnFix (2 * fix1)

/-- p/k - p/(n²(k + 2)) + … -/
def atanTerms (n : Nat) : Nat → Nat → Nat → Nat
  | 0, _, _ => 0
  | f + 1, k, p => p / k - atanTerms n f (k + 2) (p / (n * n))
/-- π/2 with 160 more places, for arguments up to the largest finite one. -/
def halfPiWide : Nat :=
  let one := fix1 * 2 ^ 160
  8 * atanTerms 5 210 1 (one / 5) - 2 * atanTerms 239 70 1 (one / 239)

/-- t - t·x/(k(k + 1)) + … -/
def trigTerms (x : Nat) : Nat → Nat → Nat → Nat
  | 0, _, _ => 0
  | n + 1, k, t => t - trigTerms x n (k + 2) (t * x / fix1 / (k * (k + 1)))
def sinFix (r : Nat) : Nat := trigTerms (r * r / fix1) 100 2 r
def cosFix (r : Nat) : Nat := trigTerms (r * r / fix1) 100 1 fix1

/-- floor of the square root, by k binary digits. -/
def sqrtDigits (v : Nat) : Nat → Nat → Nat
  | 0, r => r
  | k + 1, r => if (r + 2 ^ k) ^ 2 ≤ v then sqrtDigits v k (r + 2 ^ k) else sqrtDigits v k r
def floorSqrt (v : Nat) : Nat := sqrtDigits v (Nat.log2 v / 2 + 1) 0

/-- e^-u, never below one place. -/
def expNeg (u : Nat) : Nat :=
  if 1024 * fix1 ≤ u then 1
  else
    let k := u / ln2Fix + 1
    max 1 (expFrac (k * ln2Fix - u) / 2 ^ k)

/-- x³/3!! + x⁵/5!! + … from x, with k the next odd divisor. -/
def phiTerms (x : Nat) : Nat → Nat → Nat → Nat
  | 0, _, _ => 0
  | n + 1, k, t => t + phiTerms x n (k + 2) (t * x / fix1 / k)
/-- The standard normal distribution at -u, never below one place. -/
def normTail (u : Nat) : Nat :=
  if 20 * fix1 ≤ u then 1
  else
    let sq := u * u / fix1
    -- e^(-u²/2)/√(2π), the root by √(2π) = 2·√(π/2)
    let root := 2 * floorSqrt (halfPiWide / 2 ^ 160 * fix1)
    let d := expNeg (sq / 2) * fix1 / root
    max 1 (fix1 / 2 - d * phiTerms sq 900 3 u / fix1)

/-! ## Results inside the bound -/

/-- The free choices of one result (log 5): the upper neighbour, and the sign of a zero that R76 leaves open. -/
structure Pick where
  up : Bool
  zero : Bool
  deriving DecidableEq, Repr
def pickOf (fn ty : Nat) (xs : List Nat) : Pick := ⟨Config.specialUp fn ty xs, Config.specialZero fn ty xs⟩

/-- A magnitude of n units of 2^q, exact or followed by more: one of the two codes beside it. A value above the largest
finite one overflows (R76); for y of VFUSE, of which neither R77 nor R198 says when it overflows, also one that lies above it by less
than a unit in the last place (DESIGN CHOICE, log 66). -/
def Fmt.near (f : Fmt) (neg : Bool) (n : Nat) (q : Int) (exact : Bool) (p : Pick) : FRes :=
  let c := (q - f.qmin).toNat * 2 ^ f.mb + n
  if f.maxCode < c ∨ (c = f.maxCode ∧ !exact) then ⟨f.sgn neg f.infCode, fOVF⟩
  else
    let c := if !exact && p.up then c + 1 else c
    ⟨f.sgn (if c = 0 then neg != p.zero else neg) c, 0⟩

/-- ±num/den·2^e within one unit. -/
def Fmt.nearFrac (f : Fmt) (neg : Bool) (num den : Nat) (e : Int) (p : Pick) : FRes :=
  if num = 0 then f.near neg 0 f.qmin true p
  else
    let q := max (fracLog num den + e - f.mb) f.qmin
    let (n, exact) := roundUnits 1 false num den e q
    f.near neg n q exact p

/-- The square root of num/den·2^e within one unit. -/
def Fmt.nearSqrt (f : Fmt) (num den : Nat) (e : Int) (p : Pick) : FRes :=
  let q := max ((fracLog num den + e) / 2 - f.mb) f.qmin
  let sh := e - 2 * q
  let a := if 0 ≤ sh then num * 2 ^ sh.toNat else num
  let b := if 0 ≤ sh then den else den * 2 ^ (-sh).toNat
  let n := floorSqrt (a / b)
  f.near false n q (n * n * b = a) p

/-- A real number: exactly ±m·2^e, or strictly between ±m·2^e and ±(m + 1)·2^e. -/
structure RealVal where
  neg : Bool
  m : Nat
  e : Int
  exact : Bool := false
  deriving DecidableEq, Repr

/-- A real number times ±m·2^e, within one unit. -/
def Fmt.nearReal (f : Fmt) (r : RealVal) (neg : Bool) (m : Nat) (e : Int) (p : Pick) : FRes :=
  if r.exact then f.nearFrac (r.neg != neg) (r.m * m) 1 (r.e + e) p
  else f.nearFrac (r.neg != neg) ((2 * r.m + 1) * m) 1 (r.e - 1 + e) p

def fixed (neg : Bool) (v : Nat) : RealVal := ⟨neg, v, -prec, false⟩

/-! ## The functions of a finite ±m·2^e, with e at least -prec -/

def fixOf (m : Nat) (e : Int) : Nat := m * 2 ^ (e + prec).toNat

def expReal (n : Bool) (m : Nat) (e : Int) : RealVal :=
  let u := fixOf m e
  if m = 0 then ⟨false, 1, 0, true⟩
  else if 1024 * fix1 ≤ u then ⟨false, 1, if n then -1024 else 1024, false⟩
  else if n then let k := u / ln2Fix + 1; ⟨false, expFrac (k * ln2Fix - u), -prec - k, false⟩
  else let k := u / ln2Fix; ⟨false, expFrac (u - k * ln2Fix), k - prec, false⟩

def exp2Real (n : Bool) (m : Nat) (e : Int) : RealVal :=
  let u := fixOf m e
  if 1024 * fix1 ≤ u then ⟨false, 1, if n then -1024 else 1024, false⟩
  else
    let k : Int := if n then -((u + fix1 - 1) / fix1 : Nat) else (u / fix1 : Nat)
    let r := ((if n then -(u : Int) else u) - k * fix1).toNat
    if r = 0 then ⟨false, 1, k, true⟩ else ⟨false, expFrac (r * ln2Fix / fix1), k - prec, false⟩

/-- log2 of m·2^e, m above 0. -/
def log2Real (m : Nat) (e : Int) : RealVal :=
  let l := Nat.log2 m
  let k := l + e
  if m = 2 ^ l then ⟨k < 0, k.natAbs, 0, true⟩
  else
    let v : Int := k * fix1 + (lnFix (m * fix1 / 2 ^ l) * fix1 / ln2Fix : Nat)
    fixed (v < 0) v.natAbs

/-- VSIN (cos false) and VCOS. -/
def trigReal (cos n : Bool) (m : Nat) (e : Int) : RealVal :=
  if m = 0 then (if cos then ⟨false, 1, 0, true⟩ else ⟨n, 0, 0, true⟩)
  else
    let u := fixOf m e * 2 ^ 160
    let k := u / halfPiWide + if cos then 1 else 0
    let r := u % halfPiWide / 2 ^ 160
    fixed ((k % 4 / 2 = 1) != (n && !cos)) (if k % 2 = 0 then sinFix r else cosFix r)

def tanhReal (n : Bool) (m : Nat) (e : Int) : RealVal :=
  if m = 0 then ⟨n, 0, 0, true⟩
  else let t := expNeg (2 * fixOf m e); fixed n ((fix1 - t) * fix1 / (fix1 + t))

def sigmReal (n : Bool) (m : Nat) (e : Int) : RealVal :=
  if m = 0 then ⟨false, 1, -1, true⟩
  else let t := expNeg (fixOf m e); fixed false ((if n then t else fix1) * fix1 / (fix1 + t))

/-- x·sigm(x). -/
def siluReal (n : Bool) (m : Nat) (e : Int) : RealVal :=
  if m = 0 then ⟨n, 0, 0, true⟩
  else let r := sigmReal n m e; ⟨n, (2 * r.m + 1) * m, r.e - 1 + e, false⟩

/-- x·Φ(x), the erf form. -/
def geluReal (n : Bool) (m : Nat) (e : Int) : RealVal :=
  if m = 0 then ⟨n, 0, 0, true⟩
  else
    let t := normTail (fixOf m e)
    ⟨n, (2 * (if n then t else fix1 - t) + 1) * m, -prec - 1 + e, false⟩

/-- The special functions, numbered as in majors 0x14 (0 to 7) and 0x15 (8 to 10), on one code of format TY. -/
def sfu (fn ty c : Nat) : FRes :=
  let f := fmtOfTy ty
  let p := pickOf fn ty [c]
  let one := (f.round 0 false false 1 1 0).code
  match f.val c with
  | .nan s => ⟨f.nan, if s then fINV else 0⟩
  | .inf n =>
    match fn with
    | 0 | 1 => if n then ⟨0, 0⟩ else f.infR false
    | 2 | 5 => if n then f.invalid else f.infR false
    | 3 => ⟨f.sgn n 0, 0⟩
    | 4 => if n then f.invalid else ⟨0, 0⟩
    | 6 | 7 => f.invalid
    | 8 => ⟨f.sgn n one, 0⟩
    | 9 => if n then ⟨0, 0⟩ else ⟨one, 0⟩
    | _ => if n then ⟨f.sgn true 0, 0⟩ else f.infR false
  | .fin n m e =>
    let of := fun r => f.nearReal r false 1 0 p
    match fn with
    | 0 => of (expReal n m e)
    | 1 => of (exp2Real n m e)
    | 2 => if m = 0 then ⟨f.sgn true f.infCode, fDZ⟩ else if n then f.invalid else of (log2Real m e)
    | 3 => if m = 0 then ⟨f.sgn n f.infCode, fDZ⟩ else f.nearFrac n 1 m (-e) p
    | 4 => if m = 0 then ⟨f.sgn n f.infCode, fDZ⟩ else if n then f.invalid else f.nearSqrt 1 m (-e) p
    | 5 => if m = 0 then ⟨f.sgn n 0, 0⟩ else if n then f.invalid else f.nearSqrt m 1 e p
    | 6 => of (trigReal false n m e)
    | 7 => of (trigReal true n m e)
    | 8 => of (tanhReal n m e)
    | 9 => of (sigmReal n m e)
    | _ => of (geluReal n m e)

/-! ## The fused activation (R77): ACT 0 ReLU, 1 GELU, 2 SiLU, 3 tanh, 4 sigmoid -/

/-- act(t) at an infinity: a value of Fv, none for SiLU and GELU at −∞. -/
def actInf (act : Nat) (n : Bool) : Option Fv :=
  if act = 3 then some (.fin n 1 0)
  else if act = 4 then some (if n then .fin false 0 0 else .fin false 1 0)
  else if n then (if act = 0 then some (.fin false 0 0) else none) else some (.inf false)

/-- act(t) of a finite t. -/
def actReal (act : Nat) (n : Bool) (m : Nat) (e : Int) : RealVal :=
  if act = 0 then (if n then ⟨false, 0, 0, true⟩ else ⟨false, m, e, true⟩)
  else if act = 1 then geluReal n m e
  else if act = 2 then siluReal n m e
  else if act = 3 then tanhReal n m e
  else sigmReal n m e

/-- An overflow of y: the largest finite value when the form saturates, otherwise an infinity, with INX beside OVF (R71: VFUSE is
none of the special functions; log 23). -/
def Fmt.satOver (f : Fmt) (sat : Bool) (r : FRes) : FRes :=
  if r.fl &&& fOVF = 0 then r
  else if sat then ⟨f.sgn (bit r.code (f.eb + f.mb)) f.maxCode, fSAT⟩ else { r with fl := r.fl ||| fINX }

/-- y from the rounded t and c: within one unit of act(t)·c (R77). A zero that is exact has the sign of the product. For SiLU and
GELU at −∞, of the forms ∞/∞ and ∞·0, R77 and R198 state no result: code and INV are free values (DESIGN CHOICE, log 49). y overflows
as soon as act(t)·c exceeds the largest finite value, be it by less than a unit in the last place (DESIGN CHOICE, log 66). -/
def fuseOut (f : Fmt) (act ty : Nat) (sat : Bool) (t c : Nat) : FRes :=
  let cv := f.val c
  let p := pickOf (20 + act) ty [t, c]
  if cv.isNan then f.nanOf [cv]
  else match F32.val t with
    | .nan _ => ⟨f.nan, 0⟩
    | .inf n => match actInf act n with
      | none => ⟨Config.openCode act ty [t, c] % 2 ^ f.width, if Config.openInv act ty [t, c] then fINV else 0⟩
      | some a =>
        if (a.isInf && cv.isZero) || (a.isZero && cv.isInf) then f.invalid
        else match a.mul cv with
          | .fin n m e => if m = 0 then ⟨f.sgn n 0, 0⟩ else f.satOver sat (f.nearFrac n m 1 e p)
          | x => f.infR x.sign
    | .fin n m e =>
      let a := actReal act n m e
      match cv with
      | .inf k => if a.exact ∧ a.m = 0 then f.invalid else f.infR (a.neg != k)
      | .fin k cm ce =>
        if cm = 0 ∨ a.exact ∧ a.m = 0 then ⟨f.sgn (a.neg != k) 0, 0⟩ else f.satOver sat (f.nearReal a k cm ce p)
      | .nan _ => ⟨f.nan, 0⟩

end Sys2Proof.Machine
end

