-- ==== Sys2Proof/Machine/State.lean ====
section
/-! DEFINITION. The state of one module: threads, groups, teams and cores; grids and the admission unit; memory,
translation and coherence; links, boot and management. Plain data throughout. -/
namespace Sys2Proof.Machine
open Sys2Proof

/-- Reasons a step stops the machine. -/
inductive Fault where
  /-- Raised by `step` when the next action names a core number of 192 or more: the module has no such core (R12).
  Safe: the machine stops, and no run from reset reaches it. -/
  | noSuchCore
  deriving DecidableEq, Repr

/-- Reasons an instruction is given no meaning. -/
inductive Refusal where
  /-- An instruction with no meaning yet, by its mnemonic. Safe: the run stops. No arm of `exec` uses it. -/
  | notModelled (mnemonic : String)
  deriving DecidableEq, Repr

/-- A register that a long-latency instruction writes on completion (R125). -/
inductive Dest where
  | v (n : Nat) | s (n : Nat) | m (n : Nat)
  deriving DecidableEq, Repr

/-- A vector register: one tag for all lanes (R54), a 32-bit slice per lane (R51). -/
structure VReg where
  tag : Nat := 0
  slots : Tbl Word := []
  deriving DecidableEq, Repr

/-- An iterator record: four words (R199). -/
structure IterRec where
  w0 : Dword := 0
  w1 : Dword := 0
  w2 : Dword := 0
  w3 : Dword := 0
  deriving DecidableEq, Repr

/-- An open lookahead window of one thread (R126). -/
structure Window where
  left : Nat
  dests : List Dest
  deriving DecidableEq, Repr

/-- What a long-latency result writes when it arrives: lanes of a vector register with its tag, or a scalar. -/
inductive Result where
  | vec (n tag : Nat) (vals : List (Nat × Word))
  | scalar (n : Nat) (val : Dword)
  deriving DecidableEq, Repr

/-- An outstanding long-latency result (R125, R211). `req` is the store-queue request that still has to produce it,
0 when its value is known. -/
structure Outstanding where
  req : Nat := 0
  missed : Bool := false      -- a load that missed the near cache (R36)
  dests : List Dest := []
  results : List Result := []
  deriving DecidableEq, Repr

/-- Why threads wait (R29). -/
inductive WaitKind where
  | sleep (til : Nat)                                -- SLEEP (R152)
  | sleepto (sd pc : Nat) (deadline : Nat) (id : Dword)  -- SLEEPTO (R155)
  | barrier (b : Nat) (phase : BitVec 32)              -- BARWAIT, BARAW (R225)
  | pwwait (sd pc : Nat) (id : Dword)                  -- PWWAIT (R350)
  | tqget (sd deadline req fate : Nat)                 -- TQGET (R235): the number of its outstanding result; for s1, 0 issued
                                                       -- outside a frame, 1 in an open one, 2 lost at its close (R163)
  | yield (others : Dword)                             -- YIELD, with the threads still to issue (R33)
  | held                                               -- at a trap while no frame can open (R164, R437)
  | pass (token : Nat)                                 -- TRET.PASS (R429)
  deriving DecidableEq, Repr

structure Wait where
  mask : Dword
  kind : WaitKind
  deriving DecidableEq, Repr

/-- An open trap frame (R160, R162): its block of bt4095 (R437), SAVED_S1, TOG, LOW. -/
structure Frame where
  block : Nat
  savedS1 : Dword
  tog : Bool
  low : Nat
  deriving DecidableEq, Repr

/-- What a thread in a frame trapped with, and the core it trapped on: for TRET.PASS (R166, R431). -/
structure TrapInfo where
  code : Nat := 0
  sub : Nat := 0
  va : Nat := 0
  opid : Dword := 0
  core : Nat := 0
  deriving DecidableEq, Repr

/-- A group: 64 threads with their shared registers (R20). -/
structure Group where
  s : Tbl Dword := []
  m : Tbl Dword := []
  it : Tbl IterRec := []
  v : Tbl VReg := []
  pc : Tbl Nat := []
  repcnt : Tbl Nat := []
  exited : Dword := 0
  waits : List Wait := []
  windows : Tbl (List Window) := []
  outstanding : List Outstanding := []
  flags : Dword := 0
  frame : Option Frame := none
  trapmask : Dword := 0
  retpc : Tbl Nat := []
  retrep : Tbl Nat := []
  trapinfo : Tbl TrapInfo := []
  lastIssue : Option Nat := none         -- the step of its most recent issue (R35)
  copyWait : Option (Nat × Nat) := none  -- program counter and cycle since when a copy waits for its queue (R272)
  deriving DecidableEq, Repr

/-- A row-statistic entry (R193, R80): count, indicators, the exact sums as integers times 2^-149 and 2^-298. -/
structure RowStat where
  n : Nat := 0
  nan : Bool := false
  posInf : Bool := false
  negInf : Bool := false
  sum : Int := 0
  sumsq : Int := 0
  deriving DecidableEq, Repr

/-- A named barrier (R223), with engine arrivals held for the next phase (R228). -/
structure Barrier where
  phase : BitVec 32 := 0
  tcount : Nat := 0
  ecount : Nat := 0
  tarr : Nat := 0
  earr : Nat := 0
  init : Bool := false
  heldArr : Nat := 0
  baraw : Tbl Dword := []   -- threads of each group that arrived in this phase with BARAW (R442)
  deriving DecidableEq, Repr

/-- Where an engine operation stands (R242, R244). -/
inductive OpPhase where
  | queued | running | done
  deriving DecidableEq, Repr

/-- A fault that ended an engine operation (R246), with the cycle and the core at which it was detected (R434). -/
structure OpFault where
  code : Nat
  sub : Nat
  off : Nat := 0
  va : Nat := 0
  bt : Nat := 0
  cycle : Nat := 0
  core : Nat := 0
  detail : Nat := 0
  deriving DecidableEq, Repr

/-- An engine operation and its status (R239, R240, R246, R275). -/
structure EngOp where
  id : Dword
  instr : Instr
  words : List Dword := []
  phase : OpPhase := .queued
  lane : Nat := 0
  pc : Nat := 0
  grp : Nat := 0
  bar : Option Nat := none
  budgetEnd : Option Nat := none       -- cycle at which the promise of R272 runs out
  donecnt : Nat := 0
  refuse : Nat := 0
  fault : Option OpFault := none
  delivered : Bool := false
  outside : Bool := false               -- it writes a buffer, or reaches another core's scratchpad (R443)
  ran : Option (Option OpFault) := none -- its effect is complete, with this fault; it waits at its comparison point (R446)
  snap : List Nat := []                 -- keys and step sizes read at a pre-check (R380); a walk's tree (R332)
  pos : Nat := 0                        -- interrupt points passed (R247, R345, R382)
  inner : List Nat := []                -- values that its sequencer holds between them (R384)
  len : Nat := 0                        -- cycles for which it holds the array (R36; log 2)
  til : Nat := 0                        -- the cycle until which it holds the array
  deriving DecidableEq, Repr

/-- A change queued by PWJOIN or PWLEAVE (R337, R348). -/
structure Change where
  join : Bool
  when : Nat
  any : Bool
  seq : Nat          -- slot of a join, sequence of a leave
  leaf : Nat := 0
  deriving DecidableEq, Repr

/-- A sequence of a walk context (R338 to R344). -/
structure Seq where
  state : Nat := 0            -- 0 NOT WALKED, 1 DONE, 2 VOID, 3 FAULTED, 4 LIVE
  void : Bool := false
  valid : Bool := false       -- of a slot
  leaf : Nat := 0             -- of a slot
  fnode : Nat := 0
  reason : Nat := 0
  since : Nat := 0            -- POS from which a slot is walked in the main pass (R338)
  late : List Nat := []       -- catch-up list still to walk
  resume : Bool := false      -- walked by the resumed operation (R343)
  lateFault : Bool := false   -- it faulted in its catch-up list
  deriving DecidableEq, Repr

/-- m and l of one row (R329); o stands in the accumulator. -/
structure Row where
  m : Word := 0xFF800000
  l : Word := 0
  deriving DecidableEq, Repr

/-- A walk in progress (R349): its operation, position in the walk order, and pass. The tree that its pre-pass read
stands in the operation's `snap`. -/
structure WalkRun where
  id : Dword
  resumed : Bool := false
  pos : Nat := 0
  catchUp : Bool := false
  afresh : Bool := false                -- its nodes translate by reading the block table (R343, R359)
  queries : Tbl (List Nat) := []        -- each row's query, read at its first node (R335)
  deriving DecidableEq, Repr

/-- The walk context of a core (R328 to R340). -/
structure Walk where
  desc : BitVec 512
  queue : List Change := []
  seqs : Tbl Seq := []
  rows : Tbl Row := []
  run : Option WalkRun := none
  deriving DecidableEq, Repr

/-- A team's checkpoint (R442): what a rollback restores. -/
structure Checkpoint where
  active : List Nat := []
  pending : List Nat := []
  groups : Tbl Group
  barriers : Tbl Barrier
  beta : Tbl Word
  dbound : Word
  scratch : Tbl Byte
  acc : Tbl Word
  rowstat : Tbl RowStat
  walk : Option Walk
  ops : List EngOp := []                -- operations outstanding at a comparison point (R446)
  point : Nat := 16                     -- the group at whose step it was taken, which comes behind it, else 16 (R446)
  deriving DecidableEq, Repr

/-- A write that a redundant copy holds (R445): to a buffer, or, with `pad`, to the scratchpad of that core, `off` the offset there. -/
structure HeldWrite where
  bt : Nat
  off : Nat
  data : List Byte
  va : Nat := 0
  pa : Nat := 0                         -- as its issue translated it
  red : Option (Nat × Nat) := none      -- a reduction's operation and type
  nib : Option Bool := none             -- a nibble store: whether it is the high one
  pad : Option Nat := none
  rep : Nat := 0
  grp : Nat := 0
  lane : Nat := 0
  pc : Nat := 0
  deriving DecidableEq, Repr

/-- A swap in progress (R37). -/
structure Swap where
  outGrp : Nat
  inGrp : Nat
  til : Nat            -- the cycle at which its 8 cycles end
  deriving DecidableEq, Repr

/-- A resident team with its core's storage (R20, R21, R23, R276). -/
structure Team where
  grid : Nat := 0
  ctx : Nat := 0
  gridid : Nat := 0
  nteam : Nat := 1
  teamid : Nat := 0
  clid : Nat := 0
  clrank : Nat := 0
  rows : Nat := 1
  cols : Nat := 1
  tr : Bool := false
  ngrp : Nat := 1
  partw : Nat := 0
  regalloc : Nat := 8
  hEn : Bool := false
  hAddr : Nat := 0
  launch : Bool := false
  twin : Bool := false
  codeVa : Nat := 0
  codeSz : Nat := 0
  groups : Tbl Group := []
  active : List Nat := []
  pending : List Nat := []
  readySince : Tbl Nat := []
  swap : Option Swap := none
  scratch : Tbl Byte := []
  acc : Tbl Word := []
  rowstat : Tbl RowStat := []
  beta : Tbl Word := []
  dbound : Word := 0x7F800000
  barriers : Tbl Barrier := []
  serial : Nat := 1
  ops : List EngOp := []
  walk : Option Walk := none
  lastRun : Dword := 0
  stoppedAt : Option Nat := none        -- since when the gang has not been resident (R247, R409)
  checkpoint : Option Checkpoint := none
  irrevocable : Bool := false
  held : List HeldWrite := []
  heldLanes : Nat := 0
  atPoint : Bool := false               -- the step at a comparison point is performed now (R446)
  atCompare : List Nat := []            -- groups at a comparison point; 16 for a checkpoint's (R446)
  passed : Option Nat := none           -- the group whose comparison has matched
  after : List Nat := []                -- groups of atCompare whose step has been taken, held (a nibble store or RED, R445)
  btFresh : Bool := false               -- a block-table invalidation has completed: later walks translate afresh (R359)
  cpDue : Bool := false                 -- a phase of barrier 0 has completed as R442 asks
  mismatched : Bool := false
  deriving DecidableEq, Repr

/-- A translation kept by a TLB (R425): a whole leaf of a context. -/
structure TlbEntry where
  ctx : Nat
  level : Nat
  vbase : Nat
  pte : Dword
  deriving DecidableEq, Repr

/-- A table entry of level 3 to 1 that a die's TLB keeps (R425): the next table for a range of a context. -/
structure TabEntry where
  ctx : Nat
  level : Nat
  vbase : Nat
  table : Nat
  deriving DecidableEq, Repr

/-- What a translation answers: a leaf's level and entry, or a subcode of R424. -/
inductive WalkRes where
  | leaf (level pte : Nat)
  | fail (sub : Nat)
  deriving DecidableEq, Repr

/-- A page walk of a die (R426): the 64 KiB page, what it has read, none while it waits for one of the 64 walkers, and the
table entries it came by. -/
structure PtWalk where
  die : Nat
  ctx : Nat
  page : Nat
  res : Option WalkRes := none
  tabs : List TabEntry := []
  deriving DecidableEq, Repr

/-- A block translation (R327): key (table, logical block) of a grid's context, and the block. -/
structure BtbEntry where
  tbl : Nat
  lblk : Nat
  block : Nat
  deriving DecidableEq, Repr

/-- A gathering partial (R220): the operation and type of its latest RED, whether REDs of another operation or type have joined it,
its value, and the thread of that RED, with its grid and TEAMID, which a late fault names wherever the team is by then (R216). -/
structure Partial where
  op : Nat
  ty : Nat
  val : Word
  mixed : Bool := false
  grp : Nat := 0
  lane : Nat := 0
  pc : Nat := 0
  rep : Nat := 0
  bt : Nat := 0
  off : Nat := 0
  va : Nat := 0
  owner : Nat × Nat := (0, 0)
  deriving DecidableEq, Repr

/-- A service fault not yet posted (R391, R398). -/
structure SvcFault where
  code : Nat
  sub : Nat
  pc : Nat
  deriving DecidableEq, Repr

/-- What a core has issued in a cycle (R35, R496): the groups, 16 for the service group, the units taken (0 scalar, 1
vector, 2 special function, 3 engine), and until when the special-function unit stays taken. -/
structure Slots where
  cycle : Nat := 0
  grps : List Nat := []
  units : List Nat := []
  sfuTil : Nat := 0
  deriving DecidableEq, Repr

/-- A compute core (R16, R390). -/
structure Core where
  team : Option Team := none
  stopped : Bool := false
  saved : Bool := false
  restoring : Bool := false
  due : Nat := 0                        -- the service entry that is due: 1 PREEMPT, 2 RESTORE, 0 none
  erets : Bool := false                 -- a restored team's ERET is held until its gang has loaded (R410)
  svc : Group := {}
  svcRun : Bool := false
  cause : Nat := 0
  slotAddr : Nat := 0
  scr : Tbl Dword := []
  bells : List (Dword × Dword) := []
  svcFault : Option SvcFault := none
  svcLate : List SvcFault := []         -- further late faults of its stores, behind it
  lines : Tbl LineState := []
  partials : Tbl (Option Partial) := []
  tlb : List TlbEntry := []
  btb : List BtbEntry := []
  slots : Slots := {}
  retired : Bool := false
  lost : Bool := false                  -- its team cannot be saved (R451)
  deriving DecidableEq, Repr

/-- States of a task slot (R230). -/
inductive TqState where
  | free | waiting | ready | taken
  deriving DecidableEq, Repr

structure TqSlot where
  state : TqState := .free
  count : Nat := 0
  prio : Nat := 0
  payload : Word := 0
  readyCycle : Nat := 0
  deriving DecidableEq, Repr

/-- Where a grid stands (R402, R407, R409, R412). -/
inductive GridPhase where
  | waiting | resident | ending | stopping | preempted | restoring | ended
  deriving DecidableEq, Repr

/-- A grid and its launch record (R400). `place` gives the core of each team, twins after them (R406); `slots` the
save-area slot of each (R411); `clSlot` the die slot of each cluster (R414). -/
structure Grid where
  record : BitVec 512 := 0
  postTime : Nat := 0
  byp : Nat := 0
  phase : GridPhase := .waiting
  status : Nat := 0
  deferred : Bool := false
  admitNo : Nat := 0                -- how many admissions came before its latest one (R409)
  place : List Nat := []
  slots : List Nat := []
  clSlot : List Nat := []
  tq : Tbl TqSlot := []
  tqLast : Nat × Nat := (0, 0)      -- cycle and place of the latest step at the task queue (R231)
  rngLast : Nat × Nat := (0, 0)     -- cycle, and team plus one, of the latest RNGGET (R47)
  ranges : Tbl (Nat × Nat) := []
  preempt : Bool := false           -- a pre-emption that LCTL or a retirement wants: it waits for room (R409, R415)
  bump : Bool := false              -- chosen to make room for the head (R409): withdrawn when it cannot be saved
  killed : Bool := false            -- a RESOLVE with KILL waits for the restore (R432)
  deriving DecidableEq, Repr

/-- A request of one lane to memory that is not yet performed (R216, R486), in the order of issue. -/
inductive ReqKind where
  | store (pa va : Nat) (bytes : List Byte)
  | nibble (pa va : Nat) (high : Bool) (val : Byte)
  | amo (op ty pa va : Nat) (operand compare : Word)      -- op 7 is CAS
  | combine (pa va op ty : Nat) (val : Word)              -- a reduction at its home (R220)
  deriving DecidableEq, Repr

/-- `id` is shared by the lanes of one AMO or CAS; `pc`, `bt`, `off` and `rep` are those of the lane's fault record, `owner` the
grid and the TEAMID of its thread. -/
structure MemReq where
  id : Nat
  core : Nat
  grp : Nat
  lane : Nat
  pc : Nat
  bt : Nat := 0
  off : Nat := 0
  rep : Nat := 0               -- the repeat iteration of its issue (R434)
  owner : Nat × Nat := (0, 0)
  kind : ReqKind
  deriving DecidableEq, Repr

/-- A channel set (R478). -/
structure ChSet where
  chmask : BitVec 256 := 0
  bound : Nat := 0
  nlive : Nat := 0
  state : Nat := 0
  gran : Nat := 0
  csize : Nat := 0
  cbase : Nat := 0
  en : Bool := false
  leaving : List Nat := []       -- retired channels still to be restriped out, the first in progress
  deriving DecidableEq, Repr

/-- A channel's counters (R488). -/
structure Counters where
  refab : Nat := 0
  refpb : Nat := 0
  latstall : Nat := 0
  xbar : Nat := 0
  mscmiss : Nat := 0
  mschit : Nat := 0
  rdlat : Nat := 0
  rdcnt : Nat := 0
  deriving DecidableEq, Repr

/-- A shepherd fault queue (R430): its words and its ring of posted entries. -/
structure FaultQueue where
  ring : Nat := 0
  en : Bool := false
  head : Nat := 0
  tail : Nat := 0
  waiting : List (Nat × BitVec 256) := []   -- entries with no room yet, each with the die of the thread that passed (R429)
  deriving DecidableEq, Repr

/-- A directory entry (R459). -/
structure DirEntry where
  line : Nat
  fst : Nat := 0
  fmt : Nat := 0
  ptrs : List Nat := []
  mods : Nat := 0
  own : Nat := 0
  used : Nat := 0           -- when it was last used (R463)
  deriving DecidableEq, Repr

/-- A way kept for the request that caused a recall (R463). -/
structure Reserve where
  set : Nat
  core : Nat
  line : Nat
  til : Nat
  deriving DecidableEq, Repr

/-- A grant that waits for acknowledgements (R461, R463, R473): kind 0 write, 1 RED. A recall (kind 2) keeps the line
`want` of the request that caused it. -/
structure DirWait where
  line : Nat
  core : Nat
  kind : Nat
  msgs : List Nat
  want : Nat := 0
  safe : Bool := false      -- granted in safe mode, where the home keeps no entry (R473)
  deriving DecidableEq, Repr

/-- A refused request and its refusals so far (R464). -/
structure Retry where
  core : Nat
  line : Nat
  kind : Nat
  refusals : Nat
  due : Nat
  deriving DecidableEq, Repr

/-- A coherence message held by its sender until acknowledged (R470): its destination's die pointer, its virtual
channel and length (R468), when it was last sent, and the port that carries it, none while its channel is stopped
(R469) or inside the module; `bound` is the port of a message that formation sends, to whatever stands at its end (R467). -/
structure Msg where
  id : Nat
  dst : Nat
  line : Nat
  sent : Nat
  vc : Nat := 1
  flits : Nat := 1
  port : Option Nat := none
  bound : Option Nat := none
  deriving DecidableEq, Repr

/-- A fold die of this module (R459 to R463). -/
structure Fold where
  entries : List DirEntry := []
  store : List Nat := []
  reserves : List Reserve := []
  deriving DecidableEq, Repr

/-- A Wileg port (R465 to R471). -/
structure Port where
  trained : Bool := false
  retired : Bool := false
  peer : Option Nat := none
  peerFold : Nat := 0
  stopped : List Nat := []          -- channels for which this receiver has sent STOP
  held : List Nat := []             -- channels for which the peer has sent STOP: no new message starts (R469)
  free : Tbl Nat := []              -- free flits of each virtual channel below the full 192
  rxSeq : Tbl Nat := []
  replay : List (Nat × Nat) := []   -- (vc, message) of each flit sent and not acknowledged (R470)
  replayAsked : Tbl Nat := []       -- channels for which a replay has been asked: the flit it starts from, plus one
  deriving DecidableEq, Repr

/-- The load-store domain (R467, R472). -/
structure Domain where
  module : Nat := 0
  size : Nat := 1
  ident : Dword := 0
  formed : Bool := false
  forming : Option Nat := none      -- the cycle at which formation times out
  peers : List Nat := []
  failed : List Nat := []           -- failed domain fold numbers
  dead : List Nat := []             -- fold dies of other modules that had failed before a domain formed with them (R467)
  live : List Nat := [0, 1]         -- LIVE when the domain formed: HT[i] = LIVE[i mod N] (R454)
  ht : Tbl Nat := []                -- slots that the rehash changed, plus one (R472)
  safeOf : Option Nat := none       -- the failed fold number whose slots are SAFE
  rebuilt : Bool := false
  rehash : Nat := 0                 -- slots that have moved so far
  rest : List Nat := []             -- LIVE′ of the rehash, fixed as it begins (R472)
  moved : Nat := 0                  -- sets of the slot that moves now that stand at their new home
  frozen : Option Nat := none       -- the set that moves now (R464)
  lost : List Nat := []             -- modules that left the domain (R475)
  isolated : Bool := false
  deriving DecidableEq, Repr

/-- A command of the management port (R493). -/
inductive MgmtCmd where
  | status | update (stage image : Nat) | partset (n : Nat) (w : Dword) | modnum (n : Nat) | errthr (n : Nat)
  | chset (n k : Nat) (w : Dword) | attest (nonce : BitVec 256) | resync
  | enroll (key : Nat) (signedByOld fromServer : Bool) | domform (m : Nat) (ident : Dword)
  deriving DecidableEq, Repr

/-- Boot, security and management (R489 to R495). -/
structure Boot where
  stage : Nat := 1
  recovery : Bool := false
  floor : Tbl Nat := []
  version : Tbl Nat := []
  measured : Tbl Nat := []
  nor : Tbl Nat := []
  loaded : Tbl Nat := []            -- boot NOR as it stood at the last reset: an UPDATE takes effect at the next (R493)
  rootKey : Nat := 0                -- the SHA-256 of the root key, fused in Pyari (R489)
  vendorKey : Nat := 0              -- the vendor key that the trusted firmware carries
  ownerKey : Option Nat := none
  enrolled : Option Nat := none     -- the SHA-256 of the key enrolled; ownerKey is the one in effect (R493)
  hot : Bool := false
  entry0 : BitVec 512 := 0          -- context entry 0 (R387, R490)
  report : Tbl Dword := []          -- the boot report: the bases, then the access tables as they were written (R490)
  partMeasured : Option Nat := none -- the measurement of the partition table since its last write (R492)
  queue : List MgmtCmd := []         -- management commands that wait for the running one (R493)
  base : Tbl Dword := []            -- CTXTAB, SVCENTRY, LPBASE, FQBASE, SQBASE, DBBASE, FLBASE, MCBASE (R490)
  code : Nat := 0                   -- status code of the last management command
  reply : List Nat := []
  deriving DecidableEq, Repr

/-- A store on its way to a control space, with its poster number (R402): it takes effect as a step of its own. -/
structure RegStore where
  poster : Nat
  pa : Nat
  bytes : List Byte
  deriving DecidableEq, Repr

/-- What may happen next: an issue of a group (16 is the service group), a step of the hardware, a step that the outside
has started, a GO of one of its receivers, the arrival of a store at a control space, the next management command, or that time passes. -/
inductive Action where
  | issue (core grp : Nat)
  | hw (i : Instr)
  | input (i : Instr)
  | goes (port vc : Nat)
  | formLate | windowOver | rebuilt | regArrives | nextCommand | pass
  deriving DecidableEq, Repr

/-- An enabled action, and the step since which it has been enabled without a break. -/
structure Offer where
  act : Action
  since : Nat
  deriving DecidableEq, Repr

/-- Main memory: the bytes that are listed, by address. An unlisted byte reads as zero (log 3). -/
abbrev Memory := List Host.Cell

/-- The whole module. -/
structure State where
  -- the model's own
  tick : Nat := 0
  inputs : List Instr := []
  core : Nat := 0                   -- the core and the group (16 is the service group) that issue now
  grp : Nat := 0
  reqId : Nat := 1
  offered : List Offer := []        -- enabled actions and since when (R34, R44)
  lastPost : Nat × Nat := (0, 0)    -- cycle and poster number plus one of the latest post (R402)
  lastSig : Nat × Nat := (0, 0)     -- cycle and core plus one of the latest signal or service fault posted (R398)
  recLast : Nat × Nat := (0, 0)     -- cycle, and 32·core + group, of the latest record or frame (R437, R438)
  recLate : Bool := false           -- this step has recorded a trap out of the order of its cycle
  stuck : Bool := false             -- the step of an operation at hand needs a line that it cannot have: it is not made (R464)
  -- time and memory
  cycle : Nat := 0
  mem : Memory := []
  poison : Tbl Bool := []
  peerMem : Tbl (Option Byte) := []   -- bytes of other modules' memory as this module wrote them last (log 7)
  stores : List MemReq := []
  regStores : List RegStore := []
  dieTlb : Tbl (List TlbEntry) := []
  dieTabs : Tbl (List TabEntry) := []
  walks : List PtWalk := []
  descs : List (Nat × BitVec 512) := []  -- descriptors that the ports of a die have read, by die, context and index (R427)
  -- cores, grids, admission
  cores : Tbl Core := []
  grids : Tbl Grid := []
  nextGrid : Nat := 0
  admitted : Nat := 0               -- admissions so far (R409)
  lpres : Tbl Dword := []
  sapoolBase : Nat := 0
  sapoolCount : Nat := 0
  saved : Tbl (Option Team) := []   -- teams in save areas, by physical address (R396)
  -- queues and logs
  sigHead : Nat := 0
  sigTail : Nat := 0
  fqs : Tbl FaultQueue := []
  unresolved : List (Nat × Nat) := []   -- context and token of entries of the fault queues that no RESOLVE has named (R431)
  logHead : Nat := 0
  logTail : Nat := 0
  logDrop : Nat := 0
  -- partitions, channels, access tables
  parts : Tbl Dword := []
  chsets : Tbl ChSet := []
  access : Tbl Dword := []
  foldAccess : Tbl Dword := []
  counters : Tbl Counters := []
  refresh : Tbl Nat := []
  allBank : Tbl Bool := []
  retiredCh : List Nat := []
  errors : Tbl Nat := []
  threshold : Nat := 16
  erred : List Nat := []            -- units with an uncorrectable error in this counting window (R444)
  window : Nat := 0                 -- the counting window of `errors` (R449)
  retiredUnits : List HwUnit := []
  -- coherence and links
  folds : Tbl Fold := []
  xdies : Tbl Nat := []             -- of a line, the die that holds it at the fold level in state X, plus one (R458)
  dirWaits : List DirWait := []
  retries : List Retry := []
  msgs : List Msg := []
  ports : Tbl Port := []
  domain : Domain := {}
  boot : Boot := {}
  deriving DecidableEq, Repr

/-- The module right after reset: no grid, empty queues and tables, the boot code of stage 1 running (R489), a domain
of one with module number 0 (R467). Values the manual does not give are zero (log 2, 3, 4). -/
def State.reset : State := {}

end Sys2Proof.Machine
end

