-- ==== Sys2Proof/Machine/Table.lean ====
section
/-! DEFINITION. Sparse stores: one reader and one writer for every table of the machine, and the canonical form that
the writer keeps. -/
namespace Sys2Proof.Machine
open Sys2Proof

/-- The value at a key: the listed one, or the default of an unlisted key. -/
def tget {α : Type} (d : α) : Tbl α → Nat → α
  | [], _ => d
  | (k', v) :: r, k => if k' = k then v else tget d r k

/-- A table without one key. -/
def tdel {α : Type} (t : Tbl α) (k : Nat) : Tbl α := t.filter (fun p => p.1 ≠ k)

/-- An entry placed before the first greater key. -/
def tins {α : Type} : Tbl α → Nat → α → Tbl α
  | [], k, v => [(k, v)]
  | (k', w) :: r, k, v => if k < k' then (k, v) :: (k', w) :: r else (k', w) :: tins r k v

/-- A table with one key changed: keys stay rising, and no entry equal to the default is kept. -/
def tput {α : Type} [DecidableEq α] (d : α) (t : Tbl α) (k : Nat) (v : α) : Tbl α :=
  if v = d then tdel t k else tins (tdel t k) k v

/-- Several writes, in order. -/
def tputs {α : Type} [DecidableEq α] (d : α) (t : Tbl α) (ws : List (Nat × α)) : Tbl α :=
  ws.foldl (fun t w => tput d t w.1 w.2) t

/-- Every key is at least lo. -/
def aboveB {α : Type} (lo : Nat) : Tbl α → Bool
  | [] => true
  | (k, _) :: r => lo ≤ k && aboveB lo r

/-- Canonical form: keys rise strictly, and no entry holds the default. -/
def Canon {α : Type} [DecidableEq α] (d : α) : Tbl α → Bool
  | [] => true
  | (k, v) :: r => v ≠ d && aboveB (k + 1) r && Canon d r

/-- Take over what one store's change to another did: the keys whose values differ. -/
def tfollow {α : Type} [DecidableEq α] (d : α) (old new t : Tbl α) : Tbl α :=
  ((new.map Prod.fst) ++ (old.map Prod.fst)).foldl (fun t k => if tget d old k = tget d new k then t else tput d t k (tget d new k)) t
/-- The same of a list. -/
def lfollow {α : Type} [DecidableEq α] (old new l : List α) : List α :=
  l.filter (fun x => !(old.contains x && !new.contains x)) ++ new.filter (fun x => !old.contains x)

/-- The values at 64 lanes from a function: what a whole vector write lists. -/
def laneTable (f : Nat → Word) : Tbl Word :=
  (List.range 64).filterMap (fun l => if f l = 0 then none else some (l, f l))

end Sys2Proof.Machine
end

