-- ==== Sys2Proof/Machine/Links.lean ====
section
/-! DEFINITION. Coherence messages and the Wileg ports that carry them (R453, R465 to R471). -/
namespace Sys2Proof.Machine
open Sys2Proof

/-- The key of a port: 18 of each fold die. -/
def portKey (fold port : Nat) : Nat := fold % 2 * 18 + port % 18
def State.port (s : State) (k : Nat) : Port := tget {} s.ports k
def State.modPort (s : State) (k : Nat) (f : Port → Port) : State := { s with ports := tput {} s.ports k (f (s.port k)) }

/-- What a virtual channel may wait for: REQ for FWD and RSP, FWD for RSP, the others for none (R468). -/
def vcMayWait (a b : Nat) : Bool := a = 0 && (b = 1 || b = 2) || a = 1 && b = 2

/-- The module whose memory holds a line (R453). -/
def lineModule (ln : Nat) : Nat := ln / 2 ^ 40 % 32

/-- A port that carries traffic to a module (R466, R471). -/
def State.liveTo (s : State) (k m : Nat) : Bool := (s.port k).peer = some m && (s.port k).trained && !(s.port k).retired
/-- The link of this module's to another: the primary, or the spare while the primary is not live (R465, R471). -/
def State.linkTo (s : State) (m : Nat) : Option Nat := ([portKey m (m / 2), portKey 0 16, portKey 1 16].filter (fun k => s.liveTo k m)).head?
/-- The port by which a message for a module leaves: the pair's link, or that to the lowest-numbered module with live
links to both ends (R471). Whether another module's link is live is not this module's state (log 7). -/
def State.portTo (s : State) (m : Nat) : Option Nat :=
  match s.linkTo m with
  | some k => some k
  | none => ((List.range 32).filter (fun r => r ≠ m && (s.linkTo r).isSome && Config.peerLink s.tick r m)).head?.bind s.linkTo

/-- The flits of a message stand in a port's replay buffer until they are acknowledged (R470). -/
def Port.load (m : Msg) (p : Port) : Port := { p with replay := p.replay ++ List.replicate m.flits (m.vc, m.id) }

/-- The port of a message: the one it is bound to, else the live route. -/
def State.portOf (s : State) (m : Msg) : Option Nat :=
  match m.bound with
  | some k => if (s.port k).retired then none else some k
  | none => s.portTo (m.dst / 8)

/-- A message leaves the module. -/
def State.leaves (s : State) (m : Msg) : Bool := m.bound.isSome || m.dst / 8 ≠ s.domain.module

/-- Start a message on its port, unless its virtual channel is stopped there (R469, R470). -/
def State.transmit (s : State) (m : Msg) : State × Msg :=
  match s.portOf m with
  | none => (s, { m with port := none })
  | some k =>
    if (s.port k).held.contains m.vc then (s, { m with port := none })
    else (s.modPort k (Port.load m), { m with port := some k })

/-- A message is on its way: one that leaves the module has been started on a port (R469). -/
def State.sent (s : State) (m : Msg) : Bool := !s.leaves m || m.port.isSome
/-- A new message on a channel for a die pointer would start now: inside the module, or by a live route on which the channel is not
stopped (R469). -/
def State.canTell (s : State) (vc ptr : Nat) : Bool :=
  ptr / 8 = s.domain.module || (s.portTo (ptr / 8)).any (fun k => !(s.port k).held.contains vc)

/-- Send a message, which its sender holds until it is acknowledged; inside the module it needs no port. -/
def State.post (s : State) (m : Msg) : State :=
  if s.leaves m then let (s, m) := s.transmit m; { s with msgs := s.msgs ++ [m] }
  else { s with msgs := s.msgs ++ [m] }

/-- Flits of some messages leave every replay buffer. -/
def State.unload (s : State) (ids : List Nat) : State :=
  { s with ports := s.ports.map (fun (p : Nat × Port) => (p.1, { p.2 with replay := p.2.replay.filter (fun x => !ids.contains x.2) })) }

/-- Their sender holds some messages no longer, and their flits leave the replay buffers (R470). -/
def State.forget (s : State) (ids : List Nat) : State :=
  { s.unload ids with msgs := s.msgs.filter (fun m => !ids.contains m.id) }

/-- A message of some flits about a line for a die of another module; nothing inside the module (R468, R470). -/
def State.postAbroad (s : State) (vc flits ptr ln : Nat) : State :=
  if ptr / 8 = s.domain.module then s
  else ({ s with reqId := s.reqId + 1 } : State).post { id := s.reqId, dst := ptr, line := ln, sent := s.cycle, vc := vc, flits := flits }

/-- A message on one port, whose peer is not known yet: what formation sends (R467, R468, R469). -/
def State.postOn (s : State) (k dst : Nat) : State :=
  ({ s with reqId := s.reqId + 1 } : State).post { id := s.reqId, dst := dst, line := 0, sent := s.cycle, vc := 3, bound := some k }

end Sys2Proof.Machine
end

