-- ==== Sys2Proof/Machine/Ops.lean ====
section
/-! DEFINITION. The named operations over cores, registers, memory and translation, and taking a trap and returning
from one. -/
namespace Sys2Proof.Machine
open Sys2Proof

/-! ## Cores, teams, groups -/

/-- The free choice about something in this step (log 1, 6, 12, 14). -/
def State.choice (s : State) (what : Nat) : Nat := Config.freeChoice (1024 * s.tick + what)

def State.coreAt (s : State) (c : Nat) : Core := tget {} s.cores c
def State.setCore (s : State) (c : Nat) (x : Core) : State := { s with cores := tput {} s.cores c x }
def State.modCore (s : State) (c : Nat) (f : Core → Core) : State := s.setCore c (f (s.coreAt c))
def State.team (s : State) : Team := (s.coreAt s.core).team.getD {}
/-- Change the team of a core that has one. -/
def State.modTeamAt (s : State) (c : Nat) (f : Team → Team) : State := s.modCore c (fun x => { x with team := x.team.map f })
def State.modTeam (f : Team → Team) (s : State) : State := s.modTeamAt s.core f
def State.grid (s : State) (g : Nat) : Grid := tget {} s.grids g
def State.setGrid (s : State) (g : Nat) (x : Grid) : State := { s with grids := tput {} s.grids g x }
def State.modGrid (s : State) (g : Nat) (f : Grid → Grid) : State := s.setGrid g (f (s.grid g))
/-- Whether the issuer is a service group (R390), numbered 16. -/
def State.isSvc (s : State) : Bool := s.grp = 16
def Team.group (t : Team) (g : Nat) : Group := tget {} t.groups g
def Team.setGroup (t : Team) (g : Nat) (x : Group) : Team := { t with groups := tput {} t.groups g x }
/-- The issuing group. -/
def State.group (s : State) : Group := if s.isSvc then (s.coreAt s.core).svc else s.team.group s.grp
/-- Change group g of core c. -/
def State.modGroupAt (s : State) (c g : Nat) (f : Group → Group) : State :=
  if g = 16 then s.modCore c (fun x => { x with svc := f x.svc })
  else s.modTeamAt c (fun t => t.setGroup g (f (t.group g)))
def State.modGroup (f : Group → Group) (s : State) : State := s.modGroupAt s.core s.grp f
def Team.findOp (t : Team) (id : Dword) : Option EngOp := t.ops.find? (fun o => o.id = id)
/-- Change the operation that bears an identifier. -/
def Team.modOp (t : Team) (id : Dword) (f : EngOp → EngOp) : Team :=
  { t with ops := t.ops.map (fun o => if o.id = id then f o else o) }

/-- The die of a core (R231). -/
def dieOf (core : Nat) : Nat := core / 24
/-- The context whose buffers the issuer reaches (R391). -/
def State.ctx (s : State) : Nat := if s.isSvc then 0 else s.team.ctx
/-- Vector registers of the issuing group (R390). -/
def State.regalloc (s : State) : Nat := if s.isSvc then 16 else s.team.regalloc

/-! ## Lanes and masks -/

def lanesOf (m : Dword) : List Nat := (List.range 64).filter (fun l => m.getLsbD l)
def laneBit (l : Nat) : Dword := BitVec.ofNat 64 (2 ^ l)
def maskOf (ls : List Nat) : Dword := ls.foldl (fun m l => m ||| laneBit l) 0
def lowLane (m : Dword) : Nat := (lanesOf m).headD 0
def popMask (m : Dword) : Nat := (lanesOf m).length

/-! ## Registers (R20, R30, R54, R137) -/

def Group.sreg (g : Group) (n : Nat) : Dword := if n = 0 then 0 else tget 0 g.s n
def Group.setS (n : Nat) (v : Dword) (g : Group) : Group := if n = 0 then g else { g with s := tput 0 g.s n v }
/-- Mask register n; m0 reads as the issue set (R30). -/
def Group.mreg (set : Dword) (g : Group) (n : Nat) : Dword := if n = 0 then set else tget 0 g.m n
def Group.setM (n : Nat) (v : Dword) (g : Group) : Group := if n = 0 then g else { g with m := tput 0 g.m n v }
/-- Write only the lanes `which` of a mask register (R31). -/
def Group.setMLanes (n : Nat) (which v : Dword) (g : Group) : Group :=
  g.setM n ((tget 0 g.m n &&& ~~~which) ||| (v &&& which))
def Group.vreg (g : Group) (n : Nat) : VReg := tget {} g.v n
def Group.tag (g : Group) (n : Nat) : Nat := (g.vreg n).tag
def Group.lane (g : Group) (n l : Nat) : Word := tget 0 (g.vreg n).slots l
/-- Write some lanes of a vector register and its tag; nothing when no lane is written (R54). -/
def Group.setV (n tag : Nat) (vals : List (Nat × Word)) (g : Group) : Group :=
  if vals.isEmpty then g
  else { g with v := tput {} g.v n { tag := tag, slots := tputs 0 (g.vreg n).slots vals } }
/-- Write lanes of `which` from a function. -/
def Group.setVF (n tag : Nat) (which : Dword) (f : Nat → Word) (g : Group) : Group :=
  g.setV n tag ((lanesOf which).map (fun l => (l, f l)))
def Group.iter (g : Group) (n : Nat) : IterRec := tget {} g.it n
def Group.setIt (n : Nat) (r : IterRec) (g : Group) : Group := { g with it := tput {} g.it n r }

/-! ## The issue set (R29, R30, R131) -/

def Group.waiting (g : Group) : Dword := g.waits.foldl (fun m w => m ||| w.mask) 0
def Group.eligible (g : Group) : Dword := ~~~g.exited &&& ~~~g.waiting
def minOver (f : Nat → Nat) : List Nat → Nat
  | [] => 0
  | [l] => f l
  | l :: r => Nat.min (f l) (minOver f r)
/-- The issue program counter: the lowest of any eligible thread (R30). -/
def Group.issuePc (g : Group) : Nat := minOver (tget 0 g.pc) (lanesOf g.eligible)
/-- The issue set: eligible threads there with the lowest REPCNT (R30, R131). -/
def Group.issueSet (g : Group) : Dword :=
  let here := (lanesOf g.eligible).filter (fun l => tget 0 g.pc l = g.issuePc)
  let rc := minOver (tget 0 g.repcnt) here
  maskOf (here.filter (fun l => tget 0 g.repcnt l = rc))
def Group.ended (g : Group) : Bool := g.exited = BitVec.allOnes 64
def Group.setPcs (ls : List Nat) (p : Nat) (g : Group) : Group := { g with pc := tputs 0 g.pc (ls.map (fun l => (l, p))) }
def Group.setReps (ls : List Nat) (r : Nat) (g : Group) : Group :=
  { g with repcnt := tputs 0 g.repcnt (ls.map (fun l => (l, r))) }
/-- Put threads to wait. -/
def Group.hold (m : Dword) (k : WaitKind) (g : Group) : Group := if m = 0 then g else { g with waits := g.waits ++ [⟨m, k⟩] }
/-- Let go of the waits that a test names. -/
def Group.release (p : WaitKind → Bool) (g : Group) : Group := { g with waits := g.waits.filter (fun w => !p w.kind) }

/-! ## Control spaces (R398, R399, R401, R430, R452, R478) -/

/-- A base of R490: CTXTAB, SVCENTRY, LPBASE, FQBASE, SQBASE, DBBASE, FLBASE, MCBASE, numbered 0 to 7. -/
def State.base (s : State) (n : Nat) : Nat := (tget 0 s.boot.base n).toNat

/-- Bytes of each control space: launch ports, fault queues, the signal queue's control word, doorbells, the fault log's
control word, memory control. -/
def spaces : List (Nat × Nat) := [(2, 8192), (3, 0x1008), (4, 8), (5, 3072), (6, 8), (7, 81920)]
/-- The control space that holds a physical address, with the offset; none before its base is set. -/
def State.space? (s : State) (pa : Nat) : Option (Nat × Nat) :=
  (spaces.find? (fun x => s.base x.1 ≠ 0 && s.base x.1 ≤ pa && pa < s.base x.1 + x.2)).map (fun x => (x.1, pa - s.base x.1))
def State.isReg (s : State) (pa : Nat) : Bool := (s.space? pa).isSome

/-! ## Fields of a launch record (R400) -/

abbrev Rec := BitVec 512
def recBits (r : Rec) (hi lo : Nat) : Nat := bits r.toNat hi lo
def recRows (r : Rec) : Nat := recBits r 71 68
def recCols (r : Rec) : Nat := recBits r 75 72
def recNgrp (r : Rec) : Nat := recBits r 79 76 + 1
def recPrio (r : Rec) : Nat := recBits r 87 85
def recRed (r : Rec) : Bool := r.getLsbD 88
def recRegs (r : Rec) : Nat := 8 * recBits r 95 89
def recGridid (r : Rec) : Nat := recBits r 127 96
def recPartw (r : Rec) : Nat := recBits r 143 128
def recNteam (r : Rec) : Nat := recBits r 167 160 + 1
def recCtx (r : Rec) : Nat := recBits r 175 168
def recCodeVa (r : Rec) : Nat := recBits r 255 192
def recCodeSz (r : Rec) : Nat := recBits r 31 0
/-- Length of index space k. -/
def recLen (r : Rec) (k : Nat) : Nat := recBits r (367 + 48 * k) (320 + 48 * k)
def recClusters (r : Rec) : Nat := recNteam r / (recRows r * recCols r)
/-- Rectangles that the gang takes: twins double them. -/
def recPlaces (r : Rec) : Nat := if recRed r then 2 * recClusters r else recClusters r

/-- Grids that wait: not yet admitted, or on the restore list (R405, R407, R409). -/
def Grid.waits (g : Grid) : Bool := g.phase = .waiting || g.phase = .preempted
def Grid.level (g : Grid) : Nat := bits g.record.toNat 87 85
/-- Records of a level that wait for their first admission. -/
def State.levelCount (s : State) (p : Nat) : Nat :=
  (s.grids.filter (fun g => g.2.phase = .waiting && g.2.level = p && g.2.record ≠ 0)).length
/-- LQSTAT p (R405): a gang that is being restored has not left the restore list. -/
def State.lqstat (s : State) (p : Nat) : Nat :=
  (s.grids.filter (fun g => (g.2.waits || g.2.phase = .restoring) && g.2.level = p)).length % 256 * 256 + (32 - s.levelCount p)

/-- A channel-set entry as a number (R478). -/
def ChSet.word (x : ChSet) : Nat :=
  x.chmask.toNat * 2 ^ 256 + x.bound % 2 ^ 64 * 2 ^ 192 + x.nlive % 512 * 2 ^ 176 + x.state % 4 * 2 ^ 174 + x.gran % 16 * 2 ^ 160
    + x.csize % 2 ^ 32 * 2 ^ 96 + x.cbase % 2 ^ 32 * 2 ^ 32 + if x.en then 1 else 0
/-- A counter block as a number (R488). -/
def Counters.word (c : Counters) : Nat :=
  ([c.rdcnt, c.rdlat, c.mschit, c.mscmiss, c.xbar, c.latstall, c.refpb, c.refab] : List Nat).foldr (fun v n => v % 2 ^ 64 + 2 ^ 64 * n) 0

/-- The 8 bytes at an aligned offset of a control space, as they read. -/
def State.regWord (s : State) (sp off : Nat) : Nat :=
  if sp = 2 then
    if 0x1000 ≤ off ∧ off < 0x1080 then (tget 0 s.lpres ((off - 0x1000) / 8)).toNat
    else if 0x1100 ≤ off ∧ off < 0x1140 then s.lqstat ((off - 0x1100) / 8)
    else if off = 0x1300 then s.sapoolBase % 2 ^ 29 * 2 ^ 35 + s.sapoolCount % 2 ^ 16
    else 0
  else if sp = 3 then
    if 0x1000 ≤ off then 0
    else
      let q := tget {} s.fqs (off / 16)
      if off % 16 = 0 then q.ring % 2 ^ 39 * 2 ^ 13 + (if q.en then 1 else 0) else q.tail % 256 * 256 + q.head % 256
  else if sp = 4 then s.sigTail % 256 * 256 + s.sigHead % 256
  else if sp = 6 then s.logDrop % 65536 * 2 ^ 44 + s.logTail % 4096 * 2 ^ 32 + s.logHead % 4096
  else if sp = 7 then
    if off < 0x4000 then (tget {} s.chsets (off / 64)).word / 2 ^ (off % 64 * 8) % 2 ^ 64
    else if off < 0xC000 then (tget 0 s.access ((off - 0x4000) / 8)).toNat
    else if off < 0xC200 then (tget 0 s.foldAccess ((off - 0xC000) / 8)).toNat
    else if 0x10000 ≤ off then (tget {} s.counters ((off - 0x10000) / 64)).word / 2 ^ (off % 64 * 8) % 2 ^ 64
    else 0
  else 0

/-- A byte of a control space. -/
def State.regByte (s : State) (pa : Nat) : Byte :=
  match s.space? pa with
  | some (sp, off) => BitVec.ofNat 8 (s.regWord sp (off / 8 * 8) / 2 ^ (off % 8 * 8))
  | none => 0

/-! ## Locations (R453, R478, R479, R483) -/

def chBytes : Nat := 3 * 2 ^ 29
/-- Keys of the new places of a set that is being restriped, apart from the old ones, which granules still to move hold until the
last has moved: no value changes meanwhile (R482). -/
def newPlace : Nat := 2 ^ 40
/-- The channel of a key, and the channel-local address. -/
def keyCh (key : Nat) : Nat := key % newPlace / chBytes
def keyAddr (key : Nat) : Nat := key % newPlace % chBytes

def State.chset (s : State) (n : Nat) : ChSet := tget {} s.chsets n

/-- Where a physical address lies: a byte of this module (channel · 1.5 GiB + channel-local address), another
module, a set that lost its contents, or nowhere. -/
inductive Loc where
  | at (key : Nat) | peer (pa : Nat) | lost | none
  deriving DecidableEq, Repr

/-- Live channels of a set, in ascending order: those not retired, and those still being restriped out (R479, R482). -/
def State.liveOf (s : State) (cs : ChSet) : List Nat :=
  (List.range 256).filter (fun c => cs.chmask.getLsbD c && (!s.retiredCh.contains c || cs.leaving.contains c))

def State.locate (s : State) (pa : Nat) : Loc :=
  let m := pa / 2 ^ 47 % 32
  if m ≠ s.domain.module then
    if s.domain.lost.contains m then .lost else if s.domain.peers.contains m then .peer pa else .none
  else
    let cs := tget {} s.chsets (pa / 2 ^ 39 % 256)
    let l := pa % 2 ^ 39
    if !cs.en then .none
    else if cs.state = 3 then .lost
    else
      let live := s.liveOf cs
      let (live, base) := if cs.state = 2 ∧ l < cs.bound then (live.filter (fun c => c ≠ cs.leaving.headD 256), newPlace) else (live, 0)
      let g := 2 ^ (cs.gran + 8)
      let q := l / g
      let n := live.length
      if n = 0 ∨ q / n * g ≥ cs.csize * 65536 then .none
      else .at (base + live.getD (q % n) 0 * chBytes + cs.cbase * 65536 + q / n * g + l % g)

/-- The rights an access needs of a page or an access table. -/
structure Need where
  r : Bool := false
  w : Bool := false
  x : Bool := false
  deriving DecidableEq, Repr

/-- The access table of the channel behind a byte (R483). -/
def State.accessOk (s : State) (master key : Nat) (need : Need) : Bool :=
  let c := keyCh key
  let u := keyAddr key / 65536
  (List.range 16).any fun k =>
    let e := (tget 0 s.access (c * 16 + k)).toNat
    bit e (48 + master) && bits e 14 0 ≤ u && u ≤ bits e 29 15 && (!need.r || bit e 44) && (!need.w || bit e 45)

/-- What an access finds at a physical address: memory of this or another module, a register of a control space, a
denial, or bad data. -/
inductive Acc where
  | mem (key : Nat) | peer (pa : Nat) | reg (pa : Nat) | denied | bad
  deriving DecidableEq, Repr

def State.access? (s : State) (master pa : Nat) (need : Need) : Acc :=
  if s.isReg pa then .reg pa
  else match s.locate pa with
  | .none => .denied
  | .lost => .bad
  | .peer p => .peer p
  | .at k => if s.accessOk master k need then .mem k else .denied

/-- The master number of a die of this module: a compute die's own, 8 the shepherd die's (R483). -/
def masterOf (die : Nat) : Nat := if die < 9 then die else 9

/-- The home die of a channel: of quadrant q of stack j it is (j + q) mod 8 (R15, R476). -/
def homeDie (ch : Nat) : Nat := (ch / 32 + ch % 32 / 8) % 8

/-- Change a channel's counters. -/
def State.count (s : State) (ch : Nat) (f : Counters → Counters) : State :=
  { s with counters := tput {} s.counters (ch % 256) (f (tget {} s.counters (ch % 256))) }
/-- Counters wrap at 2^64 (R488). -/
def wrap64 (n : Nat) : Nat := n % 2 ^ 64

/-- Some accesses of a die reach the channel behind a byte, through the base-die crossbar unless the die is its home (R14,
R15); its counters advance (R488). How many hit in the memory-side cache, and the latency, are free (log 12). -/
def State.countLines (s : State) (die key n : Nat) (rd : Bool) : State :=
  let ch := keyCh key
  let x := s.choice (512 + ch % 256)
  s.count ch (fun c => { c with
    xbar := wrap64 (c.xbar + if die = homeDie ch then 0 else n)
    mschit := wrap64 (c.mschit + x % (n + 1)), mscmiss := wrap64 (c.mscmiss + (n - x % (n + 1)))
    rdcnt := wrap64 (c.rdcnt + if rd then n else 0), rdlat := wrap64 (c.rdlat + if rd then x / (n + 1) else 0) })
/-- One access. -/
def State.countAccess (s : State) (die key : Nat) (rd : Bool) : State := s.countLines die key 1 rd

/-- An access of a die reaches memory: a channel of this module, or over a link that of another, a request of one flit for a
read and data in three for a write (R14, R15, R468, R488). -/
def State.reach (s : State) (die : Nat) (a : Acc) (rd : Bool) : State :=
  match a with
  | .mem k => s.countAccess die k rd
  | .peer pa => s.postAbroad 0 (if rd then 1 else 3) (8 * lineModule (pa / 128)) (pa / 128)
  | _ => s

/-- The canonical form of memory: addresses rise strictly, and no listed byte is zero, which unlisted bytes read as. -/
def Memory.wf (m : Memory) : Bool := Canon 0 m
def State.byte (s : State) (key : Nat) : Byte := tget 0 s.mem key
def State.setByte (s : State) (key : Nat) (b : Byte) : State := { s with mem := tput 0 s.mem key b }
/-- Whether a line holds data beyond correction (R441, R482). -/
def State.poisoned (s : State) (key : Nat) : Bool := tget false s.poison (key / 128)

/-- Bytes as a number, lowest first (R2). -/
def leNat (bs : List Byte) : Nat := bs.foldr (fun b n => b.toNat + 256 * n) 0
/-- A free word of this step, of a value that the manual does not state (log 50, 51). -/
def State.openWord (s : State) (what : Nat) : Word :=
  BitVec.ofNat 32 (leNat ((List.range 4).map (fun i => Config.freeByte s.tick (2 ^ 60 + 4 * what + i))))
/-- A number's n low bytes. -/
def leBytes : Nat → Nat → List Byte
  | 0, _ => []
  | n + 1, v => BitVec.ofNat 8 v :: leBytes n (v / 256)

def State.bytesAt (s : State) (key n : Nat) : List Byte := (List.range n).map (fun i => s.byte (key + i))
def State.setBytes (s : State) (key : Nat) (bs : List Byte) : State :=
  { s with mem := tputs 0 s.mem (bs.mapIdx (fun i b => (key + i, b))) }

/-- What an access reads: this module's bytes, or whatever another module holds (log 7). -/
def State.readAcc (s : State) (a : Acc) (n : Nat) : List Byte :=
  match a with
  | .mem k => s.bytesAt k n
  | .peer p => (List.range n).map (fun i => match tget none s.peerMem (p + i) with
      | some b => if Config.peerKeeps s.tick (p + i) then b else Config.peerByte s.tick (p + i)
      | none => Config.peerByte s.tick (p + i))
  | .reg p => (List.range n).map (fun i => s.regByte (p + i))
  | _ => List.replicate n 0
def State.writeAcc (s : State) (a : Acc) (bs : List Byte) : State :=
  match a with
  | .mem k => s.setBytes k bs
  | .peer p => { s with peerMem := tputs none s.peerMem (bs.mapIdx (fun i b => (p + i, some b))) }
  | .reg p => { s with regStores := s.regStores ++ [⟨s.core, p, bs⟩] }
  | _ => s

/-- A write of a die that reaches memory. -/
def State.putAcc (s : State) (die : Nat) (a : Acc) (bs : List Byte) : State := (s.reach die a false).writeAcc a bs

/-- What the hardware itself reads in physical memory as a master (R483), within one granule: contexts, descriptors, save
areas. A denied read finds zeros (log 20). -/
def State.physNat (s : State) (master pa n : Nat) : Nat := leNat (s.readAcc (s.access? master pa { r := true }) n)
/-- That read reaches the channel (R488). -/
def State.physReach (s : State) (master pa : Nat) : State := s.reach master (s.access? master pa { r := true }) true
/-- What the hardware itself writes as a master, within one granule: queue and log entries, save areas; a denied write
changes nothing (R485). -/
def State.physWrite (s : State) (master pa : Nat) (bs : List Byte) : State := s.putAcc master (s.access? master pa { w := true }) bs

/-! ## Contexts, descriptors, translation (R387, R418 to R427) -/

/-- The context table entry of a context (R387). Entry 0 is the trusted firmware's, fixed at boot (R490). -/
def State.ctxEntry (s : State) (ctx : Nat) : Nat :=
  if ctx = 0 then s.boot.entry0.toNat else s.physNat 8 (s.base 0 + 64 * ctx) 64

/-- A read of a context entry reaches memory (R483, R488): at a post, an admission and a load of a team (log 12). -/
def State.ctxReach (s : State) (ctx : Nat) : State := if ctx = 0 then s else s.physReach 8 (s.base 0 + 64 * ctx)

/-- Whether a descriptor passes step 2 of R213 (R419). -/
def descValid (d : Nat) : Bool :=
  bit d 160 && bits d 511 200 = 0 && bits d 175 172 = 0 && bits d 167 161 = 0 && bits d 159 112 = 0
    && bits d 63 57 = 0 && bits d 7 0 = 0 && bits d 195 192 ≤ 8 && bits d 56 8 * 256 + bits d 111 64 ≤ 2 ^ 57

/-- The key of a descriptor that the ports of a die keep. -/
def descKey (die ctx i : Nat) : Nat := die * 2 ^ 20 + ctx * 4096 + i
/-- Descriptor i of a context for a die (8 the shepherd's): the one that its ports keep, or the one in the buffer table, which they
then keep; of a table that they may not read, nothing (R418, R427, R483; log 20). -/
def State.desc (s : State) (die ctx i : Nat) : State × Nat :=
  match s.descs.find? (fun d => d.1 = descKey die ctx i) with
  | some d => (s, d.2.toNat)
  | none =>
    let pa := bits (s.ctxEntry ctx) 175 140 * 2 ^ 16 + 64 * i
    let d := s.physNat (masterOf die) pa 64
    let there := match s.access? (masterOf die) pa { r := true } with | .denied => false | .bad => false | _ => true
    let s := s.physReach (masterOf die) pa
    (if there then { s with descs := (descKey die ctx i, BitVec.ofNat 512 d) :: s.descs } else s, d)

/-- The lowest virtual address bit that a level indexes (R422). -/
def levelShift (level : Nat) : Nat := if level = 3 then 43 else if level = 2 then 30 else if level = 1 then 21 else 16
def levelIndex (level va : Nat) : Nat :=
  if level = 3 then bits va 56 43 else if level = 2 then bits va 42 30 else if level = 1 then bits va 29 21 else bits va 20 16

/-- What a walk answers: its result, the table entries that it came by, the entries' places that it read. -/
structure Walked where
  res : WalkRes
  tabs : List TabEntry := []
  reads : List Acc := []
  deriving DecidableEq, Repr

/-- The radix walk from a table of level n - 1 (R422 to R424): each entry is one 8-byte read (R426). -/
def State.walkFrom (s : State) (master ctx va : Nat) : Nat → Nat → Walked
  | 0, _ => { res := .fail 2 }
  | level + 1, table =>
    let a := s.access? master (table + 8 * levelIndex level va) { r := true }
    match a with
    | .denied => { res := .fail 4 }
    | .bad => { res := .fail 4 }
    | _ =>
      if (match a with | .mem k => s.poisoned k | _ => false) then { res := .fail 4, reads := [a] }
      else
        let e := leNat (s.readAcc a 8)
        let ty := bits e 3 2
        let addr := bits e 51 8 * 256
        if ty = 0 then { res := .fail 1, reads := [a] }
        else if bits e 63 58 ≠ 0 ∨ bits e 54 52 ≠ 0 ∨ bits e 7 4 ≠ 0 ∨ ty = 3 ∨ bits e 1 0 = 3 then { res := .fail 2, reads := [a] }
        else if ty = 2 then
          if level = 3 ∨ addr % 2 ^ levelShift level ≠ 0 then { res := .fail 2, reads := [a] } else { res := .leaf level e, reads := [a] }
        else if level = 0 ∨ (2 ≤ level ∧ addr % 4096 ≠ 0) then { res := .fail 2, reads := [a] }
        else
          let r := s.walkFrom master ctx va level addr
          { r with tabs := ⟨ctx, level, va / 2 ^ levelShift level, addr⟩ :: r.tabs, reads := a :: r.reads }

/-- A walk from the root of a context's page table. -/
def State.walkRoot (s : State) (master ctx va : Nat) : Walked :=
  s.walkFrom master ctx va 4 (bits (s.ctxEntry ctx) 127 88 * 2 ^ 12)

/-- The table entry of the lowest level that a die keeps for an address. -/
def tabFind (l : List TabEntry) (ctx va : Nat) : Option TabEntry :=
  ([1, 2, 3] : List Nat).findSome? (fun lv => l.find? (fun e => e.ctx = ctx && e.level = lv && e.vbase = va / 2 ^ levelShift lv))

/-- A walk of a die, from the lowest table entry that it keeps (R425). -/
def State.walkDie (s : State) (die ctx va : Nat) : Walked :=
  match tabFind (tget [] s.dieTabs die) ctx va with
  | some t => s.walkFrom die ctx va t.level t.table
  | none => s.walkRoot die ctx va

/-- A walk's reads reach memory. -/
def Walked.reach (w : Walked) (die : Nat) (s : State) : State := w.reads.foldl (fun s a => s.reach die a true) s

def tlbFind (l : List TlbEntry) (ctx va : Nat) : Option TlbEntry :=
  l.find? (fun e => e.ctx = ctx && e.vbase = va / 2 ^ levelShift e.level)

/-- Keep a leaf in a die's TLB, the oldest leaving a full one (R425). -/
def State.dieAdd (s : State) (die : Nat) (e : TlbEntry) : State :=
  let d := tget [] s.dieTlb die
  if d.contains e then s else { s with dieTlb := tput [] s.dieTlb die ((e :: d).take 32768) }

/-- Keep a leaf in a core's TLB and its die's (R425). -/
def State.tlbAdd (s : State) (core : Nat) (e : TlbEntry) : State :=
  (s.modCore core (fun c => if c.tlb.contains e then c else { c with tlb := (e :: c.tlb).take 1024 })).dieAdd (dieOf core) e

/-- The TLB entry of a leaf that translates an address. -/
def leafEntry (ctx va lv p : Nat) : TlbEntry := ⟨ctx, lv, va / 2 ^ levelShift lv, BitVec.ofNat 64 p⟩

/-- What a walk leaves at a die: a leaf is kept with the table entries that led to it, a failure nothing (R425). -/
def State.keepWalk (s : State) (die ctx va : Nat) (r : WalkRes) (tabs : List TabEntry) : State :=
  match r with
  | .fail _ => s
  | .leaf lv p =>
    let s := s.dieAdd die (leafEntry ctx va lv p)
    let d := tget [] s.dieTabs die
    let new := tabs.filter (fun t => !d.contains t)
    if new.isEmpty then s else { s with dieTabs := tput [] s.dieTabs die (new ++ d) }

/-! ### Walks in flight (R426) -/

/-- The walk of a die that a miss of one of its cores joins. -/
def State.walkFor (s : State) (core ctx va : Nat) : Option PtWalk :=
  s.walks.find? (fun w => w.die = dieOf core && w.ctx = ctx && w.page = va / 65536)

/-- The walks of a die that a walker makes, and those that wait for one. -/
def State.walking (s : State) (die : Nat) : List PtWalk := s.walks.filter (fun w => w.die = die && w.res.isSome)
def State.unwalked (s : State) (die : Nat) : Option PtWalk := s.walks.find? (fun w => w.die = die && w.res.isNone)

/-- Walks that wait begin in order, while fewer than 64 are in flight (at most n). One that finds no leaf is over. -/
def State.startWalks (die : Nat) : Nat → State → State
  | 0, s => s
  | n + 1, s =>
    if 64 ≤ (s.walking die).length then s
    else match s.unwalked die with
      | none => s
      | some w =>
        let r := s.walkDie die w.ctx (65536 * w.page)
        let s := r.reach die s
        State.startWalks die n (match r.res with
          | .fail _ => { s with walks := s.walks.erase w }
          | .leaf lv p => { s with walks := s.walks.map (fun x => if x = w then { w with res := some (.leaf lv p), tabs := r.tabs } else x) })

/-- A walk ends: its leaf is kept, and one that waits begins. -/
def State.endWalk (s : State) (w : PtWalk) : State :=
  let s := { s with walks := s.walks.erase w }
  let s := match w.res with | some r => s.keepWalk w.die w.ctx (65536 * w.page) r w.tabs | none => s
  State.startWalks w.die s.walks.length s

/-- The oldest walks of a die end until a condition holds (at most n). -/
def State.walkUntil (die : Nat) (p : State → Bool) : Nat → State → State
  | 0, s => s
  | n + 1, s => if p s then s else match s.walking die with | w :: _ => State.walkUntil die p n (s.endWalk w) | [] => s

/-- A walk of an access's own, once fewer than 64 are in flight and none waits before it. -/
def State.ownWalk (s : State) (die ctx va : Nat) : State × WalkRes :=
  let s := State.walkUntil die (fun s => (s.walking die).length < 64 && (s.unwalked die).isNone) s.walks.length s
  let r := s.walkDie die ctx va
  ((r.reach die s).keepWalk die ctx va r.res r.tabs, r.res)

/-- A walk for a miss: the access joins the one for its page, which ends with its result once a walker has begun it, or has
its own. -/
def State.missWalk (s : State) (core ctx va : Nat) : State × WalkRes :=
  let die := dieOf core
  match s.walkFor core ctx va with
  | none => s.ownWalk die ctx va
  | some _ =>
    let s := State.walkUntil die (fun s => (s.walkFor core ctx va).all (fun w => w.res.isSome)) s.walks.length s
    match s.walkFor core ctx va with
    | some w => match w.res with | some r => (s.endWalk w, r) | none => s.ownWalk die ctx va
    | none => s.ownWalk die ctx va

/-- A leaf for an address: from the core's TLB, the die's, or a walk, and kept (R425, R426). -/
def State.leafOf (s : State) (core ctx va : Nat) : State × WalkRes :=
  match tlbFind (s.coreAt core).tlb ctx va with
  | some e => (s, .leaf e.level e.pte.toNat)
  | none =>
    match tlbFind (tget [] s.dieTlb (dieOf core)) ctx va with
    | some e => (s.tlbAdd core e, .leaf e.level e.pte.toNat)
    | none =>
      match s.missWalk core ctx va with
      | (s, .leaf lv p) => (s.tlbAdd core (leafEntry ctx va lv p), .leaf lv p)
      | (s, .fail n) => (s, .fail n)

/-- A translation: a physical address with its ordering kind, or the subcode of TRANSLATION. -/
inductive Trans where
  | ok (pa ordk : Nat)
  | fault (sub : Nat)
  deriving DecidableEq, Repr

def State.translate (s : State) (core ctx va : Nat) (need : Need) : State × Trans :=
  match s.leafOf core ctx va with
  | (s, .fail n) => (s, .fault n)
  | (s, .leaf lv p) =>
    if (need.r && !bit p 55) || (need.w && !bit p 56) || (need.x && !bit p 57) then (s, .fault 3)
    else
      let k := 2 ^ levelShift lv
      (s, .ok (bits p 51 8 * 256 / k * k + va % k) (bits p 1 0))

/-! ## The fault log (R452) -/

/-- The unit of a corrected or uncorrectable error as a number, CLASS above INDEX (R452). -/
def unitKey (u : HwUnit) : Nat := u.cls % 16 * 4096 + u.idx % 4096
/-- A counting window has passed (R449). -/
def State.windowOver (s : State) : Bool := s.cycle / 2 ^ 29 ≠ s.window
/-- Corrected errors of a unit in this window (R449). -/
def State.unitCount (s : State) (u : HwUnit) : Nat := if s.windowOver then 0 else tget 0 s.errors (unitKey u)

/-- Post an event with the corrected errors of its unit in this window, or count it dropped. -/
def State.logEvent (s : State) (gridid ctx code sub : Nat) (u : HwUnit) (event arg : Nat) : State :=
  if (s.logTail + 1) % 4096 = s.logHead then { s with logDrop := min (s.logDrop + 1) 65535 }
  else
    let e := s.cycle % 2 ^ 64 * 2 ^ 192 + gridid % 2 ^ 32 * 2 ^ 160 + ctx % 256 * 2 ^ 152 + code % 256 * 2 ^ 144
      + sub % 256 * 2 ^ 136 + unitKey u * 2 ^ 112 + min (s.unitCount u) 255 * 2 ^ 104
      + event % 256 * 2 ^ 96 + arg % 2 ^ 96
    let s := s.physWrite 8 (s.base 6 + 4096 + 32 * s.logTail) (leBytes 32 e)
    { s with logTail := (s.logTail + 1) % 4096 }

/-- The unit of the channel behind an access: the one that holds the byte, 0 where the set has lost it (R435). -/
def Acc.unit (a : Acc) : Nat := match a with | .mem k => unitKey { cls := 4, idx := keyCh k } | _ => unitKey { cls := 4 }

/-- A new window: every count starts again, and so do the units that have had an uncorrectable error (R444, R449). -/
def State.newWindow (s : State) : State := { s with errors := [], erred := [], window := s.cycle / 2 ^ 29 }
/-- An uncorrectable error at a unit, in the present window (R444). -/
def State.noteError (s : State) (unit : Nat) : State :=
  let s := if s.windowOver then s.newWindow else s
  { s with erred := if s.erred.contains unit then s.erred else s.erred ++ [unit] }

/-! ## Ending a grid (R439, R440) -/

/-- The first cause decides a grid's status; its teams stop (R440). -/
def State.endGrid (s : State) (g status : Nat) : State :=
  s.modGrid g (fun x => if x.phase = .ended ∨ x.phase = .ending then x else { x with phase := .ending, status := status })
/-- A deferred fault was detected for the grid (R216, R439). -/
def State.markDeferred (s : State) (g : Nat) : State := s.modGrid g (fun x => { x with deferred := true })

/-! ## Fault records (R434 to R438) -/

/-- What a trap says of itself. `pcAt` replaces the return point in the record (R130, R132). -/
structure Trap where
  code : Nat
  sub : Nat
  off : Nat := 0
  bt : Nat := 0
  va : Nat := 0
  opid : Dword := 0
  detail : Nat := 0
  pcAt : Option Nat := none
  grpAt : Option Nat := none
  laneAt : Option Nat := none
  cycleAt : Option Nat := none
  coreAt : Option Nat := none
  deriving DecidableEq, Repr

/-- A record of 64 bytes (R434). -/
def State.record (s : State) (core : Nat) (t : Team) (grp lane pc rep kind : Nat) (x : Trap) : Nat :=
  let core := x.coreAt.getD core
  x.detail % 2 ^ 64 * 2 ^ 448 + x.bt % 4096 * 2 ^ 384 + x.cycleAt.getD s.cycle % 2 ^ 64 * 2 ^ 320 + x.opid.toNat * 2 ^ 256
    + x.va % 2 ^ 57 * 2 ^ 192 + x.off % 2 ^ 64 * 2 ^ 128 + t.gridid % 2 ^ 32 * 2 ^ 96
    + x.pcAt.getD pc % 2 ^ 32 * 2 ^ 64 + 2 ^ 63 + kind * 2 ^ 61 + s.domain.module % 32 * 2 ^ 56 + t.ctx % 256 * 2 ^ 48
    + t.teamid % 256 * 2 ^ 40 + dieOf core % 8 * 2 ^ 37 + core % 24 * 2 ^ 32 + x.grpAt.getD grp % 16 * 2 ^ 28
    + x.laneAt.getD lane % 64 * 2 ^ 22 + rep % 64 * 2 ^ 16 + x.sub % 256 * 2 ^ 8 + x.code % 256

/-- Where an offset of bt4095 stands, if hardware can reach it (R421, R438). -/
def State.recordAt (s : State) (core ctx off : Nat) : State × Acc :=
  let (s, d) := s.desc (dieOf core) ctx 4095
  match s.translate core ctx (bits d 56 8 * 256 + off) {} with
  | (s, .fault _) => (s, .denied)
  | (s, .ok pa _) => (s, match s.access? (dieOf core) pa { w := true } with
      | .mem k => if s.poisoned k then .bad else .mem k
      | a => a)

def Acc.reaches (a : Acc) : Bool := match a with | .mem _ => true | .peer _ => true | .reg _ => true | _ => false

/-- Length of a context's fault-record buffer, 0 for a descriptor that is not valid (R436). -/
def State.recLength (s : State) (ctx : Nat) : State × Nat :=
  let (s, d) := s.desc (dieOf s.core) ctx 4095
  (s, if descValid d then bits d 111 64 else 0)

/-- Units join the list of retired units (R450, R492, R494). -/
def State.addRetired (s : State) (us : List HwUnit) : State :=
  { s with retiredUnits := s.retiredUnits ++ us.filter (fun u => !s.retiredUnits.contains u) }

/-- A fault of a code and detail counts at its unit when it is an uncorrectable error (R444). -/
def State.noteFault (s : State) (code detail : Nat) : State := if code = 0x30 then s.noteError detail else s

/-- The latest place at which a trap of this cycle was recorded, 32·core + group. -/
def State.trapPlace (s : State) : Nat := if s.recLast.1 = s.cycle then s.recLast.2 else 0
/-- A record goes to a terminal slot; those of one cycle come in ascending core number (R438). -/
def State.noteRecord (s : State) (core : Nat) : State :=
  { s with recLast := (s.cycle, max s.trapPlace (32 * core)), recLate := s.recLate || core < s.trapPlace / 32 }
/-- A frame opens; those of one cycle take their blocks in ascending core number, then group (R437). -/
def State.noteFrame (s : State) (core grp : Nat) : State :=
  { s with recLast := (s.cycle, max s.trapPlace (32 * core + grp)), recLate := s.recLate || 32 * core + grp < s.trapPlace }

/-- Write a deferred (1) or terminal (2) record into the next terminal slot, or count it lost, and log it (R438,
R452). -/
def State.terminal (s : State) (core : Nat) (t : Team) (grp lane pc rep kind : Nat) (x : Trap) : State :=
  let s := s.noteRecord core
  let r := s.record core t grp lane pc rep kind x
  let s := s.logEvent t.gridid t.ctx x.code x.sub {} 3 (r % 2 ^ 96)
  let (s, hd) := s.recordAt core t.ctx 0
  if !hd.reaches then s
  else
    let s := s.reach (dieOf core) hd true
    let h := leNat (s.readAcc hd 64)
    let n := h % 64
    let lost := fun (s : State) => s.putAcc (dieOf core) hd (leBytes 64 (h % 2 ^ 32 + (bits h 63 32 + 1) % 2 ^ 32 * 2 ^ 32))
    if 63 ≤ n then lost s
    else
      let (s, a) := s.recordAt core t.ctx (64 * (n + 1))
      if !a.reaches then lost s
      else (s.putAcc (dieOf core) a (leBytes 64 r)).putAcc (dieOf core) hd (leBytes 64 (h / 64 * 64 + n + 1))

/-! ## Taking a trap (R160, R164, R391) and leaving it (R163, R166) -/

/-- What an issue raises: the threads that take a trap together with it, and the traps of single lanes (R50). -/
structure Raised where
  tog : Option (Dword × Trap) := none
  own : List (Nat × Trap) := []
  deriving DecidableEq, Repr

def Raised.mask (r : Raised) : Dword := (match r.tog with | some t => t.1 | none => 0) ||| maskOf (r.own.map Prod.fst)
/-- The trap that a lane takes. -/
def Raised.of (r : Raised) (l : Nat) : Option Trap :=
  match r.own.find? (fun o => o.1 = l) with
  | some o => some o.2
  | none => r.tog.map Prod.snd

/-- The address of a save-area slot (R411). -/
def State.slotAddr (s : State) (k : Nat) : Nat := (s.sapoolBase + k) * 2 ^ 23
/-- Addresses of the slots that grids hold. -/
def State.heldSlots (s : State) : List Nat := s.grids.flatMap (fun g => g.2.slots.map s.slotAddr)
/-- Teams that are saved and wait for their restore. -/
def State.savedTeams (s : State) : List Team := (s.saved.filter (fun c => s.heldSlots.contains c.1)).filterMap Prod.snd

/-- Frame blocks held by the open frames of a team. -/
def Team.blocks (t : Team) (ctx : Nat) : List Nat :=
  if t.ctx = ctx then t.groups.filterMap (fun g => g.2.frame.map Frame.block) else []
/-- Frame blocks held by the open frames of a context, on any core or saved (R409, R437). -/
def State.blocksHeld (s : State) (ctx : Nat) : List Nat :=
  (s.cores.flatMap fun c => match c.2.team with | some t => t.blocks ctx | none => []) ++ s.savedTeams.flatMap (fun t => t.blocks ctx)

/-- The traps of an issue, one for each record: that of the trap taken together, then those of single lanes, ascending
(R160). -/
def Raised.records (r : Raised) : List (Nat × Trap) :=
  (match r.tog with | some (m, x) => [(lowLane m, x)] | none => []) ++ (List.range 64).flatMap (fun l => r.own.filter (fun p => p.1 = l))
/-- The traps that threads of a set take among them. -/
def Raised.within (r : Raised) (m : Dword) : Raised :=
  { tog := match r.tog with | some (t, x) => if t &&& m = 0 then none else some (t &&& m, x) | none => none
    own := r.own.filter (fun o => m.getLsbD o.1) }

/-- The records of some threads in terminal slots, and the grid FAULTED: a trap with no handler, or inside a frame
(R160, R164). -/
def State.trapEnds (s : State) (pc : Nat) (r : Raised) : State :=
  let t := s.team
  let g := s.group
  let recs := r.records
  let s := recs.foldl (fun s p => s.terminal s.core t s.grp p.1 pc (tget 0 g.repcnt p.1) 2 p.2) s
  s.endGrid t.grid 2

/-- The record of one slot of a frame block: slot LOW holds the record taken together (R160). -/
def State.frameRecords (s : State) (pc : Nat) (r : Raised) : List (Nat × Nat) :=
  let t := s.team
  let g := s.group
  r.records.map
    (fun p => (p.1, s.record s.core t s.grp p.1 pc (tget 0 g.repcnt p.1) 0 p.2))

/-- The places of a frame's records, none when one cannot be written (R438). -/
def State.framePlaces (s : State) (base : Nat) : List (Nat × Nat) → State × Option (List (Acc × Nat))
  | [] => (s, some [])
  | (l, r) :: rest =>
    match s.recordAt s.core s.team.ctx (base + 64 * l) with
    | (s, a) =>
      if !a.reaches then (s, none)
      else match s.framePlaces base rest with
        | (s, some ps) => (s, some ((a, r) :: ps))
        | (s, none) => (s, none)

/-- s1 with every result on its way to it: what a frame saves, as those issues came before its trap (R32, R160). -/
def Group.s1Now (g : Group) : Dword :=
  g.outstanding.foldl (fun v o => o.results.foldl (fun v x => match x with | .scalar 1 w => w | _ => v) v) (g.sreg 1)
/-- Scalar results on their way to s1 are dropped, and nothing waits for one: a frame that opens or closes sets s1 (R160,
R163, R167). -/
def Group.dropS1 (g : Group) : Group :=
  { g with outstanding := g.outstanding.map (fun o =>
      { o with dests := o.dests.filter (· ≠ .s 1), results := o.results.filter (fun x => match x with | .scalar 1 _ => false | _ => true) }) }
/-- A TQGET that was issued while the frame was open and still waits when it closes loses its write of s1 (R163). -/
def Group.loseTq (g : Group) : Group :=
  { g with waits := g.waits.map (fun w => match w.kind with | .tqget sd dl req 1 => { w with kind := .tqget sd dl req 2 } | _ => w) }

/-- Open a frame in block b for the threads of r, at return point pc (R160). -/
def Group.openFrame (g : Group) (core b pc handler : Nat) (r : Raised) : Group :=
  let t := r.mask
  let ls := lanesOf t
  let low := match r.tog with | some (m, _) => lowLane m | none => lowLane t
  let g1 := { g with
    frame := some { block := b, savedS1 := g.s1Now, tog := r.tog.isSome, low := low }
    trapmask := t
    retpc := tputs 0 g.retpc (ls.map (fun l => (l, pc)))
    retrep := tputs 0 g.retrep (ls.map (fun l => (l, tget 0 g.repcnt l)))
    windows := tputs [] g.windows (ls.map (fun l => (l, [])))
    trapinfo := tputs {} g.trapinfo (ls.map (fun l =>
      (l, match r.of l with | some x => { code := x.code, sub := x.sub, va := x.va, opid := x.opid, core := x.coreAt.getD core } | none => {}))) }
  (((g1.setS 1 (BitVec.ofNat 64 (4096 + 4096 * b))).setPcs ls handler).setReps ls 0).dropS1

/-- A service fault: the group ends, the fault waits to be posted behind those before it, and a team on the core that is
stopped stays so until the next service entry, even where an ERET for it was held (R391, R398). -/
def Core.serviceFault (f : SvcFault) (c : Core) : Core :=
  { c with svc := {}, svcRun := false, erets := false, svcFault := some (c.svcFault.getD f)
           svcLate := if c.svcFault.isSome then c.svcLate ++ [f] else c.svcLate }
/-- The fault of the service group that issues (R391). -/
def State.serviceFault (s : State) (pc : Nat) (x : Trap) : State := s.modCore s.core (Core.serviceFault ⟨x.code, x.sub, x.pcAt.getD pc⟩)

/-- The uncorrectable errors among the traps of an issue's own accesses count at their units (R444). -/
def State.noteTraps (s : State) (r : Raised) : State :=
  r.records.foldl (fun s p => if p.2.opid = 0 then s.noteFault p.2.code p.2.detail else s) s

/-- Take the traps that one issue raised at return point pc: the one description of trap entry (R160, R164, R391,
R437, R438). -/
def State.takeTraps (s : State) (pc : Nat) (r : Raised) : State :=
  let t := r.mask
  let s := if t = 0 then s else s.noteTraps r
  if t = 0 then s
  else if s.isSvc then
    match r.of (lowLane t) with
    | some x => s.serviceFault pc x
    | none => s
  else
    let g := s.group
    match g.frame with
    | some _ =>
      if t &&& g.trapmask = 0 then s.modGroup (Group.hold t .held)
      else s.trapEnds pc (r.within g.trapmask)
    | none =>
      let tm := s.team
      match s.recLength tm.ctx with
      | (s, len) =>
        if !tm.hEn ∨ len < 8192 then s.trapEnds pc r
        else
          let held := s.blocksHeld tm.ctx
          match (List.range (len / 4096 - 1)).find? (fun b => !held.contains b) with
          | none => s.modGroup (Group.hold t .held)
          | some b =>
            match s.framePlaces (4096 + 4096 * b) (s.frameRecords pc r) with
            | (s, none) => s.trapEnds pc r
            | (s, some ps) =>
              ((ps.foldl (fun s p => s.putAcc (dieOf s.core) p.1 (leBytes 64 p.2)) s).noteFrame s.core s.grp).modGroup
                (fun g => g.openFrame s.core b pc tm.hAddr r)

/-- Threads held at a trap, of every group of a context that has no open frame, become eligible: a block may be free; with a
frame of their group's open they stay held until it closes (R164, R437). -/
def State.releaseHeld (s : State) (ctx : Nat) : State :=
  { s with cores := s.cores.map (fun c => (c.1, { c.2 with team := c.2.team.map (fun t =>
      if t.ctx = ctx then { t with groups := t.groups.map (fun g => (g.1, if g.2.frame.isSome then g.2 else g.2.release (fun k => k = .held))) } else t) })) }

/-- Threads leave the open frame; the last one closes it (R163, R164). -/
def State.leaveFrame (s : State) (ls : Dword) : State :=
  let g := s.group
  let tm := g.trapmask &&& ~~~ls
  match g.frame with
  | none => s
  | some f =>
    if g.trapmask &&& ls = 0 then s
    else if tm ≠ 0 then s.modGroup (fun g => { g with trapmask := tm })
    else
      (s.modGroup (fun g => { (g.setS 1 f.savedS1).dropS1.loseTq with frame := none, trapmask := 0 })).releaseHeld s.team.ctx

/-- The return from a trap: threads go back to where they trapped, with their REPCNT, and leave the frame (R166). -/
def State.returnFrom (s : State) (ls : Dword) (pcOf repOf : Nat → Nat) : State :=
  let l := lanesOf ls
  (s.modGroup (fun g => { g with
    pc := tputs 0 g.pc (l.map (fun l => (l, pcOf l)))
    repcnt := tputs 0 g.repcnt (l.map (fun l => (l, repOf l))) })).leaveFrame ls

end Sys2Proof.Machine
end

