-- ==== Sys2Proof/Machine/Coherence.lean ====
section
/-! DEFINITION. Line states, the die directories and the fold directory (R453 to R464, R472, R473), gathering partials
(R220). The bytes of a line stand in memory alone: copies never differ from it but in a G line's partials. -/
namespace Sys2Proof.Machine
open Sys2Proof

/-! ## Element operations (R218) -/

def minmaxI (wantMax : Bool) (a b : Word) (sgn : Bool) : Word :=
  let less := if sgn then a.slt b else a.ult b
  if wantMax then (if less then b else a) else (if less then a else b)

/-- OP on one float element, without flags (R218). -/
def atomF (f : Fmt) (op m b : Nat) : Nat :=
  if op = 0 then (f.add 0 false m b).code else if op = 1 then (f.minmax false m b).code
  else if op = 2 then (f.minmax true m b).code else b

/-- REFS of a mass entry, and the entry with another REFS (R353). -/
def refsOf (v : Nat) : Nat := bits v 29 16
def setRefs (n v : Nat) : Nat := v - refsOf v * 65536 + n * 65536
def refsDown (v : Nat) : Nat := setRefs (refsOf v - 1) v
def refsUp (v : Nat) : Nat := setRefs (min (refsOf v + 1) 16383) v

/-- The atomic steps on a mass entry, numbered behind the element operations: REFS down and up by one (R355), MASS halved (R362). -/
def opRefsDown : Nat := 16
def opRefsUp : Nat := 17
def opHalve : Nat := 18

/-- OP(m, b) of R218 for TYPE 0 to 3 of R122; 8 is the saturating 16-bit addition of a mass contribution (R361), 16 to 18 are the
steps of R355 and R362. -/
def atomOp (op ty : Nat) (m b : Word) : Word :=
  if op = 6 then b
  else if op = opRefsDown then BitVec.ofNat 32 (refsDown m.toNat)
  else if op = opRefsUp then BitVec.ofNat 32 (refsUp m.toNat)
  else if op = opHalve then BitVec.ofNat 32 (m.toNat / 65536 * 65536 + m.toNat % 65536 / 2)
  else if op = 8 then BitVec.ofNat 32 (m.toNat / 65536 * 65536 + min (m.toNat % 65536 + b.toNat % 65536) 65535)
  else if ty ≤ 1 then
    if op = 0 then m + b else if op = 1 then minmaxI false m b (ty = 0) else if op = 2 then minmaxI true m b (ty = 0)
    else if op = 3 then m &&& b else if op = 4 then m ||| b else m ^^^ b
  else if ty = 2 then BitVec.ofNat 32 (atomF F32 op m.toNat b.toNat)
  else BitVec.ofNat 32 (atomF BF16 op (bits m.toNat 15 0) (bits b.toNat 15 0)
        + 2 ^ 16 * atomF BF16 op (bits m.toNat 31 16) (bits b.toNat 31 16))

/-! ## Homes (R454, R472) -/

/-- The slot of a line in the home table (R454). -/
def homeSlot (ln : Nat) : Nat := bits ln 11 0 ^^^ bits ln 23 12 ^^^ bits ln 35 24 ^^^ bits ln 44 36

/-- The domain fold number that HT gives a slot. -/
def Domain.slot (d : Domain) (i : Nat) : Nat :=
  match tget 0 d.ht i with
  | 0 => d.live.getD (i % d.live.length) 0
  | n + 1 => n

def Domain.liveNow (d : Domain) : List Nat := d.live.filter (fun f => !d.failed.contains f)
/-- The lowest slot that still names a fold die. -/
def Domain.slotOf (d : Domain) (f : Nat) : Option Nat := (List.range 4096).find? (fun i => d.slot i = f)
/-- The new home of the slot that the rehash moves now, from failed fold die f: LIVE′ is what lived as the rehash began (R472). -/
def Domain.newHome (d : Domain) (f : Nat) : Nat := d.rest.getD (d.rehash % d.rest.length) f

/-- The fold die that serves a line, and whether it does so in safe mode: a SAFE slot goes to the partner, and the sets
of the slot that the rehash moves go to their new home one after another (R472). -/
def Domain.home (d : Domain) (ln : Nat) : Nat × Bool :=
  let h := d.slot (homeSlot ln)
  if d.safeOf ≠ some h then (h, false)
  else if d.rebuilt ∧ ln % 64 < d.moved ∧ d.slotOf h = some (homeSlot ln) then (d.newHome h, false)
  else (h ^^^ 1, !d.rebuilt)

/-- The set of a line in a fold directory (R459). -/
def foldSet (ln : Nat) : Nat := homeSlot ln * 64 + bits ln 5 0
/-- The pointer of a die (R453): dies 0 to 7 are this module's; 8 + p stands for the die of pointer p elsewhere. -/
def State.diePtr (s : State) (die : Nat) : Nat := if die < 8 then 8 * s.domain.module + die else die - 8
/-- The die of a pointer. -/
def State.ptrDie (s : State) (p : Nat) : Nat := if p / 8 = s.domain.module then p % 8 else p + 8
/-- The dies of the domain: this module's, the other modules' (die d of module m is 8·(1 + m) + d). -/
def State.dies (s : State) : List Nat :=
  List.range 8 ++ ((s.domain.peers.flatMap (fun m => (List.range 8).map (fun d => 8 * (1 + m) + d)))
    ++ ((s.cores.map (fun (c : Nat × Core) => dieOf c.1)).filter (8 ≤ ·))).dedup
/-- Which directory of the state stands for fold die h: this module's 0 or 1, or 2, which holds what the directory homes
on other modules know of this module's dies (log 7). -/
def State.foldIx (s : State) (h : Nat) : Nat := if h / 2 = s.domain.module then h % 2 else 2
/-- The directory of a line. -/
def State.dirOf (s : State) (ln : Nat) : Nat := s.foldIx (s.domain.home ln).1

/-! ## Lines in near caches (R455) -/

def State.line (s : State) (core ln : Nat) : LineState := tget .i (s.coreAt core).lines ln
def State.setLine (s : State) (core ln : Nat) (x : LineState) : State :=
  s.modCore core (fun c => { c with lines := tput .i c.lines ln x })
/-- Change a line's state at every core of some dies. -/
def State.mapLine (s : State) (ln : Nat) (p : Nat → Bool) (f : LineState → LineState) : State :=
  { s with cores := s.cores.map (fun c => if p c.1 then (c.1, { c.2 with lines := tput .i c.2.lines ln (f (tget .i c.2.lines ln)) }) else c) }

/-! ## Late faults (R216, R441, R485) -/

/-- The grid and the TEAMID of the team on a core. -/
def State.ownerOf (s : State) (c : Nat) : Nat × Nat := let t := (s.coreAt c).team.getD {}; (t.grid, t.teamid)
/-- What a record names of a team, from its grid's launch record: the team may have left its core (R216, R434). -/
def State.ownerTeam (s : State) (o : Nat × Nat) : Team :=
  let r := (s.grid o.1).record
  { grid := o.1, ctx := recCtx r, gridid := recGridid r, teamid := o.2 }

/-- A late fault of a store: a deferred record naming the issuing thread, and its grid marked (R216); of the service
group's, a service fault (R391). -/
def State.deferredFault (s : State) (r : MemReq) (va code sub detail : Nat) : State :=
  let s := s.noteFault code detail
  if r.grp = 16 then s.modCore r.core (Core.serviceFault ⟨code, sub, r.pc⟩)
  else (s.terminal r.core (s.ownerTeam r.owner) r.grp r.lane r.pc r.rep 1
      { code := code, sub := sub, off := r.off, bt := r.bt, va := va, detail := detail }).markDeferred r.owner.1

/-- The code, subcode and detail of a write that finds a denial or bad data (R441, R485). -/
def State.lateFault (s : State) (a : Acc) : Option (Nat × Nat × Nat) :=
  match a with
  | .denied => some (9, 6, 0)
  | .bad => some (0x30, 5, a.unit)
  | .mem k => if s.poisoned k then some (0x30, 5, a.unit) else none
  | _ => none

/-- The target of a write that an earlier check has let through: what stands at the address now. -/
def State.homeOf (s : State) (pa : Nat) : Acc :=
  match s.locate pa with | .at k => .mem k | .peer p => .peer p | .lost => .bad | .none => .denied

/-- A reduction is combined with the value at its home (R220), in this module's memory or another's; bad data there is a late
fault of its thread (R441). What becomes of an element whose partial is mixed is a free value (log 51). -/
def State.combineAt (s : State) (r : MemReq) (pa va op ty : Nat) (v : Word) (mixed : Bool := false) : State :=
  let a := s.homeOf pa
  match s.lateFault a with
  | some (c, n, d) => s.deferredFault r va c n d
  | none => s.putAcc (dieOf r.core) a (leBytes 4 (if mixed then s.openWord (2 + pa)
      else atomOp op ty (BitVec.ofNat 32 (leNat (s.readAcc a 4))) v).toNat)

/-- A core's partial is combined. -/
def State.combinePartial (s : State) (core pa : Nat) (p : Partial) : State :=
  s.combineAt { id := 0, core := core, grp := p.grp, lane := p.lane, pc := p.pc, bt := p.bt, off := p.off, rep := p.rep, owner := p.owner
                kind := .combine pa p.va p.op p.ty p.val } pa p.va p.op p.ty p.val p.mixed

/-- The home combines one core's partials of a line at once; that core's later REDs start anew (R220). -/
def State.sendPartials (s : State) (core ln : Nat) : State :=
  (List.range 32).foldl (fun (s : State) (w : Nat) =>
    let pa := ln * 128 + 4 * w
    match tget none (s.coreAt core).partials (pa / 4) with
    | none => s
    | some p => (s.modCore core (fun c => { c with partials := tput none c.partials (pa / 4) none })).combinePartial core pa p) s

/-- The home combines every partial of a line's elements, cores ascending, and discards them: the gathering epoch
ends (R220). -/
def State.endEpoch (s : State) (ln : Nat) : State :=
  ((s.cores.map Prod.fst).foldl (fun s c => s.sendPartials c ln) s).mapLine ln (fun _ => true) (fun x => if x = LineState.g then .i else x)

/-! ## Entries (R459, R460) -/

def State.fold (s : State) (f : Nat) : Fold := tget {} s.folds f
def State.modFold (s : State) (f : Nat) (g : Fold → Fold) : State := { s with folds := tput {} s.folds f (g (s.fold f)) }
def Fold.entry (x : Fold) (ln : Nat) : Option DirEntry := x.entries.find? (fun e => e.line = ln)
def Fold.putEntry (x : Fold) (e : DirEntry) : Fold := { x with entries := e :: x.entries.filter (fun y => y.line ≠ e.line) }
def Fold.dropEntry (x : Fold) (ln : Nat) : Fold :=
  { x with entries := x.entries.filter (fun y => y.line ≠ ln), store := x.store.filter (· ≠ ln) }
/-- INSTORE of a line's entry (R459). -/
def Fold.inStore (x : Fold) (ln : Nat) : Bool := x.store.contains ln
/-- The store takes or serves a copy, the most recent first; full, it drops the least recently served copy that is not
under recall (R462). -/
def Fold.keep (x : Fold) (ln : Nat) : Fold :=
  let l := ln :: x.store.filter (· ≠ ln)
  let loose := fun (y : Nat) => !x.entries.any (fun e => e.line = y && e.fst = 5)
  { x with store := if l.length ≤ 786432 then l else (l.reverse.eraseP loose).reverse }

/-- Add a sharing die: the fifth makes the entry coarse, all 32 modules make it name every die (R460). -/
def DirEntry.addSharer (e : DirEntry) (ptr : Nat) : DirEntry :=
  if e.fmt = 2 then e
  else if e.fmt = 1 then
    let m := e.mods ||| 2 ^ (ptr / 8)
    if m = 2 ^ 32 - 1 then { e with fmt := 2 } else { e with mods := m }
  else if e.ptrs.contains ptr then e
  else if e.ptrs.length < 4 then { e with ptrs := e.ptrs ++ [ptr] }
  else
    let m := (ptr :: e.ptrs).foldl (fun m p => m ||| 2 ^ (p / 8)) 0
    { e with fmt := 1, mods := m, ptrs := [] }

/-- Only this die is left; the format stays (R460). -/
def DirEntry.onlySharer (e : DirEntry) (ptr : Nat) : DirEntry :=
  if e.fmt = 0 then { e with ptrs := [ptr] } else { e with mods := 2 ^ (ptr / 8) }

/-- The dies that an invalidation of the entry names (R460). -/
def State.namedDies (s : State) (e : DirEntry) : List Nat :=
  s.dies.filter (fun d =>
    if e.fmt = 0 then e.ptrs.contains (s.diePtr d) else if e.fmt = 1 then e.mods.testBit (s.diePtr d / 8) else true)

/-- Whether some core of a die holds a line in one of some states. -/
def State.dieHolds (s : State) (die ln : Nat) (p : LineState → Bool) : Bool :=
  s.cores.any (fun c => dieOf c.1 = die && p (tget .i c.2.lines ln))

/-! ## Requests at the directory home (R461 to R463) -/

/-- Send an invalidation to each of some dies and wait for them (R460, R470). -/
def State.sendInv (s : State) (dies : List Nat) (ln core kind : Nat) (want : Nat := 0) (safe : Bool := false) : State :=
  let ms := dies.mapIdx (fun i d => ({ id := s.reqId + i, dst := s.diePtr d, line := ln, sent := s.cycle } : Msg))
  let s := { s with reqId := s.reqId + dies.length
                    dirWaits := s.dirWaits ++ [{ line := ln, core := core, kind := kind, msgs := ms.map Msg.id, want := want, safe := safe }] }
  ms.foldl State.post s

/-! ## Copies that are written back or leave (R220, R458, R461) -/

/-- An access of a die to the memory home of a line (R14, R488). -/
def State.lineAccess (s : State) (die ln : Nat) (rd : Bool) : State := s.reach die (s.homeOf (ln * 128)) rd

/-- A line in M or O, which is written back when it leaves. -/
def isDirty (l : LineState) : Bool := l = .m || l = .o

/-- A die's M or O copies of a line are written back to the memory home, where they leave or are shared (R456, R461). -/
def State.backFrom (s : State) (die ln : Nat) : State := if s.dieHolds die ln isDirty then s.lineAccess die ln false else s

/-- The die that holds a line in X at the fold level; none for 0 (R458). -/
def State.setX (s : State) (ln d : Nat) : State := { s with xdies := tput 0 s.xdies ln d }
/-- A die holds a line in X no longer. -/
def State.dropX (s : State) (die ln : Nat) : State := if tget 0 s.xdies ln = die + 1 then s.setX ln 0 else s

/-- Whether a grant on a line waits for acknowledgements: until then nothing is resolved without the home (R461). -/
def State.pendingAt (s : State) (ln : Nat) : Bool := s.dirWaits.any (fun w => w.line = ln)

/-- The memory home takes a core's M or O copy: the copy stays shared, and the entry falls from 2 or 3 to 1. The entry of a grant that
waits stands for its requester, not for the old holder (R461). -/
def State.writeBack (s : State) (core ln : Nat) : State :=
  if isDirty (s.line core ln) then
    let f := s.dirOf ln
    let s := ((s.setLine core ln .s).setX ln 0).lineAccess (dieOf core) ln false
    match (s.fold f).entry ln with
    | some e => if (e.fst = 2 ∨ e.fst = 3) ∧ !s.pendingAt ln then s.modFold f (fun x => x.putEntry { e with fst := 1 }) else s
    | none => s
  else s

/-- A die that holds a line no longer leaves its entry, whose owner is gone if it was this die; the last sharer frees it. The entry of
a grant that waits stands for its requester alone (R461). What a home on another module knows is this module's dies alone (log 7). -/
def State.leaveDie (s : State) (die ln : Nat) : State :=
  if s.dieHolds die ln (fun l => l ≠ .i) then s
  else
    let s := s.dropX die ln
    let f := s.dirOf ln
    match (s.fold f).entry ln with
    | none => s
    | some e =>
      if s.pendingAt ln ∨ e.fst = 5 then s
      else if s.cores.all (fun c => tget .i c.2.lines ln = .i) then s.modFold f (fun x => x.dropEntry ln)
      else
        let fst := if e.own = s.diePtr die ∧ (e.fst = 2 ∨ e.fst = 3) then 1 else e.fst
        s.modFold f (fun x => x.putEntry { e with ptrs := e.ptrs.filter (· ≠ s.diePtr die), fst := fst })

/-- A near cache gives a line up: written back, its partials sent, its entry lowered (R456, R458). -/
def State.giveUp (s : State) (core ln : Nat) : State :=
  let s := (s.writeBack core ln).sendPartials core ln
  (s.setLine core ln .i).leaveDie (dieOf core) ln

/-- Ways of a near cache's set: 256 KiB in 8 ways of 128-byte lines (R12). -/
def nearSet (ln : Nat) : Nat := ln % 256

/-- The lines of a core's near cache in the set of a line. -/
def State.nearWays (s : State) (core ln : Nat) : List Nat :=
  (((s.coreAt core).lines.filter (fun l => nearSet l.1 = nearSet ln)).map Prod.fst)
/-- A way of that set is free: a line enters without another's leaving. -/
def State.roomFor (s : State) (core ln : Nat) : Bool := (s.nearWays core ln).length < 8

/-- Room for a line in a core's near cache: of a full set, one of the lines leaves, a free choice (R12; log 36). -/
def State.makeRoom (s : State) (core ln : Nat) : State :=
  if s.line core ln ≠ .i ∨ s.roomFor core ln then s
  else let ways := s.nearWays core ln; s.giveUp core (ways.getD (s.choice 7 % ways.length) ln)

/-- The state in which a core's die then holds the line at the fold level: X with E or M, still X where its own X is shared on it. -/
def State.takeX (s : State) (core ln : Nat) (x : LineState) : State :=
  if x = .m ∨ x = .e then s.setX ln (dieOf core + 1)
  else if x = .s ∧ tget 0 s.xdies ln = dieOf core + 1 then s
  else s.setX ln 0

/-- A core takes a line in a state; a core of another module is answered over the link, with data but for G (R468). -/
def State.take (s : State) (core ln : Nat) (x : LineState) : State :=
  let s := s.takeX core ln x
  if core < numCores then (s.makeRoom core ln).setLine core ln x
  else (s.setLine core ln x).postAbroad 2 (if x = .g then 1 else 3) (s.diePtr (dieOf core)) ln

/-- The grant that ends a wait: M for a write, G for a RED (R461). No other core of the die keeps a copy, but one in G beside G. -/
def State.grantNow (s : State) (core kind ln : Nat) : State :=
  let mates := fun (s : State) => s.mapLine ln (fun c => c ≠ core && dieOf c = dieOf core) (fun l => if kind = 1 ∧ l = .g then .g else .i)
  if kind = 0 then (mates s).take core ln .m else if kind = 1 then (mates s).take core ln .g else s

/-- Preference of a victim: FMT 2 before 1 before 0, S before O before X before G (R463). -/
def DirEntry.rank (e : DirEntry) : Nat := (2 - e.fmt) * 4 + (e.fst - 1)

def pickMin (f : DirEntry → Nat) : List DirEntry → Option DirEntry
  | [] => none
  | e :: r => match pickMin f r with
    | none => some e
    | some x => if f x < f e then some x else some e

/-- The victim of a recall: the least recently used way whose FST is not 5, ties by `rank` (R463); a way whose line has a grant to
wait for is in use. -/
def Fold.victim (x : Fold) (set : Nat) (waits : Nat → Bool) : Option DirEntry :=
  pickMin (fun e => e.used * 16 + e.rank) (x.entries.filter (fun e => foldSet e.line = set && e.fst ≠ 5 && !waits e.line))

/-- Start a recall for a request of a core for the line `want`: FST 5, invalidations, owners write back, partials
combined (R463). -/
def State.recall (s : State) (f : Nat) (e : DirEntry) (core want : Nat) : State :=
  let s := if e.fst = 4 then s.endEpoch e.line else s
  (s.modFold f (fun x => x.putEntry { e with fst := 5 })).sendInv (s.namedDies e) e.line core 2 want

/-- Ways of a set that a request may not take: valid entries and reservations for other requests (R463). -/
def Fold.taken (x : Fold) (set core ln now : Nat) : Nat :=
  (x.entries.filter (fun e => foldSet e.line = set)).length
    + (x.reserves.filter (fun r => r.set = set && now < r.til && !(r.core = core && r.line = ln))).length

/-- Refuse a request: it is sent again after a backoff (R464; the model's choice for a line whose grant still waits, log 55). -/
def State.refuse (s : State) (core ln kind : Nat) : State :=
  match s.retries.find? (fun r => r.core = core && r.line = ln && r.kind = kind) with
  | some r => { s with retries := (s.retries.filter (fun y => y ≠ r)) ++
      [{ r with refusals := r.refusals + 1, due := s.cycle + 32 * 2 ^ min (r.refusals + 1) 6 }] }
  | none => { s with retries := s.retries ++ [⟨core, ln, kind, 0, s.cycle + 32⟩] }

/-- The home forwards a request to the owner, or probes a die: a message on the forwarding channel to a die of another module
(R461, R468, R473). -/
def State.forward (s : State) (ptr ln : Nat) : State := s.postAbroad 1 1 ptr ln

/-- Grant a read on an entry (R461). A home on another module that knows of no holder here may know of one elsewhere:
the requester takes E or S, a free choice (log 7). In safe mode the line comes from memory only when no die holds it (R473). -/
def State.serveRead (s : State) (f core ln : Nat) (e : DirEntry) (safe : Bool) : State :=
  let ptr := s.diePtr (dieOf core)
  let s := if e.fst = 4 then s.endEpoch ln else s
  let st := if e.fst = 4 then 0 else e.fst
  if st = 0 then
    let shared := f = 2 && s.choice 8 % 2 = 1
    ((s.lineAccess (dieOf core) ln true).modFold f (fun x =>
      x.putEntry ({ e with fst := if shared then 1 else 3, own := ptr }.onlySharer ptr))).take core ln (if shared then .s else .e)
  else if st = 3 then
    let dirty := s.cores.any (fun c => isDirty (tget .i c.2.lines ln))
    let s := ((s.forward e.own ln).mapLine ln (fun _ => true) (fun x => if x = .m then .o else if x = .e then .s else x)).setX ln 0
    (s.modFold f (fun x => (x.putEntry ({ e with fst := if dirty then 2 else 1 }.addSharer ptr)).keep ln)).take core ln .s
  else
    let stored := (s.fold f).inStore ln
    let s := if stored ∨ safe && st = 1 then s else if st = 1 then s.lineAccess (dieOf core) ln true else s.forward e.own ln
    (s.modFold f (fun x => let x := x.putEntry (e.addSharer ptr); if stored then x.keep ln else x)).take core ln .s

/-- Grant a write (kind 0) or a RED (1) on an entry, after invalidations to the dies asked that are not the requester's
(R461). A RED joins the holders of G at once, but in safe mode, where every die is asked (R473). -/
def State.serveOwn (s : State) (f core ln kind : Nat) (e : DirEntry) (asked : List Nat) (safe : Bool) : State :=
  let ptr := s.diePtr (dieOf core)
  let joins := kind = 1 && !safe && (e.fst = 0 || e.fst = 4)
  let s := if e.fst = 4 && !joins then s.endEpoch ln else s
  let s := if kind = 0 && (e.fst = 0 || e.fst = 4) then s.lineAccess (dieOf core) ln true else s
  let gives := if joins then [] else asked.filter (fun d => d ≠ dieOf core)
  let s := if kind = 1 && !joins then s.backFrom (dieOf core) ln else s
  let s := if joins then s else s.mapLine ln (fun c => (kind = 1 || c ≠ core) && dieOf c = dieOf core) (fun _ => .i)
  let e := if joins && e.fst = 4 then e.addSharer ptr else e.onlySharer ptr
  let s := s.modFold f (fun x => { x.putEntry { e with fst := if kind = 0 then 3 else 4, own := ptr } with store := x.store.filter (· ≠ ln) })
  if gives.isEmpty then s.grantNow core kind ln else s.sendInv gives ln core kind 0 safe

/-- Grant a request on an entry (R461). `kind` 0 write, 1 RED, 3 read; `safe` in safe mode (R473). -/
def State.serve (s : State) (f core ln kind : Nat) (e : DirEntry) (asked : List Nat) (safe : Bool) : State :=
  let e := { e with used := s.cycle }
  if kind = 3 then s.serveRead f core ln e safe else s.serveOwn f core ln kind e asked safe

/-- The exact entry for a line that the die directories report: X where one die holds it so (R458, R472, R473). An entry that lives
keeps its format and its last use (R460, R463). -/
def State.exactEntry (s : State) (ln : Nat) : DirEntry :=
  let has := fun (st : LineState) => s.cores.any (fun c => tget .i c.2.lines ln = st)
  let x := tget 0 s.xdies ln
  let own := ((s.cores.find? (fun c => let l := tget .i c.2.lines ln; l = .m || l = .o || l = .e)).map (fun c => s.diePtr (dieOf c.1))).getD 0
  let fst := if has .m || has .e then 3 else if has .o then 2 else if has .s then 1 else if has .g then 4 else 0
  let isX := 0 < x && s.dieHolds (x - 1) ln (fun l => l ≠ .i)
  let old := (s.fold (s.dirOf ln)).entry ln
  (s.dies.filter (fun d => s.dieHolds d ln (fun l => l ≠ .i))).foldl (fun e d => e.addSharer (s.diePtr d))
    { line := ln, fmt := old.elim 0 DirEntry.fmt, used := old.elim s.cycle DirEntry.used, own := if isX then s.diePtr (x - 1) else own, fst := if isX then 3 else fst }

/-- Whether the fold die that a line goes to answers: not one that has failed, before its slots are SAFE or moved (R472). -/
def State.homeLive (s : State) (ln : Nat) : Bool := !s.domain.failed.contains (s.domain.home ln).1

/-- A request in safe mode, before the rebuild (R473): a read probes every die and ends an epoch; a write or RED waits for
every die. The partner keeps no entry. -/
def State.serveSafe (s : State) (f core ln kind : Nat) : State :=
  let s := if kind = 3 then s.dies.foldl (fun s d => s.forward (s.diePtr d) ln) s else s
  let s := s.endEpoch ln
  (s.serve f core ln kind (s.exactEntry ln) s.dies true).modFold f (fun x => x.dropEntry ln)

/-- The directory home of a line takes a request now: no earlier grant of the line waits (DESIGN CHOICE, log 55), its set does not
move, the fold die answers, and the request can start on its way there (R464, R469, R472; log 82). -/
def State.accepts (s : State) (ln : Nat) : Bool :=
  !s.pendingAt ln && s.domain.frozen ≠ some (foldSet ln) && s.homeLive ln && s.canTell 0 (8 * ((s.domain.home ln).1 / 2))

/-- The request goes over the link to a home on another module (R468); while its channel is stopped there it is not started (R469). -/
def State.askHome (s : State) (ln : Nat) : State :=
  let home := 8 * ((s.domain.home ln).1 / 2)
  if s.canTell 0 home then s.postAbroad 0 1 home ln else s

/-- A request at the line's directory home: refused, served, or a recall for want of a way (R461, R463, R464). -/
def State.dirRequest (s : State) (core ln kind : Nat) : State :=
  let safe := (s.domain.home ln).2
  let f := s.dirOf ln
  let x := s.fold f
  let s := s.askHome ln
  if !s.accepts ln then s.refuse core ln kind
  else
    let drop := fun (s : State) => { s with retries := s.retries.filter (fun r => !(r.core = core && r.line = ln && r.kind = kind)) }
    if safe then (drop s).serveSafe f core ln kind
    else match x.entry ln with
    | some e => if e.fst = 5 then s.refuse core ln kind else (drop s).serve f core ln kind e (s.namedDies e) false
    | none =>
      if f ≠ 2 ∧ 16 ≤ x.taken (foldSet ln) core ln s.cycle then
        match x.victim (foldSet ln) s.pendingAt with
        | some v => (s.recall f v core ln).refuse core ln kind
        | none => s.refuse core ln kind
      else
        let s := (drop s).modFold f (fun x => { x with reserves := x.reserves.filter (fun r => !(r.core = core && r.line = ln)) })
        s.serve f core ln kind { line := ln } [] false

/-- A die directory takes an invalidation: every core of the die gives the line up (R460). For a write the owner's data goes to
the writer; otherwise an M or O copy is written back (R461, R463). -/
def State.invalidateDie (s : State) (die ln : Nat) : State :=
  let s := if s.dieHolds die ln (fun l => l = .g) then s.endEpoch ln else s
  let s := match s.dirWaits.find? (fun w => w.line = ln && w.kind = 0) with
    | some w => if s.dieHolds die ln isDirty then s.postAbroad 2 3 (s.diePtr (dieOf w.core)) ln else s
    | none => s.backFrom die ln
  (s.mapLine ln (fun c => dieOf c = die) (fun _ => .i)).dropX die ln

/-- A line is cached nowhere: its partials combined, M and O copies written back, its entry freed. Dies of another module are told, and
a home on another module has the acknowledgement of this module's (R457, R460, R468, R470). -/
def State.clearLine (s : State) (ln : Nat) : State :=
  let home := 8 * ((s.domain.home ln).1 / 2)
  let ds := s.dies.filter (fun d => s.dieHolds d ln (fun l => l ≠ .i))
  let s := ds.foldl (fun s d => if s.dirOf ln ≠ 2 then s.postAbroad 1 1 (s.diePtr d) ln else if d < 8 then s.postAbroad 2 1 home ln else s) s
  let s := ds.foldl (fun s d => s.backFrom d ln) (s.endEpoch ln)
  ((s.mapLine ln (fun _ => true) (fun _ => .i)).setX ln 0).modFold (s.dirOf ln) (fun x => x.dropEntry ln)

/-- An entry comes to stand at a directory by the home table. Where all ways of its set are valid, the victim of R463 is recalled for
its way; where none can be, the line itself is (R459, R463; log 32). -/
def State.enterAt (s : State) (f : Nat) (e : DirEntry) (stored : Bool) : State :=
  let x := s.fold f
  let put := fun (s : State) => s.modFold f (fun x => let x := x.putEntry e; if stored then x.keep e.line else x)
  if f ≠ 2 ∧ (x.entry e.line).isNone ∧ 16 ≤ (x.entries.filter (fun y => foldSet y.line = foldSet e.line)).length then
    match x.victim (foldSet e.line) s.pendingAt with
    | some v => (put s).recall f v 0 e.line
    | none => (put s).recall f e 0 e.line
  else put s

/-- The exact entry of a line that near caches hold stands at its home (R472); one that is being recalled stays so (R463). -/
def State.reenter (s : State) (ln : Nat) : State :=
  let e := s.exactEntry ln
  if e.fst = 0 ∨ ((s.fold (s.dirOf ln)).entry ln).any (fun y => y.fst = 5) then s else s.enterAt (s.dirOf ln) e false

/-- The home of a line keeps entries: it lives, and is not in safe mode (R472, R473). -/
def State.keepsEntry (s : State) (ln : Nat) : Bool := !(s.domain.home ln).2 && s.homeLive ln

/-- The home has an entry of a line that near caches hold, should it have lost it (R459, R472). -/
def State.entryFor (s : State) (ln : Nat) : State :=
  if !s.keepsEntry ln ∨ ((s.fold (s.dirOf ln)).entry ln).isSome then s else s.reenter ln

/-- The home's entry of a line is what the die directories now report, whatever it was. -/
def State.regain (s : State) (ln : Nat) : State :=
  if !s.keepsEntry ln then s
  else if (s.exactEntry ln).fst = 0 then s.modFold (s.dirOf ln) (fun x => x.dropEntry ln)
  else s.reenter ln

/-- The acknowledgement of a message: released, and the last one that a home waits for grants M or G (R461, R470); a rebuild may have
formed the entry of a line before what safe mode then granted (R473). -/
def State.acknowledge (s : State) (id : Nat) : State :=
  let s := s.forget [id]
  let ws := s.dirWaits.map (fun w => { w with msgs := w.msgs.filter (· ≠ id) })
  let done := ws.filter (fun w => w.msgs.isEmpty && w.kind ≠ 2)
  let s := { s with dirWaits := ws.filter (fun w => !w.msgs.isEmpty || w.kind = 2) }
  done.foldl (fun s w => let s := s.grantNow w.core w.kind w.line; if w.safe then s.regain w.line else s.entryFor w.line) s

/-- Every invalidation of a line's waits that is on its way is taken and acknowledged (R469, R470). -/
def State.settle (s : State) (ln : Nat) : State :=
  let waits := (s.dirWaits.filter (fun w => w.line = ln)).flatMap DirWait.msgs
  let ids := (s.msgs.filter (fun m => waits.contains m.id && s.sent m)).map (fun m => (m.id, m.dst))
  ids.foldl (fun s m => (s.invalidateDie (s.ptrDie m.2) ln).acknowledge m.1) s

/-- A recall is complete: the entry is freed and its way reserved for the request that caused it (R463), unless the line it was for
has its entry already. -/
def State.recallDone (s : State) (f ln : Nat) : State :=
  match (s.fold f).entry ln with
  | some e =>
    if e.fst = 5 ∧ s.dirWaits.any (fun w => w.line = ln ∧ w.kind = 2 ∧ w.msgs.isEmpty) then
      let (core, want) := ((s.dirWaits.find? (fun w => w.line = ln ∧ w.kind = 2)).map (fun w => (w.core, w.want))).getD (0, 0)
      let keep := if ((s.fold f).entry want).isSome then [] else [⟨foldSet ln, core, want, s.cycle + 4096⟩]
      { (s.modFold f (fun x => { x.dropEntry ln with reserves := x.reserves ++ keep }))
        with dirWaits := s.dirWaits.filter (fun w => !(w.line = ln ∧ w.kind = 2)) }
    else s
  | none => s

/-- Complete every recall in a line's set. -/
def State.settleSet (s : State) (f ln : Nat) : State :=
  let ls := ((s.fold f).entries.filter (fun e => e.fst = 5 && foldSet e.line = foldSet ln)).map DirEntry.line
  ls.foldl (fun s l => (s.settle l).recallDone f l) s

/-- Whether a core may load, store (0) or gather (1) in a line's present state (R455). -/
def permits (l : LineState) (kind : Nat) : Bool :=
  if kind = 3 then l = .m || l = .o || l = .e || l = .s else if kind = 0 then l = .m || l = .e else l = .g

/-- A die holds a line at the fold level in state X (R458). -/
def State.dieX (s : State) (die ln : Nat) : Bool := s.dieHolds die ln (fun l => permits l 3) && tget 0 s.xdies ln = die + 1

/-- Resolve a request on the die, which holds what it needs until it takes an invalidation (R458, R460); none when it must go to the
directory home. -/
def State.onDie (s : State) (core ln kind : Nat) : Option State :=
  if kind = 3 ∧ s.dieHolds (dieOf core) ln (fun l => permits l 3) then
    some ((s.mapLine ln (fun c => dieOf c = dieOf core) (fun l => if l = .m then .o else if l = .e then .s else l)).take core ln .s)
  else if kind = 0 ∧ s.dieX (dieOf core) ln then
    some ((s.mapLine ln (fun c => dieOf c = dieOf core) (fun _ => .i)).take core ln .m)
  else none

/-! ## Uncached (R457), and entries that move (R472) -/

/-- The dies of other modules that hold a line can be told now, by its home here or through its home elsewhere (R469). -/
def State.canClear (s : State) (ln : Nat) : Bool :=
  if s.dirOf ln = 2 then s.canTell 0 (8 * ((s.domain.home ln).1 / 2))
  else s.dies.all (fun d => !s.dieHolds d ln (fun l => l ≠ .i) || s.canTell 1 (s.diePtr d))

/-- A line's grants and recall are completed, and it is cached nowhere (R457), once every invalidation can start on its way (R469). -/
def State.dropLine (s : State) (ln : Nat) : State :=
  let s := s.settle ln
  if s.dirWaits.any (fun w => w.line = ln && !w.msgs.isEmpty) || !s.canClear ln then s
  else
    let s := s.clearLine ln
    { s with dirWaits := s.dirWaits.filter (fun w => w.line ≠ ln) }

/-- A line is cached nowhere, and its home answers (R457, R464). -/
def State.uncached (s : State) (ln : Nat) : Bool :=
  s.homeLive ln && !s.pendingAt ln && s.cores.all (fun c => tget .i c.2.lines ln = .i)

/-- Lines that near caches hold. -/
def State.heldLines (s : State) : List Nat := (s.cores.flatMap (fun c => c.2.lines.map Prod.fst)).dedup

/-- The home table has changed as a whole (R467): every line that near caches hold has its entry at its home. -/
def State.rehome (s : State) : State :=
  s.heldLines.foldl State.reenter { s with folds := s.folds.map (fun (f : Nat × Fold) => (f.1, { f.2 with entries := [], store := [], reserves := [] })) }

/-- Whether a die may come to hold a line in a state beside those that hold it already (R455). -/
def State.mayHold (s : State) (ln : Nat) (x : LineState) : Bool :=
  s.cores.all (fun c => match tget .i c.2.lines ln, x with
    | .i, _ => true
    | .g, .g => true
    | .s, .s => true
    | .o, .s => true
    | .s, .o => true
    | _, _ => false)

/-- A line state by its number in `Config.peerHolds`. -/
def stateOf (n : Nat) : LineState := if n = 1 then .s else if n = 2 then .o else if n = 3 then .e else if n = 4 then .g else if n = 5 then .m else .i

/-- Dies of other modules report what they hold of lines in some sets that come to a home here from one elsewhere: free, but that it agrees
with what is held (R455, R472; log 7). -/
def State.peersReport (s : State) (p : Nat → Bool) : State :=
  (Config.peerHolds s.tick).foldl (fun s (h : Nat × Nat × Nat) =>
    let x := stateOf h.2.2
    let its := numCores ≤ h.2.1 && s.domain.peers.contains (h.2.1 / numCores - 1)
    if p (foldSet h.1) && its && s.dirOf h.1 ≠ 2 && s.keepsEntry h.1 && !s.pendingAt h.1 && s.mayHold h.1 x then
      ((s.setLine h.2.1 h.1 x).takeX h.2.1 h.1 x).regain h.1
    else s) s

/-- Entries of some sets leave a directory for where the home table now sends their lines, with what the store holds of them and the ways
that are kept; every line that near caches hold then has its entry there (R459, R463, R472). An entry that comes from a home elsewhere
may name more dies (log 7). -/
def State.moveEntries (s : State) (old : Nat) (p : Nat → Bool) : State :=
  let x := s.fold old
  let s := s.modFold old (fun x => { x with entries := x.entries.filter (fun e => !p (foldSet e.line))
                                            store := x.store.filter (fun l => !p (foldSet l)), reserves := x.reserves.filter (fun r => !p r.set) })
  let s := (x.entries.filter (fun e => p (foldSet e.line))).foldl (fun s e =>
    let e := if old = 2 ∧ s.dirOf e.line ≠ 2 ∧ s.choice 12 % 2 = 1 then { e with fmt := 2 } else e
    if s.keepsEntry e.line then s.enterAt (s.dirOf e.line) e (x.store.contains e.line) else s) s
  let s := if old = 2 then s.peersReport p else s
  let s := (s.heldLines.filter (fun ln => p (foldSet ln))).foldl State.entryFor s
  (x.reserves.filter (fun r => p r.set && s.keepsEntry r.line)).foldl (fun s r =>
    s.modFold (s.dirOf r.line) (fun x => { x with reserves := x.reserves ++ [r] })) s

/-- The frozen set of the rehash stands at its new home: its entries leave the partner (R464, R472). -/
def State.thaw (s : State) : State :=
  match s.domain.safeOf, s.domain.frozen with
  | some f, some set =>
    ({ s with domain := { s.domain with moved := s.domain.moved + 1, frozen := none } } : State).moveEntries (s.foldIx (f ^^^ 1)) (fun k => k = set)
  | _, _ => s

/-! ## Steps of a failure (R472) -/

/-- A step of a failure in the log: EVENT 8 with its number. -/
def State.foldStep (s : State) (f n : Nat) : State := s.logEvent 0 0 0 n { cls := 6, idx := f } 8 0

/-- Failed fold dies that slots still name, the lowest first. -/
def Domain.nextFailed (d : Domain) : Option Nat :=
  (List.range 64).find? (fun f => d.failed.contains f && (d.slotOf f).isSome)

/-- Steps 1 and 2 for the next failed fold die, when no other failure is being handled. -/
def State.beginFailure (s : State) : State :=
  if s.domain.safeOf.isSome then s
  else match s.domain.nextFailed with
    | none => s
    | some f =>
      let s := (s.foldStep f 1).foldStep f 2
      { s with domain := { s.domain with safeOf := some f, rebuilt := false, rehash := 0, moved := 0 } }

/-- Step 3: every die has reported, and the partner, if it lives, has exact entries for the SAFE slots. LIVE′ is what lives now. -/
def State.rebuild (s : State) (f : Nat) : State :=
  if s.domain.rebuilt then s
  else
    let ls := if s.domain.failed.contains (f ^^^ 1) then [] else s.heldLines.filter (fun ln => s.domain.slot (homeSlot ln) = f)
    ({ ls.foldl State.reenter s with domain := { s.domain with rebuilt := true, rest := s.domain.liveNow } } : State).foldStep f 3

/-- Slot i, whose sets have all moved, takes its new fold die (in turn: DEDUCED, log 32); the failure is over when no slot names the failed die. -/
def State.slotMoved (s : State) (f i : Nat) : State :=
  let s := { s with domain := { s.domain with ht := tput 0 s.domain.ht i (s.domain.newHome f + 1), rehash := s.domain.rehash + 1, moved := 0 } }
  if (s.domain.slotOf f).isSome then s
  else
    let s := s.foldStep f 4
    ({ s with domain := { s.domain with safeOf := none, rebuilt := false, rehash := 0 } } : State).beginFailure

/-- Steps 3 and 4 of the failure that is being handled, to their end (R472): the entries at the partner go to their new homes. -/
def State.endFailure (s : State) : State :=
  match s.domain.safeOf with
  | none => s.beginFailure
  | some f =>
    if s.domain.liveNow = [] then s
    else
      let s := s.rebuild f
      let slots := (List.range 4096).filter (fun i => s.domain.slot i = f)
      let s := slots.foldl (fun s i => s.slotMoved f i) { s with domain := { s.domain with frozen := none } }
      s.moveEntries (s.foldIx (f ^^^ 1)) (fun set => slots.contains (set / 64))

/-- Failures are handled until the home of a line answers (at most n): a request that finds it silent is sent again until then
(R464, R470; how long that takes binds nothing, R19). -/
def State.untilLive (ln : Nat) : Nat → State → State
  | 0, s => s
  | n + 1, s => if s.homeLive ln then s else State.untilLive ln n s.endFailure

/-! ## Access to a line (R455, R461, R464) -/

/-- Requests for which ways of a line's set are kept are served before another that would need one (R463). -/
def State.serveReserved (s : State) (f ln : Nat) : State :=
  ((s.fold f).reserves.filter (fun r => r.set = foldSet ln)).foldl (fun s r =>
    match s.retries.find? (fun q => q.core = r.core && q.line = r.line) with
    | some q => (s.dirRequest q.core q.line q.kind).settle q.line
    | none => s.modFold f (fun x => { x with reserves := x.reserves.filter (fun y => y ≠ r) })) s

/-- What a request waits for is completed: a silent home, the frozen set of the rehash, invalidations, recalls of its set. -/
def State.clearWay (s : State) (ln : Nat) : State :=
  let s := State.untilLive ln s.domain.failed.length s
  let s := if s.domain.frozen = some (foldSet ln) then s.thaw else s
  (s.settle ln).settleSet (s.dirOf ln) ln

/-- A core holds a line in a state that allows an access of a kind; a store makes an E line M (R455). -/
def State.enter (s : State) (core ln kind : Nat) : State :=
  if kind = 0 ∧ s.line core ln = LineState.e then s.setLine core ln .m else s

/-- A refused request is sent again, at most n times, once the way is clear (R464; how long that takes binds nothing, R19). A
set with more entries than ways loses one at each refusal, and requests for which a way is kept come first. -/
def State.ask (core ln kind : Nat) : Nat → State → State
  | 0, s => s
  | n + 1, s =>
    let s := s.clearWay ln
    if permits (s.line core ln) kind then s.enter core ln kind
    else match s.onDie core ln kind with
      | some s => s
      | none =>
        let s := (s.dirRequest core ln kind).clearWay ln
        if permits (s.line core ln) kind then s.enter core ln kind else State.ask core ln kind n (s.serveReserved (s.dirOf ln) ln)

/-- Bring a line into a state that lets a core load, store or gather, completing whatever the directory starts for it. -/
def State.obtain (s : State) (core ln kind : Nat) : State :=
  if permits (s.line core ln) kind then s.enter core ln kind else State.ask core ln kind 64 s

/-- A line is made uncached everywhere before an atomic step at memory, which its directory home is asked for (R457). -/
def State.uncache (s : State) (ln : Nat) : State := ((s.askHome ln).clearWay ln).dropLine ln

end Sys2Proof.Machine
end

