-- ==== Sys2Proof/Machine/Issue.lean ====
section
/-! DEFINITION. One issue of a group (R30, R31, R125 to R128, R135): the issue set and the guard, the promises and
pending results of the registers that an instruction names, the body of the instruction, traps, and the move of the
program counters. -/
namespace Sys2Proof.Machine
open Sys2Proof

/-- One issue: return point, where threads that move on go (and their REPCNT), the program counter of records if it
is another, the issue set, the threads that perform. -/
structure Issue where
  pc : Nat := 0
  first : Bool := false          -- the first iteration of a repeat: REP counts too (R126)
  next : Nat := 0
  nextRep : Nat := 0
  recPc : Option Nat := none
  set : Dword := 0
  p : Dword := 0
  viol : Dword := 0              -- guard-true threads that break a lookahead promise (R127)
  deriving DecidableEq, Repr

/-- What a body answers: the state, the traps, threads that jump, threads whose program counter the body has set;
`stay` when the instruction cannot issue yet, `early` when a trap comes before lookahead violations, `selfSat` when the body satisfies YIELD's holds itself. -/
structure Res where
  s : State
  raised : Raised := {}
  moves : List (Dword × Nat) := []
  stay : Bool := false
  placed : Dword := 0
  selfSat : Bool := false
  early : Bool := false        -- the trap comes before any lookahead violation (R135)

abbrev Body := Issue → State → Res

/-! ## The registers that an instruction names (R125, R126) -/

def ruleDests (f : Nat) : FRule → List Dest
  | .vec run => (List.range run).map (fun i => .v (f + i))
  | .sca run => (List.range run).map (fun i => .s (f + i))
  | .msk => [.m f]
  | _ => []

def guardDests (g : Guard) : List Dest := if g.gm = 0 then [] else [.m g.gm]

/-- The registers of a format A or I form: D of VFCMP is a mask, C of the base forms of VMAD and VFMA is D. -/
def vecDests (maj min : Nat) (o : VOps) : List Dest :=
  match vecRow maj min o with
  | none => []
  | some r =>
    (if maj = 0x13 then [Dest.m (o.d % 16)] else ruleDests o.d r.d) ++ ruleDests o.a r.a
      ++ (if o.lit.isSome then [] else ruleDests o.b r.b) ++ ruleDests o.c r.c ++ ruleDests o.xf r.xf ++ guardDests o.g

/-- The registers that a form's fields name, each field with its whole run: the second of a pair, VTOPK's lists, ITSET's four
words, the run of an engine instruction (DEDUCED, log 21). -/
def formNames : Form → List Dest
  | .sc maj min o =>
    .s o.d :: (if maj = 1 ∧ (min = 0 ∨ min = 1) then [] else [.s o.a])
      ++ (if o.bi ∨ o.lit.isSome ∨ maj = 1 ∧ (min = 2 ∨ min = 3) then [] else [.s o.b])
  | .br cond o => (if 8 ≤ cond then [.m o.a] else if cond = 0 ∨ cond = 7 then [] else [.s o.a]) ++ guardDests o.g
  | .vec maj min o => vecDests maj min o
  | .sweep _ maj min o => vecDests maj min o
  | .mem maj o =>
    [if o.ds then .s o.d else .v o.d, if o.ov then .v o.off else .s o.off]
      ++ (if maj = 0x24 ∨ maj = 0x25 ∨ o.br then [.s o.bt] else []) ++ guardDests o.g
  | .atm maj o =>
    (if maj = 0x2A then [] else [.v o.d]) ++ [if o.ov then .v o.off else .s o.off, .v o.b]
      ++ (if maj = 0x29 then [.v o.c] else []) ++ (if o.br then [.s o.bt] else []) ++ guardDests o.g
  | .q maj qop o =>
    (if maj = 0x2C then (if qop = 0 ∨ qop = 4 then [] else [.s o.sa])
     else if maj = 0x2D then .s o.sa :: ruleDests o.x (.sca (if qop = 2 ∨ qop = 3 then 2 else 1))
     else ruleDests o.sa (.sca (runLen maj qop))) ++ guardDests o.g
  | .priv qop o => if qop = 2 ∨ qop = 8 then [] else [.s o.sd, .s o.sa]
  | .rep _ _ _ => []

/-- Registers read or written without a field: the link register (R146, R148). -/
def formHidden : Form → List Dest
  | .br cond _ => if cond = 7 then [.s 63] else []
  | .vec maj min _ => if maj = 0x05 ∧ (min = 1 ∨ min = 2) then [.s 63] else []
  | _ => []

def namesOf (i : Instr) : List Dest := match i.form with | some f => formNames f | none => []
def hiddenOf (i : Instr) : List Dest := match i.form with | some f => formHidden f | none => []

/-- The guard of an instruction; forms that cannot have one have none (R114). -/
def formGuard : Form → Guard
  | .br _ o => o.g | .vec _ _ o => o.g | .sweep _ _ _ o => o.g | .mem _ o => o.g | .atm _ o => o.g | .q _ _ o => o.g
  | _ => {}
def guardOf (i : Instr) : Guard := match i.form with | some f => formGuard f | none => {}
def wordsOf (i : Instr) : Nat := (encode i).length

/-- The lanes of an issue set whose guard bit is 1 (R31, R114). -/
def guardSet (g : Group) (set : Dword) (gd : Guard) : Dword :=
  if gd.gm = 0 then set else set &&& (if gd.gp then ~~~(g.mreg set gd.gm) else g.mreg set gd.gm)

/-! ## Results that arrive (R54, R150, R211) -/

/-- A result that arrives: lanes of threads that have ended since are not written (R150); a scalar is written whatever
has become of the threads that issued the load, as the issue's group-uniform state (R32, R209; log 39). -/
def Result.apply (g : Group) : Result → Group
  | .vec n tag vals => g.setV n tag (vals.filter (fun p => !g.exited.getLsbD p.1))
  | .scalar n v => g.setS n v

/-- Deliver the results whose destinations are among `ds`, in order; those whose request is still queued stay. -/
def Group.deliver (g : Group) (p : Outstanding → Bool) : Group :=
  let ready := g.outstanding.filter p
  { (ready.foldl (fun g o => o.results.foldl Result.apply g) g) with outstanding := g.outstanding.filter (fun o => !p o) }

def Outstanding.hits (ds : List Dest) (o : Outstanding) : Bool := o.dests.any (fun d => ds.contains d)

/-- The requests of the store queue that must be performed before the registers `ds` of the issuing group hold their
results. -/
def Group.awaits (g : Group) (ds : List Dest) : List Nat :=
  (g.outstanding.filter (fun o => o.req ≠ 0 && o.hits ds)).map Outstanding.req

/-- An open window of lane l on one of `ds` (R126). -/
def Group.promised (g : Group) (ds : List Dest) (l : Nat) : Bool :=
  (tget [] g.windows l).any (fun w => w.dests.any (fun d => ds.contains d))

/-- The guard-true threads of an issue set that break a promise (R127). -/
def Group.violators (g : Group) (i : Instr) (set : Dword) : Dword :=
  maskOf ((lanesOf (guardSet g set (guardOf i))).filter (g.promised (namesOf i)))

/-- Instructions that write once per issue, whatever the guard: RDSR, RDCLK, VBALLOT, ITRD (R31, R156, R157; log 42). -/
def oncePerIssue (i : Instr) : Bool :=
  match i with
  | .rdsr _ | .rdsrC _ | .rdclk _ | .vballot _ | .itrd _ => true
  | _ => false

/-- An issue reads or writes the registers that it names: it has performers, or it writes once per issue and does not consist of
violators alone (R31, R127). -/
def acts (i : Instr) (p viol : Dword) : Bool := p ≠ 0 || oncePerIssue i && viol = 0

/-- One instruction counts in every open window of these threads (R126). -/
def Group.count (ls : List Nat) (g : Group) : Group :=
  { g with windows := tputs [] g.windows (ls.map (fun l =>
      (l, (tget [] g.windows l).filterMap (fun w => if w.left ≤ 1 then none else some { w with left := w.left - 1 })))) }

/-- Open a window of n over destinations for the threads of P (R126). It counts from the next instruction. -/
def Group.openWindow (p : Dword) (n : Nat) (ds : List Dest) (g : Group) : Group :=
  if n = 0 then g
  else { g with windows := tputs [] g.windows ((lanesOf p).map (fun l => (l, tget [] g.windows l ++ [⟨n + 1, ds⟩]))) }

/-- YIELD's holds: threads that issued, or that are no longer eligible, satisfy them (R33). -/
def Group.satisfy (issued : Dword) (g : Group) : Group :=
  let gone := ~~~g.eligible
  { g with waits := g.waits.filterMap (fun w => match w.kind with
      | .yield others =>
        let left := others &&& ~~~issued &&& ~~~gone
        if left = 0 then none else some { w with kind := .yield left }
      | _ => some w) }

/-! ## Running one instruction -/

/-- Move the threads of an issue that did not trap: those that jump, and the others to the next instruction. -/
def Group.advance (iss : Issue) (stay : Dword) (moves : List (Dword × Nat)) (g : Group) : Group :=
  let moved := moves.foldl (fun m x => m ||| x.1) 0
  let rest := lanesOf (iss.set &&& ~~~stay &&& ~~~moved)
  let g := (g.setPcs rest iss.next).setReps rest iss.nextRep
  moves.foldl (fun g x => let ls := lanesOf (x.1 &&& ~~~stay); (g.setPcs ls x.2).setReps ls 0) g

/-- The windows of some threads as they were in another state of the group. -/
def Group.windowsFrom (old : Group) (ls : List Nat) (g : Group) : Group :=
  { g with windows := tputs [] g.windows (ls.map (fun l => (l, tget [] old.windows l))) }

/-- The operation that a wait is for. -/
def WaitKind.opId : WaitKind → Option Dword
  | .sleepto _ _ _ id => some id
  | .pwwait _ _ id => some id
  | _ => none

/-- Threads that wait for an operation: the instruction counts in their windows when the wait ends, since it may still trap and
be issued again (R126, R164). -/
def Group.awaiting (g : Group) : Dword :=
  (g.waits.filter (fun w => w.kind.opId.isSome)).foldl (fun m w => m ||| w.mask) 0

/-- What an issue does to its group after the body: YIELD's holds, the program counters, the windows; those of the
threads `t` that trap stay as they were. -/
def Group.finish (old : Group) (iss : Issue) (tick : Nat) (selfSat : Bool) (t placed : Dword) (moves : List (Dword × Nat))
    (g : Group) : Group :=
  let g1 := if selfSat then g else g.satisfy iss.set
  let g2 := (g1.advance iss (t ||| placed) moves).count (lanesOf (iss.set &&& ~~~t &&& ~~~g.awaiting))
  { (old.windowsFrom (lanesOf t) g2) with lastIssue := some tick }

/-- An issue with the threads that perform it. -/
def Issue.by (iss : Issue) (p : Dword) : Issue := { iss with p := p }

/-- The program counter that a record of the issue names: the target's in a repeat (R132). -/
def Issue.ownPc (iss : Issue) : Nat := iss.recPc.getD iss.pc

/-- A trap whose record names the issue's own program counter for records. -/
def Issue.trapAt (iss : Issue) (x : Trap) : Trap := { x with pcAt := x.pcAt.orElse (fun _ => iss.recPc) }

/-- After the body: an instruction that cannot issue yet leaves the windows as they were; otherwise the group finishes
and the traps are taken, those of the lookahead violators among them (R127). -/
def closeIssue (old : Group) (iss : Issue) (viol : Dword) (tick : Nat) (r : Res) : State :=
  if r.stay then r.s.modGroup (old.windowsFrom (lanesOf iss.set))
  else
    let raised : Raised :=
      { tog := r.raised.tog.map (fun t => (t.1, iss.trapAt t.2))
        own := ((if r.early then [] else lanesOf viol).map (fun l => (l, ({ code := 4, sub := 0 } : Trap))) ++ r.raised.own).map
          (fun o => (o.1, iss.trapAt o.2)) }
    (r.s.modGroup (old.finish iss tick r.selfSat raised.mask r.placed r.moves)).takeTraps iss.pc raised

/-- One issue of instruction i (R30, R31, R127, R135): deliver what it waits for, take the lookahead violators out,
run the body for the others, take the traps, move the program counters. `perform` performs queued requests up to a
number. -/
def runIssue (i : Instr) (perform : State → List Nat → State) (iss : Issue) (body : Body) (s : State) : State :=
  let old := s.group
  let s := if iss.first then s.modGroup (Group.count (lanesOf iss.set)) else s
  let g := s.group
  let ds := namesOf i
  let guardOn := guardSet g iss.set (guardOf i)
  let viol := g.violators i iss.set
  let p := guardOn &&& ~~~viol
  let hit := Outstanding.hits (ds ++ hiddenOf i)
  let s1 := if acts i p viol ∧ g.outstanding.any hit then (perform s (g.awaits (ds ++ hiddenOf i))).modGroup (fun g => g.deliver hit) else s
  closeIssue old iss viol s.tick (body { iss.by p with viol := viol } s1)

/-- The issue that the current group makes of an instruction of n words (R30, R107). -/
def State.issueOf (s : State) (n : Nat) : Issue :=
  let g := s.group
  { pc := g.issuePc, next := g.issuePc + 4 * n, set := g.issueSet }

/-! ## Raising traps from a body -/

/-- Every thread of a set takes the trap, each on its own (R50). -/
def ownAll (m : Dword) (x : Trap) : Raised := { own := (lanesOf m).map (fun l => (l, x)) }
/-- The threads of a set take the trap together (R40). -/
def together (m : Dword) (x : Trap) : Raised := if m = 0 then {} else { tog := some (m, x) }

/-- Nothing happens but the move to the next instruction. -/
def Res.skip (s : State) : Res := { s := s }
/-- A change of the issuing group. -/
def Res.group (s : State) (f : Group → Group) : Res := { s := s.modGroup f }
/-- Set sticky flags of the issuing group (R71, R72). -/
def Group.raise (fl : Nat) (g : Group) : Group := if fl = 0 then g else { g with flags := g.flags ||| BitVec.ofNat 64 fl }

end Sys2Proof.Machine
end

