-- ==== Sys2Proof/Machine/Mem.lean ====
section
/-! DEFINITION. Accesses of threads to buffers and scratchpads: the checks of R213 and R214, loads, the queue of
stores and atomics and what performing one does (R216, R219, R220, R486). -/
namespace Sys2Proof.Machine
open Sys2Proof

/-! ## Checks of a buffer access (R213, R419, R420, R424, R485) -/

/-- What an access does to a buffer: the rights of step 4 and of the leaf. -/
inductive AKind where
  | load | store | atomic | walk
  | scan      -- a read of the mass table as a load at its home (R363): right A of the descriptor (R354), R of the page
  deriving DecidableEq, Repr

def AKind.need : AKind → Need
  | .load => { r := true } | .store => { w := true } | .atomic => { r := true, w := true } | .walk => { r := true }
  | .scan => { r := true }

/-- A check's answer: the physical and the virtual address and whether the page is strongly ordered (R287), or the
trap. -/
inductive Chk where
  | ok (pa va : Nat) (so : Bool)
  | trap (x : Trap)
  deriving DecidableEq, Repr

/-- Steps 2 to 4 of R213 on a descriptor, for a buffer index. -/
def descCheck (ctx idx d : Nat) (k : AKind) : Option (Nat × Nat) :=
  if !descValid d then some (9, 1)
  else if bits d 183 176 ≠ ctx then some (0x0A, 1)
  else match k with
    | .load => if bit d 168 then none else some (9, 2)
    | .store => if idx = 4095 then some (9, 5) else if bit d 169 then none else some (9, 3)
    | .atomic | .scan => if idx = 4095 then some (9, 5) else if bit d 170 then none else some (9, 4)
    | .walk => if bit d 171 then none else some (9, 8)

/-- R213 for one access of `size` bytes at byte offset `boff`; `off` is the offset of the record, `idx` the index or
the index register's value. -/
def State.bufCheck (s : State) (idx : Nat) (br : Bool) (off boff size : Nat) (k : AKind) : State × Chk :=
  if br ∧ 4096 ≤ idx then (s, .trap { code := 8, sub := 2, off := off, detail := idx })
  else
    match s.desc (dieOf s.core) s.ctx idx with
    | (s, d) =>
      let tr := fun (c : Nat × Nat) => Chk.trap { code := c.1, sub := c.2, off := off, bt := idx }
      match descCheck s.ctx idx d k with
      | some c => (s, tr c)
      | none =>
        if bits d 111 64 < boff + size then (s, tr (8, 1))
        else if boff % size ≠ 0 then (s, tr (5, 1))
        else
          let va := bits d 56 8 * 256 + boff
          match s.translate s.core s.ctx va k.need with
          | (s, .fault n) => (s, .trap { code := 0x0B, sub := n, off := off, bt := idx, va := va })
          | (s, .ok pa k) => (s, .ok pa va (k = 1))

/-- A read that reaches memory: denial is RIGHTS 0x06, bad data UNCORRECTABLE 0x01, both precise (R441, R485). -/
def State.readCheck (s : State) (idx off pa va : Nat) (need : Need) : Option Trap :=
  let a := s.access? (dieOf s.core) pa need
  let bad : Trap := { code := 0x30, sub := 1, off := off, bt := idx, va := va, detail := a.unit }
  match a with
  | .denied => some { code := 9, sub := 6, off := off, bt := idx, va := va }
  | .bad => some bad
  | .mem k => if s.poisoned k then some bad else none
  | .peer _ => none
  | .reg _ => none

/-! ## The queue (R216, R219, R486) -/

def ReqKind.span : ReqKind → Nat × Nat
  | .store pa _ bs => (pa, bs.length)
  | .nibble pa _ _ _ => (pa, 1)
  | .amo _ _ pa _ _ _ => (pa, 4)
  | .combine pa _ _ _ _ => (pa, 4)

/-- The target of a write, or its late fault (R216, R485). -/
def State.target (s : State) (r : MemReq) (pa va : Nat) : State × Option Acc :=
  let a := s.access? (dieOf r.core) pa { w := true }
  match s.lateFault a with
  | some (c, n, d) => (s.deferredFault r va c n d, none)
  | none => (s, some a)

/-- The cores of both copies of a team; one for a plain grid (R445). -/
def State.bothCopies (s : State) (c : Nat) : List Nat :=
  match (s.coreAt c).team with
  | some t =>
    if (s.grid t.grid).record.getLsbD 88 then
      [c, (s.grid t.grid).place.getD (if t.twin then t.teamid else t.nteam + t.teamid) c]
    else [c]
  | none => [c]

/-- Change a group and, where a checkpoint holds it, what the checkpoint holds: the result of a step that is performed once is not
lost when the team goes back (R446). -/
def Team.modKept (g : Nat) (f : Group → Group) (t : Team) : Team :=
  { t.setGroup g (f (t.group g)) with
    checkpoint := t.checkpoint.map (fun k => { k with groups := tput {} k.groups g (f (tget {} k.groups g)) }) }
/-- A result of a step reaches its group, in both copies of a redundant team (R446). -/
def State.modKept (s : State) (c g : Nat) (f : Group → Group) : State :=
  if g = 16 then s.modGroupAt c g f else (s.bothCopies c).foldl (fun s c => s.modTeamAt c (Team.modKept g f)) s

/-- The result of an AMO or CAS lane joins the outstanding result it belongs to. -/
def State.returns (s : State) (r : MemReq) (v : Word) : State :=
  s.modKept r.core r.grp (fun g => { g with outstanding := g.outstanding.map (fun o =>
    if o.req = r.id then { o with results := o.results.map (fun x => match x with
      | .vec n t vs => .vec n t (vs ++ [(r.lane, v)]) | x => x) } else o) })

/-- An outstanding result whose last request has been performed waits for nothing more. -/
def State.settleReq (s : State) (r : MemReq) : State :=
  if s.stores.any (fun q => q.id = r.id) then s
  else s.modKept r.core r.grp (fun g => { g with outstanding := g.outstanding.map (fun o =>
    if o.req = r.id then { o with req := 0 } else o) })

/-- What an atomic step that was checked when it was issued finds: its check keeps its result (R485). -/
def State.atomicAt (s : State) (pa : Nat) : Acc := if s.isReg pa then .reg pa else s.homeOf pa

/-- A store is performed once its core holds the line in M (R461, R474); until then it stands first in the queue. A store to a
control space takes effect at the end of the step. -/
def State.storeAt (s : State) (r : MemReq) (pa : Nat) (a : Acc) (bs : List Byte) : State :=
  match a with
  | .reg p => { s with regStores := s.regStores ++ [⟨r.core, p, bs⟩] }
  | a =>
    let s := s.obtain r.core (pa / 128) 0
    if permits (s.line r.core (pa / 128)) 0 then s.writeAcc a bs else { s with stores := r :: s.stores }

/-- Combine a contribution of a request's thread into its core's partial of the element (R220). Where REDs of different OP or TYPE
meet in one partial, the manual does not say which joins it to the home's value: the element's new value is then a free one
(DESIGN CHOICE, log 51). -/
def State.redPartial (s : State) (r : MemReq) (pa va op ty : Nat) (v : Word) : State :=
  s.modCore r.core (fun c =>
    let old := tget none c.partials (pa / 4)
    let new := match old with | some p => atomOp op ty p.val v | none => v
    let mixed := old.any (fun p => p.mixed || p.op ≠ op || p.ty ≠ ty)
    let p : Partial :=
      { op := op, ty := ty, val := new, mixed := mixed, grp := r.grp, lane := r.lane, pc := r.pc, rep := r.rep
        bt := r.bt, off := r.off, va := va, owner := r.owner }
    { c with partials := tput none c.partials (pa / 4) (some p) })

/-- A reduction is performed once its core holds the line in G (R456, R464); until then it stands first in the queue. -/
def State.redAt (s : State) (r : MemReq) (pa va op ty : Nat) (v : Word) : State :=
  let s := s.obtain r.core (pa / 128) 1
  if permits (s.line r.core (pa / 128)) 1 then s.redPartial r pa va op ty v else { s with stores := r :: s.stores }

/-- A step at the memory-side cache is performed once its line is cached nowhere; until then it stands first in the queue (R457, R464). -/
def State.atMemory (s : State) (r : MemReq) (pa : Nat) (rd : Bool) (a : Acc) (f : State → State) : State :=
  let s := s.uncache (pa / 128)
  if s.uncached (pa / 128) then f (s.reach (dieOf r.core) a rd) else { s with stores := r :: s.stores }

/-- Perform one request at its target: a plain store in the core's near cache, the others as one step at
the memory-side cache with the line cached nowhere (R457, R486). -/
def State.performReq (s : State) (r : MemReq) : State :=
  match r.kind with
  | .store pa va bs =>
    match s.target r pa va with
    | (s, some a) => s.storeAt r pa a bs
    | (s, none) => s
  | .nibble pa va high v =>
    match s.target r pa va with
    | (s, some a) => s.atMemory r pa false a (fun s =>
      let b := ((s.readAcc a 1).headD 0).toNat
      s.writeAcc a [BitVec.ofNat 8 (if high then v.toNat % 16 * 16 + b % 16 else b / 16 * 16 + v.toNat % 16)])
    | (s, none) => s
  | .amo op ty pa _ v c =>
    let a := s.atomicAt pa
    s.atMemory r pa true a (fun s =>
      let m := BitVec.ofNat 32 (leNat (s.readAcc a 4))
      let n := if op = 7 then (if m = c then v else m) else atomOp op ty m v
      (s.writeAcc a (leBytes 4 n.toNat)).returns r m)
  | .combine pa va op ty v =>
    match s.target r pa va with
    | (s, some a) => if 16 ≤ op then s.atMemory r pa false a (fun s => s.combineAt r pa va op ty v) else s.redAt r pa va op ty v
    | (s, none) => s

/-- Perform the oldest request. -/
def State.performHead (s : State) : State :=
  match s.stores with
  | [] => s
  | r :: rest => (({ s with stores := rest }).performReq r).settleReq r

/-- Perform requests from the oldest on while a later one must be (at most n), unless the oldest stays for want of its line. A
change that makes memory unreachable comes after the requests that were there before it (R482, R485): `drainAll`. -/
def State.drain (p : MemReq → Bool) : Nat → State → State
  | 0, s => s
  | n + 1, s =>
    if s.stores.any p then
      let t := s.performHead
      if t.stores.length < s.stores.length then State.drain p n t else t
    else s

def State.drainIf (s : State) (p : MemReq → Bool) : State := State.drain p s.stores.length s
/-- Perform the requests with some numbers: what `runIssue` needs. -/
def State.performReqs (s : State) (ids : List Nat) : State :=
  if ids.isEmpty then s else s.drainIf (fun r => ids.contains r.id)
/-- Everything the issuing core has queued is performed (release points, R300). -/
def State.drainCore (s : State) : State := s.drainIf (fun r => r.core = s.core)
/-- Everything the issuing group has queued is performed. -/
def State.drainGroup (s : State) : State := s.drainIf (fun r => r.core = s.core && r.grp = s.grp)

/-- Every access in flight is performed. -/
def State.drainAll (s : State) : State := s.drainIf (fun _ => true)

def State.enqueue (s : State) (r : MemReq) : State := { s with stores := s.stores ++ [r] }
/-- A fresh request number. -/
def State.fresh (s : State) : State × Nat := ({ s with reqId := s.reqId + 1 }, s.reqId)

/-! ## Redundant copies (R445 to R447) -/

def State.isRedundant (s : State) : Bool := !s.isSvc && (s.grid s.team.grid).record.getLsbD 88

/-- The byte that a copy's latest held write gives at a virtual address. -/
def heldByte (hs : List HeldWrite) (va : Nat) : Option Byte :=
  hs.foldl (fun b h => if h.red = none ∧ h.nib = none ∧ h.pad = none ∧ h.va ≤ va ∧ va < h.va + h.data.length then h.data[va - h.va]? else b) none
/-- The byte that its latest held write gives at an offset of a core's scratchpad. -/
def heldPad (hs : List HeldWrite) (core off : Nat) : Option Byte :=
  hs.foldl (fun b h => if h.pad = some core ∧ h.off ≤ off ∧ off < h.off + h.data.length then h.data[off - h.off]? else b) none
/-- Bytes as a copy sees them, its held writes over them (R294, R445). -/
def State.seen (s : State) (va : Nat) (bs : List Byte) : List Byte :=
  if s.isRedundant then bs.mapIdx (fun i b => (heldByte s.team.held (va + i)).getD b) else bs

/-- DETAIL of SIGNATURE_MISMATCH: a barrier and its PHASE (R435). -/
def signDetail (b : Nat) (phase : BitVec 32) : Nat := phase.toNat * 2 ^ 32 + b
/-- Where a team stands at no arrival at a cluster barrier: barrier 0, whose checkpoint began the interval (R442). -/
def Team.signDetail (t : Team) : Nat := Machine.signDetail 0 (tget {} t.barriers 0).phase

/-- Hold a write of a redundant copy; past 16,384 lane accesses the grid ends, at the access that exceeds the limit
(R447). -/
def State.holdWrite (s : State) (h : HeldWrite) (lane pc : Nat) : State :=
  let t := s.team
  if (s.grid t.grid).phase = .ending then s
  else if 16384 ≤ t.heldLanes then
    (s.terminal s.core t s.grp lane pc (tget 0 s.group.repcnt lane) 2 { code := 0x31, sub := 2, detail := t.signDetail }).endGrid t.grid 2
  else s.modTeam (fun t => { t with held := t.held ++ [h], heldLanes := t.heldLanes + 1 })

/-! ## Loads and stores of one lane -/

def overlap (a n b m : Nat) : Bool := a < b + m && b < a + n

/-- A queued request to some bytes of the issuing group's, or of its other copy's (R294, R445). -/
def State.ownReq (s : State) (pa n : Nat) (r : MemReq) : Bool :=
  r.grp = s.grp && (r.core = s.core || (!s.isSvc && (s.bothCopies s.core).contains r.core)) && overlap pa n r.kind.span.1 r.kind.span.2

/-- A load is about to read some bytes: the group's own queued stores to them are performed first (R294). -/
def State.drainOwn (s : State) (pa n : Nat) : State :=
  if s.stores.any (s.ownReq pa n) then s.drainIf (s.ownReq pa n) else s

/-- A core is about to load from a line: it holds it readable, unless the bytes are a control space's. -/
def State.readable (s : State) (pa : Nat) : State := if s.isReg pa then s else s.obtain s.core (pa / 128) 3
/-- It does hold it: no home may live that could grant it (R464, R475). -/
def State.canRead (s : State) (pa : Nat) : Bool := s.isReg pa || permits (s.line s.core (pa / 128)) 3

/-- The bytes a thread's load returns: memory's, with its copy's held writes over them. -/
def State.loadBytes (s : State) (pa va n : Nat) : State × List Byte :=
  let s := (s.drainOwn pa n).readable pa
  (s, s.seen va (s.readAcc (s.access? (dieOf s.core) pa { r := true }) n))

/-- A thread's store: queued, or held by a redundant copy but for the step at a comparison point (R445, R446); one to an SO
page also while later SO loads of the thread are performed (DESIGN CHOICE, log 78). -/
def State.storeBytes (s : State) (pa va : Nat) (bs : List Byte) (lane pc bt off : Nat) : State :=
  if s.isRedundant && !s.team.atPoint then
    s.holdWrite { bt := bt, off := off, data := bs, va := va, pa := pa, rep := tget 0 s.group.repcnt lane, grp := s.grp, lane := lane, pc := pc } lane pc
  else
    let (s, id) := s.fresh
    s.enqueue { id := id, core := s.core, grp := s.grp, lane := lane, pc := pc, bt := bt, off := off
                rep := tget 0 s.group.repcnt lane, owner := s.ownerOf s.core, kind := .store pa va bs }

/-! ## Scratchpads (R214, R276, R279) -/

def Team.scratchSize (t : Team) : Nat := bits t.partw 5 0 * 65536
def Team.tiles (t : Team) : Nat := bits t.partw 13 10 + 1
def Team.scratchBytes (t : Team) (off n : Nat) : List Byte := (List.range n).map (fun i => tget 0 t.scratch (off + i))
def Team.setScratch (t : Team) (off : Nat) (bs : List Byte) : Team :=
  { t with scratch := tputs 0 t.scratch (bs.mapIdx (fun i b => (off + i, b))) }

/-- The core of a rank of a team's cluster, in the team's own copy of the grid (R27, R28, R406). -/
def State.rankCore (s : State) (t : Team) (rank : Nat) : Nat :=
  let i := t.clid * (t.rows * t.cols) + rank
  (s.grid t.grid).place.getD (if t.twin then t.nteam + i else i) s.core

/-! ## Scratchpad bytes of a core's team, and writes by a neighbour (R305) -/

def State.padAt (s : State) (c off n : Nat) : List Byte := ((s.coreAt c).team.getD {}).scratchBytes off n
/-- A write to a core's scratchpad; one from another core reaches both copies of a redundant team (R445). -/
def State.padWrite (s : State) (c off : Nat) (bs : List Byte) : State :=
  let s1 := s.modTeamAt c (fun t => t.setScratch off bs)
  if c = s.core ∨ !s.isRedundant then s1
  else match (s.coreAt c).team with
    | some t =>
      let other := (s.grid t.grid).place.getD (if t.twin then t.teamid else t.nteam + t.teamid) c
      s1.modTeamAt other (fun t => t.setScratch off bs)
    | none => s1

/-- Steps 2 and 3 of R214. -/
def scratchCheck (t : Team) (off size : Nat) (x : Bool) : Option Trap :=
  if t.scratchSize < off + size then some { code := 8, sub := if x then 0x11 else 0x10, off := off }
  else if off % size ≠ 0 then some { code := 5, sub := 1, off := off }
  else none

/-- An irrevocable step in the interval since the checkpoint (R443). -/
def State.irrevocable (s : State) : State := s.modTeam (fun t => { t with irrevocable := true })

end Sys2Proof.Machine
end

