-- ==== Sys2Proof/Machine/Fetch.lean ====
section
/-! DEFINITION. Fetching the words of an instruction from the grid's code (R107, R136, R147, R408). -/
namespace Sys2Proof.Machine
open Sys2Proof

/-- What a fetch finds: words (fewer where the code ends), or a translation fault. -/
inductive Fetched where
  | words (ws : List Nat)
  | fault (sub va : Nat)
  deriving DecidableEq, Repr

/-- The virtual address of code offset 0 and the size of the code: of the grid, or of the service routine (R390,
R400). -/
def State.code (s : State) : Nat × Nat := if s.isSvc then (s.base 1, 2 ^ 32) else (s.team.codeVa, s.team.codeSz)

/-- The next n words from a code offset, as far as the code reaches. A read that memory denies is subcode 0x04
(DEDUCED, log 19). -/
def State.fetchWords (s : State) : Nat → Nat → State × Fetched
  | 0, _ => (s, .words [])
  | n + 1, pc =>
    let (va0, size) := s.code
    if size < pc + 4 then (s, .words [])
    else
      let va := va0 + pc
      match s.translate s.core s.ctx va { x := true } with
      | (s, .fault sub) => (s, .fault sub va)
      | (s, .ok pa _) =>
        let a := s.access? (dieOf s.core) pa { r := true }
        if !a.reaches then (s, .fault 4 va)
        else
          let w := leNat (s.readAcc a 4)
          match s.fetchWords n (pc + 4) with
          | (s, .words ws) => (s, .words (w :: ws))
          | (s, .fault sub va) => (s, .fault sub va)

/-- How many words belong to a base word: one when its length is not one that its major and its minor code have (R134). -/
def wordsNamed (w : Nat) : Nat :=
  match majLens (bits w 7 2) with
  | some lens =>
    if lens.contains (w % 4) && (decForm (bits w 7 2) (splitWords (w % 4) [w])).1.lenOk then lenWords (w % 4) else 1
  | none => 1

/-- The words of the instruction at a code offset. -/
def State.fetchAt (s : State) (pc : Nat) : State × Fetched :=
  match s.fetchWords 1 pc with
  | (s, .words [w]) => s.fetchWords (wordsNamed w) pc
  | r => r

/-- One fetch for each issue reaches memory once for every line that its words lie in (R30, R488). -/
def State.fetchReach (s : State) (pc n : Nat) : State :=
  let at_ := fun (s : State) (pc : Nat) => match s.translate s.core s.ctx (s.code.1 + pc) { x := true } with
    | (s, .ok pa _) => s.reach (dieOf s.core) (s.access? (dieOf s.core) pa { r := true }) true
    | (s, .fault _) => s
  let s := at_ s pc
  let last := pc + 4 * (n - 1)
  if (s.code.1 + pc) / 128 = (s.code.1 + last) / 128 then s else at_ s last

/-- What stands at a code offset. -/
inductive AtPc where
  | ok (i : Instr) (len : Nat)
  | illegal (sub len : Nat)
  | fault (sub va : Nat)
  deriving DecidableEq, Repr

def State.instrAt (s : State) (pc : Nat) : State × AtPc :=
  match s.fetchAt pc with
  | (s, .fault sub va) => (s, .fault sub va)
  | (s, .words ws) =>
    match decode s.regalloc ws with
    | .ok i n => (s, .ok i n)
    | .illegal c => (s, .illegal c (if c = 4 then 1 else wordsNamed (ws.headD 0)))

/-- The code offset after the instruction at pc; after an unreadable word, the next word. -/
def State.afterPc (s : State) (pc : Nat) : Nat :=
  match (s.instrAt pc).2 with
  | .ok _ n => pc + 4 * n
  | .illegal _ n => pc + 4 * n
  | .fault _ _ => pc + 4

/-- Where a thread goes that skips what it trapped at, by the trap's code (R132, R166): the next iteration of a repeat,
or the next instruction. A repeat that was refused has performed no iteration (R130): the instruction after it is its
target (log 17, DEDUCED). -/
def State.skipTo (s : State) (code pc rep : Nat) : Nat × Nat :=
  match (s.instrAt pc).2 with
  | .ok (.rep cnt _ _) _ =>
    if code = 1 then (pc + 4, 0) else if rep < cnt then (pc, rep + 1) else (s.afterPc (pc + 4), 0)
  | _ => (s.afterPc pc, 0)

/-- Whether the threads of a set would be held at a trap instead of entering the handler (R164, R437). -/
def State.wouldHold (s : State) (t : Dword) : Bool :=
  if s.isSvc then false
  else match s.group.frame with
    | some _ => t &&& s.group.trapmask = 0
    | none =>
      let (s, len) := s.recLength s.team.ctx
      s.team.hEn && 8192 ≤ len && (List.range (len / 4096 - 1)).all (fun b => (s.blocksHeld s.team.ctx).contains b)

/-! ## Delivery of an operation's fault at a join (R246) -/

def Trap.ofFault (o : EngOp) (f : OpFault) : Trap :=
  { code := f.code, sub := f.sub, off := f.off, va := f.va, bt := f.bt, opid := o.id, pcAt := some o.pc,
    grpAt := some o.grp, laneAt := some o.lane, cycleAt := some f.cycle, coreAt := some f.core, detail := f.detail }

/-- An operation's fault that no join has delivered yet. -/
def EngOp.undelivered (o : EngOp) : Option OpFault := if o.phase = .done ∧ !o.delivered then o.fault else none

/-- DONE(x) of R155: no outstanding operation of the team bears the identifier. -/
def Team.isDone (t : Team) (id : Dword) : Bool := t.ops.all (fun o => o.id ≠ id || o.phase = .done)

/-- The fault that a join on an operation delivers to the threads of a set, taken together; it is delivered unless
they are held. -/
def State.joinFault (s : State) (id : Dword) (m : Dword) : Option (State × Raised) :=
  match s.team.findOp id with
  | some o => match o.undelivered with
    | some f =>
      let s' := if s.wouldHold m then s else s.modTeam (fun t => t.modOp id (fun o => { o with delivered := true }))
      some (s', together m (Trap.ofFault o f))
    | none => none
  | none => none

end Sys2Proof.Machine
end

