-- ==== Sys2Proof/Machine/Operands.lean ====
section
/-! DEFINITION. Operand forms: what each field of a form reads (R118, R138, R170, R207), and the tags it accepts (R55). -/
namespace Sys2Proof.Machine
open Sys2Proof

/-! ## Scalar operands (R138) -/

/-- Operand A of a scalar form. -/
def opA (g : Group) (o : SOps) : Dword := g.sreg o.a
/-- Operand B: the literal, the unsigned immediate, or a register. -/
def opB (g : Group) (o : SOps) : Dword :=
  match o.lit with
  | some l => l
  | none => if o.bi then BitVec.ofNat 64 o.b else g.sreg o.b

/-! ## Vector operands (R170, R118) -/

/-- Operand A in a lane. -/
def vA (g : Group) (o : VOps) (l : Nat) : Word := g.lane o.a l
/-- Operand B in a lane: the literal in every lane, or a register's slice. -/
def vB (g : Group) (o : VOps) (l : Nat) : Word := match o.lit with | some w => w | none => g.lane o.b l
/-- The addend of VMAD and VFMA: D in the base form, XC in the extended one (R118). -/
def addendReg (o : VOps) : Nat := if o.ext then o.c else o.d
def vC (g : Group) (o : VOps) (l : Nat) : Word := g.lane (addendReg o) l

/-- The rounding mode: X1.RM, or FLAGS.RM in a base form (R67). -/
def modeOf (g : Group) (o : VOps) : Nat := if o.ext then o.rm else bits g.flags.toNat 7 6

/-- Integer arithmetic accepts I32, N32 and RAW32 (R55). -/
def intTag (t : Nat) : Bool := t = 7 || t = 8 || t = 0
/-- Bitwise, move and store accept any tag 0 to 12. -/
def anyTag (t : Nat) : Bool := t ≤ 12

/-- Whether B's register carries an accepted tag; a literal always does (R170). -/
def tagB (g : Group) (o : VOps) (p : Nat → Bool) : Bool := o.lit.isSome || p (g.tag o.b)

/-- FORMAT_MISMATCH in every thread of P when a source tag is not accepted (R55); otherwise the body. -/
def checkTags (ok : Group → Bool) (body : Body) : Body := fun iss s =>
  if iss.p ≠ 0 ∧ !ok s.group then { s := s, raised := ownAll iss.p { code := 3, sub := 0 } } else body iss s

/-! ## Elements of a lane slot (R51) -/

def elemOf (tag : Nat) (w : Word) (i : Nat) : Nat := w.toNat / 2 ^ (elemBits tag * i) % 2 ^ elemBits tag
def elemsOf (tag : Nat) (w : Word) : List Nat := (List.range (elems tag)).map (elemOf tag w)
/-- A lane slot from its elements, element 0 lowest. -/
def packElems (tag : Nat) (cs : List Nat) : Word :=
  BitVec.ofNat 32 (cs.foldr (fun c n => c % 2 ^ elemBits tag + 2 ^ elemBits tag * n) 0)

/-! ## Memory operands (R207) -/

def litNat (l : Option Dword) : Nat := match l with | some d => d.toNat | none => 0

/-- The effective offset of a lane: (base + displacement) mod 2^64. -/
def effOff (g : Group) (ov : Bool) (off : Nat) (lit : Option Dword) (l : Nat) : Nat :=
  ((if ov then (g.lane off l).toNat else (g.sreg off).toNat) + litNat lit) % 2 ^ 64

/-- The buffer index: XF or BT, or a register's value when BR = 1 (R121). -/
def bufIndex (g : Group) (br : Bool) (bt : Nat) : Nat := if br then (g.sreg bt).toNat else bt

/-- The tag of a vector offset register is I32, N32 or RAW32 (R207). -/
def offTagOk (g : Group) (ov : Bool) (off : Nat) : Bool := !ov || intTag (g.tag off)

end Sys2Proof.Machine
end

