-- ==== Sys2Proof/Machine/Flags.lean ====
section
/-! DEFINITION. Results with their sticky flags (R71, R72): integer saturation (R65), elementwise operations on lane
slots, and the write of a whole vector result. -/
namespace Sys2Proof.Machine
open Sys2Proof

/-- A lane's result: its new slice and the flags it raises. -/
structure LaneRes where
  w : Word
  fl : Nat := 0
  deriving DecidableEq, Repr

/-- The result of integer arithmetic of type `sgn` on an exact value: wrapped, or clamped with SAT (R65). -/
def intResult (sgn sat : Bool) (v : Int) : LaneRes :=
  if sat then
    let (c, fl) := if sgn then clampTo (-2 ^ 31) (2 ^ 31 - 1) v else clampTo 0 (2 ^ 32 - 1) v
    { w := BitVec.ofInt 32 c, fl := fl }
  else { w := BitVec.ofInt 32 v }

/-- A word read as the suffix's type. -/
def wordInt (sgn : Bool) (w : Word) : Int := if sgn then w.toInt else w.toNat

/-- Apply an operation to each element of a lane slot (R177). -/
def perElem (tag : Nat) (f : Nat → FRes) : LaneRes :=
  let rs := (List.range (elems tag)).map f
  { w := packElems tag (rs.map FRes.code), fl := rs.foldl (fun a r => a ||| r.fl) 0 }

def orFlags (rs : List LaneRes) : Nat := rs.foldl (fun a r => a ||| r.fl) 0

/-- Write d with a tag in the lanes of P, every source read before (R169), and raise the flags of all lanes (R72). -/
def vecWrite (d tag : Nat) (f : Group → Nat → LaneRes) : Body := fun iss s =>
  let g := s.group
  let rs := (lanesOf iss.p).map (fun l => (l, f g l))
  Res.group s (fun g => (g.setV d tag (rs.map (fun r => (r.1, r.2.w)))).raise (orFlags (rs.map Prod.snd)))

/-- Write the bits of lanes of P in a mask register, and raise flags (R31, R175). -/
def maskWrite (d : Nat) (f : Group → Nat → Bool × Nat) : Body := fun iss s =>
  let g := s.group
  let rs := (lanesOf iss.p).map (fun l => (l, f g l))
  let v := maskOf ((rs.filter (fun r => r.2.1)).map Prod.fst)
  Res.group s (fun g => (g.setMLanes d iss.p v).raise (rs.foldl (fun a r => a ||| r.2.2) 0))

/-- A group-uniform effect of an instruction that acts once per issue in which P is not empty. -/
def uniform (f : Group → Group) : Body := fun iss s => if iss.p = 0 then .skip s else Res.group s f

/-- A group-uniform write that is made once per issue, whatever the guard (R31): VBALLOT, ITRD, RDSR, RDCLK (R156, R158, R191,
R200; DEDUCED, log 42). Nothing is written where every guard-true thread breaks a lookahead promise (R127). -/
def perIssue (f : Group → Group) : Body := fun iss s => if iss.p = 0 ∧ iss.viol ≠ 0 then .skip s else Res.group s f

end Sys2Proof.Machine
end

