-- ==== Sys2Proof/Machine/Control.lean ====
section
/-! DEFINITION. Branches, jumps, waits, status registers, software traps and the return from a frame (R144 to R166). -/
namespace Sys2Proof.Machine
open Sys2Proof

/-- Issue a word instruction with its body. -/
def execWord (i : Instr) (body : Body) (s : State) : Host.Outcome State Fault Refusal :=
  .next (runIssue i State.performReqs (s.issueOf (wordsOf i)) body s)

/-! ## Branches (R145, R148) -/

/-- The target of a displacement branch: in words from the base word, or the literal in bytes (R111, R115). -/
def branchTarget (o : BOps) (pc : Nat) : Nat :=
  match o.lit with
  | some l => (pc + l.toNat) % 2 ^ 64
  | none => (((pc : Int) + 4 * o.disp) % 2 ^ 64).toNat

/-- Move the threads of P to the target when the condition holds, evaluated once. -/
def branchBody (o : BOps) (cond : Group → Issue → Bool) : Body := fun iss s =>
  { s := s, moves := if iss.p ≠ 0 ∧ cond s.group iss then [(iss.p, branchTarget o iss.pc)] else [] }

def linkReg (iss : Issue) (g : Group) : Group := g.setS 63 (BitVec.ofNat 64 iss.next)

/-- CALL: s63 takes the return address (R148). -/
def callBody (o : BOps) : Body := fun iss s =>
  if iss.p = 0 then .skip s
  else { s := s.modGroup (linkReg iss), moves := [(iss.p, branchTarget o iss.pc)] }

/-- BRM's conditions on the mask and P (R145). -/
def maskAnd (o : BOps) (g : Group) (iss : Issue) : Dword := g.mreg iss.set o.a &&& iss.p

def execJmp (o : BOps) (s : State) : Host.Outcome State Fault Refusal :=
  execWord (.jmp o) (branchBody o (fun _ _ => true)) s
def execBrz (o : BOps) (s : State) : Host.Outcome State Fault Refusal :=
  execWord (.brz o) (branchBody o (fun g _ => g.sreg o.a = 0)) s
def execBrnz (o : BOps) (s : State) : Host.Outcome State Fault Refusal :=
  execWord (.brnz o) (branchBody o (fun g _ => g.sreg o.a ≠ 0)) s
def execBrLt (o : BOps) (s : State) : Host.Outcome State Fault Refusal :=
  execWord (.brLt o) (branchBody o (fun g _ => (g.sreg o.a).toInt < 0)) s
def execBrLe (o : BOps) (s : State) : Host.Outcome State Fault Refusal :=
  execWord (.brLe o) (branchBody o (fun g _ => (g.sreg o.a).toInt ≤ 0)) s
def execBrGt (o : BOps) (s : State) : Host.Outcome State Fault Refusal :=
  execWord (.brGt o) (branchBody o (fun g _ => 0 < (g.sreg o.a).toInt)) s
def execBrGe (o : BOps) (s : State) : Host.Outcome State Fault Refusal :=
  execWord (.brGe o) (branchBody o (fun g _ => 0 ≤ (g.sreg o.a).toInt)) s
def execCall (o : BOps) (s : State) : Host.Outcome State Fault Refusal := execWord (.call o) (callBody o) s
def execBrmAny (o : BOps) (s : State) : Host.Outcome State Fault Refusal :=
  execWord (.brmAny o) (branchBody o (fun g iss => maskAnd o g iss ≠ 0)) s
def execBrmAll (o : BOps) (s : State) : Host.Outcome State Fault Refusal :=
  execWord (.brmAll o) (branchBody o (fun g iss => maskAnd o g iss = iss.p)) s
def execBrmNone (o : BOps) (s : State) : Host.Outcome State Fault Refusal :=
  execWord (.brmNone o) (branchBody o (fun g iss => maskAnd o g iss = 0)) s

/-! ## Register jumps (R146) -/

/-- Jump to a register's address; bits [1:0] nonzero is ALIGNMENT 0x01, taken together, and nothing takes effect. -/
def jumpBody (target : Group → Dword) (link : Bool) : Body := fun iss s =>
  let t := (target s.group).toNat
  if iss.p = 0 then .skip s
  else if t % 4 ≠ 0 then { s := s, raised := together iss.p { code := 5, sub := 1, off := t } }
  else { s := if link then s.modGroup (linkReg iss) else s, moves := [(iss.p, t)] }

def execJmpr (o : VOps) (s : State) : Host.Outcome State Fault Refusal :=
  execWord (.jmpr o) (jumpBody (fun g => g.sreg o.a) false) s
def execCallr (o : VOps) (s : State) : Host.Outcome State Fault Refusal :=
  execWord (.callr o) (jumpBody (fun g => g.sreg o.a) true) s
def execRet (o : VOps) (s : State) : Host.Outcome State Fault Refusal :=
  execWord (.ret o) (jumpBody (fun g => g.sreg 63) false) s

/-! ## Ending, yielding, sleeping, electing (R33, R150 to R154) -/

/-- EXIT: the threads of P end, leaving the frame they stand in (R150). -/
def exitBody : Body := fun iss s =>
  { s := (s.modGroup (fun g => { g with exited := g.exited ||| iss.p })).leaveFrame iss.p }

/-- YIELD: the threads of P are held until every other eligible thread has issued or left (R33). -/
def yieldBody : Body := fun iss s =>
  let s := s.modGroup (Group.satisfy iss.set)
  let w := s.group.eligible &&& ~~~iss.p
  { s := if iss.p = 0 ∨ w = 0 then s else s.modGroup (Group.hold iss.p (.yield w)), selfSat := true }

/-- SLEEP: ineligible until the cycle counter has advanced by 32 (R152). -/
def sleepBody : Body := fun iss s => Res.group s (Group.hold iss.p (.sleep (s.cycle + 32)))

def electBody (o : VOps) : Body := fun iss s => uniform (fun g => g.setM o.d (laneBit (lowLane iss.p))) iss s

def execExit (o : VOps) (s : State) : Host.Outcome State Fault Refusal := execWord (.exit o) exitBody s
def execYield (o : VOps) (s : State) : Host.Outcome State Fault Refusal := execWord (.yield o) yieldBody s
def execSleep (o : VOps) (s : State) : Host.Outcome State Fault Refusal := execWord (.sleep o) sleepBody s
def execNop (o : VOps) (s : State) : Host.Outcome State Fault Refusal := execWord (.nop o) (fun _ s => .skip s) s
def execElect (o : VOps) (s : State) : Host.Outcome State Fault Refusal := execWord (.elect o) (electBody o) s

/-- DONE of R155 for an identifier: the service group has started no operation, so each counts as done there. -/
def State.doneOp (s : State) (id : Dword) : Bool := id ≠ 0 && (s.isSvc || s.team.isDone id)

/-- SLEEPTO: the operation is done (its fault, if undelivered, is taken here), or the deadline has passed, or the
threads of P sleep (R155). -/
def sleeptoBody (o : VOps) : Body := fun iss s =>
  let g := s.group
  let deadline := (g.sreg o.a).toNat
  let id := g.sreg o.b
  if iss.p = 0 then .skip s
  else if s.doneOp id then
    match (if s.isSvc then none else s.joinFault id iss.p) with
    | some (s', r) => { s := s', raised := r }
    | none => Res.group s (Group.setS o.d 0)
  else if deadline ≤ s.cycle then Res.group s (Group.setS o.d 1)
  else Res.group s (Group.hold iss.p (.sleepto o.d iss.pc deadline id))

def execSleepto (o : VOps) (s : State) : Host.Outcome State Fault Refusal := execWord (.sleepto o) (sleeptoBody o) s

/-! ## Status registers and the clock (R156 to R158) -/

/-- TRAPSTAT (R162). -/
def trapstat (g : Group) : Nat :=
  match g.frame with
  | some f => 2 ^ 15 + toBit f.tog * 2 ^ 14 + f.low % 64 * 2 ^ 8
  | none => 0

/-- The status register of a number (R23, R24, R71, R156, R161, R162, R165). In the service group the registers of a team
or a grid, 2 to 8, 12 and 14, read 0 (DEDUCED, log 11). -/
def State.statusReg (s : State) (n : Nat) : Dword :=
  let g := s.group
  let t := s.team
  if s.isSvc && (2 ≤ n && n ≤ 8 || n = 12 || n = 14) then 0
  else match n with
  | 0 => g.flags
  | 1 => BitVec.ofNat 64 lanes
  | 2 => BitVec.ofNat 64 t.gridid
  | 3 => BitVec.ofNat 64 t.nteam
  | 4 => BitVec.ofNat 64 t.teamid
  | 5 => BitVec.ofNat 64 t.clid
  | 6 => BitVec.ofNat 64 t.clrank
  | 7 => BitVec.ofNat 64 (toBit t.tr * 256 + t.cols % 16 * 16 + t.rows % 16)
  | 8 => BitVec.ofNat 64 t.ngrp
  | 9 => BitVec.ofNat 64 s.grp
  | 10 => BitVec.ofNat 64 (dieOf s.core)
  | 11 => BitVec.ofNat 64 (s.core % 24)
  | 12 => BitVec.ofNat 64 t.partw
  | 13 => BitVec.ofNat 64 s.regalloc
  | 14 => BitVec.ofNat 64 (toBit t.hEn * 2 ^ 32 + t.hAddr)
  | 15 => BitVec.ofNat 64 (trapstat g)
  | 16 => g.trapmask
  | _ => 0

def rdsrBody (o : VOps) (clear : Bool) : Body := fun iss s =>
  let v := s.statusReg o.a
  perIssue (fun g =>
    let g := if clear then { g with flags := g.flags &&& ~~~63 } else g
    g.setS o.d v) iss s

def execRdsr (o : VOps) (s : State) : Host.Outcome State Fault Refusal := execWord (.rdsr o) (rdsrBody o false) s
def execRdsrC (o : VOps) (s : State) : Host.Outcome State Fault Refusal := execWord (.rdsrC o) (rdsrBody o true) s
def execRdclk (o : VOps) (s : State) : Host.Outcome State Fault Refusal :=
  execWord (.rdclk o) (fun iss s => perIssue (fun g => g.setS o.d (BitVec.ofNat 64 s.cycle)) iss s) s

/-! ## Software traps and returns (R159, R163, R166) -/

def execTrap (o : VOps) (s : State) : Host.Outcome State Fault Refusal :=
  execWord (.trap o) (fun iss s => { s := s, raised := ownAll iss.p { code := 0x20, sub := o.b } }) s

/-- The threads of P that are in the frame return; those outside it trap (R166). When the last of the frame return in the same issue,
the frame closes first, so the others open a frame of their own at once (R164; DESIGN CHOICE, log 65). -/
def tretBody (go : State → Dword → Group → State) : Body := fun iss s =>
  let g := s.group
  let inn := iss.p &&& g.trapmask
  { s := if inn = 0 then s else go s inn g, placed := inn, raised := ownAll (iss.p &&& ~~~inn) { code := 0x20, sub := 0x80 } }

/-- TRET: back to the trapped instruction, with its REPCNT. -/
def tretGo (s : State) (m : Dword) (g : Group) : State := s.returnFrom m (tget 0 g.retpc) (tget 0 g.retrep)

/-- TRET.SKIP: after it, or at the next repeat iteration (R132). -/
def skipGo (s : State) (m : Dword) (g : Group) : State :=
  let dest := fun l => s.skipTo (tget {} g.trapinfo l).code (tget 0 g.retpc l) (tget 0 g.retrep l)
  s.returnFrom m (fun l => (dest l).1) (fun l => (dest l).2)

/-- Tokens of the held threads of a team. -/
def Team.tokens (t : Team) : List Nat :=
  t.groups.flatMap fun g => g.2.waits.filterMap fun w => match w.kind with | .pass k => some k | _ => none
/-- Tokens in use: of held threads, of saved teams too, and of entries that no RESOLVE has named, whatever has become of their threads
(R431). -/
def State.tokens (s : State) : List Nat :=
  ((s.cores.flatMap fun c => match c.2.team with | some t => t.tokens | none => [])
    ++ s.savedTeams.flatMap Team.tokens ++ s.unresolved.map Prod.snd).dedup

/-- A token that names no held thread and no unresolved entry: the free choice, moved on past the tokens in use (R431; log 8). -/
def State.newToken (s : State) : Nat :=
  let used := s.tokens
  let base := Config.token s.tick
  ((List.range (used.length + 1)).map (fun i => (base + i) % 65536)).find? (fun t => !used.contains t) |>.getD 0

/-- A fault-queue entry (R431). -/
def State.fqEntry (s : State) (lane pc token : Nat) (x : TrapInfo) : BitVec 256 :=
  let t := s.team
  BitVec.ofNat 256 (x.va % 2 ^ 57 * 2 ^ 192 + x.opid.toNat * 2 ^ 128 + pc % 2 ^ 32 * 2 ^ 96 + t.ctx % 256 * 2 ^ 88
    + x.sub % 256 * 2 ^ 80 + token * 2 ^ 64 + t.gridid % 2 ^ 32 * 2 ^ 32 + dieOf x.core % 8 * 2 ^ 24
    + x.core % 24 * 2 ^ 19 + s.grp % 16 * 2 ^ 15 + lane * 2 ^ 9)

def FaultQueue.full (q : FaultQueue) : Bool := (q.tail + 1) % 256 = q.head
/-- Write the entry at RING·2^13 + 32·TAIL, as the die of the thread that passed, and advance TAIL (R430, R483). -/
def State.fqPost (s : State) (q : Nat) : State :=
  let f := tget {} s.fqs q
  match f.waiting with
  | [] => s
  | (die, e) :: rest =>
    if f.full then s
    else
      let s := s.physWrite (masterOf die) (f.ring * 2 ^ 13 + 32 * f.tail) (leBytes 32 e.toNat)
      { s with fqs := tput {} s.fqs q { f with tail := (f.tail + 1) % 256, waiting := rest } }

/-- One thread of TRET.PASS: held with its fault posted, or the grid ends (R166, R429, R430). -/
def passOne (s : State) (l : Nat) (g : Group) : State :=
  let x := tget {} g.trapinfo l
  let q := bits (s.ctxEntry s.team.ctx) 71 64
  let f := tget {} s.fqs q
  if x.code ≠ 0x0B ∨ !f.en then s.endGrid s.team.grid 2
  else
    let k := s.newToken
    let e := s.fqEntry l (tget 0 g.retpc l) k x
    let s := s.modGroup (Group.hold (laneBit l) (.pass k))
    let fqs := tput {} s.fqs q { f with waiting := f.waiting ++ [(dieOf s.core, e)] }
    ({ s with fqs := fqs, unresolved := s.unresolved ++ [(s.team.ctx, k)] } : State).fqPost q

def passGo (s : State) (m : Dword) (g : Group) : State :=
  ((lanesOf m).foldl (fun s l => passOne s l g) s).returnFrom m (tget 0 g.retpc) (tget 0 g.retrep)

def execTret (o : VOps) (s : State) : Host.Outcome State Fault Refusal := execWord (.tret o) (tretBody tretGo) s
def execTretSkip (o : VOps) (s : State) : Host.Outcome State Fault Refusal := execWord (.tretSkip o) (tretBody skipGo) s
/-- TRET.PASS waits while too few tokens are free for the threads that it passes (R431; DESIGN CHOICE, log 68). -/
def tretPassBody : Body := fun iss s =>
  if 2 ^ 16 < s.tokens.length + popMask (iss.p &&& s.group.trapmask) then { s := s, stay := true } else tretBody passGo iss s

def execTretPass (o : VOps) (s : State) : Host.Outcome State Fault Refusal := execWord (.tretPass o) tretPassBody s

end Sys2Proof.Machine
end

