-- ==== Sys2Proof/Machine/VectorInt.lean ====
section
/-! DEFINITION. Integer, logic, compare and lane-data instructions (R173 to R176, R182). -/
namespace Sys2Proof.Machine
open Sys2Proof

/-! ## Integer arithmetic (R173) -/

/-- The exact result, before wrap or clamp, of an arithmetic code; VMULH, VMIN and VMAX are exact in 32 bits. -/
def intFn (min : Nat) (sgn sat : Bool) (a b c : Word) : LaneRes :=
  let x := wordInt sgn a
  let y := wordInt sgn b
  match min with
  | 0 => intResult sgn sat (x + y)
  | 1 => intResult sgn sat (x - y)
  | 2 => intResult sgn sat (x * y)
  | 3 => { w := BitVec.ofInt 32 (x * y / 2 ^ 32) }
  | 4 => intResult sgn sat (x * y + wordInt sgn c)
  | 5 => { w := if y < x then b else a }
  | 6 => { w := if x < y then b else a }
  | _ => intResult sgn sat x.natAbs

/-- The body of an integer arithmetic code: sources of tag I32, N32 or RAW32, result of the suffix's tag. -/
def intBody (maj min : Nat) (o : VOps) : Body :=
  let sgn := maj = 0x08
  checkTags (fun g => intTag (g.tag o.a) && (min = 7 || tagB g o intTag) && (min ≠ 4 || intTag (g.tag (addendReg o))))
    (vecWrite o.d (if sgn then 7 else 8) (fun g l => intFn min sgn o.sat (vA g o l) (vB g o l) (vC g o l)))

/-! ## Bitwise, shift, select, move (R174) -/

def logicFn (min : Nat) (sel : Bool) (a b : Word) : Word :=
  let k := b.toNat % 32
  match min with
  | 0 => a &&& b
  | 1 => a ||| b
  | 2 => a ^^^ b
  | 3 => a <<< k
  | 4 => a >>> k
  | 5 => a.sshiftRight k
  | 6 => if sel then a else b
  | _ => a

def logicBody (min : Nat) (o : VOps) : Body := fun iss =>
  checkTags (fun g => anyTag (g.tag o.a) && (min = 7 || tagB g o anyTag))
    (fun iss s =>
      let t := s.group.tag o.a
      vecWrite o.d t (fun g l => { w := logicFn min ((g.mreg iss.set (o.c % 16)).getLsbD l) (vA g o l) (vB g o l) }) iss s) iss

/-! ## Compares (R175) -/

def condI (cc : Nat) (sgn : Bool) (a b : Word) : Bool :=
  let lt := fun (x y : Word) => if sgn then x.slt y else x.ult y
  if cc = 0 then a = b else if cc = 1 then a ≠ b else if cc = 2 then lt a b else if cc = 3 then !lt b a
  else if cc = 4 then lt b a else !lt a b

def cmpBody (sgn : Bool) (cc : Nat) (o : VOps) : Body :=
  checkTags (fun g => intTag (g.tag o.a) && tagB g o intTag)
    (maskWrite o.d (fun g l => (condI cc sgn (vA g o l) (vB g o l), 0)))

/-! ## Lane data (R176) and tags (R182) -/

def bcastBody (o : VOps) : Body := vecWrite o.d 0 (fun g _ => { w := (g.sreg o.a).setWidth 32 })
def extrBody (o : VOps) : Body :=
  checkTags (fun g => anyTag (g.tag o.a))
    (uniform (fun g =>
      let i := (g.sreg o.b).toNat
      g.setS o.d (if i < 64 then (g.lane o.a i).setWidth 64 else 0)))
def laneBody (o : VOps) : Body := vecWrite o.d 8 (fun _ l => { w := BitVec.ofNat 32 l })
def vtagBody (o : VOps) : Body :=
  checkTags (fun g => anyTag (g.tag o.a)) (vecWrite o.d o.b (fun g l => { w := vA g o l }))

def execVaddI32 (o : VOps) (s : State) : Host.Outcome State Fault Refusal := execWord (.vaddI32 o) (intBody 0x08 0 o) s
def execVsubI32 (o : VOps) (s : State) : Host.Outcome State Fault Refusal := execWord (.vsubI32 o) (intBody 0x08 1 o) s
def execVmulI32 (o : VOps) (s : State) : Host.Outcome State Fault Refusal := execWord (.vmulI32 o) (intBody 0x08 2 o) s
def execVmulhI32 (o : VOps) (s : State) : Host.Outcome State Fault Refusal := execWord (.vmulhI32 o) (intBody 0x08 3 o) s
def execVmadI32 (o : VOps) (s : State) : Host.Outcome State Fault Refusal := execWord (.vmadI32 o) (intBody 0x08 4 o) s
def execVminI32 (o : VOps) (s : State) : Host.Outcome State Fault Refusal := execWord (.vminI32 o) (intBody 0x08 5 o) s
def execVmaxI32 (o : VOps) (s : State) : Host.Outcome State Fault Refusal := execWord (.vmaxI32 o) (intBody 0x08 6 o) s
def execVabsI32 (o : VOps) (s : State) : Host.Outcome State Fault Refusal := execWord (.vabsI32 o) (intBody 0x08 7 o) s
def execVaddN32 (o : VOps) (s : State) : Host.Outcome State Fault Refusal := execWord (.vaddN32 o) (intBody 0x09 0 o) s
def execVsubN32 (o : VOps) (s : State) : Host.Outcome State Fault Refusal := execWord (.vsubN32 o) (intBody 0x09 1 o) s
def execVmulN32 (o : VOps) (s : State) : Host.Outcome State Fault Refusal := execWord (.vmulN32 o) (intBody 0x09 2 o) s
def execVmulhN32 (o : VOps) (s : State) : Host.Outcome State Fault Refusal := execWord (.vmulhN32 o) (intBody 0x09 3 o) s
def execVmadN32 (o : VOps) (s : State) : Host.Outcome State Fault Refusal := execWord (.vmadN32 o) (intBody 0x09 4 o) s
def execVminN32 (o : VOps) (s : State) : Host.Outcome State Fault Refusal := execWord (.vminN32 o) (intBody 0x09 5 o) s
def execVmaxN32 (o : VOps) (s : State) : Host.Outcome State Fault Refusal := execWord (.vmaxN32 o) (intBody 0x09 6 o) s
def execVand (o : VOps) (s : State) : Host.Outcome State Fault Refusal := execWord (.vand o) (logicBody 0 o) s
def execVor (o : VOps) (s : State) : Host.Outcome State Fault Refusal := execWord (.vor o) (logicBody 1 o) s
def execVxor (o : VOps) (s : State) : Host.Outcome State Fault Refusal := execWord (.vxor o) (logicBody 2 o) s
def execVshl (o : VOps) (s : State) : Host.Outcome State Fault Refusal := execWord (.vshl o) (logicBody 3 o) s
def execVshr (o : VOps) (s : State) : Host.Outcome State Fault Refusal := execWord (.vshr o) (logicBody 4 o) s
def execVsra (o : VOps) (s : State) : Host.Outcome State Fault Refusal := execWord (.vsra o) (logicBody 5 o) s
def execVsel (o : VOps) (s : State) : Host.Outcome State Fault Refusal := execWord (.vsel o) (logicBody 6 o) s
def execVmov (o : VOps) (s : State) : Host.Outcome State Fault Refusal := execWord (.vmov o) (logicBody 7 o) s
def execVcmpI32 (cc : Nat) (o : VOps) (s : State) : Host.Outcome State Fault Refusal := execWord (.vcmpI32 cc o) (cmpBody true cc o) s
def execVcmpN32 (cc : Nat) (o : VOps) (s : State) : Host.Outcome State Fault Refusal := execWord (.vcmpN32 cc o) (cmpBody false cc o) s
def execVbcast (o : VOps) (s : State) : Host.Outcome State Fault Refusal := execWord (.vbcast o) (bcastBody o) s
def execVextr (o : VOps) (s : State) : Host.Outcome State Fault Refusal := execWord (.vextr o) (extrBody o) s
def execVlane (o : VOps) (s : State) : Host.Outcome State Fault Refusal := execWord (.vlane o) (laneBody o) s
def execVtag (o : VOps) (s : State) : Host.Outcome State Fault Refusal := execWord (.vtag o) (vtagBody o) s

end Sys2Proof.Machine
end

