-- ==== Sys2Proof/Machine/VectorFloat.lean ====
section
/-! DEFINITION. Floating-point arithmetic, compares and special functions (R76, R177 to R181). -/
namespace Sys2Proof.Machine
open Sys2Proof

/-! ## Arithmetic (R177, R178) -/

/-- One element of a floating-point code. -/
def fltFn (f : Fmt) (min mode : Nat) (sat : Bool) (a b c : Nat) : FRes :=
  match min with
  | 0 => f.add mode sat a b
  | 1 => f.sub mode sat a b
  | 2 => f.mul mode sat a b
  | 3 => f.fma mode sat a b c
  | 4 => f.minmax false a b
  | 5 => f.minmax true a b
  | _ => f.copySign a b

/-- The body of an arithmetic code on elements of tag `tag` (1, 2 or 3). -/
def fltBody (tag min : Nat) (o : VOps) : Body :=
  let is := fun t => t = tag
  checkTags (fun g => is (g.tag o.a) && tagB g o is && (min ≠ 3 || is (g.tag (addendReg o))))
    (vecWrite o.d tag (fun g l => perElem tag (fun i =>
      fltFn (fmtOfTag tag) min (modeOf g o) o.sat (elemOf tag (vA g o l) i) (elemOf tag (vB g o l) i) (elemOf tag (vC g o l) i))))

/-- VFCLASS (R179): element 1 of an x2 format at bits [25:16]. -/
def classBody (tag : Nat) (o : VOps) : Body :=
  checkTags (fun g => g.tag o.a = tag)
    (vecWrite o.d 8 (fun g l =>
      let c := fun i => 2 ^ (fmtOfTag tag).classBit (elemOf tag (vA g o l) i)
      { w := BitVec.ofNat 32 (if elems tag = 1 then c 0 else c 0 + 2 ^ 16 * c 1) }))

/-- VFCMP (R180): the condition must hold for every element. -/
def fcmpBody (cc : Nat) (o : VOps) : Body :=
  let tag := o.d / 16 % 4 + 1
  checkTags (fun g => g.tag o.a = tag && tagB g o (fun t => t = tag))
    (maskWrite (o.d % 16) (fun g l =>
      let rs := (List.range (elems tag)).map (fun i => (fmtOfTag tag).cmp cc (elemOf tag (vA g o l) i) (elemOf tag (vB g o l) i))
      (rs.all Prod.fst, rs.foldl (fun a r => a ||| r.2) 0)))

/-! ## Special functions (R76, R181) -/

def sfuBody (fn : Nat) (o : VOps) : Body :=
  let ty := o.b % 4
  let tag := ty + 1
  checkTags (fun g => g.tag o.a = tag)
    (vecWrite o.d tag (fun g l => perElem tag (fun i => sfu fn ty (elemOf tag (vA g o l) i))))

def execVfaddF32 (o : VOps) (s : State) : Host.Outcome State Fault Refusal := execWord (.vfaddF32 o) (fltBody 1 0 o) s
def execVfsubF32 (o : VOps) (s : State) : Host.Outcome State Fault Refusal := execWord (.vfsubF32 o) (fltBody 1 1 o) s
def execVfmulF32 (o : VOps) (s : State) : Host.Outcome State Fault Refusal := execWord (.vfmulF32 o) (fltBody 1 2 o) s
def execVfmaF32 (o : VOps) (s : State) : Host.Outcome State Fault Refusal := execWord (.vfmaF32 o) (fltBody 1 3 o) s
def execVfminF32 (o : VOps) (s : State) : Host.Outcome State Fault Refusal := execWord (.vfminF32 o) (fltBody 1 4 o) s
def execVfmaxF32 (o : VOps) (s : State) : Host.Outcome State Fault Refusal := execWord (.vfmaxF32 o) (fltBody 1 5 o) s
def execVfsgnF32 (o : VOps) (s : State) : Host.Outcome State Fault Refusal := execWord (.vfsgnF32 o) (fltBody 1 6 o) s
def execVfclassF32 (o : VOps) (s : State) : Host.Outcome State Fault Refusal := execWord (.vfclassF32 o) (classBody 1 o) s
def execVfaddBf16 (o : VOps) (s : State) : Host.Outcome State Fault Refusal := execWord (.vfaddBf16 o) (fltBody 2 0 o) s
def execVfsubBf16 (o : VOps) (s : State) : Host.Outcome State Fault Refusal := execWord (.vfsubBf16 o) (fltBody 2 1 o) s
def execVfmulBf16 (o : VOps) (s : State) : Host.Outcome State Fault Refusal := execWord (.vfmulBf16 o) (fltBody 2 2 o) s
def execVfmaBf16 (o : VOps) (s : State) : Host.Outcome State Fault Refusal := execWord (.vfmaBf16 o) (fltBody 2 3 o) s
def execVfminBf16 (o : VOps) (s : State) : Host.Outcome State Fault Refusal := execWord (.vfminBf16 o) (fltBody 2 4 o) s
def execVfmaxBf16 (o : VOps) (s : State) : Host.Outcome State Fault Refusal := execWord (.vfmaxBf16 o) (fltBody 2 5 o) s
def execVfsgnBf16 (o : VOps) (s : State) : Host.Outcome State Fault Refusal := execWord (.vfsgnBf16 o) (fltBody 2 6 o) s
def execVfclassBf16 (o : VOps) (s : State) : Host.Outcome State Fault Refusal := execWord (.vfclassBf16 o) (classBody 2 o) s
def execVfaddF16 (o : VOps) (s : State) : Host.Outcome State Fault Refusal := execWord (.vfaddF16 o) (fltBody 3 0 o) s
def execVfsubF16 (o : VOps) (s : State) : Host.Outcome State Fault Refusal := execWord (.vfsubF16 o) (fltBody 3 1 o) s
def execVfmulF16 (o : VOps) (s : State) : Host.Outcome State Fault Refusal := execWord (.vfmulF16 o) (fltBody 3 2 o) s
def execVfmaF16 (o : VOps) (s : State) : Host.Outcome State Fault Refusal := execWord (.vfmaF16 o) (fltBody 3 3 o) s
def execVfminF16 (o : VOps) (s : State) : Host.Outcome State Fault Refusal := execWord (.vfminF16 o) (fltBody 3 4 o) s
def execVfmaxF16 (o : VOps) (s : State) : Host.Outcome State Fault Refusal := execWord (.vfmaxF16 o) (fltBody 3 5 o) s
def execVfsgnF16 (o : VOps) (s : State) : Host.Outcome State Fault Refusal := execWord (.vfsgnF16 o) (fltBody 3 6 o) s
def execVfclassF16 (o : VOps) (s : State) : Host.Outcome State Fault Refusal := execWord (.vfclassF16 o) (classBody 3 o) s
def execVfcmp (cc : Nat) (o : VOps) (s : State) : Host.Outcome State Fault Refusal := execWord (.vfcmp cc o) (fcmpBody cc o) s
def execVexp (o : VOps) (s : State) : Host.Outcome State Fault Refusal := execWord (.vexp o) (sfuBody 0 o) s
def execVexp2 (o : VOps) (s : State) : Host.Outcome State Fault Refusal := execWord (.vexp2 o) (sfuBody 1 o) s
def execVlog2 (o : VOps) (s : State) : Host.Outcome State Fault Refusal := execWord (.vlog2 o) (sfuBody 2 o) s
def execVrcp (o : VOps) (s : State) : Host.Outcome State Fault Refusal := execWord (.vrcp o) (sfuBody 3 o) s
def execVrsqrt (o : VOps) (s : State) : Host.Outcome State Fault Refusal := execWord (.vrsqrt o) (sfuBody 4 o) s
def execVsqrt (o : VOps) (s : State) : Host.Outcome State Fault Refusal := execWord (.vsqrt o) (sfuBody 5 o) s
def execVsin (o : VOps) (s : State) : Host.Outcome State Fault Refusal := execWord (.vsin o) (sfuBody 6 o) s
def execVcos (o : VOps) (s : State) : Host.Outcome State Fault Refusal := execWord (.vcos o) (sfuBody 7 o) s
def execVtanh (o : VOps) (s : State) : Host.Outcome State Fault Refusal := execWord (.vtanh o) (sfuBody 8 o) s
def execVsigm (o : VOps) (s : State) : Host.Outcome State Fault Refusal := execWord (.vsigm o) (sfuBody 9 o) s
def execVgelu (o : VOps) (s : State) : Host.Outcome State Fault Refusal := execWord (.vgelu o) (sfuBody 10 o) s

end Sys2Proof.Machine
end

