-- ==== Sys2Proof/Machine/Convert.lean ====
section
/-! DEFINITION. Conversions, block scales and zero points (R57 to R66, R183 to R186). -/
namespace Sys2Proof.Machine
open Sys2Proof

/-- A companion register's tag (R55). -/
def compTag (t : Nat) : Bool := t = 0 || t = 7 || t = 8

/-- The results of one lane of a conversion over several registers. -/
structure ConvRes where
  regs : List Word := []       -- the destination run
  comp : Option Word := none   -- the companion, when the conversion writes it
  fl : Nat := 0
  deriving DecidableEq, Repr

/-- Elements j of a lane's flat run from register r (R183). -/
def runElems (g : Group) (tag r n l : Nat) : List Nat :=
  (List.range n).map (fun j => elemOf tag (g.lane (r + j / elems tag) l) (j % elems tag))

/-- Registers from elements. -/
def packRun (tag : Nat) (cs : List Nat) : List Word :=
  let e := elems tag
  (List.range ((cs.length + e - 1) / e)).map (fun r => packElems tag ((cs.drop (r * e)).take e))

def isFlt (t : Nat) : Bool := t = 1 || t = 2 || t = 3
def isOb (t : Nat) : Bool := t = 11 || t = 12
def isInt (t : Nat) : Bool := t = 7 || t = 8 || t = 9 || t = 10

/-- An element times its block scale (R58): a NaN scale gives a quiet NaN. -/
def scaled (sc c : Nat) : Fv :=
  match scaleVal sc, E2M1.val c with
  | some (m, e), .fin n m' e' => .fin n (m * m') (e + e')
  | _, _ => .nan false

/-- A conversion's source element as a value; `z` is the lane's companion (R58, R61). -/
def srcVal (sf z c : Nat) : Fv :=
  if isInt sf then .fin (intVal sf c < 0) (intVal sf c).natAbs 0
  else if isOb sf then .fin ((c : Int) - z < 0) ((c : Int) - z).natAbs 0
  else if sf = 6 then scaled z c
  else (fmtOfTag sf).val c

/-- One element of a conversion to a format other than E2M1x8 (R184). -/
def dstCode (sf dt mode : Nat) (sat : Bool) (z : Nat) (x : Fv) : FRes :=
  if isOb dt then toObFmt dt mode z x
  else if isInt dt then
    if isFlt sf then toIntFmt dt mode x
    else
      let (lo, hi) := intRange dt
      let (v, fl) := clampTo lo hi (x.toInt 1).1
      ⟨intCode dt v, fl⟩
  else (fmtOfTag dt).ofV mode sat x

/-- The companion value of a lane: a block scale, or a zero point (R58, R62). -/
def compVal (t : Nat) (w : Word) : Nat := if t = 12 then bits w.toNat 3 0 else bits w.toNat 7 0

/-- One lane of VCVT (R183, R184). -/
def cvtLane (sf dt mode : Nat) (sat : Bool) (codes : List Nat) (comp : Word) : ConvRes :=
  let z := compVal (if isOb sf then sf else dt) comp
  let xs := codes.map (srcVal sf (if isOb sf ∨ sf = 6 then compVal sf comp else 0))
  if dt = 6 then
    let sc := fp4Scale xs
    let es := xs.map (fun x => if sc.code = 255 then (⟨0, 0⟩ : FRes) else fp4Elem mode sc.code x)
    { regs := packRun 6 (es.map FRes.code), comp := some (BitVec.ofNat 32 sc.code), fl := es.foldl (fun a r => a ||| r.fl) sc.fl }
  else
    let rs := xs.map (dstCode sf dt mode sat z)
    { regs := packRun dt (rs.map FRes.code), fl := rs.foldl (fun a r => a ||| r.fl) 0 }

/-- Lanes whose zero-point companion has bad bits (R62). -/
def badZero (g : Group) (t reg : Nat) (p : Dword) : List Nat :=
  if t = 12 then (lanesOf p).filter (fun l => bits (g.lane reg l).toNat 7 4 ≠ 0) else []

/-- Write a run of registers (and a companion) lane by lane, raise flags, trap the bad lanes alone (R50, R62). -/
def convWrite (d dtag comp : Nat) (bad : Group → Dword → List Nat) (f : Group → Nat → ConvRes) : Body := fun iss s =>
  let g := s.group
  let b := bad g iss.p
  let ls := (lanesOf iss.p).filter (fun l => !b.contains l)
  let rs := ls.map (fun l => (l, f g l))
  let n := (rs.map (fun r => r.2.regs.length)).foldl max 0
  let put := fun (g : Group) (i : Nat) => g.setV (d + i) dtag (rs.map (fun r => (r.1, r.2.regs.getD i 0)))
  let s := s.modGroup (fun g =>
    let g := (List.range n).foldl put g
    let g := g.setV comp 0 (rs.filterMap (fun r => r.2.comp.map (fun w => (r.1, w))))
    g.raise (rs.foldl (fun a r => a ||| r.2.fl) 0))
  { s := s, raised := { own := b.map (fun l => (l, { code := 3, sub := 0 })) } }

def allTag (g : Group) (t r n : Nat) : Bool := (List.range n).all (fun i => g.tag (r + i) = t)

def cvtBody (o : VOps) : Body :=
  let dt := o.bf % 16
  let sf := o.bf / 16 % 16
  let n := max (elems sf) (elems dt)
  let companion := sf = 6 || isOb sf || isOb dt
  checkTags (fun g => allTag g sf o.a (n / elems sf) && (!companion || compTag (g.tag o.c)))
    (convWrite o.d dt o.c (fun g p => badZero g (if isOb sf then sf else dt) o.c p)
      (fun g l => cvtLane sf dt (modeOf g o) o.sat (runElems g sf o.a n l) (g.lane o.c l)))

/-- VSCALE.APPLY (R185). -/
def applyBody (o : VOps) : Body :=
  let sf := o.bf / 16 % 16
  checkTags (fun g => allTag g sf o.a (8 / elems sf) && compTag (g.tag o.c))
    (convWrite o.d 6 0 (fun _ _ => []) (fun g l =>
      let sc := bits (g.lane o.c l).toNat 7 0
      let es := (runElems g sf o.a 8 l).map (fun c => fp4Elem (modeOf g o) sc ((fmtOfTag sf).val c))
      { regs := packRun 6 (es.map FRes.code), fl := es.foldl (fun a r => a ||| r.fl) 0 }))

/-- VSCALE.FIND (R185). -/
def findBody (o : VOps) : Body :=
  let sf := o.bf / 16 % 16
  checkTags (fun g => allTag g sf o.a (8 / elems sf))
    (vecWrite o.d 0 (fun g l =>
      let r := fp4Scale ((runElems g sf o.a 8 l).map (fmtOfTag sf).val)
      { w := BitVec.ofNat 32 r.code, fl := r.fl }))

/-- VZP.PACK (R186). -/
def zpPackBody (o : VOps) : Body :=
  let dt := o.bf % 16
  let sf := o.bf / 16 % 16
  checkTags (fun g => g.tag o.a = sf)
    (vecWrite o.d 0 (fun g l =>
      let (c, fl) := clampTo 0 (if dt = 11 then 255 else 15) (wordInt (sf = 7) (vA g o l))
      { w := BitVec.ofInt 32 c, fl := fl }))

/-- VZP.EXTR (R186). -/
def zpExtrBody (o : VOps) : Body :=
  let sf := o.bf / 16 % 16
  checkTags (fun g => compTag (g.tag o.a))
    (convWrite o.d 8 0 (fun g p => badZero g sf o.a p)
      (fun g l => { regs := [BitVec.ofNat 32 (compVal sf (vA g o l))] }))

def execVcvt (o : VOps) (s : State) : Host.Outcome State Fault Refusal := execWord (.vcvt o) (cvtBody o) s
def execVscaleApply (o : VOps) (s : State) : Host.Outcome State Fault Refusal := execWord (.vscaleApply o) (applyBody o) s
def execVscaleFind (o : VOps) (s : State) : Host.Outcome State Fault Refusal := execWord (.vscaleFind o) (findBody o) s
def execVzpPack (o : VOps) (s : State) : Host.Outcome State Fault Refusal := execWord (.vzpPack o) (zpPackBody o) s
def execVzpExtr (o : VOps) (s : State) : Host.Outcome State Fault Refusal := execWord (.vzpExtr o) (zpExtrBody o) s

end Sys2Proof.Machine
end

