-- ==== Sys2Proof/Machine/CrossLane.lean ====
section
/-! DEFINITION. Cross-lane moves, reductions, scans, ballots and top-k (R187 to R192). -/
namespace Sys2Proof.Machine
open Sys2Proof

/-! ## Moves (R187, R188) -/

/-- The source lane of VXLANE: DN 0, UP 1, BFLY 2; a lane off the edge reads itself. -/
def xlaneSrc (kind n l : Nat) : Nat :=
  if kind = 0 then (if l + n < 64 then l + n else l)
  else if kind = 1 then (if n ≤ l then l - n else l)
  else (if l ^^^ n < 64 then l ^^^ n else l)

def xlaneBody (kind : Nat) (o : VOps) : Body :=
  checkTags (fun g => anyTag (g.tag o.a)) (fun iss s =>
    vecWrite o.d (s.group.tag o.a) (fun g l => { w := g.lane o.a (xlaneSrc kind o.b l) }) iss s)

def shufBody (o : VOps) : Body :=
  checkTags (fun g => anyTag (g.tag o.a) && tagB g o intTag) (fun iss s =>
    vecWrite o.d (s.group.tag o.a) (fun g l =>
      let i := (vB g o l).toNat
      { w := if i < 64 then g.lane o.a i else 0 }) iss s)

/-! ## Reductions and scans (R189, R190) -/

/-- COMBINE of two present slots of type tag t (R189). -/
def combine (op t mode : Nat) (sat : Bool) (u w : Word) : LaneRes :=
  if isFlt t then
    let f := fmtOfTag t
    perElem t (fun i =>
      let a := elemOf t u i
      let b := elemOf t w i
      if op = 0 then f.add mode sat a b else f.minmax (op = 2) a b)
  else
    let sgn := t = 7
    if op = 0 then intResult sgn sat (wordInt sgn u + wordInt sgn w)
    else { w := atomOp op (if sgn then 0 else 1) u w }

/-- A lane's value in a tree: ABSENT is none. -/
abbrev Slot := Option Word

def combineS (op t mode : Nat) (sat : Bool) (u w : Slot) : Slot × Nat :=
  match u, w with
  | some a, some b => let r := combine op t mode sat a b; (some r.w, r.fl)
  | some a, none => (some a, 0)
  | none, w => (w, 0)

/-- One step of the reduction tree: lanes that are multiples of 2s take in lane L + s. -/
def redStep (f : Slot → Slot → Slot × Nat) (s : Nat) (x : List Slot × Nat) : List Slot × Nat :=
  let rs := (List.range 64).map (fun l =>
    if l % (2 * s) = 0 then f (x.1.getD l none) (x.1.getD (l + s) none) else (x.1.getD l none, 0))
  (rs.map Prod.fst, rs.foldl (fun a r => a ||| r.2) x.2)

/-- One step of the scan: lanes from s on take in lane L - s, every lane read first. -/
def scanStep (f : Slot → Slot → Slot × Nat) (s : Nat) (x : List Slot × Nat) : List Slot × Nat :=
  let rs := (List.range 64).map (fun l => if s ≤ l then f (x.1.getD (l - s) none) (x.1.getD l none) else (x.1.getD l none, 0))
  (rs.map Prod.fst, rs.foldl (fun a r => a ||| r.2) x.2)

/-- The slots of P, ABSENT elsewhere, after the six steps of a tree. -/
def runTree (step : (Slot → Slot → Slot × Nat) → Nat → List Slot × Nat → List Slot × Nat) (g : Group) (o : VOps) (p : Dword) :
    List Slot × Nat :=
  let x0 := (List.range 64).map (fun l => if p.getLsbD l then some (vA g o l) else none)
  let f := combineS (o.b % 8) (o.b / 8 % 16) (modeOf g o) o.sat
  [1, 2, 4, 8, 16, 32].foldl (fun x s => step f s x) (x0, 0)

def treeTags (o : VOps) (g : Group) : Bool :=
  let t := o.b / 8 % 16
  if isFlt t then g.tag o.a = t else g.tag o.a = t || g.tag o.a = 0

/-- VRED gives every lane of P the value of lane 0; VSCAN gives each its own. -/
def treeBody (scan : Bool) (o : VOps) : Body :=
  checkTags (treeTags o) (fun iss s =>
    let g := s.group
    let r := runTree (if scan then scanStep else redStep) g o iss.p
    Res.group s (fun g =>
      (g.setVF o.d (o.b / 8 % 16) iss.p (fun l => (r.1.getD (if scan then l else 0) none).getD 0)).raise r.2))

/-! ## Ballot (R191) -/

/-- VBALLOT. The bit of a guard-true thread that breaks a lookahead promise, which is not in P, is 0 while others perform
(DEDUCED, log 59). -/
def ballotBody (o : VOps) : Body := fun iss s =>
  checkTags (fun g => anyTag (g.tag o.a))
    (perIssue (fun g => g.setM o.d (maskOf ((lanesOf iss.p).filter (fun l => vA g o l ≠ 0))))) iss s

/-! ## Top-k (R192) -/

/-- An entry: score code, index. -/
structure TopEntry where
  score : Nat
  idx : Nat
  deriving DecidableEq, Repr

/-- Whether x sorts strictly before y: score descending with NaN below every number, then index ascending. -/
def topLess (x y : TopEntry) : Bool :=
  let a := F32.val x.score
  let b := F32.val y.score
  if a.isNan && b.isNan then x.idx < y.idx
  else if a.isNan then false
  else if b.isNan then true
  else if b.less false a then true
  else if a.less false b then false
  else x.idx < y.idx

/-- Insert after every entry that does not sort strictly after it: a stable insertion. -/
def topInsert (x : TopEntry) : List TopEntry → List TopEntry
  | [] => [x]
  | y :: r => if topLess x y then x :: y :: r else y :: topInsert x r

def topSort (l : List TopEntry) : List TopEntry := l.foldl (fun acc x => topInsert x acc) []

/-- Set a register's tag alone. -/
def Group.retag (n t : Nat) (g : Group) : Group := { g with v := tput {} g.v n { g.vreg n with tag := t } }

def topkBody (o : VOps) : Body :=
  let k := o.bf % 128 + 1
  let n := (k + 63) / 64
  checkTags (fun g => allTag g 1 o.d n && g.tag o.a = 1 && (List.range n).all (fun r => intTag (g.tag (o.c + r))) && intTag (g.tag o.b))
    (fun iss s =>
      let g := s.group
      let list := (List.range k).map (fun j => (⟨(g.lane (o.d + j / 64) (j % 64)).toNat, (g.lane (o.c + j / 64) (j % 64)).toNat⟩ : TopEntry))
      let cand := (lanesOf (g.mreg iss.set o.xf)).map (fun l => (⟨(vA g o l).toNat, (g.lane o.b l).toNat⟩ : TopEntry))
      let c := topSort (list ++ cand)
      let at' := fun (j : Nat) => c.getD j ⟨0, 0⟩
      let lanes := fun (r : Nat) => (lanesOf iss.p).filter (fun l => r * 64 + l < k)
      let put := fun (g : Group) (r : Nat) =>
        (((g.setV (o.d + r) 1 ((lanes r).map (fun l => (l, BitVec.ofNat 32 (at' (r * 64 + l)).score)))).setV (o.c + r) 8
          ((lanes r).map (fun l => (l, BitVec.ofNat 32 (at' (r * 64 + l)).idx)))).retag (o.d + r) 1).retag (o.c + r) 8
      uniform (fun g => (List.range n).foldl put g) iss s)

def execVxlaneDn (o : VOps) (s : State) : Host.Outcome State Fault Refusal := execWord (.vxlaneDn o) (xlaneBody 0 o) s
def execVxlaneUp (o : VOps) (s : State) : Host.Outcome State Fault Refusal := execWord (.vxlaneUp o) (xlaneBody 1 o) s
def execVxlaneBfly (o : VOps) (s : State) : Host.Outcome State Fault Refusal := execWord (.vxlaneBfly o) (xlaneBody 2 o) s
def execVshuf (o : VOps) (s : State) : Host.Outcome State Fault Refusal := execWord (.vshuf o) (shufBody o) s
def execVred (o : VOps) (s : State) : Host.Outcome State Fault Refusal := execWord (.vred o) (treeBody false o) s
def execVscan (o : VOps) (s : State) : Host.Outcome State Fault Refusal := execWord (.vscan o) (treeBody true o) s
def execVballot (o : VOps) (s : State) : Host.Outcome State Fault Refusal := execWord (.vballot o) (ballotBody o) s
def execVtopk (o : VOps) (s : State) : Host.Outcome State Fault Refusal := execWord (.vtopk o) (topkBody o) s

end Sys2Proof.Machine
end

