-- ==== Sys2Proof/Machine/RowStat.lean ====
section
/-! DEFINITION. Row statistics, running maximum, normalisation and the fused activation (R77, R80, R193 to R198). -/
namespace Sys2Proof.Machine
open Sys2Proof

/-! ## The array (R80, R193) -/

/-- An exact value as a multiple of 2^-149. -/
def statUnits (neg : Bool) (m : Nat) (e : Int) : Int :=
  let v : Int := m * 2 ^ (e + 149).toNat
  if neg then -v else v

/-- Accumulate one element. -/
def RowStat.acc (r : RowStat) (x : Fv) : RowStat :=
  let r := { r with n := r.n + 1 }
  match x with
  | .nan _ => { r with nan := true }
  | .inf n => if n then { r with negInf := true } else { r with posInf := true }
  | .fin n m e => let v := statUnits n m e; { r with sum := r.sum + v, sumsq := r.sumsq + v * v }

/-- Mean and variance as F32 codes, with flags (R80): an overflow sets INX with OVF (R71); a count past 2^32 - 1 gives NaN (R194). -/
def RowStat.meanVar (r : RowStat) : Nat × Nat × Nat :=
  if r.n = 0 then (F32.nan, F32.nan, 0)
  else if 2 ^ 32 ≤ r.n ∨ r.nan then (F32.nan, F32.nan, fINV)
  else if r.posInf || r.negInf then
    (if r.posInf && r.negInf then F32.nan else F32.sgn r.negInf F32.infCode, F32.nan, fINV)
  else
    let n : Int := r.n
    let mean := F32.round 0 false (r.sum < 0) r.sum.natAbs r.n (-149)
    let var := F32.round 0 false false (n * r.sumsq - r.sum * r.sum).toNat (r.n * r.n) (-298)
    (mean.code, var.code, if var.fl &&& fOVF = 0 then 0 else fOVF ||| fINX)

/-- BOUNDS 0x40 when an entry index lies past the team's entries (R194). The service group has no team, and so no entries:
there the instruction only moves on (DEDUCED, log 11). -/
def checkEntry (idx : Group → Nat) (body : Body) : Body := fun iss s =>
  let e := idx s.group
  if s.isSvc then .skip s
  else if iss.p ≠ 0 ∧ 128 * s.team.tiles ≤ e then { s := s, raised := ownAll iss.p { code := 8, sub := 0x40, off := e } }
  else body iss s

def State.stat (s : State) (e : Nat) : RowStat := tget {} s.team.rowstat e
def State.setStat (s : State) (e : Nat) (r : RowStat) : State := s.modTeam (fun t => { t with rowstat := tput {} t.rowstat e r })

def statIdx (o : VOps) (g : Group) : Nat := (g.sreg o.a).toNat

def statAccBody (o : VOps) : Body :=
  let tag := o.d / 4 % 4 + 1
  checkTags (fun g => tagB g o (fun t => t = tag)) (checkEntry (statIdx o) (fun iss s =>
    let g := s.group
    let e := statIdx o g
    let xs := (lanesOf iss.p).flatMap (fun l => (elemsOf tag (vB g o l)).map (fmtOfTag tag).val)
    if iss.p = 0 then .skip s else .skip (s.setStat e (xs.foldl RowStat.acc (s.stat e)))))

def statRdBody (o : VOps) : Body :=
  checkEntry (statIdx o) (fun iss s =>
    let (m, v, fl) := (s.stat (statIdx o s.group)).meanVar
    uniform (fun g => ((g.setVF o.b 1 iss.p (fun _ => BitVec.ofNat 32 m)).setVF (o.b + 1) 1 iss.p
      (fun _ => BitVec.ofNat 32 v)).raise fl) iss s)

def statClrBody (o : VOps) : Body :=
  checkEntry (statIdx o) (fun iss s => if iss.p = 0 then .skip s else .skip (s.setStat (statIdx o s.group) {}))

/-! ## VRMAX (R196) -/

/-- VFMAX over a list of codes, with flags. -/
def maxAll (cs : List Nat) : FRes :=
  match cs with
  | [] => ⟨F32.sgn true F32.infCode, 0⟩
  | [c] => if (F32.val c).isNan then F32.nanOf [F32.val c] else ⟨c, 0⟩
  | c :: r => r.foldl (fun a x => let m := F32.minmax true a.code x; ⟨m.code, m.fl ||| a.fl⟩) ⟨c, 0⟩

/-- The new maximum and the factor of one lane. -/
def rmaxLane (m : FRes) (b : Nat) : FRes × FRes :=
  let new := F32.minmax true b m.code
  let x := F32.val b
  let y := F32.val new.code
  if y.isNan then (new, ⟨F32.nan, 0⟩)
  else if !(x.less false y) && !(y.less false x) then (new, ⟨(F32.round 0 false false 1 1 0).code, 0⟩)
  else
    let d := F32.sub 0 false b new.code
    let r := sfu 1 0 d.code
    (new, ⟨r.code, r.fl ||| d.fl⟩)

def rmaxBody (o : VOps) : Body :=
  checkTags (fun g => g.tag o.a = 1 && tagB g o (fun t => t = 1)) (fun iss s =>
    let g := s.group
    let m := maxAll ((lanesOf iss.p).map (fun l => (vA g o l).toNat))
    let rs := (lanesOf iss.p).map (fun l => (l, rmaxLane m (vB g o l).toNat))
    let fl := rs.foldl (fun a r => a ||| r.2.1.fl ||| r.2.2.fl) m.fl
    uniform (fun g => ((g.setV o.d 1 (rs.map (fun r => (r.1, BitVec.ofNat 32 r.2.1.code)))).setV (o.d + 1) 1
      (rs.map (fun r => (r.1, BitVec.ofNat 32 r.2.2.code)))).raise fl) iss s)

/-! ## VNORM (R197) -/

/-- An exact difference of two values; none where it is invalid. -/
def Fv.subX (mode : Nat) (a b : Fv) : Option Fv :=
  match a, b with
  | .inf n, .inf n' => if n = n' then none else some (.inf n)
  | .inf n, _ => some (.inf n)
  | _, .inf n' => some (.inf !n')
  | x, y =>
    let d := x.dy.add y.dy.neg
    some (if d.m = 0 then .fin (zeroSign mode x y.flip) 0 0 else .fin (d.m < 0) d.m.natAbs d.e)

/-- ROUND((a - mu) · r), exact before the one rounding. -/
def normLane (mode : Nat) (sat : Bool) (a mu r : Nat) : FRes :=
  let x := F32.val a
  let m := F32.val mu
  let y := F32.val r
  if x.isNan || m.isNan || y.isNan then F32.nanOf [x, m, y]
  else match x.subX mode m with
    | none => F32.invalid
    | some d => F32.mulV mode sat d y

def normBody (o : VOps) : Body :=
  let idx := fun (g : Group) => bits (g.sreg o.b).toNat 31 0
  checkTags (fun g => g.tag o.a = 1) (checkEntry idx (fun iss s =>
    let g := s.group
    let (mu, var, fl) := (s.stat (idx g)).meanVar
    let t := F32.add 0 false var (bits (g.sreg o.b).toNat 63 32)
    let r := sfu 4 0 t.code
    if iss.p = 0 then .skip s
    else
      let res := vecWrite o.d 1 (fun g l =>
        let x := normLane (modeOf g o) o.sat (vA g o l).toNat mu r.code
        { w := BitVec.ofNat 32 x.code, fl := x.fl }) iss s
      { res with s := res.s.modGroup (Group.raise (fl ||| r.fl)) }))

/-! ## VFUSE (R77, R198) -/

/-- One element. Without SAT an overflow of t gives ±∞ in every mode: R198 says so of VFUSE, where R68 would let the mode
choose (DESIGN CHOICE, log 47). -/
def fuseElem (f : Fmt) (act ty mode : Nat) (sat : Bool) (x a b c : Nat) : FRes :=
  let t := F32.fmaV mode sat (f.val x) (f.val a) (f.val b)
  let t := if t.fl &&& fOVF = 0 then t else ⟨F32.sgn (2 ^ 31 ≤ t.code) F32.infCode, t.fl⟩
  let y := fuseOut f act ty sat t.code c
  ⟨y.code, t.fl ||| y.fl⟩

/-- VFUSE with ACT and TY given: XB is a, XC is b, XF is c. -/
def fuseWith (act ty : Nat) (o : VOps) : Body :=
  let tag := ty + 1
  checkTags (fun g => [o.a, o.b, o.c, o.xf % 1024].all (fun r => g.tag r = tag))
    (vecWrite o.d tag (fun g l => perElem tag (fun i =>
      let e := fun r => elemOf tag (g.lane r l) i
      fuseElem (fmtOfTy ty) act ty (modeOf g o) o.sat (e o.a) (e o.b) (e o.c) (e (o.xf % 1024)))))

def fuseBody (o : VOps) : Body := fuseWith (o.bf % 8) (o.bf / 8 % 4) o

def execVstatAcc (o : VOps) (s : State) : Host.Outcome State Fault Refusal := execWord (.vstatAcc o) (statAccBody o) s
def execVstatRd (o : VOps) (s : State) : Host.Outcome State Fault Refusal := execWord (.vstatRd o) (statRdBody o) s
def execVstatClr (o : VOps) (s : State) : Host.Outcome State Fault Refusal := execWord (.vstatClr o) (statClrBody o) s
def execVrmax (o : VOps) (s : State) : Host.Outcome State Fault Refusal := execWord (.vrmax o) (rmaxBody o) s
def execVnorm (o : VOps) (s : State) : Host.Outcome State Fault Refusal := execWord (.vnorm o) (normBody o) s
def execVfuse (o : VOps) (s : State) : Host.Outcome State Fault Refusal := execWord (.vfuse o) (fuseBody o) s

end Sys2Proof.Machine
end

