-- ==== Sys2Proof/Machine/Memory.lean ====
section
/-! DEFINITION. Loads and stores of buffers and scratchpads (R204 to R216). -/
namespace Sys2Proof.Machine
open Sys2Proof

/-! ## Lanes one after another -/

/-- What the lanes of an access leave: the state, each lane's answer, each faulting lane's trap. -/
structure LaneOut (α : Type) where
  s : State
  ok : List (Nat × α) := []
  bad : List (Nat × Trap) := []

def runLanes {α : Type} (f : State → Nat → State × (Trap ⊕ α)) (ls : List Nat) (s : State) : LaneOut α :=
  ls.foldl (fun out l =>
    match f out.s l with
    | (s, .inr v) => { out with s := s, ok := out.ok ++ [(l, v)] }
    | (s, .inl x) => { out with s := s, bad := out.bad ++ [(l, x)] }) { s := s }

/-! ## Fields -/

/-- Bytes of an access (R208, R209): a nibble counts as its byte. -/
def MemSize (o : MOps) : Nat := if o.ds then 8 else if o.size = 0 then 4 else if o.size = 1 then 2 else 1

/-- A loaded value as the slot that arrives (R208). -/
def loadSlot (o : MOps) (bs : List Byte) : Word :=
  let n := leNat bs
  if o.size = 0 then BitVec.ofNat 32 n
  else if o.tag = 7 then BitVec.ofInt 32 (signed (8 * bs.length) n) else BitVec.ofNat 32 n

/-- The lanes an access is performed for: the lowest alone when it is group-uniform (R209). -/
def accessLanes (o : MOps) (p : Dword) : List Nat := if o.ds then (lanesOf p).take 1 else lanesOf p

/-- Faulting lanes trap alone; a group-uniform access traps its whole set together (R213, R215). -/
def accessRaised (o : MOps) (p : Dword) (bad : List (Nat × Trap)) : Raised :=
  if o.ds then (match bad with | [] => {} | b :: _ => together p b.2) else { own := bad }

/-! ## Comparison points of a redundant copy (R446) -/

/-- The other copy's core of the issuing team. -/
def State.otherCore (s : State) : Nat :=
  let t := s.team
  (s.grid t.grid).place.getD (if t.twin then t.teamid else t.nteam + t.teamid) s.core

/-- A copy stands at a group's comparison point. -/
def Team.meet (g : Nat) (t : Team) : Team := { t with atCompare := if t.atCompare.contains g then t.atCompare else t.atCompare ++ [g] }

/-- A step at a comparison point: the copy waits for the comparison; then the primary performs the step once, and its
result is the other copy's too (R446). -/
def comparePoint (body : Body) : Body := fun iss s =>
  if !s.isRedundant ∨ iss.p = 0 then body iss s
  else if s.team.twin ∨ s.team.passed ≠ some s.grp then { s := s.modTeam (Team.meet s.grp), stay := true }
  else
    let r := body iss (s.modTeam (fun (t : Team) => { t with passed := none, atPoint := true, atCompare := t.atCompare.filter (· ≠ s.grp) }))
    { r with s := r.s.modTeam (fun (t : Team) => { t with atPoint := false }) }

/-- A nibble store or a RED of a redundant copy: its writes are held like a store's, and the copy waits at the point behind it
until they have been compared and performed (R445, R446). -/
def comparesAfter (body : Body) : Body := fun iss s =>
  let r := body iss s
  if !s.isRedundant ∨ r.s.team.held.length = s.team.held.length then r
  else { r with s := r.s.modTeam (fun (t : Team) => { t.meet s.grp with after := t.after ++ [s.grp] }) }

/-- The scalar registers that an instruction's step at a comparison point writes (R231, R236, R237, R239). -/
def resultRegs (i : Instr) : List Nat :=
  match i.qForm with
  | some (maj, qop, o) =>
    if maj = 0x2C then (if qop = 2 then [o.sa] else []) else if maj = 0x2D then (if qop = 2 ∨ qop = 3 then [o.x, o.x + 1] else [o.x]) else [o.sa]
  | none => []

/-- The twin's group does what the step did to the primary's: its threads move on, and it takes the results; registers that the
step did not write stay the twin's own (R446). -/
def Group.follow (old new : Group) (rs : List Nat) (g : Group) : Group :=
  let vs := (new.v.map Prod.fst).filter (fun n => old.vreg n ≠ new.vreg n)
  let g := { g with
    s := tfollow 0 old.s new.s g.s, m := tfollow 0 old.m new.m g.m, it := tfollow {} old.it new.it g.it
    v := vs.foldl (fun v n => tput {} v n { tag := (new.vreg n).tag, slots := tfollow 0 (old.vreg n).slots (new.vreg n).slots (tget {} v n).slots }) g.v
    pc := tfollow 0 old.pc new.pc g.pc, repcnt := tfollow 0 old.repcnt new.repcnt g.repcnt
    exited := (g.exited &&& ~~~(old.exited &&& ~~~new.exited)) ||| (new.exited &&& ~~~old.exited)
    waits := lfollow old.waits new.waits g.waits, windows := tfollow [] old.windows new.windows g.windows
    outstanding := lfollow old.outstanding new.outstanding g.outstanding, flags := g.flags ||| (new.flags &&& ~~~old.flags)
    frame := if old.frame = new.frame then g.frame else new.frame
    trapmask := if old.trapmask = new.trapmask then g.trapmask else new.trapmask
    retpc := tfollow 0 old.retpc new.retpc g.retpc, retrep := tfollow 0 old.retrep new.retrep g.retrep
    trapinfo := tfollow {} old.trapinfo new.trapinfo g.trapinfo, lastIssue := new.lastIssue, copyWait := new.copyWait }
  rs.foldl (fun g r => g.setS r (new.sreg r)) g

/-- After the primary's step, the twin's group does the same (DEDUCED, log 24). -/
def State.mirror (i : Instr) (s was : State) : State :=
  if was.isRedundant && !was.team.twin && was.team.passed = some was.grp then
    let t0 := s.team
    s.modTeamAt was.otherCore (fun (t : Team) => { t.setGroup s.grp (was.group.follow (t0.group s.grp) (resultRegs i) (t.group s.grp)) with
      atCompare := t.atCompare.filter (· ≠ s.grp) })
  else s

/-- Issue an instruction whose step is a comparison point in a redundant grid. -/
def execCompared (i : Instr) (body : Body) (s : State) : Host.Outcome State Fault Refusal :=
  .next ((runIssue i State.performReqs (s.issueOf (wordsOf i)) (comparePoint body) s).mirror i s)

/-! ## Loads -/

/-- What a load leaves: an outstanding result, windows for the threads that did not trap (R211). A scalar load into s0,
whose value is discarded (R209), has s0 as its destination like any other: its window promises s0 (DESIGN CHOICE,
log 38). -/
def loadDone (o : MOps) (p : Dword) (missed : Bool) (out : LaneOut (List Byte)) : Res :=
  let raised := accessRaised o p out.bad
  let went := p &&& ~~~raised.mask
  if out.ok.isEmpty then { s := out.s, raised := raised }
  else
    let dest := if o.ds then Dest.s o.d else Dest.v o.d
    let result := if o.ds then Result.scalar o.d (BitVec.ofNat 64 (leNat ((out.ok.headD (0, [])).2)))
      else Result.vec o.d o.tag (out.ok.map (fun v => (v.1, loadSlot o v.2)))
    { s := out.s.modGroup (fun g =>
        ({ g with outstanding := g.outstanding ++ [{ dests := [dest], results := [result], missed := missed }] } : Group).openWindow went o.la [dest])
      raised := raised }

/-- One lane of a buffer load: the checks of R213, which answer the addresses. -/
def ldCheck (o : MOps) (g : Group) (s : State) (l : Nat) : State × (Trap ⊕ (Nat × Nat)) :=
  let off := effOff g o.ov o.off o.lit l
  let idx := bufIndex g o.br o.bt
  match s.bufCheck idx o.br off off (MemSize o) .load with
  | (s, .trap x) => (s, .inl x)
  | (s, .ok pa va _) =>
    match s.readCheck idx off pa va { r := true } with
    | some x => (s, .inl x)
    | none => (s, .inr (pa, va))

/-- A load of the lanes that passed: their own queued stores are performed and their lines obtained first, so that all
lanes read one memory (R210, R294). It answers whether a line missed the near cache (R36), and whether each could be had, with no
own store to it still waiting for its line (R294, R474). -/
def State.loadLanes (s : State) (n : Nat) (ls : List (Nat × (Nat × Nat))) : State × List (Nat × List Byte) × Bool × Bool :=
  let s := ls.foldl (fun s l => s.drainOwn l.2.1 n) s
  let missed := ls.any (fun l => !permits (s.line s.core (l.2.1 / 128)) 3)
  let (s, had) := ls.foldl (fun (x : State × Bool) l => let s := x.1.readable l.2.1; (s, x.2 && s.canRead l.2.1 && !s.stores.any (s.ownReq l.2.1 n))) (s, true)
  (s, ls.map (fun l => (l.1, (s.loadBytes l.2.1 l.2.2 n).2)), missed, had)

def ldGo (o : MOps) : Body := fun iss s =>
  let g := s.group
  let out := runLanes (ldCheck o g) (accessLanes o iss.p) s
  let (s, ok, missed, had) := out.s.loadLanes (MemSize o) out.ok
  if had then loadDone o iss.p missed { s := s, ok := ok, bad := out.bad } else { s := s, stay := true }

def ldBody (o : MOps) : Body := checkTags (fun g => offTagOk g o.ov o.off) (ldGo o)

/-! ## Stores -/

/-- The bytes a lane stores (R208). -/
def storeData (o : MOps) (g : Group) (l : Nat) : List Byte :=
  if o.ds then leBytes 8 (g.sreg o.d).toNat else leBytes (MemSize o) (g.lane o.d l).toNat

/-- One lane of a buffer store: the checks, then a request; it answers whether its page is strongly ordered. A nibble store checks its byte and records its nibble
offset (R207, R213). -/
def stLane (o : MOps) (pc : Nat) (g : Group) (s : State) (l : Nat) : State × (Trap ⊕ Bool) :=
  let off := effOff g o.ov o.off o.lit l
  let idx := bufIndex g o.br o.bt
  let nib := o.size = 3
  match s.bufCheck idx o.br off (if nib then off / 2 else off) (MemSize o) .store with
  | (s, .trap x) => (s, .inl x)
  | (s, .ok pa va so) =>
    if nib ∧ s.isRedundant then
      (s.holdWrite { bt := idx % 4096, off := off, data := [BitVec.ofNat 8 ((g.lane o.d l).toNat % 16)], va := va, pa := pa
                     nib := some (off % 2 = 1), rep := tget 0 g.repcnt l, grp := s.grp, lane := l, pc := pc } l pc, .inr so)
    else if nib then
      let (s, id) := s.fresh
      (s.enqueue { id := id, core := s.core, grp := s.grp, lane := l, pc := pc, bt := idx % 4096, off := off, rep := tget 0 g.repcnt l,
                   owner := s.ownerOf s.core, kind := .nibble pa va (off % 2 = 1) (BitVec.ofNat 8 ((g.lane o.d l).toNat % 16)) }, .inr so)
    else (s.storeBytes pa va (storeData o g l) l pc (idx % 4096) off, .inr so)

/-- SO accesses are performed as they issue, so in each thread's program order (R287). -/
def stGo (o : MOps) : Body := fun iss s =>
  let g := s.group
  let out := runLanes (stLane o iss.ownPc g) (accessLanes o iss.p) s
  let s := if out.ok.any Prod.snd then out.s.drainGroup else out.s
  { s := if out.ok.isEmpty then s else s.irrevocable, raised := accessRaised o iss.p out.bad }

/-- A store accepts any data tag 0 to 12 (R208). -/
def dataTagOk (g : Group) (o : MOps) : Bool := o.ds || anyTag (g.tag o.d)

def stBody (o : MOps) : Body :=
  checkTags (fun g => offTagOk g o.ov o.off && dataTagOk g o) (stGo o)

/-- Whether a store is a comparison point of its own: a release wider than the team (R446). -/
def stCompares (o : MOps) : Bool := o.ord = 2 && 2 < o.scope
/-- A store in a redundant grid: a release wider than the team is performed at its point; a nibble store is compared behind it. -/
def stForm (o : MOps) : Body :=
  if stCompares o then comparePoint (stBody o) else if o.size = 3 then comparesAfter (stBody o) else stBody o

/-! ## Scratchpads (R28, R214, R304, R305) -/

/-- The core a scratchpad access reaches: the own one, or a rank's; a rank outside the cluster is SCOPE, taken
together. -/
def rankOf (o : MOps) (g : Group) : Nat := (g.sreg o.bt).toNat

def scopeFault (o : MOps) (x : Bool) (s : State) (p : Dword) : Option Raised :=
  let g := s.group
  let t := s.team
  if x ∧ p ≠ 0 ∧ t.rows * t.cols ≤ rankOf o g then
    some (together p { code := 0x0C, sub := 1, off := effOff g o.ov o.off o.lit (lowLane p) })
  else none

def State.scratchTarget (s : State) (o : MOps) (x : Bool) : Nat := if x then s.rankCore s.team (rankOf o s.group) else s.core

/-- One lane of a scratchpad load or store at core c. -/
def scratchLane (o : MOps) (x load : Bool) (c : Nat) (g : Group) (s : State) (l : Nat) : State × (Trap ⊕ List Byte) :=
  let off := effOff g o.ov o.off o.lit l
  match scratchCheck s.team off (MemSize o) x with
  | some t => (s, .inl t)
  | none =>
    if load then (s, .inr (((s.coreAt c).team.getD {}).scratchBytes off (MemSize o)))
    else (s.padWrite c off (storeData o g l), .inr [])

/-- A store with release performs the group's earlier stores first (R212, R300). -/
def State.release (s : State) (o : MOps) (load : Bool) : State := if o.ord = 2 ∧ !load then s.drainGroup else s

def scratchGo (o : MOps) (x load : Bool) : Body := fun iss s =>
  match scopeFault o x s iss.p with
  | some r => { s := s, raised := r }
  | none =>
    let g := s.group
    let s := if iss.p = 0 then s else s.release o load
    let out := runLanes (scratchLane o x load (s.scratchTarget o x) g) (accessLanes o iss.p) s
    let out := { out with s := if x && !out.ok.isEmpty && s.scratchTarget o x ≠ s.core then out.s.irrevocable else out.s }
    if load then loadDone o iss.p false out else { s := out.s, raised := accessRaised o iss.p out.bad }

def scratchBody (o : MOps) (x load : Bool) : Body :=
  checkTags (fun g => offTagOk g o.ov o.off && (load || dataTagOk g o)) (scratchGo o x load)

def execLd (o : MOps) (s : State) : Host.Outcome State Fault Refusal := execWord (.ld o) (ldBody o) s
def execSt (o : MOps) (s : State) : Host.Outcome State Fault Refusal :=
  if stCompares o then execCompared (.st o) (stBody o) s else execWord (.st o) (stForm o) s
def execSld (o : MOps) (s : State) : Host.Outcome State Fault Refusal := execWord (.sld o) (scratchBody o false true) s
def execSst (o : MOps) (s : State) : Host.Outcome State Fault Refusal :=
  if stCompares o then execCompared (.sst o) (scratchBody o false false) s
  else execWord (.sst o) (scratchBody o false false) s
/-- Whether LDX or STX reaches another core, or its store is a release wider than the team (R443, R446). -/
def xCompares (o : MOps) (load : Bool) (s : State) : Bool := s.scratchTarget o true ≠ s.core || (!load && stCompares o)
def execLdx (o : MOps) (s : State) : Host.Outcome State Fault Refusal :=
  if xCompares o true s then execCompared (.ldx o) (scratchBody o true true) s else execWord (.ldx o) (scratchBody o true true) s
def execStx (o : MOps) (s : State) : Host.Outcome State Fault Refusal :=
  if xCompares o false s then execCompared (.stx o) (scratchBody o true false) s else execWord (.stx o) (scratchBody o true false) s

end Sys2Proof.Machine
end

