-- ==== Sys2Proof/Machine/Atomic.lean ====
section
/-! DEFINITION. AMO, CAS and RED (R217 to R221). -/
namespace Sys2Proof.Machine
open Sys2Proof

/-- The tag of TYPE: I32, N32, F32, BF16x2 (R122). -/
def atomTag (ty : Nat) : Nat := if ty = 0 then 7 else if ty = 1 then 8 else if ty = 2 then 1 else 2
/-- Operands carry TYPE's tag; I32 and N32 also accept RAW32 and each other (R55, R218). -/
def atomTagOk (ty t : Nat) : Bool := if ty ≤ 1 then t = atomTag ty || t = 0 else t = atomTag ty

/-- One lane of AMO or CAS: the checks, then a request whose number the lanes share (R219). -/
def amoLane (o : AOps) (cas : Bool) (id pc : Nat) (g : Group) (s : State) (l : Nat) : State × (Trap ⊕ Bool) :=
  let off := effOff g o.ov o.off o.lit l
  let idx := bufIndex g o.br o.bt
  match s.bufCheck idx o.br off off 4 .atomic with
  | (s, .trap x) => (s, .inl x)
  | (s, .ok pa va so) =>
    match s.readCheck idx off pa va { r := true, w := true } with
    | some x => (s, .inl x)
    | none =>
      (s.enqueue { id := id, core := s.core, grp := s.grp, lane := l, pc := pc, bt := idx % 4096, off := off, rep := tget 0 g.repcnt l,
                   owner := s.ownerOf s.core, kind := .amo (if cas then 7 else o.op) o.ty pa va (g.lane o.b l) (g.lane o.c l) }, .inr so)

/-- An acquire, and an access to an SO page, is performed as it issues (R212, R287). -/
def amoGo (o : AOps) (cas : Bool) : Body := fun iss s =>
  let g := s.group
  let (s, id) := s.fresh
  let out := runLanes (amoLane o cas id iss.ownPc g) (lanesOf iss.p) s
  if out.ok.isEmpty then { s := out.s, raised := { own := out.bad } }
  else
    let went := maskOf (out.ok.map Prod.fst)
    let s := out.s.irrevocable.modGroup (fun g =>
        ({ g with outstanding := g.outstanding ++
            [{ req := id, dests := [.v o.d], results := [.vec o.d (atomTag o.ty) []] }] } : Group).openWindow went o.la [.v o.d])
    { s := if o.ord % 2 = 1 ∨ out.ok.any Prod.snd then s.drainGroup else s
      raised := { own := out.bad } }

def amoBody (o : AOps) (cas : Bool) : Body :=
  checkTags (fun g => offTagOk g o.ov o.off && atomTagOk o.ty (g.tag o.b) && (!cas || atomTagOk o.ty (g.tag o.c))) (amoGo o cas)

/-- A reduction that was checked is performed in the core's near cache, behind that core's queued requests to its bytes; while one of
these still waits for its line it is queued itself (R294, R474). A denial or bad data is a late fault (R216, R485). -/
def State.performRed (s : State) (r : MemReq) (pa va op ty : Nat) (v : Word) : State :=
  match s.target r pa va with
  | (s, some _) =>
    let before := fun (q : MemReq) => q.core = r.core && overlap pa 4 q.kind.span.1 q.kind.span.2
    let s := s.drainIf before
    if s.stores.any before then s.enqueue r else s.redAt r pa va op ty v
  | (s, none) => s

/-- One lane of RED: performed when it is combined into its core's partial (R220, R221), or held by a redundant copy (R445). -/
def redLane (o : AOps) (pc : Nat) (g : Group) (s : State) (l : Nat) : State × (Trap ⊕ Unit) :=
  let off := effOff g o.ov o.off o.lit l
  let idx := bufIndex g o.br o.bt
  match s.bufCheck idx o.br off off 4 .atomic with
  | (s, .trap x) => (s, .inl x)
  | (s, .ok pa va so) =>
    let rep := tget 0 g.repcnt l
    let v := g.lane o.b l
    if s.isRedundant then
      (s.holdWrite { bt := idx % 4096, off := off, data := leBytes 4 v.toNat, va := va, pa := pa, red := some (o.op, o.ty), rep := rep
                     grp := s.grp, lane := l, pc := pc } l pc, .inr ())
    else
      let s := if so then s.drainGroup else s
      let req : MemReq := { id := 0, core := s.core, grp := s.grp, lane := l, pc := pc, bt := idx % 4096, off := off, rep := rep
                            owner := s.ownerOf s.core, kind := .combine pa va o.op o.ty v }
      (s.performRed req pa va o.op o.ty v, .inr ())

/-- A release orders the group's earlier stores before it (R300). -/
def redGo (o : AOps) : Body := fun iss s =>
  let g := s.group
  let s := if o.ord = 2 then s.drainGroup else s
  let out := runLanes (redLane o iss.ownPc g) (lanesOf iss.p) s
  { s := if out.ok.isEmpty then out.s else out.s.irrevocable, raised := { own := out.bad } }

def redBody (o : AOps) : Body :=
  checkTags (fun g => offTagOk g o.ov o.off && atomTagOk o.ty (g.tag o.b)) (redGo o)

def execAmo (o : AOps) (s : State) : Host.Outcome State Fault Refusal := execCompared (.amo o) (amoBody o false) s
def execCas (o : AOps) (s : State) : Host.Outcome State Fault Refusal := execCompared (.cas o) (amoBody o true) s
def execRed (o : AOps) (s : State) : Host.Outcome State Fault Refusal := execWord (.red o) (comparesAfter (redBody o)) s

end Sys2Proof.Machine
end

