-- ==== Sys2Proof/Machine/Sync.lean ====
section
/-! DEFINITION. Fences and named barriers (R222 to R229), and the team's checkpoint (R442). -/
namespace Sys2Proof.Machine
open Sys2Proof

/-- Instructions that act on a team or a grid do nothing in the service group, which has neither (log 11). -/
def teamOnly (body : Body) : Body := fun iss s => if s.isSvc then .skip s else body iss s

/-! ## Fences (R222, R300) -/

/-- Every earlier access of the group is performed. -/
def fenceBody : Body := fun iss s => if iss.p = 0 then .skip s else .skip s.drainGroup

def execFence (o : QOps) (s : State) : Host.Outcome State Fault Refusal :=
  if 2 ≤ o.y ∧ 2 < o.x then execCompared (.fence o) fenceBody s else execWord (.fence o) fenceBody s

/-! ## Barriers (R223, R224) -/

/-- The core that holds a barrier: the team's own, or rank 0's of its cluster; both copies of a redundant team share
the primary's cluster barriers (R445, R446). -/
def State.barrierCore (s : State) (c b : Nat) : Nat :=
  if b < 16 then c
  else match (s.coreAt c).team with
    | some t => s.rankCore { t with twin := false } 0
    | none => c

def State.barrier (s : State) (c b : Nat) : Barrier :=
  match (s.coreAt (s.barrierCore c b)).team with | some t => tget {} t.barriers b | none => {}
def State.setBarrier (s : State) (c b : Nat) (x : Barrier) : State :=
  s.modTeamAt (s.barrierCore c b) (fun t => { t with barriers := tput {} t.barriers b x })

/-- A phase with p has passed when (PHASE − p) mod 2^32 lies in [1, 2^31) (R224). -/
def Barrier.passed (x : Barrier) (p : BitVec 32) : Bool := x.phase ≠ p && (x.phase - p).toNat < 2 ^ 31

/-- The teams that share a barrier with core c's. -/
def State.sharers (s : State) (c b : Nat) : List Nat :=
  if b < 16 then [c]
  else match (s.coreAt c).team with
    | some t => (s.cores.filter (fun x => match x.2.team with | some u => u.grid = t.grid && u.clid = t.clid | none => false)).map Prod.fst
    | none => []

/-- Threads that wait for a phase of barrier b that has passed go on (R224). -/
def State.releaseBarrier (s : State) (c b : Nat) : State :=
  let x := s.barrier c b
  let gone := fun k => match k with | WaitKind.barrier b' p => b' = b && x.passed p | _ => false
  (s.sharers c b).foldl (fun s d => s.modTeamAt d (fun t =>
    { t with groups := t.groups.map (fun g => (g.1, g.2.release gone)) })) s

/-- Whether a completing phase of barrier 0 is a checkpoint: every non-exited thread arrived with BARAW, and nothing
is outstanding (R442). -/
def Team.checkpoints (t : Team) (x : Barrier) : Bool :=
  (List.range t.ngrp).all (fun g => ~~~(t.group g).exited &&& ~~~(tget 0 x.baraw g) = 0)
    && t.ops.all (fun o => o.phase = .done)

def Barrier.full (x : Barrier) : Bool := x.init && x.tarr = x.tcount && x.earr = x.ecount

/-- Complete phases while a barrier is full; engine arrivals held for the next phase then count (R224, R228). -/
def State.completeBarrier (s : State) (c b : Nat) : Nat → State
  | 0 => s
  | n + 1 =>
    let x := s.barrier c b
    if !x.full then s
    else
      let k := min x.heldArr x.ecount
      let s := s.setBarrier c b { x with phase := x.phase + 1, tarr := 0, earr := k, heldArr := x.heldArr - k, baraw := [] }
      let s := s.releaseBarrier c b
      let s := if b = 0 then s.modTeamAt c (fun t => { t with cpDue := t.cpDue || t.checkpoints x }) else s
      s.completeBarrier c b n

/-- Count k thread arrivals, with the group and lanes of a BARAW. -/
def State.arrive (s : State) (c b k : Nat) (by_ : Option (Nat × Dword)) : State :=
  let x := s.barrier c b
  let x := { x with tarr := x.tarr + k
                    baraw := match by_ with | some (g, m) => tput 0 x.baraw g (tget 0 x.baraw g ||| m) | none => x.baraw }
  (s.setBarrier c b x).completeBarrier c b (x.heldArr + 1)

/-! ## The checkpoint (R442, R446) -/

def Team.snapshot (t : Team) : Checkpoint :=
  { active := match t.swap with | some w => t.active ++ [w.inGrp] | none => t.active
    pending := t.pending, groups := t.groups, barriers := t.barriers.filter (fun b => b.1 < 16), beta := t.beta, dbound := t.dbound
    scratch := t.scratch, acc := t.acc, rowstat := t.rowstat, walk := t.walk, ops := t.ops.filter (fun o => o.phase ≠ .done) }

/-- Record the state; a new interval begins. `point` is the group whose step at a comparison point comes next, 16 for none. -/
def Team.takeCheckpoint (t : Team) (point : Nat := 16) : Team :=
  { t with checkpoint := some { t.snapshot with point := point }, irrevocable := false, cpDue := false }

/-- Take the checkpoint that is due; a redundant copy first waits for the comparison. -/
def State.checkpointIf (s : State) (c : Nat) : State :=
  match (s.coreAt c).team with
  | some t =>
    if !t.cpDue then s
    else if (s.grid t.grid).record.getLsbD 88 then
      s.modTeamAt c (fun t => { t with cpDue := false, atCompare := if t.atCompare.contains 16 then t.atCompare else t.atCompare ++ [16] })
    else s.modTeamAt c (fun t => t.takeCheckpoint)
  | none => s

/-! ## Arrivals of engine operations (R228) -/

/-- An engine operation arrives, or is held for the next phase (R228); a checkpoint that a completed phase makes due is
taken at once (R442). -/
def State.engineArrive (s : State) (c b : Nat) : State :=
  let x := s.barrier c b
  if x.earr = x.ecount then s.setBarrier c b { x with heldArr := x.heldArr + 1 }
  else ((s.setBarrier c b { x with earr := x.earr + 1 }).completeBarrier c b (x.heldArr + 1)).checkpointIf c

/-! ## The barrier instructions (R225 to R229) -/

def overrun (sub b : Nat) : Trap := { code := 0x10, sub := sub, off := b }

/-- Threads that the cluster of a team holds. -/
def Team.clusterThreads (t : Team) : Nat := t.rows * t.cols * t.ngrp * lanes

/-- The configuration word of R226, or why it is refused (R229). -/
def barinitSub (t : Team) (b : Nat) (x : Barrier) (w : Nat) : Option Nat :=
  let tc := bits w 13 0
  let ec := bits w 23 16
  if tc + ec = 0 ∨ (if b < 16 then 1024 else t.clusterThreads) < tc ∨ bits w 63 24 ≠ 0 ∨ bits w 15 14 ≠ 0 then some 3
  else if x.tarr ≠ 0 ∨ x.earr ≠ 0 ∨ x.heldArr ≠ 0 then some 4
  else none

/-- A multicast names a barrier of a rank as its TBAR (R267). -/
def EngOp.names (o : EngOp) (rank b : Nat) : Bool :=
  match o.instr with
  | .cpym _ => let w := (o.words.getD 1 0).toNat; bits w 35 32 = b && bit (bits w 47 36) rank
  | _ => false

/-- An outstanding multicast of a team of the cluster, in the same copy of the grid, names barrier b of core c. -/
def State.multicastNamed (s : State) (c b : Nat) : Bool :=
  match (s.coreAt c).team with
  | some t => s.cores.any (fun x => match x.2.team with
    | some u => u.grid = t.grid && u.clid = t.clid && u.twin = t.twin && u.ops.any (fun o => o.phase ≠ .done && o.names t.clrank b)
    | none => false)
  | none => false

/-- An outstanding operation names the barrier: of a team that shares it, or a multicast to it. -/
def State.barrierNamed (s : State) (c b : Nat) : Bool :=
  (s.sharers c b).any (fun d => match (s.coreAt d).team with
    | some t => t.ops.any (fun o => o.phase ≠ .done && o.bar = some b) | none => false)
    || b < 16 && s.multicastNamed c b

def barinitBody (o : QOps) : Body := teamOnly (fun iss s =>
  let b := o.x
  let x := s.barrier s.core b
  let w := (s.group.sreg o.sa).toNat
  if iss.p = 0 then .skip s
  else
    let sub := match barinitSub s.team b x w with
      | some n => some n
      | none => if s.barrierNamed s.core b then some 4 else none
    match sub with
    | some n => { s := s, raised := together iss.p (overrun n b) }
    | none => .skip (s.setBarrier s.core b { x with tcount := bits w 13 0, ecount := bits w 23 16, init := true }))

/-- The cause that stops k arrivals (R229). -/
def arriveSub (x : Barrier) (k : Nat) : Option Nat :=
  if !x.init then some 2 else if x.tcount - x.tarr < k then some 1 else none

/-- An arrival is a release, and at cluster barriers an irrevocable step (R300, R443). -/
def State.arriveAll (s : State) (b : Nat) (p : Dword) (aw : Bool) : State :=
  let s := s.drainGroup
  let s := if b < 16 then s else s.irrevocable
  s.arrive s.core b (popMask p) (if aw then some (s.grp, p) else none)

def bararrBody (o : QOps) : Body := teamOnly (fun iss s =>
  let x := s.barrier s.core o.x
  if iss.p = 0 then .skip s
  else match arriveSub x (popMask iss.p) with
    | some n => { s := s, raised := together iss.p (overrun n o.x) }
    | none => Res.group (s.arriveAll o.x iss.p false)
        (fun g => (g.setS o.sa (x.phase.setWidth 64)).openWindow iss.p o.la [.s o.sa]))

/-- BARAW: the threads wait unless their arrival completed the phase. -/
def barawBody (o : QOps) : Body := teamOnly (fun iss s =>
  let x := s.barrier s.core o.x
  if iss.p = 0 then .skip s
  else match arriveSub x (popMask iss.p) with
    | some n => { s := s, raised := together iss.p (overrun n o.x) }
    | none =>
      let s := s.arriveAll o.x iss.p true
      if (s.barrier s.core o.x).passed x.phase then .skip s
      else Res.group s (Group.hold iss.p (.barrier o.x x.phase)))

def barwaitBody (o : QOps) : Body := teamOnly (fun iss s =>
  let x := s.barrier s.core o.x
  let p := (s.group.sreg o.sa).setWidth 32
  if iss.p = 0 then .skip s
  else if !x.init then { s := s, raised := together iss.p (overrun 2 o.x) }
  else if x.passed p then .skip s
  else Res.group s (Group.hold iss.p (.barrier o.x p)))

/-- The status word of R227. -/
def Barrier.status (x : Barrier) : Dword :=
  BitVec.ofNat 64 (toBit x.init * 2 ^ 57 + x.earr % 256 * 2 ^ 48 + x.tarr % 16384 * 2 ^ 32 + x.phase.toNat)

def barqBody (o : QOps) : Body := teamOnly (fun iss s =>
  let w := (s.barrier s.core o.x).status
  uniform (fun g => (g.setS o.sa w).openWindow iss.p o.la [.s o.sa]) iss s)

/-- Issue an arrival, then take the checkpoint that it made due. -/
def execArrival (i : Instr) (b : Nat) (body : Body) (s : State) : Host.Outcome State Fault Refusal :=
  match (if b < 16 then execWord i body s else execCompared i body s) with
  | .next s' => .next (s'.checkpointIf s'.core)
  | r => r

def execBarinit (o : QOps) (s : State) : Host.Outcome State Fault Refusal := execWord (.barinit o) (barinitBody o) s
def execBararr (o : QOps) (s : State) : Host.Outcome State Fault Refusal := execArrival (.bararr o) o.x (bararrBody o) s
def execBarwait (o : QOps) (s : State) : Host.Outcome State Fault Refusal := execWord (.barwait o) (barwaitBody o) s
def execBaraw (o : QOps) (s : State) : Host.Outcome State Fault Refusal := execArrival (.baraw o) o.x (barawBody o) s
def execBarq (o : QOps) (s : State) : Host.Outcome State Fault Refusal := execWord (.barq o) (barqBody o) s

end Sys2Proof.Machine
end

