-- ==== Sys2Proof/Machine/Engine.lean ====
section
/-! DEFINITION. Engine operations: identifiers, issue, the two queues of a core, completion and faults (R238 to R247),
and their accesses to memory. -/
namespace Sys2Proof.Machine
open Sys2Proof

/-! ## Classes of operations (R242, R345, R373) -/

/-- Operations of the matrix array's order: majors 0x34 and 0x38, and PWRUN. The others take the copy engine's. -/
def inMatrixOrder (i : Instr) : Bool :=
  match i.qForm with
  | some (maj, qop, _) => maj = 0x34 || maj = 0x38 || (maj = 0x3A && qop = 3)
  | none => false

/-- Operations that slave the follower's array (R42, R257, R349). -/
def isPair (i : Instr) : Bool :=
  match i.qForm with
  | some (maj, qop, _) => (maj = 0x34 && (qop = 3 || qop = 4)) || (maj = 0x3A && qop = 3)
  | none => false

def optOf (i : Instr) : Nat := match i.qForm with | some (_, _, o) => o.y | none => 0

/-- ENG of an identifier (R240). -/
def engOf (maj : Nat) : Nat := if maj = 0x30 then 1 else if maj = 0x34 then 2 else if maj = 0x38 then 4 else 3

def opId (maj serial : Nat) : Dword := BitVec.ofNat 64 (engOf maj * 2 ^ 60 + serial)
def EngOp.serial (o : EngOp) : Nat := bits o.id.toNat 47 0
def nextSerial (n : Nat) : Nat := if n = 2 ^ 48 - 1 then 1 else n + 1

def Team.outstanding (t : Team) (matrix : Bool) : List EngOp :=
  t.ops.filter (fun o => o.phase ≠ .done && inMatrixOrder o.instr = matrix)

/-! ## The bellwether pair (R41, R42) -/

def colOf (core : Nat) : Nat := core % 24 % 6

/-- The follower of a core: one column to the right, if the core stands in an even column. -/
def followerOf (core : Nat) : Option Nat := if colOf core % 2 = 0 then some (core + 1) else none

/-- R41: the follower holds a team of the same cluster of the same copy. -/
def State.pairOk (s : State) : Bool :=
  match followerOf s.core with
  | some f => match (s.coreAt f).team with
    | some u => u.grid = s.team.grid && u.clid = s.team.clid && u.twin = s.team.twin
    | none => false
  | none => false

/-- A running pair operation of the core to the left slaves this core's array. -/
def State.slaved (s : State) (c : Nat) : Bool :=
  colOf c % 2 = 1 && (match (s.coreAt (c - 1)).team with
    | some t => t.ops.any (fun o => o.phase = .running && isPair o.instr)
    | none => false)

/-- The array of a core is idle: its team runs no matrix operation. -/
def State.arrayIdle (s : State) (c : Nat) : Bool :=
  !s.slaved c && (match (s.coreAt c).team with
    | some t => t.ops.all (fun o => o.phase ≠ .running || !inMatrixOrder o.instr)
    | none => true)

/-! ## Issue (R239, R242, R245) -/

/-- An instruction that cannot issue yet: its queue is full, or its array is slaved. -/
def State.mustWait (s : State) (matrix : Bool) : Bool :=
  if matrix then 4 ≤ (s.team.outstanding true).length || s.slaved s.core
  else 16 ≤ (s.team.outstanding false).length

/-- The operand words s(SA+1) to s(SA+k), read before s(SA) is written. -/
def operandWords (g : Group) (sa k : Nat) : List Dword := (List.range k).map (fun i => g.sreg (sa + 1 + i))
def wordAt (ws : List Dword) (i : Nat) : Nat := (ws.getD i 0).toNat

/-- How many operations back one was started: 1 for the newest (R240, R275). -/
def Team.age (t : Team) (o : EngOp) : Nat := (t.serial + (2 ^ 48 - 1) - o.serial) % (2 ^ 48 - 1)

/-- Old statuses that the team no longer keeps: done, no undelivered fault, and not among the 255 newest before the
next one (R275). -/
def Team.prune (t : Team) : Team :=
  { t with ops := t.ops.filter (fun o => o.phase ≠ .done || o.undelivered.isSome || t.age o < 256) }

/-- R229 subcode 0x02 for an engine instruction that names a barrier. -/
def State.barCheck (s : State) (b : Nat) : Option Trap :=
  let x := s.barrier s.core b
  if !x.init ∨ x.ecount = 0 then some (overrun 2 b) else none

/-- What an engine instruction's entry adds: its checks in order, the barrier it names, its budget, values read at a
pre-check, and a further reason to wait. -/
structure EngSpec where
  k : Nat
  check : State → List Dword → State × Option Trap
  bar : List Dword → Nat
  late : State → List Dword → Option Trap := fun _ _ => none    -- a check after the barrier's
  budget : List Dword → Nat := fun _ => 0
  snap : State → List Dword → List Nat := fun _ _ => []
  wait : State → Bool := fun _ => false
  outside : State → List Dword → Bool := fun _ _ => false    -- writes a buffer, or reaches another core's scratchpad (R443)

/-- The cycle from which a budget counts: the issue, or when the wait for the queue began (R272). -/
def State.budgetFrom (s : State) (pc : Nat) : Nat :=
  match s.group.copyWait with | some (p, c) => if p = pc then c else s.cycle | none => s.cycle

/-- Start an operation: the fork edge, the identifier, the queued operation. For how many cycles a matrix operation
will hold the array is free (R19; log 2). -/
def State.startOp (s : State) (i : Instr) (o : QOps) (maj lane pc : Nat) (sp : EngSpec) (ws : List Dword) : State :=
  let snap := sp.snap s ws
  let out := sp.outside s ws
  let s := s.drainGroup
  let s := if out then s.irrevocable else s
  let serial := s.team.serial
  let op : EngOp :=
    { id := opId maj serial, instr := i, words := ws, lane := lane, pc := pc, grp := s.grp
      bar := if bit o.y 0 then some (sp.bar ws) else none
      budgetEnd := if sp.budget ws = 0 then none else some (s.budgetFrom pc + sp.budget ws), snap := snap, outside := out
      len := if inMatrixOrder i then s.choice 10 else 0 }
  let s := s.modTeam (fun t => { t.prune with serial := nextSerial serial, ops := t.prune.ops ++ [op] })
  s.modGroup (fun g => { (g.setS o.sa op.id) with copyWait := none })

/-- Check an engine instruction and start its operation (R245). -/
def engineGo (i : Instr) (o : QOps) (maj : Nat) (sp : EngSpec) : Body := fun iss s =>
  let ws := operandWords s.group o.sa sp.k
  match sp.check s ws with
  | (s, some x) => { s := s, raised := together iss.p x }
  | (s, none) =>
    match (if bit o.y 0 then s.barCheck (sp.bar ws) else none).orElse (fun _ => sp.late s ws) with
    | some x => { s := s, raised := together iss.p x }
    | none => .skip (s.startOp i o maj (lowLane iss.p) iss.pc sp ws)

/-- Issue an engine instruction: wait, check, start (R242, R245). -/
def engineBody (i : Instr) (o : QOps) (maj : Nat) (sp : EngSpec) : Body := teamOnly (fun iss s =>
  if iss.p = 0 then .skip s
  else if s.mustWait (inMatrixOrder i) || sp.wait s then { s := s, stay := true }
  else engineGo i o maj sp iss s)

def execEngine (i : Instr) (o : QOps) (maj : Nat) (sp : EngSpec) (s : State) : Host.Outcome State Fault Refusal :=
  execWord i (engineBody i o maj sp) s

/-! ## Start (R242) -/

def isSync (i : Instr) : Bool := bit (optOf i) 1

/-- An outstanding copy whose budget has run out (R272). -/
def State.isLate (s : State) (op : EngOp) : Bool :=
  op.phase ≠ .done && op.ran.isNone && (match op.budgetEnd with | some e => e < s.cycle | none => false)

/-- Operations that the team issued before one. -/
def Team.earlier (t : Team) (op : EngOp) : List EngOp := t.ops.takeWhile (fun o => o.id ≠ op.id)

/-- A queued operation that its queue and .SYNC let start: matrix operations one at a time, copies in issue order, unless its
budget has run out while it waited (R272). -/
def State.canStart (s : State) (c : Nat) (t : Team) (op : EngOp) : Bool :=
  let m := inMatrixOrder op.instr
  let before := (t.earlier op).filter (fun o => o.phase ≠ .done)
  op.phase = .queued && !s.isLate op
    && before.all (fun o => if inMatrixOrder o.instr = m then !m && o.phase = .running else !isSync op.instr)
    && (!m || !s.slaved c)
    && (!isPair op.instr || (match followerOf c with | some f => s.arrayIdle f | none => false))

/-! ## Completion (R228, R244, R246) -/

/-- An operation whose completion is a comparison point of a redundant grid: it has written a buffer or reached another core's
scratchpad, or it arrives at a cluster barrier (R443, R446; log 46). -/
def EngOp.compares (o : EngOp) : Bool := o.outside || o.bar.any (fun b => 16 ≤ b)

/-- Whether an operation of the issuing team that has run waits for the comparison (R446). -/
def State.comparesOp (s : State) (o : EngOp) : Bool := s.isRedundant && o.compares

/-- An operation is done: its status, then its arrival, at a cluster barrier an irrevocable step (R443), which of two copies the
primary alone performs (R446). -/
def State.finishOp (s : State) (c : Nat) (id : Dword) (f : Option OpFault) (done : Nat) : State :=
  match (s.coreAt c).team with
  | some t => match t.findOp id with
    | some o =>
      let s := s.modTeamAt c (fun t => t.modOp id (fun o => { o with phase := .done, ran := none, fault := f, donecnt := done }))
      match o.bar with
      | some b =>
        if b < 16 then s.engineArrive c b
        else
          let s := s.modTeamAt c (fun t => { t with irrevocable := true })
          if t.twin then s else s.engineArrive c b
      | none => s
    | none => s
  | none => s

/-- An operation has run to its end, its fault detected now: it is over, or in a redundant grid stands at its comparison point. -/
def State.ranOr (s : State) (c : Nat) (op : EngOp) (f : Option OpFault) (done : Nat) (fin : Option OpFault → State → State) : State :=
  let f := f.map (fun f => { f with cycle := s.cycle, core := c })
  if s.comparesOp op then
    s.modTeamAt c (fun t => t.modOp op.id (fun o => { o with phase := .running, ran := some f, donecnt := done }))
  else fin f s

/-- It has run, and what is left is its own completion. -/
def State.ranOp (s : State) (c : Nat) (op : EngOp) (f : Option OpFault) (done : Nat) : State :=
  s.ranOr c op f done (fun f s => s.finishOp c op.id f done)

/-- An operation that an issue has started and that has nothing to do completes with the issue, where it may start (R254, R263,
R362, R375). -/
def State.atOnce (was s : State) (idle : EngOp → Bool) (fin : EngOp → State → State) : State :=
  if s.isSvc ∨ s.team.serial = was.team.serial then s
  else match s.team.ops.getLast? with
    | some op => if idle op && s.canStart s.core s.team op then fin op s else s
    | none => s

/-- Issue an engine instruction whose operation may have nothing to do. -/
def execAtOnce (i : Instr) (idle : EngOp → Bool) (fin : EngOp → State → State) (body : Body) (s : State) :
    Host.Outcome State Fault Refusal :=
  .next (s.atOnce (runIssue i State.performReqs (s.issueOf (wordsOf i)) body s) idle fin)

/-! ## Accesses of an operation to memory (R213, R274) -/

/-- A request of an operation, whose late fault names the thread that issued it. -/
def EngOp.req (o : EngOp) (s : State) (bt off : Nat) (kind : ReqKind) : MemReq :=
  { id := 0, core := s.core, owner := s.ownerOf s.core, grp := o.grp, lane := o.lane, pc := o.pc, bt := bt, off := off, kind := kind }

inductive OpAcc where
  | ok (pa va : Nat)
  | fault (f : OpFault)
  deriving DecidableEq, Repr

/-- Steps 2 to 5 of R213, translation, the access table and bad data, for one access of the current core's team. -/
def State.opCheck (s : State) (idx off size : Nat) (k : AKind) : State × OpAcc :=
  match s.desc (dieOf s.core) s.team.ctx idx with
  | (s, d) =>
    let bad := fun (c : Nat × Nat) (va : Nat) => OpAcc.fault { code := c.1, sub := c.2, off := off, va := va, bt := idx }
    let rot := fun (va unit : Nat) => OpAcc.fault { code := 0x30, sub := 6, off := off, va := va, bt := idx, detail := unit }
    match descCheck s.team.ctx idx d k with
    | some c => (s, bad c 0)
    | none =>
      if bits d 111 64 < off + size then (s, bad (8, 1) 0)
      else
        let va := bits d 56 8 * 256 + off
        match s.translate s.core s.team.ctx va k.need with
        | (s, .fault n) => (s, bad (0x0B, n) va)
        | (s, .ok pa _) =>
          match s.access? (dieOf s.core) pa k.need with
          | .denied => (s, bad (9, 6) va)
          | .bad => (s, rot va (Acc.unit .bad))
          | .mem key => if s.poisoned key then (s, rot va (Acc.unit (.mem key))) else (s, .ok pa va)
          | .peer _ => (s, .ok pa va)
          | .reg _ => (s, .ok pa va)

/-- Bytes that stand where an operation reads, its copy's held writes over them (R445). -/
def State.opPeek (s : State) (pa va n : Nat) : List Byte := s.seen va (s.readAcc (s.access? (dieOf s.core) pa { r := true }) n)

/-- An operation's step goes on if a line that it needs could be had (R464). -/
def State.needs (ok : Bool) (s : State) : State := if ok then s else { s with stuck := true }
/-- A step of an operation that was not made for want of a line: its refused requests are sent again, and the step comes again (R464; log 83). -/
def State.balked (s t : State) : State := { s with retries := t.retries }

/-- Bytes that an operation reads, if it can have their line. -/
def State.opRead (s : State) (pa va n : Nat) : State × List Byte :=
  let s := s.readable pa
  let s := s.needs (s.canRead pa)
  (s, s.opPeek pa va n)

/-- One access to a line at its home, where it is cached nowhere (R219, R355, R363, R488), if it can be made so. -/
def State.atHome (s : State) (pa : Nat) (rd : Bool) : State :=
  let t := s.uncache (pa / 128)
  (t.needs (t.uncached (pa / 128))).reach (dieOf s.core) (s.homeOf pa) rd

/-- A redundant copy holds a write of an operation's, whose late fault names the thread that issued it. It is no lane access, so the
limit of R447 does not count it (R445; log 9). -/
def State.holdEngine (s : State) (op : EngOp) (h : HeldWrite) : State :=
  s.modTeam (fun t => { t with held := t.held ++ [{ h with grp := op.grp, lane := op.lane, pc := op.pc }] })

/-- The step of an operation on a line that left a request in the queue could not have the line. -/
def State.unlessQueued (s t : State) : State := t.needs (t.stores.length ≤ s.stores.length)

/-- Bytes that an operation writes to a buffer; a redundant copy holds them. -/
def State.opWrite (s : State) (op : EngOp) (idx off pa va : Nat) (bs : List Byte) : State :=
  if s.isRedundant then s.holdEngine op { bt := idx, off := off, data := bs, va := va, pa := pa }
  else
    let a := s.access? (dieOf s.core) pa { w := true }
    if s.isReg pa then s.writeAcc a bs else s.unlessQueued (s.storeAt (op.req s idx off (.store pa va bs)) pa a bs)

/-- A reduction of an operation's: into its core's partial (R220), or held. -/
def State.opRed (s : State) (op : EngOp) (idx off pa va code ty : Nat) (v : Word) : State :=
  if s.isRedundant then s.holdEngine op { bt := idx, off := off, data := leBytes 4 v.toNat, va := va, pa := pa, red := some (code, ty) }
  else s.unlessQueued (s.redAt (op.req s idx off (.combine pa va code ty v)) pa va code ty v)

/-- One indivisible step of an operation's on a word at its home (R219, R355), or held. -/
def State.opAtomic (s : State) (op : EngOp) (idx off pa va code : Nat) : State :=
  if s.isRedundant then s.holdEngine op { bt := idx, off := off, data := leBytes 4 code, va := va, pa := pa, red := some (code, 0) }
  else
    let a := s.access? (dieOf s.core) pa { w := true }
    let s := s.atHome pa true
    s.writeAcc a (leBytes 4 (atomOp code 0 (BitVec.ofNat 32 (leNat (s.readAcc a 4))) 0).toNat)

/-! ## Comparison points of operations (R446) -/

/-- The number of an operation's comparison point: 32 and more, by its group and its place among the group's operations that are
compared and not done, which both copies count alike (log 46). -/
def Team.opPoint (t : Team) (op : EngOp) : Nat :=
  32 + 16 * ((t.earlier op).filter (fun o => o.phase ≠ .done && o.compares && o.grp = op.grp)).length + op.grp

/-- The comparison points at which a copy stands: of groups, a checkpoint's, and of operations that have run. -/
def Team.points (t : Team) : List Nat := t.atCompare ++ (t.ops.filter (fun o => o.ran.isSome)).map t.opPoint

/-- The operation at a point. -/
def Team.opAtPoint (t : Team) (g : Nat) : Option EngOp := t.ops.find? (fun o => o.ran.isSome && t.opPoint o = g)

/-- A copy waits at a comparison point until its other copy reaches it. Where the other stands at a different one, each goes on to
the other's (R446; DEDUCED, log 46). -/
def State.copyWaits (s : State) (c : Nat) : Bool :=
  match (s.coreAt c).team with
  | some t =>
    (s.grid t.grid).record.getLsbD 88 && !t.points.isEmpty
      && (match (s.coreAt ((s.grid t.grid).place.getD (if t.twin then t.teamid else t.nteam + t.teamid) c)).team with
          | some u => u.points.isEmpty || t.points.any u.points.contains
          | none => false)
  | none => false

/-! ## Runs of an operation (R247, R345, R382) -/

/-- What a run of an operation leaves: the state, the fault that ends it, DONECNT, the interrupt point reached, what its
sequencer holds there. -/
structure OpOut where
  s : State
  fault : Option OpFault := none
  done : Nat := 0
  pos : Nat := 0
  inner : List Nat := []

/-- Units from one interrupt point to another, or to the end. -/
def unitsFrom (n pos : Nat) (upTo : Option Nat) : List Nat := (List.range (min n (upTo.getD n))).drop pos

/-- Run some units one after another, until one faults. -/
def runUnits (f : State → List Nat → Nat → State × Option OpFault × List Nat) : List Nat → OpOut → OpOut
  | [], o => o
  | u :: r, o => match f o.s o.inner u with
    | (s, some x, i) => { o with s := s, fault := some x, inner := i }
    | (s, none, i) => runUnits f r { o with s := s, inner := i, pos := u + 1 }

/-! ## CPYST (R275) -/

/-- The status word. -/
def Team.opStatus (t : Team) (id : Dword) : Dword :=
  match t.findOp id with
  | none => BitVec.ofNat 64 (2 ^ 62)
  | some o =>
    if o.phase = .done ∧ o.undelivered.isNone ∧ 256 < t.age o then BitVec.ofNat 64 (2 ^ 62)
    else BitVec.ofNat 64 (2 ^ 63 + toBit (o.phase = .done) * 2 ^ 62 + o.refuse % 4096 * 2 ^ 48 + o.donecnt % 2 ^ 32
      + (match o.fault with
         | some f => 2 ^ 61 + toBit o.delivered * 2 ^ 60 + f.code % 256 * 2 ^ 40 + f.sub % 256 * 2 ^ 32
         | none => 0))

def cpystBody (o : QOps) : Body := teamOnly (fun iss s =>
  let id := s.group.sreg (o.sa + 1)
  if iss.p = 0 then .skip s
  else match s.joinFault id iss.p with
    | some (s', r) => { s := s', raised := r }
    | none => Res.group s (Group.setS o.sa (s.team.opStatus id)))

def execCpyst (o : QOps) (s : State) : Host.Outcome State Fault Refusal := execWord (.cpyst o) (cpystBody o) s

end Sys2Proof.Machine
end

