-- ==== Sys2Proof/Machine/Matrix.lean ====
section
/-! DEFINITION. The matrix array: layout words, multiplies, the accumulator read and write paths (R248 to R261). -/
namespace Sys2Proof.Machine
open Sys2Proof

/-! ## Layout words (R248 to R251) -/

structure Lay where
  base : Nat
  fmt : Nat
  r : Nat
  k : Nat
  pitch : Nat
  tr : Bool
  sp : Bool
  scl : Nat
  ptr : Nat        -- META
  ok : Bool        -- reserved bits are 0
  deriving DecidableEq, Repr

/-- A layout word from its two registers. Offsets are in bytes. -/
def layOf (w0 w1 : Nat) : Lay :=
  let w := w0 + bits w1 31 0 * 2 ^ 64
  { base := 16 * bits w 17 0, fmt := bits w 21 18, r := bits w 28 22 + 1, k := 8 * (bits w 35 29 + 1)
    pitch := 16 * bits w 51 36, tr := bit w 52, sp := bit w 53, scl := 16 * bits w 71 54, ptr := 16 * bits w 89 72
    ok := bits w 95 90 = 0 && bits w1 63 32 = 0 }

/-- Element width in nibbles. -/
def fmtNibbles (f : Nat) : Nat := if f = 2 ∨ f = 3 then 4 else if f = 6 ∨ f = 12 then 1 else 2
/-- Formats with a companion array. -/
def hasScl (f : Nat) : Bool := f = 6 || f = 11 || f = 12
/-- Elements of a block (R250). -/
def blockLen (f : Nat) : Nat := if f = 11 then 4 else 8
/-- Classes of R252: 16-bit float by its format, 8-bit float, 4-bit float, 8-bit integer, 4-bit integer; 0 for none. -/
def fmtClass (f : Nat) : Nat :=
  if f = 2 then 2 else if f = 3 then 3 else if f = 4 ∨ f = 5 then 4 else if f = 6 then 6
  else if f = 10 ∨ f = 11 then 10 else if f = 12 then 12 else 0
def intClass (f : Nat) : Bool := f = 10 || f = 11 || f = 12

/-- Stored elements of a row. -/
def Lay.ks (y : Lay) : Nat := if y.sp then y.k / 2 else y.k
def Lay.nb (y : Lay) : Nat := y.ks / blockLen y.fmt

/-- Where an area of the operand ends. -/
def Lay.ends (y : Lay) : List Nat :=
  let outer := if y.tr then y.ks else y.r
  let inner := if y.tr then y.r else y.ks
  [y.base + (outer - 1) * y.pitch + (inner * fmtNibbles y.fmt + 1) / 2]
    ++ (if hasScl y.fmt then [y.scl + 16 + y.r * y.nb] else []) ++ (if y.sp then [y.ptr + y.r * (y.k / 8)] else [])

/-- Whether the word passes step 3 of R256 by itself. -/
def Lay.legal (y : Lay) (wantSp : Bool) : Bool :=
  y.ok && fmtClass y.fmt ≠ 0 && y.sp = wantSp && y.pitch ≠ 0
    && (!y.sp || (y.fmt ≠ 6 && y.fmt ≠ 12) || y.k % 16 = 0)

def Team.padNat (t : Team) (off n : Nat) : Nat := leNat (t.scratchBytes off n)

/-- The code of stored element (r, s) (R249). -/
def Lay.stored (y : Lay) (t : Team) (r s : Nat) : Nat :=
  let n := fmtNibbles y.fmt
  let nib := if y.tr then 2 * (s * y.pitch) + r * n else 2 * (r * y.pitch) + s * n
  if n = 1 then bits (t.padNat (y.base + nib / 2) 1) (4 * (nib % 2) + 3) (4 * (nib % 2)) else t.padNat (y.base + nib / 2) (n / 2)

/-- The block byte of stored element (r, s) (R250). -/
def Lay.blockAt (y : Lay) (r s : Nat) : Nat := y.scl + 16 + r * y.nb + s / blockLen y.fmt
def Lay.blockByte (y : Lay) (t : Team) (r s : Nat) : Nat := t.padNat (y.blockAt r s) 1

/-- The value of an FP4 element under a block scale (R57, R58). -/
def fp4Val (code scale : Nat) : Fv :=
  match scaleVal scale, E2M1.val code with
  | none, _ => .nan false
  | some (sm, se), .fin n m e => .fin n (m * sm) (e + se)
  | _, x => x

/-- The exact value of stored element (r, s), band scale included (R58 to R61). -/
def Lay.storedVal (y : Lay) (t : Team) (r s : Nat) : Fv :=
  let c := y.stored t r s
  if y.fmt = 6 then
    let v := fp4Val c (y.blockByte t r s)
    match BF16.val (t.padNat (y.scl + 2 * (r / 64)) 2) with
    | .fin n m e => if v.isNan then v else v.mul (.fin n m e)
    | _ => .nan false
  else if intClass y.fmt then
    let z := if y.fmt = 11 then y.blockByte t r s else if y.fmt = 12 then y.blockByte t r s % 16 else 0
    let v : Int := if y.fmt = 10 then signed 8 c else (c : Int) - z
    .fin (v < 0) v.natAbs 0
  else (fmtOfTag y.fmt).val c

/-- The nibble of positions of quad q of a row, and its byte (R251). -/
def Lay.quadAt (y : Lay) (r q : Nat) : Nat := y.ptr + r * (y.k / 8) + q / 2
def Lay.quad (y : Lay) (t : Team) (r q : Nat) : Nat × Nat :=
  let n := bits (t.padNat (y.quadAt r q) 1) (4 * (q % 2) + 3) (4 * (q % 2))
  (n % 4, n / 4)

/-- VAL(X, r, k): an element that 2:4 compression leaves out is exactly 0. -/
def Lay.value (y : Lay) (t : Team) (r k : Nat) : Fv :=
  if !y.sp then y.storedVal t r k
  else
    let (a, b) := y.quad t r (k / 4)
    if k % 4 = a then y.storedVal t r (2 * (k / 4))
    else if k % 4 = b then y.storedVal t r (2 * (k / 4) + 1)
    else .fin false 0 0

/-- The scratchpad offsets of the bad data that k-group g of the operand holds: positions out of order, zero points
of OB4 with high bits (R256, "Operand data faults"). -/
def Lay.badIn (y : Lay) (t : Team) (g : Nat) : List Nat :=
  let ks := (List.range (min 32 (y.k - 32 * g))).map (· + 32 * g)
  (List.range y.r).flatMap fun r => ks.flatMap fun k =>
    (if y.sp ∧ k % 4 = 0 then (let (a, b) := y.quad t r (k / 4); if a < b then [] else [y.quadAt r (k / 4)]) else [])
      ++ (if y.fmt = 12 then
            (let s := if y.sp then k / 2 else k
             if 16 ≤ y.blockByte t r s then [y.blockAt r s] else [])
          else [])

/-! ## Exact sums (R73) -/

/-- An exact sum of values: NaN for a NaN or for both infinities; −0 only when every term is −0 (R68). -/
def sumV (xs : List Fv) : Fv :=
  if xs.any Fv.isNan ∨ (xs.contains (.inf false) ∧ xs.contains (.inf true)) then .nan false
  else if xs.contains (.inf false) then .inf false
  else if xs.contains (.inf true) then .inf true
  else
    let d := xs.foldl (fun d x => d.add x.dy) Dy.zero
    if d.m = 0 then .fin (!xs.isEmpty && xs.all (fun x => x.isZero && x.sign)) 0 0 else .fin (d.m < 0) d.m.natAbs d.e

/-- A value rounded once to F32 in RNE, without flags. -/
def rnd (x : Fv) : Nat := (F32.ofV 0 false x).code
/-- An exact sum rounded once to F32. -/
def sumRound (xs : List Fv) : Nat := rnd (sumV xs)

/-- An exact product; a NaN, and 0 times infinity, give NaN (R70). -/
def prodV (a b : Fv) : Fv :=
  if a.isNan || b.isNan || (a.isInf && b.isZero) || (a.isZero && b.isInf) then .nan false else a.mul b

def intOf (x : Fv) : Int := match x with | .fin n m _ => if n then -(m : Int) else m | _ => 0

/-- F32 addition of two codes in RNE, no flags. -/
def addF (a b : Nat) : Nat := (F32.add 0 false a b).code

/-! ## Accumulator words (R17, R254) -/

def accKey (tile r c : Nat) : Nat := tile * 16384 + r * 128 + c
def Team.accWord (t : Team) (tile r c : Nat) : Nat := (tget 0 t.acc (accKey tile r c)).toNat
def Team.setAcc (t : Team) (tile r c v : Nat) : Team := { t with acc := tput 0 t.acc (accKey tile r c) (BitVec.ofNat 32 v) }

/-! ## Multiplies (R255) -/

/-- One k-group's contribution to one element. -/
def groupTerm (a b : Lay) (t : Team) (i j g : Nat) : Nat :=
  let ks := (List.range (min 32 (a.k - 32 * g))).map (· + 32 * g)
  let ps := ks.map (fun k => (a.value t i k, b.value t j k))
  if intClass a.fmt then ((ps.foldl (fun (n : Int) (p : Fv × Fv) => n + intOf p.1 * intOf p.2) 0) % 2 ^ 32).toNat
  else sumRound (ps.map (fun p => prodV p.1 p.2))

/-- One element over the k-groups `gs`, from its old word; `first` while the overwrite form has added nothing. -/
def elemRun (a b : Lay) (t : Team) (i j old : Nat) (acc : Bool) (gs : List Nat) : Nat :=
  (gs.foldl (fun (st : Nat × Bool) g =>
    let x := groupTerm a b t i j g
    (if st.2 then x else if intClass a.fmt then (st.1 + x) % 2 ^ 32 else addF st.1 x, false)) (old, !acc)).1

/-- The live k-groups (R255). -/
def liveGroups (k live : Nat) (lv : Bool) : List Nat :=
  (List.range ((k + 31) / 32)).filter (fun g => !lv || bit live g)

/-- A window after some k-groups: all of them, or those before a bad datum. The overwrite form with no live group
writes +0. -/
def mulWindow (a b : Lay) (t : Team) (tile : Nat) (acc : Bool) (gs : List Nat) (whole : Bool) : Team :=
  let cells := (List.range a.r).flatMap (fun i => (List.range b.r).map (fun j => (i, j)))
  { t with acc := tputs 0 t.acc (cells.map (fun c =>
      (accKey tile c.1 c.2, BitVec.ofNat 32 (
        if gs.isEmpty then (if acc ∨ !whole then t.accWord tile c.1 c.2 else 0)
        else elemRun a b t c.1 c.2 (t.accWord tile c.1 c.2) acc gs)))) }

/-- The first live k-group with bad data, and the lowest bad offset in it. -/
def firstBad (ys : List Lay) (t : Team) (gs : List Nat) : Option (Nat × Nat) :=
  gs.findSome? (fun g => (ys.flatMap (fun y => y.badIn t g)).min?.map (fun o => (g, o)))

/-- A multiply of live k-groups `gs` into tiles `tile`, `tile + 1`, …, one for each B; `acc` when the window is added
to, `whole` when a form without live groups ends. -/
def mulRun (a : Lay) (bs : List Lay) (tile : Nat) (acc : Bool) (gs : List Nat) (whole : Bool) (t : Team) : Team × Option OpFault :=
  let bad := firstBad (a :: bs) t gs
  let gs' := match bad with | some (g, _) => gs.filter (fun h => h < g) | none => gs
  let t' := (bs.mapIdx (fun n b => (n, b))).foldl (fun u nb => mulWindow a nb.2 u (tile + nb.1) acc gs' (whole && bad.isNone)) t
  (t', bad.map (fun b => { code := 3, sub := 0x22, off := b.2 }))

/-- What a run of a team's operation leaves: the team, the fault, DONECNT, the interrupt point reached, what the sequencer
holds there. -/
structure TeamOut where
  t : Team
  fault : Option OpFault := none
  done : Nat := 0
  pos : Nat := 0
  inner : List Nat := []
  deriving DecidableEq, Repr

/-- A team-level check's trap. -/
def chk (c : Bool) (code sub : Nat) : Option Trap := if c then none else some { code := code, sub := sub }

/-- The first trap of a list of checks in order (R245). -/
def firstTrap (xs : List (Option Trap)) : Option Trap := xs.findSome? id

/-- A and the Bs of a multiply's operand words. -/
def mulLays (pair : Bool) (ws : List Dword) : Lay × List Lay :=
  (layOf (wordAt ws 0) (wordAt ws 1),
   layOf (wordAt ws 2) (wordAt ws 3) :: (if pair then [layOf (wordAt ws 4) (wordAt ws 5)] else []))
def mulCtl (pair : Bool) (ws : List Dword) : Nat := wordAt ws (if pair then 6 else 4)

def mulLegal (a : Lay) (bs : List Lay) (sp : Bool) (m : Nat) : Bool :=
  a.legal sp && bs.all (fun b => b.legal false && b.k = a.k && fmtClass b.fmt = fmtClass a.fmt)
    && bits m 31 21 = 0 && bits m 15 4 = 0

def mulCheck (pair sp : Bool) (s : State) (ws : List Dword) : State × Option Trap :=
  let t := s.team
  let (a, bs) := mulLays pair ws
  let m := mulCtl pair ws
  (s, firstTrap [
    chk (!pair || s.pairOk) 0x0C 2,
    chk (bits m 3 0 + (if pair then 1 else 0) < t.tiles) 8 0x41,
    chk (mulLegal a bs sp m) 3 0x20,
    chk ((a :: bs).all (fun y => y.ends.all (fun e => e ≤ t.scratchSize))) 8 0x12])

def mulSpec (pair sp : Bool) : EngSpec :=
  { k := if pair then 7 else 5, check := mulCheck pair sp, bar := fun ws => bits (mulCtl pair ws) 20 16 }

/-- The live k-groups of a multiply. -/
def mulGroups (pair : Bool) (op : EngOp) : List Nat :=
  liveGroups (mulLays pair op.words).1.k (bits (mulCtl pair op.words) 63 32) (bit (optOf op.instr) 3)

/-- MXMUL, MXPAIR and their .SP forms, k-group by k-group (R247, R255). -/
def mulOp (pair : Bool) (upTo : Option Nat) (op : EngOp) (t : Team) : TeamOut :=
  let (a, bs) := mulLays pair op.words
  let m := mulCtl pair op.words
  let gs := mulGroups pair op
  let us := unitsFrom gs.length op.pos upTo
  let r := mulRun a bs (bits m 3 0) (bit (optOf op.instr) 2 || 0 < op.pos) (us.map (fun i => gs.getD i 0)) (gs.isEmpty && upTo.isNone) t
  { t := r.1, fault := r.2, pos := op.pos + us.length }

/-! ## MXZERO (R254) -/

def zeroSpec : EngSpec :=
  { k := 1
    check := fun s ws =>
      let z := wordAt ws 0
      (s, firstTrap [chk ((List.range 16).all (fun i => !bit z i || i < s.team.tiles)) 8 0x41, chk (bits z 63 21 = 0) 3 0x20])
    bar := fun ws => bits (wordAt ws 0) 20 16 }

/-- The tiles of an MXZERO. -/
def zeroTiles (op : EngOp) : List Nat := (List.range 16).filter (bit (wordAt op.words 0))

/-- MXZERO, tile row by tile row (R247). -/
def zeroOp (upTo : Option Nat) (op : EngOp) (t : Team) : TeamOut :=
  let ts := zeroTiles op
  let us := unitsFrom (128 * ts.length) op.pos upTo
  let gone := us.map (fun u => ts.getD (u / 128) 0 * 128 + u % 128)
  { t := { t with acc := t.acc.filter (fun w => !gone.contains (w.1 / 128)) }, pos := op.pos + us.length }

/-! ## MXRD and MXWR (R259 to R261) -/

structure Win where
  tile : Nat
  nr : Nat
  nc : Nat
  row0 : Nat
  col0 : Nat
  pitch : Nat
  soff : Nat
  fmt : Nat
  width : Nat
  deriving DecidableEq, Repr

def xWidth (f : Nat) : Nat := if f = 0 ∨ f = 1 then 4 else if f = 2 ∨ f = 3 then 2 else 1

def winOf (w m : Nat) : Win :=
  { tile := bits w 55 52, nr := bits w 51 45 + 1, nc := bits m 13 7 + 1, row0 := bits w 44 38, col0 := bits m 6 0
    pitch := bits w 37 22, soff := bits w 21 0, fmt := bits m 17 14, width := xWidth (bits m 17 14) }

/-- Step 3 of R256 for MXRD and MXWR (R259). -/
def winLegal (rd : Bool) (w m aux : Nat) : Bool :=
  let uses := bit m 20 || bit m 19
  bits w 63 56 = 0 && bits m 31 26 = 0 && bits m 17 14 ≤ (if rd then 5 else 3)
    && (if rd then !bit m 18 else !uses) && bits w 37 22 % 4 = 0 && bits w 21 0 % 4 = 0
    && (!rd || !uses || (bits aux 63 54 = 0 && bits aux 31 22 = 0 && bits aux 53 32 % 4 = 0 && bits aux 21 0 % 4 = 0))

/-- Where the areas of a window operation end. -/
def winEnds (rd : Bool) (w m aux : Nat) : List Nat :=
  let x := winOf w m
  [x.soff + (x.nr - 1) * x.pitch + x.nc * x.width]
    ++ (if rd && bit m 20 then [bits aux 53 32 + 4 * x.nr] else []) ++ (if rd && bit m 19 then [bits aux 21 0 + 4 * x.nr] else [])

/-- The checks of R256 on a window. Where FORMAT_MISMATCH 0x21 stands among them the manual does not say: behind 0x20 (DESIGN
CHOICE, log 54). -/
def winCheck (rd : Bool) (s : State) (ws : List Dword) : State × Option Trap :=
  let t := s.team
  let w := wordAt ws 0
  let m := wordAt ws 1
  let aux := wordAt ws 2
  let x := winOf w m
  (s, firstTrap [
    chk (x.tile < t.tiles) 8 0x41,
    chk (winLegal rd w m aux) 3 0x20,
    chk (!(rd && (bit m 19 || bit m 20) && x.fmt = 0)) 3 0x21,
    chk ((winEnds rd w m aux).all (fun e => e ≤ t.scratchSize)) 8 0x12,
    chk (x.row0 + x.nr ≤ 128 && x.col0 + x.nc ≤ 128) 8 0x42])

def winSpec (rd : Bool) : EngSpec :=
  { k := if rd then 3 else 2, check := winCheck rd, bar := fun ws => bits (wordAt ws 1) 25 21 }

/-- One element of MXRD as written: its code, and its value. -/
def rdElem (fmt x : Nat) (bias : Option (Nat × Nat)) : Nat × Fv :=
  if fmt = 0 then (x, F32.val x)
  else
    let f := fmtOfTag fmt
    let y := match bias with
      | some (sigma, m) => exp2t f (F32.fmaV 0 false (F32.val sigma) (F32.val x) (F32.val m).flip).code
      | none => (f.ofV 0 false (F32.val x)).code
    (y, f.val y)

/-- One row of MXRD. -/
def rdRow (x : Win) (m aux a : Nat) (t : Team) : Team :=
  let step := fun (st : Team × List Fv) (b : Nat) =>
    let bias := if bit m 19 then some (bits m 63 32, st.1.padNat (bits aux 21 0 + 4 * a) 4) else none
    let (y, v) := rdElem x.fmt (st.1.accWord x.tile (x.row0 + a) (x.col0 + b)) bias
    (st.1.setScratch (x.soff + a * x.pitch + b * x.width) (leBytes x.width y), st.2 ++ [v])
  let (t, vs) := (List.range x.nc).foldl step (t, [])
  -- the total starts at an exact 0 (R260)
  if bit m 20 then t.setScratch (bits aux 53 32 + 4 * a) (leBytes 4 (sumRound (.fin false 0 0 :: vs))) else t

/-- The rows of a window operation, from one interrupt point on (R247). -/
def winOp (row : Win → Nat → Team → Team) (upTo : Option Nat) (op : EngOp) (t : Team) : TeamOut :=
  let x := winOf (wordAt op.words 0) (wordAt op.words 1)
  let us := unitsFrom x.nr op.pos upTo
  { t := us.foldl (fun t a => row x a t) t, pos := op.pos + us.length }

def rdOp (upTo : Option Nat) (op : EngOp) (t : Team) : TeamOut :=
  winOp (fun x a => rdRow x (wordAt op.words 1) (wordAt op.words 2) a) upTo op t

/-- A scratchpad value as MXWR takes it: widened to F32, or raw. A NaN of BF16 or F16 becomes the canonical one, one of F32 keeps its
bits (DESIGN CHOICE, log 74). -/
def wrVal (fmt c : Nat) : Nat := if fmt ≤ 1 then c else (F32.ofV 0 false ((fmtOfTag fmt).val c)).code

def wrElem (x : Win) (add : Bool) (t : Team) (a b : Nat) : Team :=
  let v := wrVal x.fmt (t.padNat (x.soff + a * x.pitch + b * x.width) x.width)
  let old := t.accWord x.tile (x.row0 + a) (x.col0 + b)
  t.setAcc x.tile (x.row0 + a) (x.col0 + b) (if !add then v else if x.fmt = 0 then (old + v) % 2 ^ 32 else addF old v)

def wrOp (upTo : Option Nat) (op : EngOp) (t : Team) : TeamOut :=
  winOp (fun x a t => (List.range x.nc).foldl (fun t b => wrElem x (bit (wordAt op.words 1) 18) t a b) t) upTo op t

/-- An operation on the team alone that has nothing to do ends (R254, R375). -/
def finishIdle (f : EngOp → Team → TeamOut) (op : EngOp) (s : State) : State := s.ranOp s.core op none (f op s.team).done
/-- An MXZERO of no tiles. -/
def EngOp.noTiles (op : EngOp) : Bool := (zeroTiles op).isEmpty
def execMxzero (o : QOps) (s : State) : Host.Outcome State Fault Refusal :=
  execAtOnce (.mxzero o) EngOp.noTiles (finishIdle (zeroOp none)) (engineBody (.mxzero o) o 0x34 zeroSpec) s
def execMxmul (o : QOps) (s : State) : Host.Outcome State Fault Refusal := execEngine (.mxmul o) o 0x34 (mulSpec false false) s
def execMxmulSp (o : QOps) (s : State) : Host.Outcome State Fault Refusal := execEngine (.mxmulSp o) o 0x34 (mulSpec false true) s
def execMxpair (o : QOps) (s : State) : Host.Outcome State Fault Refusal := execEngine (.mxpair o) o 0x34 (mulSpec true false) s
def execMxpairSp (o : QOps) (s : State) : Host.Outcome State Fault Refusal := execEngine (.mxpairSp o) o 0x34 (mulSpec true true) s
def execMxrd (o : QOps) (s : State) : Host.Outcome State Fault Refusal := execEngine (.mxrd o) o 0x34 (winSpec true) s
def execMxwr (o : QOps) (s : State) : Host.Outcome State Fault Refusal := execEngine (.mxwr o) o 0x34 (winSpec false) s

end Sys2Proof.Machine
end

