-- ==== Sys2Proof/Machine/Copy.lean ====
section
/-! DEFINITION. The copy engine: linear, tile, multicast, gather and scatter copies (R262 to R274). -/
namespace Sys2Proof.Machine
open Sys2Proof

/-! ## Operand words (R262, R263, R266 to R268) -/

def epKind (w : Nat) : Nat := bits w 63 62
def epIdx (w : Nat) : Nat := bits w 59 48
def epOff (w : Nat) : Nat := bits w 47 0
def ctlLen (w : Nat) : Nat := bits w 31 0
def ctlBar (ws : List Dword) : Nat := bits (wordAt ws 2) 36 32
def ctlBudget (ws : List Dword) : Nat := bits (wordAt ws 2) 63 40

/-- An endpoint word of a kind the instruction takes. -/
def epLegal (w : Nat) (kinds : List Nat) : Bool :=
  kinds.contains (epKind w) && bits w 61 60 = 0
    && (if epKind w = 1 then epIdx w = 0 else epKind w ≠ 2 || bits w 59 52 = 0)

/-- One endpoint with how many rows, how far apart, it covers; gathered rows are not checked at issue. -/
structure EpUse where
  w : Nat
  rows : Nat := 1
  pitch : Nat := 0
  len : Nat
  kind : AKind
  listed : Bool := false     -- rows that an index list names
  deriving DecidableEq, Repr

/-- Bytes from the offset to the end of the last row; none for a copy of no bytes. -/
def EpUse.span (e : EpUse) : Nat := if e.len = 0 then 0 else (e.rows - 1) * e.pitch + e.len

/-- Steps 2 to 5 of R213 for a buffer endpoint. -/
def State.epBuf (s : State) (e : EpUse) : State × Option Trap :=
  if epKind e.w ≠ 0 then (s, none)
  else
    let idx := epIdx e.w
    match s.desc (dieOf s.core) s.team.ctx idx with
    | (s, d) =>
      match descCheck s.team.ctx idx d e.kind with
      | some c => (s, some { code := c.1, sub := c.2, off := epOff e.w, bt := idx })
      | none =>
        if !e.listed ∧ e.span ≠ 0 ∧ bits d 111 64 < epOff e.w + e.span then
          (s, some { code := 8, sub := 1, off := epOff e.w, bt := idx })
        else (s, none)

/-- Step 2: a rank of a cluster endpoint. -/
def epScope (t : Team) (e : EpUse) : Option Trap := chk (epKind e.w ≠ 2 || bits e.w 51 48 < t.rows * t.cols) 0x0C 1
/-- Step 5: a scratchpad endpoint; a gathered source row is checked while it is read. The offset alone is the range of a copy of no
bytes, of which the manual says nothing (DESIGN CHOICE, log 52). -/
def epPad (t : Team) (e : EpUse) : Option Trap :=
  if epKind e.w = 0 ∨ e.listed then none
  else chk (epOff e.w + e.span ≤ t.scratchSize) 8 (if epKind e.w = 2 then 0x11 else 0x10)

/-- The checks of R273 on legal words, endpoints and further offsets that must be multiples of 4. Where both endpoints fail one
step, the source's failure is reported: the manual orders the steps alone (DESIGN CHOICE, log 53). -/
def copyChecks (legal : Bool) (eps : List EpUse) (fours : List Nat) (more : Team → List (Option Trap)) (s : State) :
    State × Option Trap :=
  let t := s.team
  match firstTrap (chk legal 8 0x13 :: eps.map (epScope t)) with
  | some x => (s, some x)
  | none =>
    let (s, r) := eps.foldl (fun (st : State × Option Trap) e =>
      match st.2 with | some _ => st | none => st.1.epBuf e) (s, none)
    match r with
    | some x => (s, some x)
    | none => (s, firstTrap (chk (fours.all (fun n => n % 4 = 0)) 5 2 :: eps.map (epPad t) ++ more t))

def ctlLegal (ws : List Dword) : Bool := bits (wordAt ws 2) 39 37 = 0
def copyLen (ws : List Dword) : Nat := ctlLen (wordAt ws 2)

/-- SHAPE: rows, source and destination pitch (R266). -/
def shapeOf (ws : List Dword) : Nat × Nat × Nat :=
  let w := wordAt ws 3
  (bits w 15 0 + 1, bits w 39 16, bits w 63 40)

def cpyCheck (tile : Bool) (s : State) (ws : List Dword) : State × Option Trap :=
  let (n, sp, dp) := if tile then shapeOf ws else (1, 0, 0)
  let len := copyLen ws
  let src : EpUse := { w := wordAt ws 0, rows := n, pitch := sp, len := len, kind := .load }
  let dst : EpUse := { w := wordAt ws 1, rows := n, pitch := dp, len := len, kind := .store }
  copyChecks (epLegal src.w [0, 1, 2] && epLegal dst.w [0, 1, 2] && ctlLegal ws) [src, dst]
    [epOff src.w, epOff dst.w, len, sp, dp] (fun _ => []) s

/-- MDST of CPYM: ranks, barrier, offset (R267). -/
def mdstRanks (ws : List Dword) : Nat := bits (wordAt ws 1) 47 36
def mdstBar (ws : List Dword) : Nat := bits (wordAt ws 1) 35 32
def mdstOff (ws : List Dword) : Nat := bits (wordAt ws 1) 21 0

/-- CPYM's checks (R273): a range past a target's scratchpad is 0x11 whichever cores RANKS names, and none where it names none (DESIGN
CHOICE, log 77). -/
def cpymCheck (s : State) (ws : List Dword) : State × Option Trap :=
  let len := copyLen ws
  let src : EpUse := { w := wordAt ws 0, len := len, kind := .load }
  copyChecks (epLegal src.w [0, 1] && ctlLegal ws && bits (wordAt ws 1) 63 48 = 0 && bits (wordAt ws 1) 31 22 = 0) [src]
    [epOff src.w, len, mdstOff ws] (fun t => [chk (mdstRanks ws = 0 || mdstOff ws + len ≤ t.scratchSize) 8 0x11]) s

/-- IDXW: entries, offset of the list (R268). -/
def idxCount (ws : List Dword) : Nat := bits (wordAt ws 3) 47 32 + 1
def idxOff (ws : List Dword) : Nat := bits (wordAt ws 3) 21 0

/-- The duplicate mode of SCAT (R270). -/
def dupMode (i : Instr) : Nat := optOf i / 4 % 4

def listCheck (scat : Bool) (add : Bool) (s : State) (ws : List Dword) : State × Option Trap :=
  let len := copyLen ws
  let n := idxCount ws
  let src : EpUse := { w := wordAt ws 0, rows := n, pitch := len, len := len, kind := .load, listed := !scat }
  let dst : EpUse := { w := wordAt ws 1, rows := n, pitch := len, len := len, kind := if add then .atomic else .store, listed := scat }
  copyChecks (epLegal src.w (if scat then [1] else [0, 1]) && epLegal dst.w (if scat then [0] else [1]) && ctlLegal ws
      && bits (wordAt ws 3) 63 48 = 0 && bits (wordAt ws 3) 31 22 = 0) [src, dst]
    [epOff src.w, epOff dst.w, len, idxOff ws] (fun t => [chk (idxOff ws + 4 * n ≤ t.scratchSize) 8 0x10]) s

def copySpec (k : Nat) (check : State → List Dword → State × Option Trap) (outside : State → List Dword → Bool) : EngSpec :=
  { k := k, check := check, bar := ctlBar, budget := ctlBudget, outside := outside }

/-- An endpoint in another core's scratchpad. -/
def State.otherPad (s : State) (w : Nat) : Bool := epKind w = 2 && s.rankCore s.team (bits w 51 48) ≠ s.core
/-- A copy that writes a buffer, or reaches another core's scratchpad (R443). -/
def cpyOutside (s : State) (ws : List Dword) : Bool :=
  epKind (wordAt ws 1) = 0 || s.otherPad (wordAt ws 1) || s.otherPad (wordAt ws 0)
/-- A multicast to another core. -/
def cpymOutside (s : State) (ws : List Dword) : Bool :=
  (List.range (s.team.rows * s.team.cols)).any (fun r => bit (mdstRanks ws) r && s.rankCore s.team r ≠ s.core)

/-! ## What a copy moves -/

/-- Four bytes of a buffer, of a core's scratchpad, or zeros. -/
inductive Place where
  | buf (idx off : Nat)
  | pad (core off : Nat)
  | zero
  deriving DecidableEq, Repr

structure Move where
  src : Place
  dsts : List Place
  add : Option Nat := none      -- TYPE of a SCAT addition
  deriving DecidableEq, Repr

/-- The place n bytes further. -/
def Place.plus (n : Nat) : Place → Place
  | .buf i o => .buf i (o + n)
  | .pad c o => .pad c (o + n)
  | .zero => .zero

/-- The offset of a place; buffers and scratchpads begin at multiples of 16. -/
def Place.off : Place → Option Nat
  | .buf _ o => some o
  | .pad _ o => some o
  | .zero => none

/-- Two places lie in one aligned piece of 16 bytes. -/
def Place.samePiece (p q : Place) : Bool :=
  match p, q with
  | .buf i o, .buf j u => i = j && o / 16 = u / 16
  | .pad c o, .pad d u => c = d && o / 16 = u / 16
  | _, _ => false

/-- The steps in which words are written, as the place of the first in the list and their number: the four words of an aligned
piece of 16 bytes together, where one follows the other, every other word alone (R315; DEDUCED, log 67). -/
def pieces (n : Nat) : List (List Place) → List (Nat × Nat)
  | a :: b :: c :: d :: r =>
    if a ≠ [] ∧ a.all (fun p => p.off.any (fun o => o % 16 = 0)) ∧ b = a.map (Place.plus 4) ∧ c = a.map (Place.plus 8)
        ∧ d = a.map (Place.plus 12) then (n, 4) :: pieces (n + 4) r
    else (n, 1) :: pieces (n + 1) (b :: c :: d :: r)
  | _ :: r => (n, 1) :: pieces (n + 1) r
  | [] => []

/-- The place n bytes behind an endpoint's offset. -/
def State.epPlace (s : State) (w n : Nat) : Place :=
  if epKind w = 0 then .buf (epIdx w) (epOff w + n)
  else .pad (if epKind w = 2 then s.rankCore s.team (bits w 51 48) else s.core) (epOff w + n)

/-- The words of one row. -/
def rowMoves (len : Nat) (src : Nat → Place) (dst : Nat → List Place) (add : Option Nat := none) : List Move :=
  (List.range (len / 4)).map (fun j => { src := src (4 * j), dsts := dst (4 * j), add := add })

/-- Ranks of a multicast that its operation accepted (R267). -/
def acceptedRanks (t : Team) (op : EngOp) : List Nat :=
  (List.range (t.rows * t.cols)).filter (fun r => bit (mdstRanks op.words) r && !bit op.refuse r)

/-- The entries of an index list: those that a stopped operation has kept, or as they stand (R247). -/
def State.idxList (s : State) (op : EngOp) : List Nat :=
  if op.snap.isEmpty then (List.range (idxCount op.words)).map (fun e => s.team.padNat (idxOff op.words + 4 * e) 4) else op.snap

/-- Whether a SCAT entry is written in its duplicate mode (R270). -/
def entryWins (xs : List Nat) (mode e : Nat) : Bool :=
  let x := xs.getD e 0
  if x = 0xFFFFFFFF then false
  else if mode = 0 then !((xs.drop (e + 1)).contains x)
  else if mode = 1 then !((xs.take e).contains x)
  else true

/-- The rows of a copy operation, in order, and how many units of DONECNT a row counts. A CPYM with no accepted rank reads its source
all the same (DESIGN CHOICE, log 76). -/
def State.copyRows (s : State) (op : EngOp) : List (List Move) × Nat :=
  let ws := op.words
  let src := wordAt ws 0
  let dst := wordAt ws 1
  let len := copyLen ws
  match op.instr with
  | .cpyt _ =>
    let (n, sp, dp) := shapeOf ws
    ((List.range n).map (fun i => rowMoves len (fun j => s.epPlace src (i * sp + j)) (fun j => [s.epPlace dst (i * dp + j)])), 1)
  | .cpym _ =>
    let cores := (acceptedRanks s.team op).map (s.rankCore s.team)
    ((rowMoves len (fun j => s.epPlace src j) (fun j => cores.map (fun c => .pad c (mdstOff ws + j)))).map (fun m => [m]), 4)
  | .gath _ =>
    let xs := s.idxList op
    (xs.mapIdx (fun e x => rowMoves len (fun j => if x = 0xFFFFFFFF then .zero else s.epPlace src (x * len + j))
      (fun j => [s.epPlace dst (e * len + j)])), 1)
  | .scat _ =>
    let xs := s.idxList op
    let mode := dupMode op.instr
    let add := if mode = 2 then some 2 else if mode = 3 then some 0 else none
    (xs.mapIdx (fun e x => if entryWins xs mode e then
      rowMoves len (fun j => s.epPlace src (e * len + j)) (fun j => [s.epPlace dst (x * len + j)]) add else []), 1)
  | _ => ((rowMoves len (fun j => s.epPlace src j) (fun j => [s.epPlace dst j])).map (fun m => [m]), 4)

/-! ## Moving -/

def State.readPlace (s : State) (p : Place) : State × (OpFault ⊕ List Byte) :=
  match p with
  | .zero => (s, .inr [0, 0, 0, 0])
  | .pad c off =>
    if s.team.scratchSize < off + 4 then (s, .inl { code := 8, sub := 0x10, off := off })
    else (s, .inr ((s.padAt c off 4).mapIdx (fun i b => (heldPad s.team.held c (off + i)).getD b)))
  | .buf idx off =>
    match s.opCheck idx off 4 .load with
    | (s, .fault f) => (s, .inl f)
    | (s, .ok pa va) => let (s, bs) := s.opRead pa va 4; (s, .inr bs)

/-- Bytes that a copy writes to a scratchpad; a redundant copy holds those of another core's (R445). -/
def State.padPut (s : State) (op : EngOp) (c off : Nat) (bs : List Byte) : State :=
  if s.isRedundant ∧ c ≠ s.core then
    s.holdEngine op { bt := 4096 + ((s.coreAt c).team.getD {}).clrank, off := off, data := bs, pad := some c }
  else s.padWrite c off bs

/-- Write four bytes, or add them as a RED contribution of the operation's (R270). -/
def State.writePlace (s : State) (op : EngOp) (p : Place) (add : Option Nat) (bs : List Byte) : State × Option OpFault :=
  match p with
  | .zero => (s, none)
  | .pad c off => (s.padPut op c off bs, none)
  | .buf idx off =>
    match s.opCheck idx off 4 (if add.isSome then .atomic else .store) with
    | (s, .fault f) => (s, some f)
    | (s, .ok pa va) =>
      match add with
      | some ty => (s.opRed op idx off pa va 0 ty (BitVec.ofNat 32 (leNat bs)), none)
      | none => (s.opWrite op idx off pa va bs, none)

/-- Move one word. The bytes are those of s0, the state before the copy wrote anything, or those that it has kept since then: a
byte that it both reads and writes is read before it is written (R247, R265). -/
def State.move (s0 s : State) (op : EngOp) (kept : Option (List Byte)) (m : Move) : State × Option OpFault :=
  match s.readPlace m.src with
  | (s, .inl f) => (s, some f)
  | (s, .inr now) =>
    let bs := kept.getD (match (s0.readPlace m.src).2 with | .inr bs => bs | .inl _ => now)
    m.dsts.foldl (fun (st : State × Option OpFault) d =>
      match st.2 with | some _ => st | none => st.1.writePlace op d m.add bs) (s, none)

/-- What a running copy has done: the states before and now, its operation, its fault, the places written, words complete before
the fault. -/
structure CopyOut where
  s0 : State
  s : State
  op : EngOp
  fault : Option OpFault := none
  wrote : List Place := []
  at_ : Nat := 0

/-- A copy about to go on. -/
def State.copyOut (s : State) (op : EngOp) : CopyOut := { s0 := s, s := s, op := op, at_ := op.pos }

/-- The bytes of word n that a stopped copy has kept, as n above the four bytes (R247). -/
def EngOp.kept (op : EngOp) (n : Nat) : Option (List Byte) := (op.inner.find? (fun k => k / 2 ^ 32 = n)).map (leBytes 4)

/-- Some words from word n on, until one faults. -/
def CopyOut.moves (o : CopyOut) : Nat → List Move → State → State × Option OpFault
  | _, [], s => (s, none)
  | n, m :: r, s => match o.s0.move s o.op (o.op.kept n) m with
    | (s, some f) => (s, some f)
    | (s, none) => o.moves (n + 1) r s

/-- One piece, written whole or not at all (R315). After the fault, a piece is copied or not (R274; log 6). -/
def CopyOut.step (o : CopyOut) (n : Nat) (ms : List Move) : CopyOut :=
  let did := fun (s : State) => { o with s := s, wrote := o.wrote ++ ms.flatMap Move.dsts }
  match o.fault with
  | some _ =>
    if (Config.freeByte o.s.tick (2 ^ 32 + n)).getLsbD 0 then
      match o.moves n ms o.s with
      | (s, none) => did s
      | (_, some _) => o
    else o
  | none =>
    match o.moves n ms o.s with
    | (s, none) => { did s with at_ := n + ms.length }
    | (_, some f) => { o with fault := some f }

/-- The pieces of a copy's words. -/
def piecesOf (ms : List Move) : List (Nat × Nat) := pieces 0 (ms.map Move.dsts)

/-- The words from one to another, that of the end excluded, piece by piece. -/
def CopyOut.run (o : CopyOut) (ms : List Move) (lo hi : Nat) : CopyOut :=
  ((piecesOf ms).filter (fun p => lo ≤ p.1 ∧ p.1 < hi)).foldl (fun (o : CopyOut) p => o.step p.1 ((ms.drop p.1).take p.2)) o

/-- Rows that are whole when n words are (R275). -/
def doneRows : List (List Move) → Nat → Nat
  | [], _ => 0
  | r :: rs, n => if r.length ≤ n then 1 + doneRows rs (n - r.length) else 0

/-- Where a place lies, so that overlaps show: a space and an address. Buffers of a context share its virtual
addresses, by which overlaps go and not by frames (DESIGN CHOICE, log 75). -/
def State.placePos (s : State) (p : Place) : Option (Nat × Nat) :=
  match p with
  | .zero => none
  | .pad c off => some (c + 1, off)
  | .buf idx off => some (0, bits (s.desc (dieOf s.core) s.team.ctx idx).2 56 8 * 256 + off)

/-- Put one free byte at a place (R265; log 6). -/
def State.scramble (s : State) (op : EngOp) (p : Place) (i : Nat) : State :=
  let b := Config.freeByte s.tick i
  match p with
  | .zero => s
  | .pad c off => s.padPut op c (off + i % 4) [b]
  | .buf idx off =>
    match s.opCheck idx (off + i % 4) 1 .store with
    | (s, .ok pa va) => s.opWrite op idx (off + i % 4) pa va [b]
    | (s, .fault _) => s

/-- Written bytes that the copy also reads, its index list included, take unpredictable values (R265). -/
def State.overlaps (s : State) (op : EngOp) (rows : List (List Move)) (wrote : List Place) : State :=
  let list := match op.instr with
    | .gath _ | .scat _ => (List.range (idxCount op.words)).map (fun e => some (s.core + 1, idxOff op.words + 4 * e))
    | _ => []
  let reads := (list ++ (rows.flatten.map (fun m => s.placePos m.src))).filterMap id
  let hit := fun (p : Place) (i : Nat) => match s.placePos p with
    | some (sp, a) => reads.any (fun r => r.1 = sp && r.2 ≤ a + i && a + i < r.2 + 4)
    | none => false
  (wrote.mapIdx (fun n p => (n, p))).foldl (fun s np =>
    (List.range 4).foldl (fun s i => if hit np.2 i then s.scramble op np.2 (4 * np.1 + i) else s) s) s

/-- Four bytes of one place and four of another meet. -/
def State.placesMeet (s : State) (p q : Place) : Bool :=
  match s.placePos p, s.placePos q with
  | some (x, a), some (y, b) => x = y && overlap a 4 b 4
  | _, _ => false

/-- What a copy that stops keeps of the words that it has still to move: their bytes as they were before it wrote over them
(R247), or as it read them with the last word moved in one piece (R315). -/
def CopyOut.keeps (o : CopyOut) (ms : List Move) : List Nat :=
  ((ms.mapIdx (fun n m => (n, m))).drop o.at_).filterMap (fun nm =>
    let bs := match o.op.kept nm.1 with
      | some bs => some bs
      | none => if o.wrote.any (fun p => o.s0.placesMeet p nm.2.src)
            || (o.at_ ≠ 0 && (ms[o.at_ - 1]?).any (fun (m : Move) => m.src.samePiece nm.2.src)) then
          (match (o.s0.readPlace nm.2.src).2 with | .inr bs => some bs | .inl _ => none) else none
    bs.map (fun bs => nm.1 * 2 ^ 32 + leNat bs))

/-- The index list that an operation keeps when it stops (R247). -/
def State.listKept (s : State) (op : EngOp) : List Nat :=
  match op.instr with
  | .gath _ | .scat _ => s.idxList op
  | _ => op.snap

/-- A copy, from one interrupt point on; the words before that point were moved earlier. -/
def State.copyOp (s : State) (upTo : Option Nat) (op : EngOp) : OpOut :=
  let (rows, unit) := s.copyRows op
  let ms := rows.flatten
  let out := (s.copyOut op).run ms op.pos (upTo.getD ms.length)
  let wrote := (ms.take op.pos).flatMap Move.dsts ++ out.wrote
  { s := if upTo.isSome && out.fault.isNone then out.s else out.s.overlaps op rows wrote
    fault := out.fault, done := doneRows rows out.at_ * unit, pos := out.at_, inner := if upTo.isSome then out.keeps ms else [] }

/-- A point between two pieces of a copy, a free choice `x` of those from where it stands to its end. -/
def pieceEnd (ms : List Move) (pos x : Nat) : Nat :=
  let ends := pos :: ((piecesOf ms).map (fun p => p.1 + p.2)).filter (fun e => pos < e)
  ends.getD (x % ends.length) pos

/-- A copy that stops for its budget: some pieces are complete, each later one copied or not (R272, R274; log 6). -/
def State.copyLate (s : State) (op : EngOp) : State × Nat :=
  if op.phase ≠ .running then (s, op.donecnt)
  else
    let (rows, unit) := s.copyRows op
    let ms := rows.flatten
    let k := pieceEnd ms op.pos (s.choice 1)
    let o := (s.copyOut op).run ms op.pos k
    let o1 := { o with fault := o.fault.orElse (fun _ => some { code := 0x12, sub := 1 }) }.run ms k ms.length
    (o1.s.overlaps op rows ((ms.take op.pos).flatMap Move.dsts ++ o1.wrote), doneRows rows o.at_ * unit)

/-- The arrivals of a multicast at the targets that it has accepted when it started (R228, R267). -/
def State.copyArrivals (s : State) (op : EngOp) : State :=
  match op.instr, op.phase with
  | .cpym _, .running =>
    ((acceptedRanks s.team op).map (s.rankCore s.team)).foldl (fun s c => s.engineArrive c (mdstBar op.words)) s
  | _, _ => s

/-- The ranks a multicast refuses when it starts (R267). -/
def State.refusals (s : State) (op : EngOp) : Nat :=
  match op.instr with
  | .cpym _ =>
    ((List.range 12).filter (fun r => bit (mdstRanks op.words) r &&
      (s.team.rows * s.team.cols ≤ r || (let x := s.barrier (s.rankCore s.team r) (mdstBar op.words); !x.init || x.ecount = 0)))).foldl
      (fun m r => m + 2 ^ r) 0
  | _ => 0

/-- A copy starts: the ranks that a multicast refuses are examined. -/
def State.startCopy (s : State) (op : EngOp) : State × EngOp :=
  let refuse := s.refusals op
  (s.modTeam (fun t => t.modOp op.id (fun o => { o with phase := .running, refuse := refuse })), { op with phase := .running, refuse := refuse })

/-- A copy of no bytes. -/
def EngOp.noBytes (op : EngOp) : Bool := copyLen op.words = 0

/-- A copy of no bytes starts and completes at once (R263). -/
def State.zeroCopy (s : State) (op : EngOp) : State :=
  let (s, op) := s.startCopy op
  let out := s.copyOp none op
  out.s.ranOr s.core op out.fault out.done (fun f s => (s.copyArrivals op).finishOp s.core op.id f out.done)

/-- Issue a copy; one of no bytes that may start does so at once. -/
def execCopy (i : Instr) (o : QOps) (sp : EngSpec) (s : State) : Host.Outcome State Fault Refusal :=
  execAtOnce i EngOp.noBytes (fun op s => s.zeroCopy op) (engineBody i o 0x30 sp) s

def execCpy (o : QOps) (s : State) : Host.Outcome State Fault Refusal := execCopy (.cpy o) o (copySpec 3 (cpyCheck false) cpyOutside) s
def execCpyt (o : QOps) (s : State) : Host.Outcome State Fault Refusal := execCopy (.cpyt o) o (copySpec 4 (cpyCheck true) cpyOutside) s
def execCpym (o : QOps) (s : State) : Host.Outcome State Fault Refusal := execCopy (.cpym o) o (copySpec 3 cpymCheck cpymOutside) s
def execGath (o : QOps) (s : State) : Host.Outcome State Fault Refusal :=
  execCopy (.gath o) o (copySpec 4 (listCheck false false) (fun _ _ => false)) s
def execScat (o : QOps) (s : State) : Host.Outcome State Fault Refusal :=
  execCopy (.scat o) o (copySpec 4 (listCheck true (2 ≤ dupMode (.scat o))) (fun _ _ => true)) s

end Sys2Proof.Machine
end

