-- ==== Sys2Proof/Machine/Delta.lean ====
section
/-! DEFINITION. The correcting outer-product mode (R369 to R383). -/
namespace Sys2Proof.Machine
open Sys2Proof

/-! ## MXBETA (R370, R375) -/

/-- The registers that BETAW selects: number (16 for DBOUND) and scratchpad offset. -/
def betaSel (w : Nat) : List (Nat × Nat) :=
  ((List.range 16).filter (fun i => bit w (32 + i))).map (fun i => (i, bits w 21 0 + 4 * i))
    ++ (if bit w 48 then [(16, bits w 21 0 + 64)] else [])

def betaCheck (s : State) (ws : List Dword) : State × Option Trap :=
  let w := wordAt ws 0
  (s, firstTrap [
    chk (bits w 63 49 = 0 && bits w 31 27 = 0) 3 0x50,
    chk (bits w 21 0 % 4 = 0) 5 2,
    chk ((betaSel w).all (fun x => x.2 + 4 ≤ s.team.scratchSize)) 8 0x10])

def betaSpec : EngSpec := { k := 1, check := betaCheck, bar := fun ws => bits (wordAt ws 0) 26 22 }

def Team.betaReg (t : Team) (n : Nat) : Word := if n = 16 then t.dbound else tget 0 t.beta n
def Team.setBeta (t : Team) (n : Nat) (v : Word) : Team :=
  if n = 16 then { t with dbound := v } else { t with beta := tput 0 t.beta n v }

/-- MXBETA: it has no interrupt point (R382). -/
def betaOp (op : EngOp) (t : Team) : TeamOut :=
  let go := (betaSel (wordAt op.words 0)).foldl (fun t x =>
    if bit (optOf op.instr) 2 then t.setScratch x.2 (leBytes 4 (t.betaReg x.1).toNat)
    else t.setBeta x.1 (BitVec.ofNat 32 (t.padNat x.2 4))) t
  { t := go, done := 1, pos := 1 }

/-! ## MXDELTA and MXSOLVE: operand words (R376) -/

structure Corr where
  tile : Nat
  kty : Nat
  kpitch : Nat
  koff : Nat
  vty : Nat
  vpitch : Nat
  voff : Nat
  boff : Nat
  br : Nat
  n : Nat
  dv : Nat
  dk : Nat
  woff : Nat
  vb : Bool
  solve : Bool
  deriving DecidableEq, Repr

def corrOf (solve : Bool) (opt : Nat) (ws : List Dword) : Corr :=
  let k := wordAt ws 0
  let v := wordAt ws 1
  let c := wordAt ws 2
  { tile := bits k 43 40, kty := bits k 39 38, kpitch := bits k 37 22, koff := bits k 21 0
    vty := bits v 39 38, vpitch := bits v 37 22, voff := bits v 21 0, boff := bits c 53 32, br := bits c 23 20
    n := bits c 19 14 + 1, dv := bits c 13 7 + 1, dk := bits c 6 0 + 1, woff := if solve then bits (wordAt ws 3) 21 0 else 0
    vb := bit opt 2, solve := solve }

/-- Width of a key or value element. -/
def tyWidth (t : Nat) : Nat := if t = 1 then 4 else 2

/-- The areas: where each starts and ends (R376). -/
def Corr.areas (c : Corr) : List (Nat × Nat) :=
  [(c.koff, c.koff + (c.n - 1) * c.kpitch + c.dk * tyWidth c.kty), (c.voff, c.voff + (c.n - 1) * c.vpitch + c.dv * tyWidth c.vty)]
    ++ (if c.vb then [(c.boff, c.boff + 4 * c.n)] else []) ++ (if c.solve then [(c.woff, c.woff + 4 * c.n * c.dv)] else [])

/-- Whether two areas share a byte (R377). -/
def Corr.overlap (c : Corr) : Bool :=
  let xs := c.areas
  (List.range xs.length).any fun i => (List.range i).any fun j =>
    let a := xs.getD i (0, 0)
    let b := xs.getD j (0, 0)
    a.1 < b.2 && b.1 < a.2

def corrLegal (c : Corr) (ws : List Dword) : Bool :=
  bits (wordAt ws 0) 63 44 = 0 && bits (wordAt ws 1) 63 40 = 0 && bits (wordAt ws 2) 63 54 = 0 && bits (wordAt ws 2) 31 29 = 0
    && (!c.solve || bits (wordAt ws 3) 63 22 = 0) && c.kty ≠ 0 && c.vty ≠ 0
    && c.dk * tyWidth c.kty ≤ c.kpitch && c.dv * tyWidth c.vty ≤ c.vpitch && (if c.vb then c.br = 0 else c.boff = 0)

def corrCheck (solve : Bool) (opt : Nat) (s : State) (ws : List Dword) : State × Option Trap :=
  let c := corrOf solve opt ws
  (s, firstTrap [
    chk (corrLegal c ws) 3 0x50,
    chk (c.tile < s.team.tiles) 8 0x41,
    chk ([c.koff, c.kpitch, c.voff, c.vpitch, c.boff, c.woff].all (fun n => n % 4 = 0)) 5 2,
    chk (c.areas.all (fun a => a.2 ≤ s.team.scratchSize)) 8 0x10])

/-! ## Keys, values, step sizes -/

def Corr.key (c : Corr) (t : Team) (i r : Nat) : Fv :=
  (fmtOfTag c.kty).val (t.padNat (c.koff + i * c.kpitch + r * tyWidth c.kty) (tyWidth c.kty))
def Corr.val (c : Corr) (t : Team) (i j : Nat) : Fv :=
  (fmtOfTag c.vty).val (t.padNat (c.voff + i * c.vpitch + j * tyWidth c.vty) (tyWidth c.vty))
def Corr.stepSize (c : Corr) (t : Team) (i : Nat) : Nat := if c.vb then t.padNat (c.boff + 4 * i) 4 else (t.betaReg c.br).toNat

/-- What the pre-check reads: keys row by row as codes, then step sizes (R380). -/
def Corr.read (c : Corr) (t : Team) : List Nat :=
  (List.range c.n).flatMap (fun i => (List.range c.dk).map (fun r =>
    t.padNat (c.koff + i * c.kpitch + r * tyWidth c.kty) (tyWidth c.kty))) ++ (List.range c.n).map (c.stepSize t)

/-- Key element and step size of an operation: those of its pre-check, or those that stand there now. -/
def Corr.keyOf (c : Corr) (t : Team) (snap : List Nat) (i r : Nat) : Fv :=
  if snap.isEmpty then c.key t i r else (fmtOfTag c.kty).val (snap.getD (i * c.dk + r) 0)
def Corr.stepOf (c : Corr) (t : Team) (snap : List Nat) (i : Nat) : Fv :=
  F32.val (if snap.isEmpty then c.stepSize t i else snap.getD (c.n * c.dk + i) 0)

/-- Whether a token passes the pre-check (R380). -/
def Corr.passes (c : Corr) (t : Team) (snap : List Nat) (i : Nat) : Bool :=
  let ks := (List.range c.dk).map (c.keyOf t snap i)
  match c.stepOf t snap i with
  | .fin n m e =>
    (!n || m = 0) && ks.all (fun k => !k.isNan && !k.isInf)
      && ((Dy.mul ⟨m, e⟩ (ks.foldl (fun d k => d.add (k.dy.mul k.dy)) Dy.zero)).lt ⟨2, 0⟩)
  | _ => false

def corrLate (solve : Bool) (opt : Nat) (s : State) (ws : List Dword) : Option Trap :=
  if !bit opt 3 then none
  else
    let c := corrOf solve opt ws
    ((List.range c.n).find? (fun i => !c.passes s.team (c.read s.team) i)).map (fun i => { code := 0x13, sub := 1, off := i })

/-- With .DV the instruction waits for every earlier matrix operation, and with .SYNC for every copy (R380). -/
def corrWait (opt : Nat) (s : State) : Bool :=
  bit opt 3 && (!(s.team.outstanding true).isEmpty || (bit opt 1 && !(s.team.outstanding false).isEmpty))

def corrSpec (solve : Bool) (opt : Nat) : EngSpec :=
  { k := if solve then 4 else 3, check := corrCheck solve opt, bar := fun ws => bits (wordAt ws 2) 28 24
    late := corrLate solve opt, wait := corrWait opt
    snap := fun s ws => if bit opt 3 then (corrOf solve opt ws).read s.team else [] }

/-! ## Arithmetic -/

/-- x − y rounded once. -/
def subR (x y : Fv) : Nat := (F32.addV 0 false x y.flip).code
/-- x + y rounded once. -/
def addR (x y : Fv) : Nat := (F32.addV 0 false x y).code
/-- x − y exactly. -/
def subE (x y : Fv) : Fv := if x.isNan || y.isNan then .nan false else (x.subX 0 y).getD (.nan false)

/-- The window of S as F32 codes. -/
def Corr.window (c : Corr) (t : Team) (r j : Nat) : Nat := t.accWord c.tile r j
def Corr.put (c : Corr) (t : Team) (new : Nat → Nat → Nat) : Team :=
  { t with acc := tputs 0 t.acc ((List.range c.dk).flatMap (fun r => (List.range c.dv).map (fun j =>
      (accKey c.tile r j, BitVec.ofNat 32 (new r j))))) }

/-- CHECK_AFTER: the fault of a candidate window (R381). -/
def Corr.after (c : Corr) (t : Team) (tok : Nat) (new : Nat → Nat → Nat) : Option OpFault :=
  let cells := (List.range c.dk).flatMap (fun r => (List.range c.dv).map (fun j => (r, j)))
  let off := fun (x : Nat × Nat) => tok * 2 ^ 16 + x.1 * 2 ^ 8 + x.2
  let v := fun (x : Nat × Nat) => F32.val (new x.1 x.2)
  let bound := F32.val t.dbound.toNat
  let mag := fun (y : Fv) => match y with | .fin _ m e => Fv.fin false m e | .inf _ => .inf false | y => y
  match cells.find? (fun x => (v x).isNan || (v x).isInf) with
  | some x => some { code := 0x13, sub := 2, off := off x }
  | none =>
    if bound.isNan then none
    else (cells.find? (fun x => bound.less false (mag (v x)))).map (fun x => { code := 0x13, sub := 3, off := off x })

/-! ## MXDELTA (R378) -/

/-- The candidate window of one token. -/
def Corr.token (c : Corr) (t : Team) (snap : List Nat) (i r j : Nat) : Nat :=
  let pred := sumRound ((List.range c.dk).map (fun r => prodV (c.keyOf t snap i r) (F32.val (c.window t r j))))
  let e := subR (c.val t i j) (F32.val pred)
  addR (F32.val (c.window t r j)) (prodV (prodV (c.stepOf t snap i) (c.keyOf t snap i r)) (F32.val e))

/-- Tokens in ascending order until one faults. -/
def Corr.tokens (c : Corr) (dv : Bool) (snap : List Nat) (t : Team) : List Nat → Nat → Team × Option OpFault × Nat
  | [], n => (t, none, n)
  | i :: rest, n =>
    let new := c.token t snap i
    match (if dv then c.after t i new else none) with
    | some f => (t, some f, n)
    | none => c.tokens dv snap (c.put t new) rest (n + 1)

/-! ## MXSOLVE (R379, R384) -/

/-- The g values of token i, for the tokens before it. -/
def Corr.gRow (c : Corr) (t : Team) (snap : List Nat) (i : Nat) : List Nat :=
  (List.range i).map (fun j => sumRound ((List.range c.dk).map (fun r => prodV (c.keyOf t snap i r) (c.keyOf t snap j r))))

/-- The solve phase: u of token i, in order, as rows of F32 codes. -/
def Corr.solveRow (c : Corr) (t : Team) (snap : List Nat) (us : List (List Nat)) (i : Nat) : List Nat :=
  let gs := c.gRow t snap i
  (List.range c.dv).map (fun j =>
    let w := subR (c.val t i j) (sumV ((List.range c.dk).map (fun r => prodV (c.keyOf t snap i r) (F32.val (c.window t r j)))))
    let sub := sumV (gs.mapIdx (fun n x => prodV (F32.val x) (F32.val ((us.getD n []).getD j 0))))
    rnd (prodV (c.stepOf t snap i) (subE (F32.val w) sub)))

def Corr.solveAll (c : Corr) (t : Team) (snap : List Nat) : List (List Nat) :=
  (List.range c.n).foldl (fun us i => us ++ [c.solveRow t snap us i]) []

/-- u as it stands in the work area. -/
def Corr.uAt (c : Corr) (t : Team) (i j : Nat) : Nat := t.padNat (c.woff + 4 * (i * c.dv + j)) 4

def Corr.apply (c : Corr) (t : Team) (snap : List Nat) (r j : Nat) : Nat :=
  addR (F32.val (c.window t r j)) (sumV ((List.range c.n).map (fun i => prodV (c.keyOf t snap i r) (F32.val (c.uAt t i j)))))

/-- The two phases, from one interrupt point on: u stands in the work area between them, the g values in the
sequencer. -/
def Corr.solveRun (c : Corr) (dv : Bool) (upTo : Option Nat) (op : EngOp) (t : Team) : TeamOut :=
  let t1 := if 0 < op.pos ∨ upTo = some 0 then t
    else t.setScratch c.woff ((c.solveAll t op.snap).flatten.flatMap (fun w => leBytes 4 w))
  let gs := if 0 < op.pos then op.inner else (List.range c.n).flatMap (c.gRow t op.snap)
  if upTo = some 0 then { t := t, pos := 0 }
  else if upTo.isSome then { t := t1, done := 1, pos := 1, inner := gs }
  else
    let new := c.apply t1 op.snap
    match (if dv then c.after t1 0xFF new else none) with
    | some f => { t := t1, fault := some f, done := 1, pos := 1, inner := gs }
    | none => { t := c.put t1 new, done := 2, pos := 2 }

/-! ## The effect -/

/-- Four free bytes (R377; log 6). -/
def freeWord (tick n : Nat) : Nat := leNat ((List.range 4).map (fun i => Config.freeByte tick (4 * n + i)))

/-- Overlapping areas leave free values in S and in the work area. -/
def Corr.unpredictable (c : Corr) (tick : Nat) (t : Team) : Team :=
  let t := c.put t (fun r j => freeWord tick (r * 128 + j))
  if c.solve then t.setScratch c.woff ((List.range (c.n * c.dv)).flatMap (fun i => leBytes 4 (freeWord tick (16384 + i)))) else t

/-- MXDELTA token by token, MXSOLVE phase by phase (R378, R379, R382). An MXSOLVE that stands between its phases has not written S,
and its work area holds u, also where areas overlap (R384). -/
def corrOp (solve : Bool) (tick : Nat) (upTo : Option Nat) (op : EngOp) (t : Team) : TeamOut :=
  let opt := optOf op.instr
  let c := corrOf solve opt op.words
  let out := if solve then c.solveRun (bit opt 3) upTo op t
    else
      let (t, f, n) := c.tokens (bit opt 3) op.snap t (unitsFrom c.n op.pos upTo) op.pos
      { t := t, fault := f, done := n, pos := n }
  if c.overlap && !(solve && upTo.isSome) then { out with t := c.unpredictable tick out.t } else out

/-- An MXBETA that selects no register. -/
def EngOp.noBetas (op : EngOp) : Bool := (betaSel (wordAt op.words 0)).isEmpty
def execMxbeta (o : QOps) (s : State) : Host.Outcome State Fault Refusal :=
  execAtOnce (.mxbeta o) EngOp.noBetas (finishIdle betaOp) (engineBody (.mxbeta o) o 0x38 betaSpec) s
def execMxdelta (o : QOps) (s : State) : Host.Outcome State Fault Refusal :=
  execEngine (.mxdelta o) o 0x38 (corrSpec false o.y) s
def execMxsolve (o : QOps) (s : State) : Host.Outcome State Fault Refusal :=
  execEngine (.mxsolve o) o 0x38 (corrSpec true o.y) s

end Sys2Proof.Machine
end

