-- ==== Sys2Proof/Machine/Rollback.lean ====
section
/-! DEFINITION. Rollback of a team to its checkpoint (R444). -/
namespace Sys2Proof.Machine
open Sys2Proof

/-- A team goes back to its checkpoint; operations that are not done are discarded, but for those that were outstanding when a
redundant copy took the checkpoint at a comparison point: they stand as they did then (log 9). A checkpoint that was taken at a comparison
point comes before the step there: the comparison has matched, and the step is performed again (R446; log 9). -/
def Team.rollback (t : Team) : Team :=
  match t.checkpoint with
  | none => t
  | some k => { t with
      groups := k.groups, active := k.active, pending := k.pending, swap := none, readySince := []
      barriers := tputs {} k.barriers (t.barriers.filter (fun b => 16 ≤ b.1))
      beta := k.beta, dbound := k.dbound, scratch := k.scratch, acc := k.acc, rowstat := k.rowstat, walk := k.walk
      ops := t.ops.filter (fun o => o.phase = .done && k.ops.all (fun p => p.id ≠ o.id)) ++ k.ops
      irrevocable := false, held := [], heldLanes := 0, atCompare := if k.point < 16 then [k.point] else [], after := []
      passed := if k.point < 16 ∧ !t.twin then some k.point else none, cpDue := false }

/-- Whether an error at a unit rolls the team back: a revocable interval, and no uncorrectable error at the unit before
in this counting window. -/
def State.rollsBack (s : State) (t : Team) (unit : Nat) : Bool :=
  t.checkpoint.isSome && (!t.irrevocable || (s.grid t.grid).record.getLsbD 88) && (s.windowOver || !s.erred.contains unit)

/-- Both copies of a redundant team go back together, as their comparison points are common (log 9); a plain team alone. Waits of the
checkpoint for phases of cluster barriers that have passed since are over (R224). -/
def State.rollCopies (s : State) (c : Nat) (f : Team → Team) : State :=
  match (s.coreAt c).team with
  | some t =>
    let s := (s.bothCopies c).foldl (fun s d => s.modTeamAt d f) s
    ((List.range 16).foldl (fun s k => s.releaseBarrier c (16 + k)) s).releaseHeld t.ctx
  | none => s

/-- Roll the team of a core back for an error of a subcode at a unit, with its event in the log. -/
def State.rollTeam (s : State) (c sub unit : Nat) : State :=
  match (s.coreAt c).team with
  | some t => ((s.noteError unit).rollCopies c Team.rollback).logEvent t.gridid t.ctx 0x30 sub { cls := unit / 4096, idx := unit % 4096 } 6 0
  | none => s

/-- An operation's fault that is bad data in a revocable interval rolls the team back instead (R441, R444). -/
def State.rollsBackOn (s : State) (f : OpFault) : Bool := f.code = 0x30 && f.sub = 6 && s.rollsBack s.team f.detail

end Sys2Proof.Machine
end

