-- ==== Sys2Proof/Machine/Walk.lean ====
section
/-! DEFINITION. The prefix walk: the context, the tree, the work at a node, joins and leaves, faults and resumption, and
the instructions of major 0x3A (R324 to R352, R359, R361). -/
namespace Sys2Proof.Machine
open Sys2Proof

/-! ## The walk context (R324, R328, R329) -/

def Walk.f (w : Walk) (hi lo : Nat) : Nat := bits w.desc.toNat hi lo
def Walk.nseq (w : Walk) : Nat := w.f 74 65 + 1
def Walk.nslot (w : Walk) : Nat := w.f 80 75
def Walk.total (w : Walk) : Nat := w.nseq + w.nslot
def Walk.g (w : Walk) : Nat := w.f 87 84 + 1
def Walk.d (w : Walk) : Nat := 32 * (w.f 83 81 + 1)
def Walk.nnodes (w : Walk) : Nat := w.f 31 16 + 1
def Walk.nrows (w : Walk) : Nat := w.total * w.g
def Walk.kv (w : Walk) : Nat := w.f 91 88
def Walk.qfmt (w : Walk) : Nat := w.f 95 92
def Walk.qpitch (w : Walk) : Nat := w.f 223 208
def Walk.blk (w : Walk) : Nat := 256 * w.f 191 176
def Walk.lbmax (w : Walk) : Nat := w.f 175 160
def Walk.tile0 (w : Walk) : Nat := w.f 239 236
def Walk.massen (w : Walk) : Bool := w.f 240 240 = 1
def Walk.treebuf (w : Walk) : Nat := w.f 11 0
def Walk.treeoff (w : Walk) : Nat := 16 * w.f 63 32
def Walk.poolbuf (w : Walk) : Nat := w.f 139 128
def Walk.btbuf (w : Walk) : Nat := w.f 155 144
def Walk.massbuf (w : Walk) : Nat := w.f 235 224
def Walk.qoff (w : Walk) : Nat := w.f 277 256
def Walk.outoff (w : Walk) : Nat := w.f 309 288
def Walk.rowoff (w : Walk) : Nat := w.f 341 320
def Walk.stoff (w : Walk) : Nat := w.f 373 352
def Walk.stgoff (w : Walk) : Nat := w.f 405 384

/-- Bytes of one row of K or V elements. -/
def Walk.rowBytes (w : Walk) : Nat := w.d * fmtNibbles w.kv / 2
/-- MINSZ (R324). -/
def Walk.minsz (w : Walk) : Nat := 32 * w.rowBytes + (if w.kv = 6 then 4 * w.d else 0)
/-- Width of a query element. -/
def Walk.qw (w : Walk) : Nat := if w.qfmt = 1 then 4 else 2

/-- The areas of R330 in the order of its table: offset, length, alignment. The bytes between two rows of queries count as the area's
(DESIGN CHOICE, log 80). -/
def Walk.areas (w : Walk) : List (Nat × Nat × Nat) :=
  [(w.qoff, (w.nrows - 1) * w.qpitch + w.d * w.qw, 4), (w.outoff, 4 * w.nrows * w.d, 4), (w.rowoff, 8 * w.nrows, 8),
   (w.stoff, 4 * w.total, 4), (w.stgoff, 2 * w.blk, 256)]

/-- Whether the descriptor passes step 3 of R347. A QPITCH that is no multiple of 4 passes, and the rows are read bytewise
(DESIGN CHOICE, log 60). -/
def Walk.legal (w : Walk) : Bool :=
  let d := w.desc.toNat
  bits d 511 406 = 0 && bits d 383 374 = 0 && bits d 351 342 = 0 && bits d 319 310 = 0 && bits d 287 278 = 0
    && bits d 255 241 = 0 && bits d 207 192 = 0 && bits d 159 156 = 0 && bits d 143 140 = 0 && bits d 64 64 = 0
    && bits d 15 12 = 0 && [1, 2, 3].contains w.qfmt && [2, 3, 4, 5, 6].contains w.kv && w.minsz ≤ w.blk
    && 1 ≤ w.lbmax && w.nslot ≤ 32 && w.nrows ≤ 4096 && w.d * w.qw ≤ w.qpitch

def Walk.seq (w : Walk) (q : Nat) : Seq := tget {} w.seqs q
def Walk.setSeq (w : Walk) (q : Nat) (x : Seq) : Walk := { w with seqs := tput {} w.seqs q x }
def Walk.row (w : Walk) (r : Nat) : Row := tget {} w.rows r
def Walk.rowsOf (w : Walk) (q : Nat) : List Nat := (List.range w.g).map (fun h => q * w.g + h)

/-! ## The tree (R331 to R334) -/

structure Node where
  parent : Nat
  tbl : Nat
  lblk : Nat
  lenm1 : Nat
  ovly : Bool
  lo : Nat
  hi : Nat
  rsv : Bool       -- reserved bits are 0
  deriving DecidableEq, Repr

def nodeOf (x : Nat) : Node :=
  { parent := bits x 15 0, tbl := bits x 31 16, lblk := bits x 47 32, lenm1 := bits x 51 48, ovly := bit x 63
    lo := bits x 73 64, hi := bits x 89 80, rsv := bits x 127 90 = 0 && bits x 79 74 = 0 && bits x 62 52 = 0 }

/-- A tree as its records were read; node n by number. -/
abbrev Tree := List Nat
def Tree.node (t : Tree) (n : Nat) : Node := nodeOf (t.getD n 0)

/-- Whether record n is well formed beside the records before it, in which its parent and its earlier siblings stand
(R332; DEDUCED, log 26). -/
def Tree.nodeOk (t : Tree) (w : Walk) (n : Nat) : Bool :=
  let x := t.node n
  let p := t.node x.parent
  x.rsv && (if n = 0 then x.parent = 0xFFFF else x.parent < n) && x.lblk < w.lbmax
    && (if x.ovly then x.lo = 0 && x.hi = 0
        else x.lo ≤ x.hi && x.hi < w.nseq
          && (n = 0 || (!p.ovly && p.lo ≤ x.lo && x.hi ≤ p.hi
                && ((List.range n).drop 1).all (fun m =>
                      let y := t.node m
                      y.parent ≠ x.parent || y.ovly || y.hi < x.lo || x.hi < y.lo))))

/-- The first malformed record. -/
def Tree.malformed (t : Tree) (w : Walk) : Option Nat := (List.range t.length).find? (fun n => !t.nodeOk w n)

/-- A node's path, from the node to node 0 (R333). -/
def Tree.pathUp (t : Tree) : Nat → Nat → List Nat
  | 0, n => [n]
  | k + 1, n => if n = 0 then [0] else n :: t.pathUp k (t.node n).parent
def Tree.path (t : Tree) (n : Nat) : List Nat := t.pathUp n n

/-- Put node n behind the last node of its parent's subtree. -/
def Tree.place (t : Tree) (order : List Nat) (n : Nat) : List Nat :=
  let after := order.reverse.takeWhile (fun m => !(t.path m).contains (t.node n).parent)
  order.take (order.length - after.length) ++ [n] ++ after.reverse

/-- The walk order: preorder, children ascending (R333). -/
def Tree.order (t : Tree) : List Nat := ((List.range t.length).drop 1).foldl t.place [0]

/-- POS(n). -/
def Tree.pos (t : Tree) (n : Nat) : Nat := t.order.idxOf n

/-- Whether a sequence sees a node: by its interval, or on its slot's path (R334, R338). -/
def Walk.sees (w : Walk) (t : Tree) (q n : Nat) : Bool :=
  if q < w.nseq then (let x := t.node n; !x.ovly && x.lo ≤ q && q ≤ x.hi)
  else (w.seq q).valid && (t.path (w.seq q).leaf).contains n

/-- A sequence's last node in walk order, if it sees any (R334). -/
def Walk.leafOf (w : Walk) (t : Tree) (q : Nat) : Option Nat := (t.order.filter (w.sees t q)).getLast?

/-! ## Status words (R344, R352) -/

def Seq.word (x : Seq) : Nat := (if x.state = 3 then x.fnode else 0xFFFF) * 2 ^ 16 + (if x.state = 3 then x.reason else 0) * 2 ^ 12 + x.state

/-- Set a sequence's entry and write its status word. -/
def Team.putSeq (t : Team) (w : Walk) (q : Nat) (x : Seq) : Team :=
  { t with walk := some (w.setSeq q x) }.setScratch (w.stoff + 4 * q) (leBytes 4 x.word)

/-- Change a sequence of the team's context; its status word is written when it becomes DONE, VOID or FAULTED (R366). -/
def Team.modSeq (q : Nat) (f : Seq → Seq) (t : Team) : Team :=
  match t.walk with
  | some w =>
    let x := f (w.seq q)
    if x.state = (w.seq q).state ∨ x.state = 4 ∨ x.state = 0 then { t with walk := some (w.setSeq q x) } else t.putSeq w q x
  | none => t

/-- The operation of the walk in progress, and the tree it read. -/
def Team.walkOp (t : Team) : Option (Walk × WalkRun × EngOp) :=
  match t.walk with
  | some w => match w.run with
    | some r => (t.findOp r.id).map (fun o => (w, r, o))
    | none => none
  | none => none

/-- Sequences that take part in the catch-up pass and have nodes left, ascending (R338). -/
def Walk.lateSeqs (w : Walk) (r : WalkRun) : List Nat :=
  (List.range w.total).filter (fun q => (w.seq q).state = 4 && (!r.resumed || (w.seq q).resume) && !(w.seq q).late.isEmpty)

/-- The node that a running walk processes next: none at END until the catch-up pass has begun (DESIGN CHOICE, log 81). -/
def Walk.next (w : Walk) (r : WalkRun) (t : Tree) : Option Nat :=
  if r.catchUp then ((w.lateSeqs r).head?.bind (fun q => (w.seq q).late.head?)) else t.order[r.pos]?

/-- The status word of R352. NVOID counts every sequence that is marked VOID, a DONE one too (DESIGN CHOICE, log 62). -/
def Team.walkStatus (t : Team) : Dword :=
  match t.walk with
  | none => BitVec.ofNat 64 (0xFFFF * 2 ^ 32)
  | some w =>
    let out := t.ops.any (fun o => o.phase ≠ .done && inMatrixOrder o.instr && engOf 0x3A = bits o.id.toNat 63 60)
    let nx := match t.walkOp with | some (w, r, o) => w.next r o.snap | none => none
    let count := fun (p : Seq → Bool) => ((List.range w.total).filter (fun q => p (w.seq q))).length
    BitVec.ofNat 64 (2 ^ 63 + toBit out * 2 ^ 62 + toBit (match w.run with | some r => r.catchUp | none => false) * 2 ^ 61
      + toBit nx.isSome * 2 ^ 56 + w.queue.length * 2 ^ 48 + nx.getD 0xFFFF * 2 ^ 32
      + count (fun x => x.state = 3) * 2 ^ 21 + count (fun x => x.void) * 2 ^ 10 + count (fun x => x.valid))

/-! ## Rows (R329, R335, R336) -/

/-- Element c of o of row r: an accumulator word of the run (R329). -/
def Walk.oKey (w : Walk) (r c : Nat) : Nat := w.tile0 * 16384 + r * w.d + c

/-- A row before its first node: m = −∞, l = +0, o = +0 (R338, R340). -/
def Team.clearRow (r : Nat) (t : Team) : Team :=
  match t.walk with
  | some w => { t with walk := some { w with rows := tput {} w.rows r {} }
                       acc := tputs 0 t.acc ((List.range w.d).map (fun c => (w.oKey r c, 0))) }
  | none => t

def Team.clearRows (t : Team) (q : Nat) : Team :=
  match t.walk with | some w => (w.rowsOf q).foldl (fun t r => t.clearRow r) t | none => t

/-- The quotient of two F32 codes, rounded once; no flags. -/
def divF (a b : Nat) : Nat :=
  match F32.val a, F32.val b with
  | .nan _, _ => F32.nan
  | _, .nan _ => F32.nan
  | .inf _, .inf _ => F32.nan
  | .inf n, y => F32.sgn (n != y.sign) F32.infCode
  | x, .inf n => F32.sgn (x.sign != n) 0
  | .fin n m e, .fin n' m' e' =>
    if m' = 0 then (if m = 0 then F32.nan else F32.sgn (n != n') F32.infCode)
    else (F32.round 0 false (n != n') m m' (e - e')).code

/-- A sequence finishes: outputs, row records, state DONE (R336). -/
def Team.finishSeq (t : Team) (q : Nat) : Team :=
  match t.walk with
  | none => t
  | some w =>
    let row := fun (t : Team) (r : Nat) =>
      let x := w.row r
      let outs := (List.range w.d).flatMap (fun c =>
        leBytes 4 (if x.l = 0 then F32.nan else divF (tget 0 t.acc (w.oKey r c)).toNat x.l.toNat))
      (t.setScratch (w.outoff + 4 * (r * w.d)) outs).setScratch (w.rowoff + 8 * r) (leBytes 4 x.m.toNat ++ leBytes 4 x.l.toNat)
    ((w.rowsOf q).foldl row t).modSeq q (fun x => { x with state := 1 })

/-! ## Fetching a block (R326, R327, R341, R359) -/

/-- REASON of a fault on a fetch (R341); bad data is REASON 5 in the block-table entry too (DESIGN CHOICE, log 61). -/
def reasonOf (f : OpFault) : Nat :=
  if f.code = 8 then 2 else if f.code = 0x0B ∧ f.sub ≠ 3 then 3 else if f.code = 0x30 then 5 else 4

/-- Bytes of a buffer, in pieces that lie in one page and one line. -/
def State.opBytes (s : State) (idx : Nat) (k : AKind) (piece : Nat) : Nat → Nat → State × (OpFault ⊕ List Byte)
  | 0, _ => (s, .inr [])
  | n + 1, off =>
    match s.opCheck idx off piece k with
    | (s, .fault f) => (s, .inl f)
    | (s, .ok pa va) =>
      match s.opRead pa va piece with
      | (s, bs) => match s.opBytes idx k piece n (off + piece) with
        | (s, .inr r) => (s, .inr (bs ++ r))
        | x => x

/-- The place of a block-table entry (R326). -/
def Walk.entryOff (w : Walk) (tbl lblk : Nat) : Nat := 4 * (w.lbmax * tbl + lblk)

/-- The BTB's translation of a key, if it still keeps one (log 36), or the entry read from BTBUF and kept (R327); a fresh
translation reads BTBUF (R343, R359), with the walk right also for BTCOW and KVPUT (DESIGN CHOICE, log 70). -/
def State.blockOf (s : State) (fresh : Bool) (w : Walk) (tbl lblk : Nat) : State × (OpFault ⊕ Nat) :=
  let key := fun (e : BtbEntry) => e.tbl = tbl && e.lblk = lblk
  match (if fresh ∨ s.choice 9 % 2 = 1 then none else (s.coreAt s.core).btb.find? key) with
  | some e => (s, .inr e.block)
  | none =>
    match s.opBytes w.btbuf .walk 4 1 (w.entryOff tbl lblk) with
    | (s, .inl f) => (s, .inl f)
    | (s, .inr bs) =>
      (s.modCore s.core (fun c => { c with btb := (⟨tbl, lblk, leNat bs⟩ :: c.btb.filter (fun e => !key e)).take 4096 }), .inr (leNat bs))

/-- A fetched block: its identifier, and the bytes of its K and V rows with their scales. -/
structure Block where
  id : Nat
  k : List (List Byte)
  v : List (List Byte)
  ks : List (List Byte)
  vs : List (List Byte)

/-- The first n rows of some length from an offset. Only the pages that hold them are translated, not the rest of the block's
(R341; DESIGN CHOICE, log 61). -/
def State.blockRows (s : State) (w : Walk) (base len piece n : Nat) : State × (OpFault ⊕ List (List Byte)) :=
  (List.range n).foldl (fun (st : State × (OpFault ⊕ List (List Byte))) j =>
    match st.2 with
    | .inl _ => st
    | .inr rows => match st.1.opBytes w.poolbuf .walk piece (len / piece) (base + j * len) with
      | (s, .inl f) => (s, .inl f)
      | (s, .inr bs) => (s, .inr (rows ++ [bs]))) (s, .inr [])

/-- A fetch fails by a fault, which counts at its unit if it is bad data (R341, R444). -/
def State.fetchFails (s : State) (f : OpFault) : State × (Nat ⊕ Block) := (s.noteFault f.code f.detail, .inl (reasonOf f))

/-- Fetch a node's block, or the REASON that it cannot be (R341). -/
def State.fetchNode (s : State) (w : Walk) (x : Node) : State × (Nat ⊕ Block) :=
  match s.blockOf (w.run.any WalkRun.afresh) w x.tbl x.lblk with
  | (s, .inl f) => s.fetchFails f
  | (s, .inr e) =>
    if e = 0xFFFFFFFF then (s, .inl 1)
    else
      match s.desc (dieOf s.core) s.team.ctx w.poolbuf with
      | (s, d) =>
        match descCheck s.team.ctx w.poolbuf d .walk with
        | some _ => (s, .inl 4)
        | none =>
          if bits d 111 64 < (e + 1) * w.blk then (s, .inl 2)
          else
            let base := e * w.blk
            let n := x.lenm1 + 1
            match s.blockRows w base w.rowBytes 16 n with
            | (s, .inl f) => s.fetchFails f
            | (s, .inr k) => match s.blockRows w (base + 16 * w.rowBytes) w.rowBytes 16 n with
              | (s, .inl f) => s.fetchFails f
              | (s, .inr v) =>
                let ns := if w.kv = 6 then n else 0
                match s.blockRows w (base + 16 * w.d) (w.d / 8) 4 ns with
                | (s, .inl f) => s.fetchFails f
                | (s, .inr ks) => match s.blockRows w (base + 18 * w.d) (w.d / 8) 4 ns with
                  | (s, .inl f) => s.fetchFails f
                  | (s, .inr vs) => (s, .inr ⟨e, k, v, ks, vs⟩)

/-- Element i of a K or V row (R324). -/
def kvElem (fmt : Nat) (row scales : List Byte) (i : Nat) : Fv :=
  if fmt = 6 then
    let b := (row.getD (i / 2) 0).toNat
    fp4Val (if i % 2 = 0 then b % 16 else b / 16) (scales.getD (i / 8) 0).toNat
  else
    let n := fmtNibbles fmt / 2
    (fmtOfTag fmt).val (leNat ((row.drop (i * n)).take n))

/-! ## The work at a node (R335, R361) -/

/-- DOT: k-groups of 32 exact products, each rounded once, added in ascending order. -/
def dotF (d : Nat) (q k : Nat → Fv) : Nat :=
  let grp := fun g => sumRound ((List.range 32).map (fun i => prodV (q (32 * g + i)) (k (32 * g + i))))
  ((List.range (d / 32)).drop 1).foldl (fun a g => addF a (grp g)) (grp 0)

/-- DIFF of R335. -/
def diffF (x y : Nat) : Nat := if x = 0xFF800000 ∧ y = 0xFF800000 then x else (F32.sub 0 false x y).code
def mulF (a b : Nat) : Nat := (F32.mul 0 false a b).code

/-- The codes of row r's query as the scratchpad holds them. -/
def Walk.readQuery (w : Walk) (t : Team) (r : Nat) : List Nat :=
  (List.range w.d).map (fun i => t.padNat (w.qoff + r * w.qpitch + i * w.qw) w.qw)
/-- Row r's query: read at its first node of the operation, and kept. -/
def Walk.query (w : Walk) (t : Team) (r : Nat) : List Nat :=
  match w.run.bind (fun x => (x.queries.find? (fun y => y.1 = r)).map Prod.snd) with
  | some q => q
  | none => w.readQuery t r

/-- One row at a node: the team, and the row's p with its l after the node. -/
def Team.rowAtNode (t : Team) (w : Walk) (b : Block) (r : Nat) : Team × (List Nat × Nat) :=
  let x := w.row r
  let n := b.k.length
  let q := w.query t r
  let sc := (List.range n).map (fun j =>
    mulF (w.f 127 96) (dotF w.d (fun i => (fmtOfTag w.qfmt).val (q.getD i 0)) (kvElem w.kv (b.k.getD j []) (b.ks.getD j []))))
  let mnew := sc.foldl (fun m y => (F32.minmax true m y).code) x.m.toNat
  let alpha := exp2t F32 (diffF x.m.toNat mnew)
  let p := sc.map (fun y => exp2t BF16 (diffF y mnew))
  let l := addF (mulF alpha x.l.toNat) (sumRound (p.map BF16.val))
  let o := fun c => addF (mulF alpha (tget 0 t.acc (w.oKey r c)).toNat)
    (sumRound (p.mapIdx (fun j y => prodV (BF16.val y) (kvElem w.kv (b.v.getD j []) (b.vs.getD j []) c))))
  ({ t with acc := tputs 0 t.acc ((List.range w.d).map (fun c => (w.oKey r c, BitVec.ofNat 32 (o c))))
            walk := t.walk.map (fun w => { w with
              rows := tput {} w.rows r ⟨BitVec.ofNat 32 mnew, BitVec.ofNat 32 l⟩
              run := w.run.map (fun x => { x with queries := tput [] x.queries r q }) }) }, (p, l))

/-- A sum of fractions of naturals. -/
def fracAdd (a b : Nat × Nat) : Nat × Nat := (a.1 * b.2 + b.1 * a.2, a.2 * b.2)
/-- The exact quotient of two values that are not negative. -/
def fracOf (a : Dy) (m : Nat) (e : Int) : Nat × Nat :=
  let sh := a.e - e
  if 0 ≤ sh then (a.m.toNat * 2 ^ sh.toNat, m) else (a.m.toNat, m * 2 ^ (-sh).toNat)

/-- x of R361; a degenerate row adds nothing. -/
def massOf (rows : List (List Nat × Nat)) : Nat :=
  let f := rows.foldl (fun f (x : List Nat × Nat) =>
    let ps := x.1.map BF16.val
    match F32.val x.2 with
    | .fin _ m e => if m = 0 ∨ ps.any Fv.isNan then f else fracAdd f (fracOf (ps.foldl (fun d p => d.add p.dy) Dy.zero) m e)
    | _ => f) (0, 1)
  64 * f.1 / f.2

/-- An atomic step on entry e of the mass table (R353). -/
def State.massStep (s : State) (w : Walk) (op : EngOp) (e code : Nat) : State × Option OpFault :=
  match s.opCheck w.massbuf (4 * e) 4 .atomic with
  | (s, .fault x) => (s, some x)
  | (s, .ok pa va) => (s.opAtomic op w.massbuf (4 * e) pa va code, none)

/-- The contribution of a node to its block's mass: a reduction into the core's partial (R220, R361), which a redundant
copy holds (R445). -/
def State.massRed (s : State) (w : Walk) (e x : Nat) : State × Option OpFault :=
  match s.opCheck w.massbuf (4 * e) 4 .atomic with
  | (s, .fault f) => (s, some f)
  | (s, .ok pa va) =>
    let op := (w.run.bind (fun r => s.team.findOp r.id)).getD { id := 0, instr := .pwrun {}, grp := s.grp }
    (s.opRed op w.massbuf (4 * e) pa va 8 1 (BitVec.ofNat 32 (min x 65535)), none)

/-- A node for some sequences: frozen when the fetch fails, also by bad data that the outside brings about in a unit, or worked
on; whether it was fetched, and the fault that its mass contribution met. -/
def State.visit (s : State) (w : Walk) (bad : Option Nat) (id : Dword) (n : Nat) (x : Node) (qs : List Nat) (late : Bool) :
    State × Bool × Option OpFault :=
  match (match bad with
    | some u => s.fetchFails { code := 0x30, sub := 6, detail := u }
    | none => s.fetchNode w x) with
  | (s, .inl why) =>
    (s.modTeam (fun t => qs.foldl (fun t q =>
      t.modSeq q (fun y => { y with state := 3, fnode := n, reason := why, lateFault := late })) t), false, none)
  | (s, .inr b) =>
    let out := (qs.flatMap w.rowsOf).foldl (fun (st : Team × List (List Nat × Nat)) r =>
      let y := st.1.rowAtNode w b r
      (y.1, st.2 ++ [y.2])) (s.team, [])
    let s := s.modTeam (fun _ => out.1.modOp id (fun o => { o with donecnt := o.donecnt + 1 }))
    if !w.massen then (s, true, none)
    else match s.massRed w b.id (massOf out.2) with
      | (s, f) => (s, true, f)

/-! ## Changes at boundaries (R337 to R339) -/

/-- Apply one change at the boundary before position p. -/
def Team.applyChange (tree : Tree) (p : Nat) (t : Team) (c : Change) : Team :=
  match t.walk with
  | none => t
  | some w =>
    if c.join then
      let q := w.nseq + c.seq
      let t := t.clearRows q
      t.modSeq q (fun x => { x with valid := true, leaf := c.leaf, since := p, state := if x.void then 2 else 4
                                    late := if x.void then [] else (tree.path c.leaf).reverse.filter (fun n => tree.pos n < p) })
    else t.modSeq c.seq (fun x => { x with void := true, state := if x.state = 1 then 1 else 2, late := [] })

/-- Apply, in issue order, the changes that are due at the boundary before position p (R337; a leave before its join: DEDUCED, log 26). -/
def Team.applyChanges (tree : Tree) (p : Nat) (t : Team) : Team :=
  match t.walk with
  | none => t
  | some w =>
    let due := fun (c : Change) => c.any || tree.pos c.when ≤ p
    let t := { t with walk := some { w with queue := w.queue.filter (fun c => !due c) } }
    (w.queue.filter due).foldl (Team.applyChange tree p) t

/-! ## Start (R332, R340, R343) -/

/-- Read the tree: its records, or the fault of a read. -/
def State.readTree (s : State) (w : Walk) : State × (OpFault ⊕ Tree) :=
  (List.range w.nnodes).foldl (fun (st : State × (OpFault ⊕ Tree)) n =>
    match st.2 with
    | .inl _ => st
    | .inr t => match st.1.opBytes w.treebuf .walk 16 1 (w.treeoff + 16 * n) with
      | (s, .inl f) => (s, .inl f)
      | (s, .inr bs) => (s, .inr (t ++ [leNat bs]))) (s, .inr [])

/-- The reset of one sequence that is not VOID (R340). -/
def Team.resetSeq (tree : Tree) (t : Team) (q : Nat) : Team :=
  match t.walk with
  | none => t
  | some w =>
    if (w.seq q).void then t
    else
      let t := t.clearRows q
      t.putSeq (t.walk.getD w) q { w.seq q with state := if (w.leafOf tree q).isSome then 4 else 0, fnode := 0, reason := 0
                                                since := 0, late := [], resume := false, lateFault := false }

/-- A FAULTED sequence takes part again from FNODE on, the others do not (R343). -/
def Team.resumeSeq (tree : Tree) (t : Team) (q : Nat) : Team :=
  match t.walk with
  | none => t
  | some w =>
    let x := w.seq q
    if x.state ≠ 3 then { t with walk := some (w.setSeq q { x with resume := false }) }
    else t.modSeq q (fun x => { x with state := 4, resume := true, since := if x.lateFault then tree.length else tree.pos x.fnode
                                       fnode := 0, reason := 0, lateFault := false })

/-- The pre-pass and the reset: the walk begins, or the fault that ends it (R332, R340, R342, R343). -/
def State.walkStart (s : State) (op : EngOp) (resume : Bool) : State × Option OpFault :=
  match s.team.walk with
  | none => (s, none)
  | some w =>
    match s.readTree w with
    | (s, .inl f) => (s, some f)
    | (s, .inr tree) =>
      match tree.malformed w with
      | some n => (s, some { code := 0x14, sub := 2, off := n })
      | none =>
        (s.modTeam (fun t =>
          let t := t.modOp op.id (fun o => { o with snap := tree })
          let t := (List.range w.total).foldl (if resume then Team.resumeSeq tree else Team.resetSeq tree) t
          { t with walk := t.walk.map (fun w => { w with run := some { id := op.id, resumed := resume, afresh := resume || t.btFresh } }) }), none)

/-! ## One step of the walk -/

/-- The sequences that a node serves in the main pass. -/
def Walk.subs (w : Walk) (r : WalkRun) (tree : Tree) (n : Nat) : List Nat :=
  (List.range w.total).filter (fun q =>
    let x := w.seq q
    x.state = 4 && (!r.resumed || x.resume) && x.since ≤ r.pos && w.sees tree q n)

def Team.setRun (f : WalkRun → WalkRun) (t : Team) : Team :=
  { t with walk := t.walk.map (fun w => { w with run := w.run.map f }) }

/-- Sequences of a list whose last node was n finish. -/
def Team.finishAt (tree : Tree) (n : Nat) (t : Team) (q : Nat) : Team :=
  match t.walk with
  | some w => if w.leafOf tree q = some n ∧ (w.seq q).late = [] then t.finishSeq q else t
  | none => t

/-- A step in the main pass: the boundary, then its node; at END the catch-up pass begins. -/
def State.mainStep (s : State) (bad : Option Nat) (r : WalkRun) (op : EngOp) : State × Option OpFault :=
  let tree : Tree := op.snap
  let s := if r.resumed then s else s.modTeam (Team.applyChanges tree r.pos)
  match tree.order[r.pos]? with
  | none => (s.modTeam (Team.setRun (fun r => { r with catchUp := true })), none)
  | some n =>
    match s.team.walk with
    | none => (s, none)
    | some w =>
      let qs := w.subs r tree n
      let s := s.modTeam (Team.setRun (fun r => { r with pos := r.pos + 1 }))
      if qs.isEmpty then (s, none)
      else match s.visit w bad op.id n (tree.node n) qs false with
        | (s, fetched, f) => (if fetched then s.modTeam (fun t => qs.foldl (Team.finishAt tree n) t) else s, f)

/-- A step in the catch-up pass: the next node of the lowest slot that has one. -/
def State.lateStep (s : State) (bad : Option Nat) (r : WalkRun) (op : EngOp) : State × Option OpFault :=
  match s.team.walk with
  | none => (s, none)
  | some w =>
    match (w.lateSeqs r).head? with
    | none => (s, none)
    | some q =>
      let n := (w.seq q).late.headD 0
      match s.visit w bad op.id n (Tree.node op.snap n) [q] true with
      | (s, fetched, f) =>
        (if !fetched then s
         else s.modTeam (fun t =>
           let t := t.modSeq q (fun x => { x with late := x.late.drop 1 })
           if (w.seq q).late.length ≤ 1 then t.finishSeq q else t), f)

/-- Whether the walk of a team has no node left. -/
def Team.walkOver (t : Team) : Bool :=
  match t.walkOp with | some (w, r, _) => r.catchUp && (w.lateSeqs r).isEmpty | none => true

/-! ## The end (R330, R342) -/

/-- Fill a range with free bytes (log 6). -/
def Team.scramble (t : Team) (tick off n : Nat) : Team :=
  let new := (List.range n).filterMap (fun i =>
    let b := Config.freeByte tick (off + i)
    if b = 0 then none else some (off + i, b))
  { t with scratch := t.scratch.filter (fun x => x.1 < off) ++ new ++ t.scratch.filter (fun x => off + n ≤ x.1) }

/-- After any walk the staging area, and every overlap of two areas, holds unpredictable bytes (R330). -/
def Team.scrambleAreas (t : Team) (w : Walk) (tick : Nat) : Team :=
  let xs := w.areas
  let pairs := (List.range xs.length).flatMap (fun i => (List.range i).map (fun j => (xs.getD i (0, 0, 0), xs.getD j (0, 0, 0))))
  let t := t.scramble tick w.stgoff (2 * w.blk)
  pairs.foldl (fun t p =>
    let lo := max p.1.1 p.2.1
    let hi := min (p.1.1 + p.1.2.1) (p.2.1 + p.2.2.1)
    if lo < hi then t.scramble tick lo (hi - lo) else t) t

/-- The walk ends: its fault, WALK_FAULT 0x01 when sequences are FAULTED (R342). -/
def State.walkEnd (s : State) (f : Option OpFault) : State × Option OpFault :=
  match s.team.walk with
  | none => (s, f)
  | some w =>
    let bad := (List.range w.total).filter (fun q => (w.seq q).state = 3)
    let f := if f.isSome ∨ bad.isEmpty then f
      else some { code := 0x14, sub := 1, off := bad.length * 2 ^ 16 + minOver (fun q => (w.seq q).fnode) bad }
    (s.modTeam (fun t => { (t.scrambleAreas w s.tick) with walk := t.walk.map (fun w => { w with run := none }) }), f)

/-- One step of the walk on a core (R335 to R339), the block's data with an error of a unit if the outside says so (R341); a fault
of a mass contribution ends the operation. A step for which a line cannot be had comes again (R464). -/
def State.walkStep (s : State) (c : Nat) (bad : Option Nat) : State :=
  let s := { s with core := c, stuck := false }
  match s.team.walkOp with
  | none => s
  | some (_, r, op) =>
    let s := { s with grp := op.grp }
    let out := if r.catchUp then s.lateStep bad r op else s.mainStep bad r op
    if out.1.stuck then s.balked out.1
    else match out with
    | (s, none) => s
    | (s, some f) =>
      if s.rollsBackOn f then s.rollTeam c 6 f.detail
      else match s.walkEnd (some f) with
      | (s, f) => s.ranOp c op f ((s.team.findOp op.id).map EngOp.donecnt |>.getD 0)

/-- A walk that writes its mass table, of a redundant copy that waits at a comparison point, does not go on meanwhile (R446). -/
def State.walkWaits (s : State) (c : Nat) (t : Team) : Bool :=
  match t.walkOp with | some (_, _, op) => op.compares && s.copyWaits c | none => false

def execWalkNode (core : Nat) (s : State) : Host.Outcome State Fault Refusal :=
  let t := (s.coreAt core).team.getD {}
  .next (if t.walkOver || s.walkWaits core t then s else s.walkStep core none)

/-! ## PWINIT (R347) -/

/-- Steps 2 to 4 of R213 on a buffer that a walk uses, and step 5 for a range. -/
def State.bufOk (s : State) (idx : Nat) (k : AKind) (off len : Nat) : State × Option Trap :=
  match s.desc (dieOf s.core) s.team.ctx idx with
  | (s, d) => match descCheck s.team.ctx idx d k with
    | some c => (s, some { code := c.1, sub := c.2, off := off, bt := idx })
    | none => (s, if bits d 111 64 < off + len ∧ len ≠ 0 then some { code := 8, sub := 1, off := off, bt := idx } else none)

/-- The first trap of a list of buffer checks. -/
def State.bufsOk (s : State) (xs : List (Nat × AKind × Nat × Nat)) : State × Option Trap :=
  xs.foldl (fun (st : State × Option Trap) x =>
    match st.2 with | some _ => st | none => st.1.bufOk x.1 x.2.1 x.2.2.1 x.2.2.2) (s, none)

/-- Outstanding operations of majors 0x3A and 0x3B. -/
def Team.walking (t : Team) : Bool := t.ops.any (fun o => o.phase ≠ .done && bits o.id.toNat 63 60 = 3)

def pwinitCheck (s : State) (off : Nat) (w : Walk) : State × Option Trap :=
  let t := s.team
  match firstTrap ([
      chk (off % 64 = 0) 5 1,
      chk (off + 64 ≤ t.scratchSize) 8 0x10,
      chk (!t.walking) 0x14 0x10,
      chk w.legal 3 0x30,
      chk (w.tile0 < t.tiles && w.nrows * w.d ≤ 16384 * (t.tiles - w.tile0)) 8 0x43]
      ++ w.areas.flatMap (fun a => [chk (a.1 + a.2.1 ≤ t.scratchSize) 8 0x10, chk (a.1 % a.2.2 = 0) 5 2])) with
  | some x => (s, some x)
  | none =>
    s.bufsOk ([(w.treebuf, .walk, w.treeoff, 0), (w.poolbuf, .walk, 0, 0), (w.btbuf, .walk, 0, 0)]
      ++ (if w.massen then [(w.massbuf, .atomic, 0, 0)] else []) ++ [(w.treebuf, .walk, w.treeoff, 16 * w.nnodes)])

def pwinitBody (o : QOps) : Body := teamOnly (fun iss s =>
  if iss.p = 0 then .skip s
  else
    let off := (s.group.sreg (o.sa + 1)).toNat
    let w : Walk := { desc := BitVec.ofNat 512 (s.team.padNat off 64) }
    match pwinitCheck s off w with
    | (s, some x) => { s := s, raised := together iss.p x }
    | (s, none) =>
      let s := (s.modTeam (fun t => { t with walk := some w })).modCore s.core (fun c => { c with btb := [] })
      Res.group s (Group.setS o.sa s.team.walkStatus))

/-! ## PWJOIN and PWLEAVE (R348) -/

/-- The change of an operand word, and whether its reserved bits are 0. -/
def changeOf (join : Bool) (v : Nat) : Change × Bool :=
  if join then ({ join := true, when := bits v 63 48, any := bit v 47, seq := bits v 36 32, leaf := bits v 15 0 },
    bits v 46 37 = 0 && bits v 31 16 = 0)
  else ({ join := false, when := bits v 63 48, any := bit v 47, seq := bits v 10 0 }, bits v 46 11 = 0)

/-- The lowest of codes 1 to 5 that applies, else 0. -/
def Walk.changeCode (w : Walk) (c : Change) : Nat :=
  let named := fun (j : Nat) => w.queue.any (fun x => x.join && x.seq = j)
  let valid := fun (q : Nat) => (w.seq q).valid
  if c.join ∧ w.nslot ≤ c.seq then 1
  else if !c.join ∧ (w.total ≤ c.seq ∨ (w.nseq ≤ c.seq ∧ !valid c.seq ∧ !named (c.seq - w.nseq))) then 1
  else if c.join ∧ (valid (w.nseq + c.seq) ∨ named c.seq) then 2
  else if c.join ∧ w.nnodes ≤ c.leaf then 3
  else if 64 ≤ w.queue.length then 4
  else if (!c.any ∧ w.nnodes ≤ c.when) ∨ (c.any ∧ c.when ≠ 0) then 5
  else 0

def changeBody (join : Bool) (o : QOps) : Body := teamOnly (fun iss s =>
  if iss.p = 0 then .skip s
  else
    let (c, ok) := changeOf join (s.group.sreg (o.sa + 1)).toNat
    match s.team.walk with
    | none => { s := s, raised := together iss.p { code := 0x14, sub := 0x11 } }
    | some w =>
      if !ok then { s := s, raised := together iss.p { code := 3, sub := 0x30 } }
      else
        let n := w.changeCode c
        let s := s.drainGroup.irrevocable
        let s := if n = 0 then s.modTeam (fun t => { t with walk := t.walk.map (fun w => { w with queue := w.queue ++ [c] }) }) else s
        Res.group s (Group.setS o.sa (BitVec.ofNat 64 n)))

/-! ## PWRUN (R349) -/

def pwrunCheck (s : State) (ws : List Dword) : State × Option Trap :=
  let v := wordAt ws 0
  (s, firstTrap [chk s.pairOk 0x0C 2, chk s.team.walk.isSome 0x14 0x11, chk (bits v 63 21 = 0 && bits v 15 0 = 0) 3 0x30])

/-- PWRUN. With MASSEN it writes MASSBUF: its completion is a comparison point of a redundant grid (R443, R446). -/
def pwrunSpec : EngSpec :=
  { k := 1, check := pwrunCheck, bar := fun ws => bits (wordAt ws 0) 20 16, outside := fun s _ => s.team.walk.any Walk.massen }

/-- Issue PWRUN: it is the team's most recent walk (R350), and an irrevocable step (R443). -/
def pwrunBody (i : Instr) (o : QOps) : Body := fun iss s =>
  let r := engineBody i o 0x3A pwrunSpec iss s
  if r.s.team.serial = s.team.serial ∨ s.isSvc then r
  else { r with s := r.s.irrevocable.modTeam (fun t => { t with lastRun := opId 0x3A s.team.serial }) }

/-! ## PWWAIT and PWSTAT (R350, R352) -/

def pwwaitBody (o : QOps) : Body := teamOnly (fun iss s =>
  let named := s.group.sreg (o.sa + 1)
  let id := if named = 0 then s.team.lastRun else named
  if iss.p = 0 then .skip s
  else if s.team.isDone id then
    match s.joinFault id iss.p with
    | some (s', r) => { s := s', raised := r }
    | none => Res.group s (Group.setS o.sa s.team.walkStatus)
  else Res.group s (Group.hold iss.p (.pwwait o.sa iss.pc id)))

def pwstatBody (o : QOps) : Body := teamOnly (fun iss s => uniform (Group.setS o.sa s.team.walkStatus) iss s)

def execPwinit (o : QOps) (s : State) : Host.Outcome State Fault Refusal := execWord (.pwinit o) (pwinitBody o) s
def execPwjoin (o : QOps) (s : State) : Host.Outcome State Fault Refusal := execWord (.pwjoin o) (changeBody true o) s
def execPwleave (o : QOps) (s : State) : Host.Outcome State Fault Refusal := execWord (.pwleave o) (changeBody false o) s
def execPwrun (o : QOps) (s : State) : Host.Outcome State Fault Refusal := execWord (.pwrun o) (pwrunBody (.pwrun o) o) s
def execPwrunResume (o : QOps) (s : State) : Host.Outcome State Fault Refusal :=
  execWord (.pwrunResume o) (pwrunBody (.pwrunResume o) o) s
def execPwwait (o : QOps) (s : State) : Host.Outcome State Fault Refusal := execWord (.pwwait o) (pwwaitBody o) s
def execPwstat (o : QOps) (s : State) : Host.Outcome State Fault Refusal := execWord (.pwstat o) (pwstatBody o) s

end Sys2Proof.Machine
end

