-- ==== Sys2Proof/Machine/KvTab.lean ====
section
/-! DEFINITION. Block tables, key/value writes, copy-on-write and the mass table: major 0x3B (R353 to R363). -/
namespace Sys2Proof.Machine
open Sys2Proof

/-! ## Operand words and checks at issue (R354, R358, R362, R363) -/

def keyTbl (v : Nat) : Nat := bits v 31 16
def keyLblk (v : Nat) : Nat := bits v 15 0

/-- A key word: its reserved bits, WT and WA. -/
def keyOk (inv : Bool) (v : Nat) : Bool :=
  bits v 63 53 = 0 && bits v 47 34 = 0 && (if inv then bits v 33 32 ≠ 3 else bits v 33 32 = 0)

/-- The context, the reserved bits, LBLK, the buffers, then further checks (R354). -/
def kvChecks (legal : Bool) (lblk : Option Nat) (needMass : Bool) (bufs : Walk → List (Nat × AKind))
    (more : Walk → List (Option Trap)) (pool : Option Nat) (s : State) : State × Option Trap :=
  match s.team.walk with
  | none => (s, some { code := 0x14, sub := 0x11 })
  | some w =>
    match firstTrap [chk legal 3 0x30, chk (match lblk with | some b => b < w.lbmax | none => true) 8 0x15] with
    | some x => (s, some x)
    | none =>
      match s.bufsOk (((bufs w) ++ (if w.massen then [(w.massbuf, AKind.atomic)] else [])).map (fun b => (b.1, b.2, 0, 0))) with
      | (s, some x) => (s, some x)
      | (s, none) =>
        let len := bits (s.desc (dieOf s.core) s.team.ctx w.poolbuf).2 111 64
        (s, firstTrap ([
          chk (!needMass || w.massen) 0x14 0x12,
          chk (match pool with | some e => e ≠ 0xFFFFFFFF && (e + 1) * w.blk ≤ len | none => true) 8 0x16] ++ more w))

/-- A scratchpad area, first for bounds and then for alignment. -/
def padArea (t : Team) (off len : Nat) : List (Option Trap) := [chk (off + len ≤ t.scratchSize) 8 0x10, chk (off % 4 = 0) 5 2]

def btmapCheck (s : State) (ws : List Dword) : State × Option Trap :=
  let k := wordAt ws 0
  kvChecks (keyOk false k && bits (wordAt ws 1) 63 32 = 0) (some (keyLblk k)) false (fun w => [(w.btbuf, .store)]) (fun _ => []) none s

/-- BTINV uses no buffer (R356). -/
def btinvCheck (s : State) (ws : List Dword) : State × Option Trap :=
  let k := wordAt ws 0
  match s.team.walk with
  | none => (s, some { code := 0x14, sub := 0x11 })
  | some w => (s, firstTrap [chk (keyOk true k) 3 0x30, chk (bits k 33 32 ≠ 0 || keyLblk k < w.lbmax) 8 0x15])

def btcowCheck (s : State) (ws : List Dword) : State × Option Trap :=
  let k := wordAt ws 0
  kvChecks (keyOk false k && bits (wordAt ws 1) 63 32 = 0) (some (keyLblk k)) false
    (fun w => [(w.btbuf, .store), (w.poolbuf, .store)]) (fun _ => []) (some (wordAt ws 1)) s

/-- Bytes of KVPUT's source: K, V, and for E2M1 their scales (R358). -/
def Walk.putLen (w : Walk) : Nat := 2 * w.rowBytes + (if w.kv = 6 then w.d / 4 else 0)
def putOff (v : Nat) : Nat := bits v 37 16

/-- KVPUT's checks in the order of the bullets of R358 (DEDUCED, log 27). -/
def kvputCheck (s : State) (ws : List Dword) : State × Option Trap :=
  let k := wordAt ws 0
  let v := wordAt ws 1
  kvChecks (keyOk false k && bits v 63 38 = 0 && bits v 15 4 = 0) (some (keyLblk k)) false (fun w => [(w.poolbuf, .store)])
    (fun w => padArea s.team (putOff v) w.putLen) none s

/-- RANGEW and COUNT: their reserved bits are 0. -/
def rangeOk (ws : List Dword) : Bool := bits (wordAt ws 0) 63 53 = 0 && bits (wordAt ws 0) 47 32 = 0 && bits (wordAt ws 1) 63 32 = 0
def rangeFirst (ws : List Dword) : Nat := bits (wordAt ws 0) 31 0
def rangeCount (ws : List Dword) : Nat := bits (wordAt ws 1) 31 0

def massdecCheck (s : State) (ws : List Dword) : State × Option Trap :=
  kvChecks (rangeOk ws) none true (fun _ => []) (fun _ => []) none s

def minK (ws : List Dword) : Nat := bits (wordAt ws 2) 41 32 + 1
def minOff (ws : List Dword) : Nat := bits (wordAt ws 2) 21 0

def massminCheck (s : State) (ws : List Dword) : State × Option Trap :=
  kvChecks (rangeOk ws && bits (wordAt ws 2) 63 42 = 0 && bits (wordAt ws 2) 31 22 = 0) none true (fun _ => [])
    (fun _ => padArea s.team (minOff ws) (4 * minK ws)) none s

/-! ## Entries (R353, R355, R359) -/

/-- An invalidation has completed: a running walk of the context translates afresh from its next node on, and so do later
walks (R359). -/
def Team.btAfresh (t : Team) : Team :=
  { t with btFresh := true, walk := t.walk.map (fun w => { w with run := w.run.map (fun r => { r with afresh := true }) }) }

/-- Remove keys from every BTB of the context's cores (R359). -/
def State.btInvalidate (s : State) (gone : BtbEntry → Bool) : State :=
  let ctx := s.team.ctx
  { s with cores := s.cores.map (fun (c : Nat × Core) => match c.2.team with
      | some t => if t.ctx = ctx then (c.1, { c.2 with btb := c.2.btb.filter (fun e => !gone e), team := some t.btAfresh }) else c
      | none => c) }

/-- The fault of the first of some mass entries that cannot be reached. -/
def State.massReach (s : State) (w : Walk) (es : List Nat) : State × Option OpFault :=
  es.foldl (fun (st : State × Option OpFault) e =>
    match st.2 with
    | some _ => st
    | none => match st.1.opCheck w.massbuf (4 * e) 4 .atomic with
      | (s, .fault f) => (s, some f)
      | (s, .ok _ _) => (s, none)) (s, none)

/-- The blocks among some entries. -/
def mapped (es : List Nat) : List Nat := es.filter (fun e => e ≠ 0xFFFFFFFF)

/-- The entry's value as it stands at its home, after the checks that R355 makes before it writes anything. Of the page the
one step that reads and writes the entry asks W, the right that R354 asks of BTBUF for BTMAP (DESIGN CHOICE, log 63). With a mass
table both REFS entries are reached, with their rights and data, before anything is written (DESIGN CHOICE, log 79). -/
def State.mapChecks (s : State) (w : Walk) (tbl lblk new : Nat) : State × (OpFault ⊕ Nat × Nat × Nat) :=
  match s.opCheck w.btbuf (w.entryOff tbl lblk) 4 .store with
  | (s, .fault f) => (s, .inl f)
  | (s, .ok pa va) =>
    let s := s.atHome pa true
    let old := leNat (s.opPeek pa va 4)
    match (if w.massen then s.massReach w (mapped [old, new]) else (s, none)) with
    | (s, some f) => (s, .inl f)
    | (s, none) => (s, .inr (old, pa, va))

/-- The block-table entry takes its new value in the step that has read it, its line cached nowhere; a redundant copy holds the
write (R355, R445). -/
def State.putEntry (s : State) (w : Walk) (op : EngOp) (tbl lblk new pa va : Nat) : State :=
  if s.isRedundant then s.holdEngine op { bt := w.btbuf, off := w.entryOff tbl lblk, data := leBytes 4 new, va := va, pa := pa }
  else
    let t := s.dropLine (pa / 128)
    (t.needs (t.uncached (pa / 128))).writeAcc (s.access? (dieOf s.core) pa { w := true }) (leBytes 4 new)

/-- A unit of BTMAP (R355): 0 the checks and the entry, 1 REFS of the old block, 2 REFS of the new one. The old entry is
held between them. -/
def State.mapUnit (w : Walk) (op : EngOp) (tbl lblk new : Nat) (s : State) (held : List Nat) (u : Nat) : State × Option OpFault × List Nat :=
  if u = 0 then
    match s.mapChecks w tbl lblk new with
    | (s, .inl f) => (s, some f, [])
    | (s, .inr (old, pa, va)) => (s.putEntry w op tbl lblk new pa va, none, [old])
  else
    let b := if u = 1 then held.headD 0xFFFFFFFF else new
    if !w.massen ∨ b = 0xFFFFFFFF then (s, none, held)
    else match s.massStep w op b (if u = 1 then opRefsDown else opRefsUp) with
      | (s, f) => (s, f, held)

/-! ## The operations -/

def wf (sub : Nat) : OpFault := { code := 0x14, sub := sub }

/-- Whether the fresh descriptor of the pool lets some bytes be reached: steps 2 to 4 of R213, then its length (R397). -/
def State.poolCheck (s : State) (w : Walk) (k : AKind) (beyond : Nat → Bool) : State × Option OpFault :=
  match s.desc (dieOf s.core) s.team.ctx w.poolbuf with
  | (s, d) => match descCheck s.team.ctx w.poolbuf d k with
    | some c => (s, some { code := c.1, sub := c.2, bt := w.poolbuf })
    | none => (s, if beyond (bits d 111 64) then some { code := 8, sub := 1, bt := w.poolbuf } else none)

/-- The checks of BTCOW, and the old block (R357). Of several that fail the first counts: the entry, 0x20, 0x22, the pool, then
R355's (DESIGN CHOICE, log 63); the entry and the pool are asked for the walk right (DESIGN CHOICE, log 70). -/
def State.cowCheck (s : State) (w : Walk) (tbl lblk new : Nat) : State × (OpFault ⊕ Nat) :=
  match s.blockOf false w tbl lblk with
  | (s, .inl f) => (s, .inl f)
  | (s, .inr old) =>
    if old = 0xFFFFFFFF then (s, .inl (wf 0x20))
    else if old = new then (s, .inl (wf 0x22))
    else match s.poolCheck w .walk (fun len => len < (old + 1) * w.blk) with
      | (s, some f) => (s, .inl f)
      | (s, none) => match s.mapChecks w tbl lblk new with
        | (s, .inl f) => (s, .inl f)
        | (s, .inr _) => (s, .inr old)

/-- Copy one piece of 16 bytes of a block, between which BTCOW may stop as copies do (R345). The old block is read with the walk
right of POOLBUF, which R354 does not name while the operation runs (DESIGN CHOICE, log 70). -/
def State.copyPiece (s : State) (w : Walk) (op : EngOp) (src dst : Nat) : State × Option OpFault :=
  match s.opBytes w.poolbuf .walk 16 1 src with
  | (s, .inl f) => (s, some f)
  | (s, .inr bs) =>
    match s.opCheck w.poolbuf dst 16 .store with
    | (s, .fault f) => (s, some f)
    | (s, .ok pa va) => (s.opWrite op w.poolbuf dst pa va bs, none)

/-- A unit of BTCOW (R357): a piece of the copy, the first after the checks, then the units of BTMAP. The old block is
held. -/
def State.cowUnit (w : Walk) (op : EngOp) (tbl lblk new : Nat) (s : State) (held : List Nat) (u : Nat) : State × Option OpFault × List Nat :=
  let n := w.blk / 16
  if n ≤ u then State.mapUnit w op tbl lblk new s held (u - n)
  else
    let r : State × (OpFault ⊕ Nat) := if u = 0 then s.cowCheck w tbl lblk new else (s, .inr (held.headD 0))
    match r with
    | (s, .inl f) => (s, some f, held)
    | (s, .inr old) => match s.copyPiece w op (old * w.blk + 16 * u) (new * w.blk + 16 * u) with
      | (s, f) => (s, f, [old])

/-- The parts of a token slot: offset in the block, offset in the source, length (R324, R358). -/
def Walk.slotParts (w : Walk) (pos : Nat) : List (Nat × Nat × Nat) :=
  let n := w.rowBytes
  [(pos * n, 0, n), (16 * n + pos * n, n, n)]
    ++ (if w.kv = 6 then [(16 * w.d + pos * w.d / 8, 2 * n, w.d / 8), (18 * w.d + pos * w.d / 8, 2 * n + w.d / 8, w.d / 8)] else [])

/-- The 4-byte words of a token slot: offset in the block, offset in the source. -/
def Walk.slotWords (w : Walk) (pos : Nat) : List (Nat × Nat) :=
  (w.slotParts pos).flatMap (fun p => (List.range (p.2.2 / 4)).map (fun i => (p.1 + 4 * i, p.2.1 + 4 * i)))

/-- Its pieces, each written in one step: the place of the first word, how many words (R315). -/
def Walk.slotPieces (w : Walk) (pos : Nat) : List ((Nat × Nat) × Nat) :=
  let ws := w.slotWords pos
  (pieces 0 (ws.map (fun x => [Place.buf 0 x.1]))).map (fun p => (ws.getD p.1 (0, 0), p.2))

/-- A word of mass entry e, taken as a load at its home, its gathering epoch ended (R363); KVPUT's reading of REFS is such a load
too (R358; DEDUCED, log 64). -/
def State.massLoad (s : State) (w : Walk) (e : Nat) : State × (OpFault ⊕ Nat) :=
  match s.opCheck w.massbuf (4 * e) 4 .scan with
  | (s, .fault f) => (s, .inl f)
  | (s, .ok pa va) => let s := s.atHome pa true; (s, .inr (leNat (s.opPeek pa va 4)))

/-- The checks of KVPUT, and the block (R358). -/
def State.putCheck (s : State) (w : Walk) (tbl lblk pos : Nat) : State × (OpFault ⊕ Nat) :=
  match s.blockOf false w tbl lblk with
  | (s, .inl f) => (s, .inl f)
  | (s, .inr e) =>
    if e = 0xFFFFFFFF then (s, .inl (wf 0x20))
    else match s.poolCheck w .store (fun len => (w.slotParts pos).any (fun p => len < e * w.blk + p.1 + p.2.2)) with
      | (s, some f) => (s, .inl f)
      | (s, none) =>
        match (if w.massen then s.massLoad w e else (s, .inr 65536)) with
        | (s, .inl f) => (s, .inl f)
        | (s, .inr v) => (s, if refsOf v ≠ 1 then .inl (wf 0x21) else .inr e)

/-- A unit of KVPUT: one piece of the slot, the first after the checks. The block is held. -/
def State.putUnit (w : Walk) (op : EngOp) (tbl lblk pos src : Nat) (s : State) (held : List Nat) (u : Nat) : State × Option OpFault × List Nat :=
  let r : State × (OpFault ⊕ Nat) := if u = 0 then s.putCheck w tbl lblk pos else (s, .inr (held.headD 0))
  match r, (w.slotPieces pos)[u]? with
  | (s, .inl f), _ => (s, some f, held)
  | (s, .inr _), none => (s, none, held)
  | (s, .inr e), some (p, k) => match s.opCheck w.poolbuf (e * w.blk + p.1) (4 * k) .store with
    | (s, .fault f) => (s, some f, [e])
    | (s, .ok pa va) => (s.opWrite op w.poolbuf (e * w.blk + p.1) pa va (s.team.scratchBytes (src + p.2) (4 * k)), none, [e])

/-- A unit of MASSDEC: one entry (R362). -/
def State.halveUnit (w : Walk) (op : EngOp) (first : Nat) (s : State) (held : List Nat) (u : Nat) : State × Option OpFault × List Nat :=
  match s.massStep w op (first + u) opHalve with
  | (s, f) => (s, f, held)

/-- A unit of MASSMIN: one entry is read and held (R363). -/
def State.scanUnit (w : Walk) (first : Nat) (s : State) (held : List Nat) (u : Nat) : State × Option OpFault × List Nat :=
  match s.massLoad w (first + u) with
  | (s, .inl f) => (s, some f, held)
  | (s, .inr v) => (s, none, held ++ [v])

/-- Insert by MASS, then identifier, both ascending. -/
def massInsert (x : Nat × Nat) : List (Nat × Nat) → List (Nat × Nat)
  | [] => [x]
  | y :: r => if x.1 < y.1 ∨ (x.1 = y.1 ∧ x.2 < y.2) then x :: y :: r else y :: massInsert x r

/-- The candidates of MASSMIN in order: REFS = 1 and PIN = 0 (R363). -/
def massOrder (xs : List (Nat × Nat)) : List Nat :=
  (((xs.filter (fun x => refsOf x.1 = 1 && !bit x.1 31)).map (fun x => (x.1 % 65536, x.2))).foldl (fun l x => massInsert x l) []).map Prod.snd

/-- The end of MASSMIN: the identifiers of the first candidates. -/
def State.massMin (s : State) (ws : List Dword) (held : List Nat) : State × Nat :=
  let out := (massOrder (held.mapIdx (fun i v => (v, rangeFirst ws + i)))).take (minK ws)
  (s.modTeam (fun t => t.setScratch (minOff ws) (out.flatMap (leBytes 4))), out.length)

/-- How many units an operation of major 0x3B has. -/
def kvUnits (w : Walk) (op : EngOp) : Nat :=
  match op.instr with
  | .btmap _ => 3
  | .btcow _ => w.blk / 16 + 3
  | .kvput _ => (w.slotPieces (bits (wordAt op.words 1) 3 0)).length
  | .massdec _ | .massmin _ => rangeCount op.words
  | _ => 0

/-- An operation of major 0x3B from one interrupt point on (R345, R355 to R358, R362, R363). -/
def State.kvOp (s : State) (upTo : Option Nat) (op : EngOp) : OpOut :=
  match s.team.walk with
  | none => { s := s }
  | some w =>
    let ws := op.words
    let k := wordAt ws 0
    let run := fun (f : State → List Nat → Nat → State × Option OpFault × List Nat) =>
      runUnits f (unitsFrom (kvUnits w op) op.pos upTo) { s := s, pos := op.pos, inner := op.inner }
    let whole := fun (o : OpOut) => upTo.isNone && o.fault.isNone
    let one := fun (o : OpOut) => if whole o then { o with done := 1 } else o
    match op.instr with
    | .btmap _ => one (run (State.mapUnit w op (keyTbl k) (keyLblk k) (wordAt ws 1)))
    | .btcow _ => one (run (State.cowUnit w op (keyTbl k) (keyLblk k) (wordAt ws 1)))
    | .btinv _ => one { s := s }
    | .kvput _ => one (run (State.putUnit w op (keyTbl k) (keyLblk k) (bits (wordAt ws 1) 3 0) (putOff (wordAt ws 1))))
    | .massdec _ => let o := run (State.halveUnit w op (rangeFirst ws)); { o with done := o.pos }
    | .massmin _ =>
      let o := run (State.scanUnit w (rangeFirst ws))
      if whole o then (let r := o.s.massMin ws o.inner; { o with s := r.1, done := r.2 }) else o
    | _ => { s := s }

/-- The end of an operation that changes or invalidates block-table entries without a fault: no BTB keeps the keys (R355 to R357,
R359). -/
def State.kvOver (s : State) (op : EngOp) (f : Option OpFault) : State :=
  let k := wordAt op.words 0
  match f, op.instr with
  | none, .btmap _ | none, .btcow _ => s.btInvalidate (fun e => e.tbl = keyTbl k && e.lblk = keyLblk k)
  | none, .btinv _ => s.btInvalidate (fun e => bit k 32 || (e.tbl = keyTbl k && (bit k 33 || e.lblk = keyLblk k)))
  | _, _ => s

/-- The entry of an operation of major 0x3B; every one is an irrevocable step, those that write a buffer are comparison
points (R443, R446). -/
def kvSpec (k : Nat) (check : State → List Dword → State × Option Trap) (writes : Bool) : EngSpec :=
  { k := k, check := check, bar := fun ws => bits (wordAt ws 0) 52 48, outside := fun _ _ => writes }

def isMassdec (i : Instr) : Bool := match i with | .massdec _ => true | _ => false

/-- A MASSDEC of no entries. -/
def EngOp.noEntries (op : EngOp) : Bool := isMassdec op.instr && rangeCount op.words = 0

/-- Its issue is an irrevocable step (R443). -/
def kvBody (i : Instr) (o : QOps) (sp : EngSpec) : Body := fun iss s =>
  let r := engineBody i o 0x3B sp iss s
  if s.isSvc ∨ r.s.team.serial = s.team.serial then r else { r with s := r.s.irrevocable }

/-- Issue it; a MASSDEC of no entries that may start completes at once (R362). -/
def execKv (i : Instr) (o : QOps) (sp : EngSpec) (s : State) : Host.Outcome State Fault Refusal :=
  execAtOnce i EngOp.noEntries (fun op s => s.ranOp s.core op none 0) (kvBody i o sp) s

def execBtmap (o : QOps) (s : State) : Host.Outcome State Fault Refusal := execKv (.btmap o) o (kvSpec 2 btmapCheck true) s
def execBtinv (o : QOps) (s : State) : Host.Outcome State Fault Refusal := execKv (.btinv o) o (kvSpec 1 btinvCheck false) s
def execBtcow (o : QOps) (s : State) : Host.Outcome State Fault Refusal := execKv (.btcow o) o (kvSpec 2 btcowCheck true) s
def execKvput (o : QOps) (s : State) : Host.Outcome State Fault Refusal := execKv (.kvput o) o (kvSpec 2 kvputCheck true) s
def execMassdec (o : QOps) (s : State) : Host.Outcome State Fault Refusal := execKv (.massdec o) o (kvSpec 2 massdecCheck true) s
def execMassmin (o : QOps) (s : State) : Host.Outcome State Fault Refusal := execKv (.massmin o) o (kvSpec 3 massminCheck false) s

end Sys2Proof.Machine
end

