-- ==== Sys2Proof/Machine/EngineEvents.lean ====
section
/-! DEFINITION. Engine operations run: start, completion, faults, budgets (R242 to R247, R272, R332, R342). -/
namespace Sys2Proof.Machine
open Sys2Proof

/-! ## When an operation may start (R42, R242) -/

/-- The operation of a core with a serial number. -/
def State.opAt (s : State) (c serial : Nat) : Option (Team × EngOp) :=
  match (s.coreAt c).team with
  | some t => (t.ops.find? (fun o => o.serial = serial)).map (fun o => (t, o))
  | none => none

/-- The state as an operation acts: its core, its group. -/
def State.asOp (s : State) (c : Nat) (op : EngOp) : State := { s with core := c, grp := op.grp, stuck := false }

/-- An operation is over: its arrivals, what its completion invalidates, its status (R228, R246, R267, R359). -/
def State.opOver (s : State) (c : Nat) (op : EngOp) (f : Option OpFault) (done : Nat) : State :=
  ((s.copyArrivals op).kvOver op f).finishOp c op.id f done

/-- An operation has run to its end: its fault, which counts at its unit, and DONECNT (R246, R444). -/
def State.endOp (s : State) (c : Nat) (op : EngOp) (f : Option OpFault) (done : Nat) : State :=
  let s := match f with | some f => s.noteFault f.code f.detail | none => s
  s.ranOr c op f done (fun f s => s.opOver c op f done)

/-! ## Start (R242, R267, R332, R349) -/

def isWalk (i : Instr) : Bool := match i with | .pwrun _ | .pwrunResume _ => true | _ => false
def isResume (i : Instr) : Bool := match i with | .pwrunResume _ => true | _ => false
def isCopy (i : Instr) : Bool := match i with | .cpy _ | .cpyt _ | .cpym _ | .gath _ | .scat _ => true | _ => false

/-- A walk ends by a fault, or its team rolls back (R342, R444). -/
def State.walkFaults (s : State) (c : Nat) (op : EngOp) (f : OpFault) : State :=
  if s.rollsBackOn f then s.rollTeam c 6 f.detail
  else let (s, f) := s.walkEnd (some f); s.endOp c op f op.donecnt

/-! ## The effect (R244, R247) -/

/-- A change of the team alone. -/
def State.teamOp (s : State) (r : TeamOut) : OpOut :=
  { s := s.modTeam (fun _ => r.t), fault := r.fault, done := r.done, pos := r.pos, inner := r.inner }

/-- What an operation does from the interrupt point where it stands to another, or to its end. -/
def State.opRun (s : State) (upTo : Option Nat) (op : EngOp) : OpOut :=
  let t := s.team
  match op.instr with
  | .mxzero _ => s.teamOp (zeroOp upTo op t)
  | .mxmul _ | .mxmulSp _ => s.teamOp (mulOp false upTo op t)
  | .mxpair _ | .mxpairSp _ => s.teamOp (mulOp true upTo op t)
  | .mxrd _ => s.teamOp (rdOp upTo op t)
  | .mxwr _ => s.teamOp (wrOp upTo op t)
  | .mxbeta _ => s.teamOp (betaOp op t)
  | .mxdelta _ => s.teamOp (corrOp false s.tick upTo op t)
  | .mxsolve _ => s.teamOp (corrOp true s.tick upTo op t)
  | .pwrun _ | .pwrunResume _ => let r := s.walkEnd none; { s := r.1, fault := r.2, done := op.donecnt }
  | .cpy _ | .cpyt _ | .cpym _ | .gath _ | .scat _ => s.copyOp upTo op
  | _ => s.kvOp upTo op

/-- What it does to its end: the state, the fault that ends it, its DONECNT. -/
def State.opEffect (s : State) (op : EngOp) : State × Option OpFault × Nat :=
  let o := s.opRun none op
  (o.s, o.fault, o.done)

/-- Whether a run meets bad data that rolls the team back (R441, R444). -/
def State.opRollsBack (s : State) (f : Option OpFault) : Bool := match f with | some f => s.rollsBackOn f | none => false

/-- A run of an operation has come to its end, or was not made for want of a line (R464). -/
def State.opEnds (s : State) (c : Nat) (op : EngOp) (o : OpOut) : State :=
  if o.s.stuck then s.balked o.s
  else if s.opRollsBack o.fault then s.rollTeam c 6 ((o.fault.map OpFault.detail).getD 0) else o.s.endOp c op o.fault o.done

/-! ## Start and completion (R242, R244) -/

/-- An operation with nothing to do, which completes as it starts (R254, R263, R362, R375). -/
def EngOp.idle (op : EngOp) : Bool :=
  match op.instr with
  | .cpy _ | .cpyt _ | .cpym _ | .gath _ | .scat _ => op.noBytes
  | .mxzero _ => op.noTiles
  | .mxbeta _ => op.noBetas
  | _ => op.noEntries

def State.beginOp (s : State) (c : Nat) (op : EngOp) : State :=
  let s := s.asOp c op
  if op.idle then (if isCopy op.instr then s.zeroCopy op else s.opEnds c op (s.opRun none op))
  else
    let t := (s.startCopy op).1.modTeam (fun t => t.modOp op.id (fun o => { o with til := s.cycle + o.len }))
    if isWalk op.instr then
      let out := t.walkStart op (isResume op.instr)
      if out.1.stuck then s.balked out.1
      else match out with
      | (s, none) => s
      | (s, some f) => s.walkFaults c op f
    else t

def execEngineOpStart (core serial : Nat) (s : State) : Host.Outcome State Fault Refusal :=
  .next (match s.opAt core serial with
    | some (t, op) => if s.canStart core t op then s.beginOp core op else s
    | none => s)

/-- A running operation that can complete: its walk has no node left, its budget has not run out, it has held the array as
long as it will; one that is to be compared does not run on while its copy waits. -/
def State.canComplete (s : State) (c : Nat) (t : Team) (op : EngOp) : Bool :=
  op.phase = .running && op.ran.isNone && !(op.compares && s.copyWaits c) && (!isWalk op.instr || t.walkOver) && op.til ≤ s.cycle
    && (match op.budgetEnd with | some e => s.cycle ≤ e | none => true)

def execEngineOpComplete (core serial : Nat) (s : State) : Host.Outcome State Fault Refusal :=
  .next (match s.opAt core serial with
    | some (t, op) =>
      if s.canComplete core t op then
        let s := s.asOp core op
        s.opEnds core op (s.opRun none op)
      else s
    | none => s)

/-! ## Stops at interrupt points (R247, R345, R382, R409, R440) -/

/-- Interrupt points that an operation has after its start, none for one that completes without stopping. A walk stops between
its own steps, a copy between the pieces that it moves (`pieceEnd`). -/
def State.opUnits (s : State) (op : EngOp) : Option Nat :=
  match op.instr with
  | .mxzero _ => some (128 * (zeroTiles op).length)
  | .mxmul _ | .mxmulSp _ => some (mulGroups false op).length
  | .mxpair _ | .mxpairSp _ => some (mulGroups true op).length
  | .mxrd _ | .mxwr _ => some (winOf (wordAt op.words 0) (wordAt op.words 1)).nr
  | .mxdelta _ => some (corrOf false (optOf op.instr) op.words).n
  | .mxsolve _ => some 1
  | .mxbeta _ => none
  | .pwrun _ | .pwrunResume _ => some 0
  | .cpy _ | .cpyt _ | .cpym _ | .gath _ | .scat _ => some 0
  | _ => match s.team.walk with | some w => some (kvUnits w op) | none => some 0

/-- A running operation stops at one of its interrupt points, a free choice `x` (log 18): where it stands, if it cannot have the lines
to go on. -/
def State.stopOp (s : State) (c : Nat) (op : EngOp) (x : Nat) : State :=
  let s := s.asOp c op
  match s.opUnits op with
  | none => s.opEnds c op (s.opRun none op)
  | some n =>
    if isWalk op.instr then s
    else
      let o := s.opRun (some (if isCopy op.instr then pieceEnd (s.copyRows op).1.flatten op.pos x else op.pos + x % (n + 1 - op.pos))) op
      let o := if o.s.stuck then { s := s, done := op.donecnt, pos := op.pos, inner := op.inner } else o
      if o.fault.isSome then s.opEnds c op o
      else o.s.modTeam (fun t => t.modOp op.id (fun p => { p with pos := o.pos, donecnt := max p.donecnt o.done, inner := o.inner, snap := s.listKept op }))

/-- The running operations of a core's team stop (R409, R440). -/
def State.stopOps (s : State) (c : Nat) : State :=
  match (s.coreAt c).team with
  | some t => (((t.ops.filter (fun o => o.phase = .running && o.ran.isNone)).mapIdx (fun i o => (i, o)))).foldl
      (fun s io => s.stopOp c io.2 (s.choice (768 + c) / 2 ^ (64 * io.1))) s
  | none => s

/-! ## Faults (R246, R274, R433) -/

/-- The buffer of an operation, if it has one: a copy's source or else its destination, a walk's or a block's pool, the mass
table of a MASSDEC or MASSMIN. -/
def EngOp.buffer (t : Team) (op : EngOp) : Option Nat :=
  match op.instr with
  | .cpy _ | .cpyt _ | .gath _ | .scat _ =>
    if epKind (wordAt op.words 0) = 0 then some (epIdx (wordAt op.words 0))
    else if epKind (wordAt op.words 1) = 0 then some (epIdx (wordAt op.words 1)) else none
  | .cpym _ => if epKind (wordAt op.words 0) = 0 then some (epIdx (wordAt op.words 0)) else none
  | .massdec _ | .massmin _ => t.walk.map Walk.massbuf
  | .pwrun _ | .pwrunResume _ | .kvput _ | .btcow _ => t.walk.map Walk.poolbuf
  | .btmap _ => t.walk.map Walk.btbuf
  | _ => none

/-- Bad data that the outside brings about at an offset: of the operation's buffer, with the unit of the channel behind it, or of
the core's own storage (R435, R441; DEDUCED, log 34). -/
def State.outsideFault (s : State) (op : EngOp) (off : Nat) : OpFault :=
  let own : OpFault := { code := 0x30, sub := 6, off := off, detail := unitKey { cls := 1, idx := s.core } }
  match op.buffer s.team with
  | none => own
  | some idx =>
    let va := bits (s.desc (dieOf s.core) s.team.ctx idx).2 56 8 * 256 + off
    match (s.translate s.core s.team.ctx va {}).2 with
    | .ok pa _ => { own with bt := idx, va := va, detail := (s.homeOf pa).unit }
    | .fault _ => own

/-- An operation meets bad data: it ends by the fault; in the blocks of a walk the data freezes the sequences of the node that comes
next, and the walk continues (R341). An error from outside ends a copy where it stands: it moves nothing more (DESIGN CHOICE, log 73). -/
def State.badData (s : State) (c : Nat) (op : EngOp) (f : OpFault) : State :=
  if isWalk op.instr then
    (if f.detail / 4096 = 1 then s.walkFaults c op f else if s.team.walkOver then s else s.walkStep c (some f.detail))
  else s.opEnds c op { s := s, fault := some f, done := op.donecnt }

/-- A running operation ends by a fault: that of its own effect, or bad data that the outside brings about (R441). -/
def execEngineOpFault (core serial code sub off : Nat) (s : State) : Host.Outcome State Fault Refusal :=
  .next (match s.opAt core serial with
    | some (_, op) =>
      if op.phase ≠ .running ∨ op.ran.isSome then s
      else
        let u := s.asOp core op
        let o := u.opRun none op
        if (!isWalk op.instr || u.team.walkOver) && o.fault.any (fun f => f.code = code && f.sub = sub && f.off = off) then u.opEnds core op o
        else if code ≠ 0x30 ∨ sub ≠ 6 then s
        else u.badData core op (u.outsideFault op off)
    | none => s)

/-! ## Budgets (R272) -/

def execCopyLateExpiry (core serial : Nat) (s : State) : Host.Outcome State Fault Refusal :=
  .next (match s.opAt core serial with
    | some (_, op) =>
      if s.isLate op then
        let u := s.asOp core op
        let r := u.copyLate op
        let r := if r.1.stuck then (u, op.donecnt) else r
        r.1.endOp core op (some { code := 0x12, sub := 1 }) r.2
      else s
    | none => s)

end Sys2Proof.Machine
end

