-- ==== Sys2Proof/Machine/Post.lean ====
section
/-! DEFINITION. Legality of a launch record (R25, R277), placement (R25, R26, R406), and the post of a record (R402,
R403). -/
namespace Sys2Proof.Machine
open Sys2Proof

/-! ## Legality (R25, R277) -/

def shapeLegal (rows cols : Nat) : Bool :=
  1 ≤ rows && 1 ≤ cols && rows * cols ≤ 12 && rows ≤ 6 && cols ≤ 6 && min rows cols ≤ 4

def partLegal (p ngrp regs : Nat) : Bool :=
  let scr := bits p 5 0
  scr ≤ 56 && bits p 15 14 ≠ 3 && bits p 9 6 = 0 && ngrp * regs * 256 + 65536 * (scr + bits p 13 10 + 1) ≤ 4194304

/-! ## Placement (R26, R406) -/

/-- Cores of a cluster in rank order on the rectangle at row0 and col0 of a die, if it lies on the die. -/
def rectangle (rows cols die row0 col0 : Nat) : Option (List Nat) :=
  let up := rows ≤ 4
  let h := if up then rows else cols
  let w := if up then cols else rows
  if 4 < row0 + h ∨ 6 < col0 + w then none
  else some ((List.range (rows * cols)).map (fun k =>
    let a := k / cols
    let b := k % cols
    if up then die * 24 + (row0 + a) * 6 + col0 + b else die * 24 + (row0 + b) * 6 + col0 + a))

/-- The rectangles of a die, row0 ascending, then col0 (R406). -/
def rectangles (rows cols die : Nat) : List (List Nat) :=
  (List.range 4).flatMap (fun r => ([0, 2, 4] : List Nat).filterMap (fun c => rectangle rows cols die r c))

/-- Greedy placement of n clusters on some free cores: the cores in rank order, clusters ascending. -/
def greedy (rows cols : Nat) (dies : List Nat) : Nat → List Nat → Option (List Nat)
  | 0, _ => some []
  | n + 1, free =>
    match (dies.flatMap (rectangles rows cols)).find? (fun r => r.all free.contains) with
    | none => none
    | some r => match greedy rows cols dies n (free.filter (fun c => !r.contains c)) with
      | some rest => some (r ++ rest)
      | none => none

/-- Dies of a context's partition (R387, R491). -/
def State.partDies (s : State) (ctx : Nat) : List Nat :=
  let p := (tget 0 s.parts (bits (s.ctxEntry ctx) 178 176)).toNat
  if bit p 0 then (List.range 8).filter (fun d => bit p (8 + d)) else []

/-- A core with no team, no stopped team and no team being restored (R406), that is not retired (R450). -/
def State.isFree (s : State) (c : Nat) : Bool :=
  let x := s.coreAt c
  x.team.isNone && !x.restoring && !x.retired
def State.freeCores (s : State) : List Nat := (List.range numCores).filter s.isFree

/-- The cores that placement gives a record on some free cores. -/
def State.placeOn (s : State) (r : Rec) (free : List Nat) : Option (List Nat) :=
  greedy (recRows r) (recCols r) (s.partDies (recCtx r)) (recPlaces r) free

/-- Whether a gang fits its partition with every remaining core free (R403, R450). -/
def State.fitsEmpty (s : State) (r : Rec) : Bool :=
  (s.placeOn r ((List.range numCores).filter (fun c => !(s.coreAt c).retired))).isSome

/-! ## The post (R402, R403) -/

def recReserved (r : Rec) : Bool :=
  recBits r 275 256 = 0 && recBits r 191 176 = 0 && recBits r 159 144 = 0 && recBits r 82 80 = 0 && recBits r 67 32 = 0

def recordOk (r : Rec) (port : Nat) : Bool :=
  recReserved r && recPrio r = port && recCodeVa r % 256 = 0 && recBits r 255 249 = 0 && recCodeSz r % 4 = 0
    && 4 ≤ recCodeSz r && 1 ≤ recBits r 95 89 && recBits r 95 89 ≤ 96
    && (recRows r * recCols r = 0 || recNteam r % (recRows r * recCols r) = 0) && recBits r 287 276 < 4095

/-- The code of R403 for a record at port p (of context 0, or with a short CODESZ: DEDUCED, log 35); `own` is the launching grid's context for GLAUNCH. -/
def State.postCode (s : State) (r : Rec) (p : Nat) (own : Option Nat) : Nat :=
  if !recordOk r p then 5
  else if !bit (s.ctxEntry (recCtx r)) 63 ∨ recCtx r = 0 ∨ own.any (fun c => c ≠ recCtx r) then 4
  else if !shapeLegal (recRows r) (recCols r) then 2
  else if !partLegal (recPartw r) (recNgrp r) (recRegs r) then 3
  else if !s.fitsEmpty r then 6
  else if 32 ≤ s.levelCount p then 1
  else 0

/-- Post a record: the code, and the level's next entry when it is accepted. Its context entry is read. -/
def State.postRecord (s : State) (r : Rec) (p : Nat) (own : Option Nat) : State × Nat :=
  let c := s.postCode r p own
  let s := s.ctxReach (recCtx r)
  if c = 0 then ({ (s.setGrid s.nextGrid { record := r, postTime := s.cycle }) with nextGrid := s.nextGrid + 1 }, 0)
  else (s, c)

end Sys2Proof.Machine
end

