-- ==== Sys2Proof/Machine/Priv.lean ====
section
/-! DEFINITION. The service level: privileged registers and the instructions of major 0x3D (R386 to R399). -/
namespace Sys2Proof.Machine
open Sys2Proof

/-- A late fault of its stores has ended the service group since a state (R391). -/
def State.svcEnded (was s : State) : Bool :=
  let c := s.coreAt s.core
  let d := was.coreAt was.core
  c.svcFault ≠ d.svcFault || c.svcLate ≠ d.svcLate

/-- An assigned code of major 0x3D: PRIVILEGE for the whole issue set at user level (R135, R386); in the service group
it acts once per issue with P not empty (R393), once the group's stores that it needs are performed: when one of them ends the group
by a late fault, it does nothing (R391). `first` performs them. -/
def privBody (eff : Issue → State → Res) (first : State → State := id) : Body := fun iss s =>
  if !s.isSvc then { s := s, raised := together iss.set { code := 2, sub := 0 }, early := true }
  else if iss.p = 0 then .skip s
  else
    let t := first s
    if s.svcEnded t then { s := t, stay := true } else eff iss t

/-- A body for a register number: one that names none is illegal, before PRIVILEGE and any lookahead violation (R135, R392). -/
def numberBody (num : Group → Nat) (body : Body) : Body := fun iss s =>
  if 7 < num s.group then { s := s, raised := together iss.set { code := 1, sub := 2 }, early := true } else body iss s

/-! ## The registers (R392) -/

/-- SVCCAUSE: the context and presence of a stopped or loaded team, the cause of the entry. -/
def Core.svcCause (c : Core) : Nat :=
  match c.team with
  | some t => if c.stopped then t.ctx % 256 * 256 + 128 + c.cause % 16 else c.cause % 16
  | none => c.cause % 16

/-- Free entries of the signal queue (R398). -/
def State.sigFree (s : State) : Nat := (s.sigHead + 256 * 2 - s.sigTail - 1) % 256

/-- The privileged register of a number; none above 7. -/
def State.privReg (s : State) (n : Nat) : Option Dword :=
  if n = 0 then some (BitVec.ofNat 64 (s.coreAt s.core).svcCause)
  else if n = 1 then some (BitVec.ofNat 64 (s.base 0))
  else if n = 2 then some (BitVec.ofNat 64 (s.base 1))
  else if n = 3 then some (BitVec.ofNat 64 s.sigFree)
  else if n ≤ 7 then some (tget 0 (s.coreAt s.core).scr (n - 4))
  else none

def mfprBody (o : POps) : Body := numberBody (fun g => (g.sreg o.sa).toNat) (privBody (fun _ s =>
  Res.group s (Group.setS o.sd ((s.privReg (s.group.sreg o.sa).toNat).getD 0))))

/-- MTPR: RW registers are written, RO registers answer 1. -/
def mtprBody (o : POps) : Body := numberBody (fun g => (g.sreg o.sd).toNat) (privBody (fun _ s =>
  let n := (s.group.sreg o.sd).toNat
  let v := s.group.sreg o.sa
  if n < 4 then Res.group s (Group.setS o.sd 1)
  else Res.group (s.modCore s.core (fun c => { c with scr := tput 0 c.scr (n - 4) v })) (Group.setS o.sd 0)))

/-! ## Ends of the service group (R390, R393) -/

/-- The service group ends. -/
def Core.endSvc (c : Core) : Core := { c with svc := {}, svcRun := false, erets := false }

/-- HALT: a stopped team that has been saved is removed. -/
def Core.halt (c : Core) : Core :=
  let c := c.endSvc
  if c.stopped && c.saved && c.team.isSome then { c with team := none, stopped := false, saved := false, restoring := false, btb := [] } else c

/-- A team goes on: its budgets have counted no cycle since it stopped (R247). -/
def Team.goOn (now : Nat) (t : Team) : Team :=
  match t.stoppedAt with
  | some since => { t with
      stoppedAt := none, ops := t.ops.map (fun o => { o with budgetEnd := o.budgetEnd.map (fun e => e + (now - since)) })
      groups := t.groups.map (fun g => (g.1, { g.2 with copyWait := g.2.copyWait.map (fun w => (w.1, w.2 + (now - since))) })) }
  | none => t
def Core.goOn (now : Nat) (c : Core) : Core := { c with stopped := false, saved := false, restoring := false, team := c.team.map (Team.goOn now) }

/-- ERET: a stopped team resumes; that of a restore waits for the rest of its gang (R410), and one that has stopped for a
PREEMPT entry still to come waits for that entry (R390; DEDUCED, log 30). -/
def Core.eret (now : Nat) (c : Core) : Core :=
  if c.team.isNone then c.halt
  else if c.restoring then { c.endSvc with erets := true }
  else if c.due = 1 then c.endSvc
  else c.endSvc.goOn now

/-- A stopping gang whose last team has been saved and removed joins the waiting list again (R409). -/
def State.stopDone (s : State) (g : Nat) : State :=
  if (s.grid g).phase = .stopping ∧ s.cores.all (fun c => match c.2.team with | some t => t.grid ≠ g | none => true) then
    s.modGrid g (fun x => { x with phase := .preempted })
  else s

/-- The event of a core that is retired and has no team any more (R450, R452). -/
def State.logRetired (s : State) (c : Nat) : State :=
  let u : HwUnit := { cls := 1, idx := c }
  if (s.coreAt c).retired ∧ (s.coreAt c).team.isNone then s.logEvent 0 0 0 0 u 2 0 else s

/-- ERET and HALT end the service group after every store of it (R391). -/
def endBody (f : Nat → Core → Core) : Body := privBody (fun iss s =>
  let had := (s.coreAt s.core).team.isSome
  let t := (s.modCore s.core (f s.cycle)).stopDone s.team.grid
  { s := if had then t.logRetired s.core else t, placed := iss.set }) State.drainGroup

/-! ## Invalidations (R394, R395) -/

/-- Whether TLBINV's operand names an entry. -/
def tlbNames (v : Nat) (e : TlbEntry) : Bool :=
  let mode := bits v 63 62
  if mode = 2 then true
  else if mode = 1 then e.ctx = bits v 55 48
  else if mode = 0 then e.ctx = bits v 55 48 && e.vbase = bits v 40 0 * 65536 / 2 ^ levelShift e.level
  else false

/-- Whether it names a table entry: MODE 0 leaves those (R427). -/
def tabNames (v : Nat) (t : TabEntry) : Bool := bits v 63 62 = 2 || bits v 63 62 = 1 && t.ctx = bits v 55 48
/-- Whether it names the leaf that a walk in flight has read, of whatever size (R427): the walk ends with the accesses that joined it.
A walk that has read nothing yet waits on. -/
def walkNames (v : Nat) (w : PtWalk) : Bool :=
  match w.res with
  | none => false
  | some r =>
    let sh := match r with | .leaf lv _ => 2 ^ levelShift lv | .fail _ => 65536
    bits v 63 62 = 2 || w.ctx = bits v 55 48 && (bits v 63 62 = 1 || 65536 * w.page / sh = 65536 * bits v 40 0 / sh)

/-- The entries and walks that TLBINV names go; accesses in flight have been performed (R394). -/
def State.tlbInvalidate (s : State) (v : Nat) : State :=
  let keep := fun (l : List TlbEntry) => l.filter (fun e => !tlbNames v e)
  { s with cores := s.cores.map (fun (c : Nat × Core) => (c.1, { c.2 with tlb := keep c.2.tlb }))
           dieTlb := (s.dieTlb.map (fun d => (d.1, keep d.2))).filter (fun d => !d.2.isEmpty)
           dieTabs := (s.dieTabs.map (fun d => (d.1, d.2.filter (fun t => !tabNames v t)))).filter (fun d => !d.2.isEmpty)
           walks := s.walks.filter (fun w => !walkNames v w) }
/-- Walks that waited for a walker begin, as others have ended (R426). -/
def State.resumeWalks (s : State) : State :=
  ((s.walks.map PtWalk.die).dedup).foldl (fun s d => State.startWalks d s.walks.length s) s

/-- A team whose copy holds a write that some test names (R445). -/
def Team.holds (p : HeldWrite → Bool) (t : Team) : Bool := t.held.any p
/-- Some team of the module, a saved one too, holds such a write: an access in flight (R394). -/
def State.heldAny (s : State) (p : Team → HeldWrite → Bool) : Bool :=
  s.cores.any (fun c => match c.2.team with | some t => t.holds (p t) | none => false) || s.savedTeams.any (fun t => t.holds (p t))

/-- A held write that used an entry which TLBINV names: its page's, or a larger leaf's that some TLB keeps. -/
def State.heldThrough (s : State) (v : Nat) : Bool :=
  let kept := (s.cores.flatMap (fun c => c.2.tlb) ++ s.dieTlb.flatMap Prod.snd).filter (tlbNames v)
  s.heldAny (fun t h => bits v 63 62 = 2 || t.ctx = bits v 55 48 && (bits v 63 62 = 1 || h.va / 65536 = bits v 40 0
    || kept.any (fun e => e.ctx = t.ctx && e.vbase = h.va / 2 ^ levelShift e.level)))

/-- TLBINV: it completes once every access that used an entry is performed, those too that redundant copies hold. -/
def tlbinvBody (o : POps) : Body := privBody (fun _ s =>
  let v := (s.group.sreg o.sa).toNat
  if bits v 63 62 = 3 then Res.group s (Group.setS o.sd 1)
  else if !s.stores.isEmpty || s.heldThrough v then { s := s, stay := true }
  else Res.group (s.tlbInvalidate v).resumeWalks (Group.setS o.sd 0)) (fun s => if bits (s.group.sreg o.sa).toNat 63 62 = 3 then s else s.drainAll)

/-- BUFINV forgets cached descriptors; accesses in flight have been performed. -/
def State.bufInvalidate (s : State) (v : Nat) : State :=
  { s with descs := s.descs.filter (fun d => !(d.1 / 4096 % 256 = bits v 55 48 && (bit v 63 || d.1 % 4096 = bits v 11 0))) }

/-- A held write that used a descriptor which BUFINV names. -/
def State.heldBy (s : State) (v : Nat) : Bool :=
  s.heldAny (fun t h => h.pad.isNone && t.ctx = bits v 55 48 && (bit v 63 || h.bt = bits v 11 0))

def bufinvBody (o : POps) : Body := privBody (fun _ s =>
  if !s.stores.isEmpty || s.heldBy (s.group.sreg o.sa).toNat then { s := s, stay := true }
  else Res.group (s.bufInvalidate (s.group.sreg o.sa).toNat) (Group.setS o.sd 0)) State.drainAll

/-- CACHEFL: M and O lines are written back, G lines send their partials; `drop` also invalidates. -/
def State.cacheFlush (s : State) (core : Nat) (drop : Bool) : State :=
  ((s.coreAt core).lines.map Prod.fst).foldl (fun s ln =>
    if drop then s.giveUp core ln else (s.writeBack core ln).sendPartials core ln) s

def cacheflBody (o : POps) : Body := privBody (fun _ s =>
  let m := (s.group.sreg o.sa).toNat % 4
  if m = 1 ∨ m = 2 then Res.group (s.cacheFlush s.core (m = 2)) (Group.setS o.sd 0)
  else Res.group s (Group.setS o.sd 1))

/-! ## Save and restore of a team (R396, R410, R411) -/

/-- Offsets in a save area (R396): of a vector register of a group, of the accumulator tiles, of the scratchpad, and the end. -/
def Team.vregOff (t : Team) (g n : Nat) : Nat := 0x21000 + (g * t.regalloc + n) * 256
def Team.accOff (t : Team) : Nat := t.vregOff t.ngrp 0
def Team.padOff (t : Team) : Nat := t.accOff + 81920 * t.tiles
def Team.areaSize (t : Team) : Nat := t.padOff + t.scratchSize

/-- A save area of n bytes at an address holds bad data: its set is lost, or a line of it is. -/
def State.areaBad (s : State) (pa n : Nat) : Bool :=
  (match s.locate pa with | .lost => true | _ => false)
    || (!s.poison.isEmpty && (List.range (n / 128)).any (fun i => match s.locate (pa + 128 * i) with
          | .at k => s.poisoned k | _ => false))

/-- A team as it is saved: its checkpoint is discarded (R442), a swap in progress has ended. -/
def Team.forSave (t : Team) : Team :=
  { t with checkpoint := none, irrevocable := true
           active := (match t.swap with | some w => t.active ++ [w.inGrp] | none => t.active), swap := none }
/-- A saved team on the core it is loaded on: HANDLER and LAUNCH come from the context entry (R389); threads that were
asleep in SLEEP are eligible (R152). How long a pending group has been ready counts anew from the load, as it does after a rollback
(R38; DESIGN CHOICE, log 48). -/
def Team.forLoad (t : Team) (entry : Nat) : Team :=
  { t with groups := t.groups.map (fun g => (g.1, g.2.release (fun k => match k with | .sleep _ => true | _ => false)))
           readySince := []
           hEn := bit entry 32, hAddr := bits entry 31 2 * 4, launch := bit entry 34 }

/-- What lies in one channel of the m bytes of an area from a multiple of 64 KiB on: the offsets of the first and the last granule
there, and how many lines (R478, R479). Of part of a unit, and while its set is being restriped, each granule by itself. -/
def State.unitSpans (s : State) (pa m : Nat) : List (Nat × Nat × Nat) :=
  let x := s.chset (pa / 2 ^ 39 % 256)
  let g := 2 ^ (x.gran + 8)
  if m < 65536 ∨ x.state = 2 then (List.range ((m + g - 1) / g)).map (fun j => (g * j, g * j, (min g (m - g * j) + 127) / 128))
  else
    let k := 65536 / g
    let n := max 1 (s.liveOf x).length
    (List.range (min k n)).map (fun j => let c := (k - 1 - j) / n; (g * j, g * (j + c * n), (c + 1) * (g / 128)))

/-- The spans of a whole area of n bytes. -/
def State.areaSpans (s : State) (pa n : Nat) : List (Nat × Nat × Nat) :=
  (List.range ((n + 65535) / 65536)).flatMap (fun i =>
    (s.unitSpans (pa + 65536 * i) (min 65536 (n - 65536 * i))).map (fun x => (pa + 65536 * i + x.1, pa + 65536 * i + x.2.1, x.2.2)))

/-- Whether a core may access all of an area, which every channel behind it is asked for (R483), with no bad line (R451). -/
def State.areaThere (s : State) (pa n : Nat) (need : Need := { w := true }) : Bool :=
  let ok := fun (a : Nat) => match s.access? (dieOf s.core) a need with | .mem _ => true | .peer _ => true | _ => false
  (s.areaSpans pa n).all (fun x => ok x.1 && ok x.2.1) && !s.areaBad pa n

/-- An area is read or written: every line of it reaches its channel, or over a link the module that holds it (R14, R15, R468,
R488). -/
def State.areaReach (s : State) (pa n : Nat) (rd : Bool) : State :=
  (s.areaSpans pa n).foldl (fun s x => match s.locate x.1 with
    | .at k => s.countLines (dieOf s.core) k x.2.2 rd
    | .peer p => (List.range x.2.2).foldl (fun s i => s.reach (dieOf s.core) (.peer (p + 128 * i)) rd) s
    | _ => s) s

/-- One step of CRC-32C, polynomial 0x82F63B78 reflected. -/
def crcBit (c : BitVec 32) : BitVec 32 := if c.getLsbD 0 then (c >>> 1) ^^^ 0x82F63B78#32 else c >>> 1
def crcByte (c : BitVec 32) (b : Byte) : BitVec 32 := (List.range 8).foldl (fun c _ => crcBit c) (c ^^^ b.setWidth 32)
/-- CRC-32C of some bytes. -/
def crc32c (bs : List Byte) : BitVec 32 := ~~~(bs.foldl crcByte 0xFFFFFFFF#32)

/-- The header of a save area (R396): PARTW, CTXID, GRIDID, TEAMID, CLRANK, CLSHAPE, NGRP, REGALLOC, SERIAL, 8 bytes each
(log 28), and the CRC-32C of those bytes. -/
def Team.header (t : Team) : List Byte :=
  let ws : List Nat := [t.partw, t.ctx, t.gridid, t.teamid, t.clrank, (if t.tr then 256 else 0) + t.cols % 16 * 16 + t.rows % 16,
    t.ngrp, t.regalloc, t.serial]
  let bs := ws.flatMap (leBytes 8)
  bs ++ leBytes 8 (crc32c bs).toNat
/-- A header passes its check: its CRC agrees, and it is that of the team saved in the area. An area on another module is
taken to hold what was saved there (log 28). -/
def State.headerOk (s : State) (pa : Nat) (t : Team) : Bool :=
  (match s.locate pa with | .peer _ => true | _ => false) || leBytes 80 (s.physNat (dieOf s.core) pa 80) = t.header

/-- The physical address behind a key in the set that holds an address, as `locate` maps it, if it is one of that set's. -/
def State.addrOf (s : State) (pa key : Nat) : Option Nat :=
  let x := s.chset (pa / 2 ^ 39 % 256)
  let all := s.liveOf x
  let live := if key < newPlace then all else all.filter (fun c => c ≠ x.leaving.headD 256)
  let g := 2 ^ (x.gran + 8)
  let r := keyAddr key - x.cbase * 65536
  let at_ := pa / 2 ^ 39 * 2 ^ 39 + (r / g * live.length + live.findIdx (· = keyCh key)) * g + r % g
  match s.locate at_ with
  | .at k => if k = key then some at_ else none
  | _ => none

/-- The vector registers, accumulator tiles and scratchpad of a team as bytes of its save area that are not zero. -/
def Team.areaBytes (t : Team) : List (Nat × Byte) :=
  let word := fun (off : Nat) (w : Word) => ((leBytes 4 w.toNat).mapIdx (fun i b => (off + i, b))).filter (fun b => b.2 ≠ 0)
  t.groups.flatMap (fun g => g.2.v.flatMap (fun r => r.2.slots.flatMap (fun l => word (t.vregOff g.1 r.1 + 4 * l.1) l.2)))
    ++ t.acc.flatMap (fun a => word (t.accOff + 4 * a.1) a.2) ++ t.scratch.map (fun b => (t.padOff + b.1, b.2))

/-- The team's storage stands in an area of this module's memory, all other bytes behind the header zero; the records of R396 whose
layout the manual does not give stand in `saved` alone (log 28). -/
def State.areaFill (s : State) (pa : Nat) (t : Team) : State :=
  let mine := fun (k : Nat) => match s.addrOf pa k with | some a => pa ≤ a && a < pa + t.areaSize | none => false
  let new := t.areaBytes.filterMap (fun b => match s.locate (pa + b.1) with | .at k => some (k, b.2) | _ => none)
  { s with mem := tputs 0 (s.mem.filter (fun e => !mine e.1)) new }

/-- CTXSAVE: the state and its code. -/
def State.ctxSave (s : State) (pa : Nat) : State × Nat :=
  let c := s.coreAt s.core
  match c.team with
  | none => (s, 1)
  | some t =>
    if !c.stopped then (s, 1)
    else if pa % 65536 ≠ 0 then (s, 2)
    else if !s.areaThere pa t.areaSize then (s, 4)
    else
      let s := s.drainCore
      let t := ((s.coreAt s.core).team.getD t).forSave
      let s : State := { (s.modCore s.core (fun c => { c with saved := true })) with saved := tput none s.saved pa (some t) }
      let s := (s.areaFill pa t).areaReach pa t.areaSize false
      (s.writeAcc (s.access? (dieOf s.core) pa { w := true }) t.header, 0)

/-- A core is lost: its team cannot be saved. The grid ends CORE_LOST, the core is retired and counts as a retired unit, the log has
EVENT 5 (R451, R492). -/
def State.coreLost (s : State) (core : Nat) : State :=
  match (s.coreAt core).team with
  | some t =>
    let s := (s.logEvent t.gridid t.ctx 0 0 { cls := 1, idx := core } 5 0).addRetired [{ cls := 1, idx := core }]
    (s.modCore core (fun c => { c with retired := true, lost := true })).endGrid t.grid 4
  | none => s

/-- A restore fails: the gang's loaded teams go, and the grid ends KILLED with the code in the log (R410). -/
def State.restoreFails (s : State) (g code : Nat) : State :=
  let x := s.grid g
  let s := s.logEvent (bits x.record.toNat 127 96) (bits x.record.toNat 175 168) 0 code { cls := 1, idx := s.core } 9 0
  s.endGrid g 5

/-- The grid whose restore a core was chosen for (R411). -/
def State.restoringGrid (s : State) (core : Nat) : Option Nat :=
  (s.grids.find? (fun g => g.2.phase = .restoring && g.2.place.contains core)).map Prod.fst

/-- CTXLOAD: the state and its code; 4 too where the access tables keep the core from reading all of the area (DESIGN CHOICE,
log 28). -/
def State.ctxLoad (s : State) (pa : Nat) : State × Nat :=
  let c := s.coreAt s.core
  if c.team.isSome then (s, 1)
  else if pa % 65536 ≠ 0 then (s, 2)
  else match tget none s.saved pa with
    | none => (s.areaReach pa 4096 true, if s.areaBad pa 4096 then 4 else 3)
    | some t =>
      if s.areaBad pa t.areaSize then (s.areaReach pa 4096 true, 4)
      else if !s.headerOk pa t ∨ !partLegal t.partw t.ngrp t.regalloc then (s.areaReach pa 4096 true, 3)
      else if !s.areaThere pa t.areaSize { r := true } then (s.areaReach pa 4096 true, 4)
      else
        let u := t.forLoad (s.ctxEntry t.ctx)
        (((s.areaReach pa t.areaSize true).ctxReach t.ctx).modCore s.core (fun c => { c with team := some u, stopped := true, saved := false, btb := [] }), 0)

def ctxsaveBody (o : POps) : Body := privBody (fun _ s =>
  let r := s.ctxSave (s.group.sreg o.sa).toNat
  Res.group (if r.2 = 4 then r.1.coreLost r.1.core else r.1) (Group.setS o.sd (BitVec.ofNat 64 r.2)))

def ctxloadBody (o : POps) : Body := privBody (fun _ s =>
  let r := s.ctxLoad (s.group.sreg o.sa).toNat
  let c := r.1.coreAt r.1.core
  -- the routine of an earlier entry does not speak for the gang whose entry is still to come (R410)
  let s := match (if r.2 = 0 ∨ !c.restoring ∨ c.due = 2 then none else r.1.restoringGrid r.1.core) with
    | some g => r.1.restoreFails g r.2
    | none => r.1
  Res.group s (Group.setS o.sd (BitVec.ofNat 64 r.2)))

/-! ## The signal queue (R398) -/

/-- Post an entry and advance TAIL; the caller has seen room. -/
def State.sigPost (s : State) (core pc : Nat) (arg : Dword) : State :=
  let e := arg.toNat * 2 ^ 64 + pc % 2 ^ 32 * 2 ^ 32 + core % 24 * 256 + dieOf core % 8
  let s := s.physWrite 8 (s.base 4 + 4096 + 16 * s.sigTail) (leBytes 16 e)
  { s with sigTail := (s.sigTail + 1) % 256, lastSig := (s.cycle, core + 1) }

def State.sigFull (s : State) : Bool := (s.sigTail + 1) % 256 = s.sigHead

/-- SIGNAL: a release, then a post, or 1 when the ring is full. -/
def signalBody (o : POps) : Body := privBody (fun iss s =>
  if s.sigFull then Res.group s (Group.setS o.sd 1)
  else Res.group (s.sigPost s.core iss.pc (s.group.sreg o.sa)) (Group.setS o.sd 0)) State.drainGroup

def execMfpr (o : POps) (s : State) : Host.Outcome State Fault Refusal := execWord (.mfpr o) (mfprBody o) s
def execMtpr (o : POps) (s : State) : Host.Outcome State Fault Refusal := execWord (.mtpr o) (mtprBody o) s
def execEret (o : POps) (s : State) : Host.Outcome State Fault Refusal := execWord (.eret o) (endBody Core.eret) s
def execTlbinv (o : POps) (s : State) : Host.Outcome State Fault Refusal := execWord (.tlbinv o) (tlbinvBody o) s
def execBufinv (o : POps) (s : State) : Host.Outcome State Fault Refusal := execWord (.bufinv o) (bufinvBody o) s
def execCachefl (o : POps) (s : State) : Host.Outcome State Fault Refusal := execWord (.cachefl o) (cacheflBody o) s
def execCtxsave (o : POps) (s : State) : Host.Outcome State Fault Refusal := execWord (.ctxsave o) (ctxsaveBody o) s
def execCtxload (o : POps) (s : State) : Host.Outcome State Fault Refusal := execWord (.ctxload o) (ctxloadBody o) s
def execHalt (o : POps) (s : State) : Host.Outcome State Fault Refusal := execWord (.halt o) (endBody (fun _ => Core.halt)) s
def execSignal (o : POps) (s : State) : Host.Outcome State Fault Refusal := execWord (.signal o) (signalBody o) s

end Sys2Proof.Machine
end

