-- ==== Sys2Proof/Machine/Service.lean ====
section
/-! DEFINITION. Entries of the service group, doorbells, the shepherd fault queues and page walks (R390, R391, R398,
R399, R425 to R432). -/
namespace Sys2Proof.Machine
open Sys2Proof

/-! ## Service entries (R390, R399) -/

/-- The service group runs; it has ended when all its threads have. -/
def Core.svcBusy (c : Core) : Bool := c.svcRun && !c.svc.ended

/-- The service group starts with s1 to s3 and every other register 0. -/
def Core.enter (c : Core) (cause : Nat) (s2 s3 : Dword) : Core :=
  let c := { c with cause := cause, svcRun := true }
  { c with svc := ((({} : Group).setS 1 (BitVec.ofNat 64 c.svcCause)).setS 2 s2).setS 3 s3 }

/-- No store of a service group that has ended is still on its way: its late fault would belong to that run (R391). -/
def State.svcClear (s : State) (c : Nat) : Bool := s.stores.all (fun r => !(r.core = c && r.grp = 16))

/-- A core whose service group can be entered: it does not run, no ERET of it is held (R390, R410), and no fault of it waits to be
posted (R398). -/
def Core.canEnter (c : Core) : Bool := !c.svcBusy && !c.erets && c.svcFault.isNone

def Core.preemptDue (c : Core) : Bool := c.canEnter && c.due = 1 && c.stopped && c.team.isSome
def Core.restoreDue (c : Core) : Bool := c.canEnter && c.due = 2 && c.team.isNone
def Core.requestDue (c : Core) : Bool := c.canEnter && !c.bells.isEmpty

def execServiceEntryPreempt (core : Nat) (s : State) : Host.Outcome State Fault Refusal :=
  .next (s.modCore core (fun c =>
    if c.preemptDue && s.svcClear core then { (c.enter 1 (BitVec.ofNat 64 c.slotAddr) 0) with due := 0 } else c))

def execServiceEntryRestore (core : Nat) (s : State) : Host.Outcome State Fault Refusal :=
  .next (s.modCore core (fun c =>
    if c.restoreDue && s.svcClear core then { (c.enter 2 (BitVec.ofNat 64 c.slotAddr) 0) with due := 0 } else c))

/-- REQUEST: the oldest doorbell's words. -/
def execServiceEntryRequest (core : Nat) (s : State) : Host.Outcome State Fault Refusal :=
  .next (s.modCore core (fun c =>
    match c.bells with
    | (a, b) :: rest => if c.requestDue && s.svcClear core then { (c.enter 3 a b) with bells := rest } else c
    | [] => c))

/-- A doorbell store: it causes a REQUEST entry, now or after the service group ends. -/
def execDoorbell (core : Nat) (lo hi : Dword) (s : State) : Host.Outcome State Fault Refusal :=
  .next (if core < numCores ∧ !s.boot.recovery then s.modCore core (fun c => { c with bells := c.bells ++ [(lo, hi)] }) else s)

/-- A service fault's argument (R398). -/
def SvcFault.arg (f : SvcFault) : Dword := BitVec.ofNat 64 (2 ^ 63 + f.sub % 256 * 256 + f.code % 256)

/-- A service fault is posted once the ring has room (R391, R398). -/
def execServiceFaultPost (core : Nat) (s : State) : Host.Outcome State Fault Refusal :=
  .next (match (s.coreAt core).svcFault with
    | some f => if s.sigFull then s else (s.sigPost core f.pc f.arg).modCore core
        (fun c => { c with svcFault := c.svcLate.head?, svcLate := c.svcLate.drop 1 })
    | none => s)

/-! ## Fault queues and page walks (R426, R429, R430, R432) -/

def execFaultQueuePost (q : Nat) (s : State) : Host.Outcome State Fault Refusal := .next (s.fqPost q)

/-- Let go of the thread that a token names in a team of a context. -/
def Team.resolve (ctx token : Nat) (t : Team) : Team :=
  if t.ctx = ctx then { t with groups := t.groups.map (fun g => (g.1, g.2.release (fun k => match k with | .pass n => n = token | _ => false))) }
  else t

def Team.holdsToken (ctx token : Nat) (t : Team) : Bool := t.ctx = ctx && t.tokens.contains token

/-- The store to RESOLVE (R432): a team that is saved takes it at restore. The entry that it resolves is that of its token and its
context. -/
def execFqResolve (w : Dword) (s : State) : Host.Outcome State Fault Refusal :=
  let token := bits w.toNat 15 0
  let ctx := bits w.toNat 31 24
  let s' : State := { s with unresolved := s.unresolved.filter (· ≠ (ctx, token)) }
  if s.boot.recovery then .next s
  else if bit w.toNat 32 then
    let held := (s.cores.filterMap (fun c => c.2.team)) ++ s.savedTeams
    .next (match held.find? (Team.holdsToken ctx token) with
      | some t =>
        let p := (s.grid t.grid).phase
        if p = .preempted ∨ p = .restoring then s'.modGrid t.grid (fun x => { x with killed := true }) else s'.endGrid t.grid 2
      | none => s')
  else
    .next { s' with cores := s.cores.map (fun (c : Nat × Core) => (c.1, { c.2 with team := c.2.team.map (Team.resolve ctx token) }))
                    saved := s.saved.map (fun (c : Nat × Option Team) => if s.heldSlots.contains c.1 then (c.1, c.2.map (Team.resolve ctx token)) else c) }

/-- A walk for a page of a context at a core's die (R426): a miss starts one, or has it wait while 64 are in flight; misses to the
page join it until the step in which it ends, which keeps the leaf that it has found. In recovery the compute dies are in reset (R489). -/
def execPageWalk (core ctx va : Nat) (s : State) : Host.Outcome State Fault Refusal :=
  .next (if s.boot.recovery then s else match s.walkFor core ctx va with
    | some w => if w.res.isSome then s.endWalk w else s
    | none =>
      if (tlbFind (s.coreAt core).tlb ctx va).isSome ∨ (tlbFind (tget [] s.dieTlb (dieOf core)) ctx va).isSome then s
      else
        let walks := s.walks ++ [{ die := dieOf core, ctx := ctx, page := va / 65536 }]
        State.startWalks (dieOf core) walks.length { s with walks := walks })

end Sys2Proof.Machine
end

