-- ==== Sys2Proof/Machine/TaskQueue.lean ====
section
/-! DEFINITION. The task queue, index ranges and device-side launch (R45 to R47, R230 to R237). -/
namespace Sys2Proof.Machine
open Sys2Proof

def State.slot (s : State) (grid t : Nat) : TqSlot := tget {} (s.grid grid).tq t
def State.setSlot (s : State) (grid t : Nat) (x : TqSlot) : State := s.modGrid grid (fun g => { g with tq := tput {} g.tq t x })

def depFault (sub off : Nat) : Trap := { code := 0x11, sub := sub, off := off }

/-- The result register is written, and a lookahead window opened for the threads of P (R126, R231). -/
def tqResult (o : QOps) (p : Dword) (n : Nat) (ws : List Dword) (s : State) : Res :=
  let ds := (List.range n).map (fun i => Dest.s (o.x + i))
  Res.group s (fun g => ((ws.mapIdx (fun i w => (i, w))).foldl (fun g w => g.setS (o.x + w.1) w.2) g).openWindow p o.la ds)

/-! ## TQDEF (R231, R232) -/

def tqdefBody (o : QOps) : Body := teamOnly (fun iss s =>
  let w := (s.group.sreg o.sa).toNat
  let t := bits w 11 0
  let g := s.team.grid
  let x := s.slot g t
  if iss.p = 0 then .skip s
  else if x.state = .waiting ∨ x.state = .ready ∨ bit w 31 then { s := s, raised := together iss.p (depFault 2 t) }
  else
    let n := bits w 27 12
    let s := s.irrevocable.setSlot g t
      { state := if n = 0 then .ready else .waiting, count := n, prio := bits w 30 28
        payload := BitVec.ofNat 32 (bits w 63 32), readyCycle := if n = 0 then s.cycle else 0 }
    tqResult o iss.p 1 [if n = 0 then 1 else 0] s)

/-! ## TQDONE (R233) -/

/-- Apply the entries in ascending order: the state, the tasks made READY, and the slot whose counter was 0. -/
def State.tqDone (s : State) (g w : Nat) : List Nat → State × Nat × Option Nat
  | [] => (s, 0, none)
  | j :: rest =>
    if !bit w (16 * j + 15) then s.tqDone g w rest
    else
      let t := bits w (16 * j + 11) (16 * j)
      let x := s.slot g t
      if x.count = 0 then (s, 0, some t)
      else
        let s := s.setSlot g t (if x.count = 1 then { x with count := 0, state := .ready, readyCycle := s.cycle }
                                else { x with count := x.count - 1 })
        let (s, n, bad) := s.tqDone g w rest
        (s, n + (if x.count = 1 then 1 else 0), bad)

def tqdoneBody (o : QOps) : Body := teamOnly (fun iss s =>
  let w := (s.group.sreg o.sa).toNat
  if iss.p = 0 then .skip s
  else if (List.range 4).any (fun j => bits w (16 * j + 14) (16 * j + 12) ≠ 0) then
    { s := s, raised := together iss.p (depFault 2 0) }
  else
    match (s.drainGroup.irrevocable).tqDone s.team.grid w [0, 1, 2, 3] with
    | (s, _, some t) => { s := s, raised := together iss.p (depFault 1 t) }
    | (s, n, none) => tqResult o iss.p 1 [BitVec.ofNat 64 n] s)

/-! ## TQGET (R234, R235) -/

/-- The first READY slot: higher priority, then earlier cycle, then lower number. -/
def Grid.firstReady (g : Grid) : Option (Nat × TqSlot) :=
  let before := fun (a b : Nat × TqSlot) =>
    b.2.prio < a.2.prio || (b.2.prio = a.2.prio && (a.2.readyCycle < b.2.readyCycle || (a.2.readyCycle = b.2.readyCycle && a.1 < b.1)))
  (g.tq.filter (fun x => x.2.state = .ready)).foldl (fun best x => match best with
    | none => some x
    | some b => if before x b then some x else some b) none

/-- The two words that a returned task gives. -/
def taskWords (t : Nat) (x : TqSlot) : Dword × Dword := (BitVec.ofNat 64 (x.prio * 2 ^ 12 + t), x.payload.setWidth 64)

/-- EMPTY, and DRAINED when no slot is WAITING or READY. -/
def Grid.emptyWord (g : Grid) : Dword :=
  BitVec.ofNat 64 (2 ^ 63 + (if g.tq.any (fun x => x.2.state = .waiting || x.2.state = .ready) then 0 else 2 ^ 62))

/-- The threads of P wait for a task; both result registers are outstanding until it is there (R125, R235). -/
def tqWaits (p : Dword) (sd deadline id la : Nat) (g : Group) : Group :=
  let ds := [Dest.s sd, .s (sd + 1)]
  (({ g with outstanding := g.outstanding ++ [{ req := id, dests := ds }] } : Group).hold p
    (.tqget sd deadline id (if g.frame.isSome then 1 else 0))).openWindow p la ds

def tqgetBody (o : QOps) : Body := teamOnly (fun iss s =>
  let g := s.team.grid
  let deadline := (s.group.sreg o.sa).toNat
  if iss.p = 0 then .skip s
  else
    let s := s.irrevocable
    match (s.grid g).firstReady with
    | some (t, x) =>
      let (a, b) := taskWords t x
      tqResult o iss.p 2 [a, b] (s.setSlot g t { x with state := .taken })
    | none =>
      if deadline ≤ s.cycle then tqResult o iss.p 2 [(s.grid g).emptyWord, 0] s
      else
        let (s, id) := s.fresh
        Res.group s (tqWaits iss.p o.x deadline id o.la))

/-! ## RNGGET (R45 to R47, R236) -/

/-- What a cluster has left of a space. -/
def Grid.range (g : Grid) (cl sp : Nat) : Nat × Nat := tget (0, 0) g.ranges (4 * cl + sp)
def Grid.left (g : Grid) (cl sp : Nat) : Nat := (g.range cl sp).2 - (g.range cl sp).1
/-- A range is kept; an empty one is (0, 0). -/
def Grid.setRange (g : Grid) (cl sp : Nat) (r : Nat × Nat) : Grid :=
  { g with ranges := tput (0, 0) g.ranges (4 * cl + sp) (if r.2 ≤ r.1 then (0, 0) else r) }

/-- The cluster with the most indices left, the lowest number first. -/
def Grid.richest (g : Grid) (sp : Nat) (cls : List Nat) : Option Nat :=
  cls.foldl (fun best c => match best with
    | none => if g.left c sp = 0 then none else some c
    | some b => if g.left b sp < g.left c sp then some c else some b) none

def Grid.clusters (g : Grid) : List Nat := List.range (recClusters g.record)

/-- Indices left on a die slot. -/
def Grid.slotLeft (g : Grid) (sp sl : Nat) : Nat :=
  ((g.clusters.filter (fun c => g.clSlot.getD c 0 = sl)).map (fun c => g.left c sp)).sum

/-- The victim of a steal by cluster cl: the richest of its own slot, else of the richest slot (R46, R414). -/
def Grid.victim (g : Grid) (cl sp : Nat) : Option Nat :=
  let mine := g.clSlot.getD cl 0
  match g.richest sp (g.clusters.filter (fun c => g.clSlot.getD c 0 = mine)) with
  | some v => some v
  | none =>
    let slots := (List.range 8).filter (fun d => 0 < g.slotLeft sp d)
    match slots.foldl (fun best d => match best with
        | none => some d
        | some b => if g.slotLeft sp b < g.slotLeft sp d then some d else some b) none with
    | some d => g.richest sp (g.clusters.filter (fun c => g.clSlot.getD c 0 = d))
    | none => none

/-- An empty cluster takes the upper part of its victim's range, or its one index. -/
def Grid.steal (g : Grid) (cl sp : Nat) : Grid :=
  if g.left cl sp ≠ 0 then g
  else match g.victim cl sp with
    | none => g
    | some v =>
      let (a, b) := g.range v sp
      let m := if b - a = 1 then a else a + (b - a + 1) / 2
      (g.setRange v sp (a, m)).setRange cl sp (m, b)

/-- Take up to c indices: the range's start and count. -/
def Grid.take (g : Grid) (cl sp c : Nat) : Grid × Nat × Nat :=
  let g := g.steal cl sp
  let (a, b) := g.range cl sp
  let n := min (if c = 0 then 1 else c) (b - a)
  (g.setRange cl sp (a + n, b), a, n)

/-- RNGGET (R45, R236). The start that it writes beside n = 0, which the manual does not state, is a free value (DESIGN CHOICE,
log 50). -/
def rnggetBody (o : QOps) : Body := teamOnly (fun iss s =>
  let g := s.team.grid
  if iss.p = 0 then .skip s
  else
    let (x, a, n) := (s.grid g).take s.team.clid (o.y % 4) (bits (s.group.sreg o.sa).toNat 31 0)
    tqResult o iss.p 2 [if n = 0 then s.openWord 1 ++ s.openWord 0 else BitVec.ofNat 64 a, BitVec.ofNat 64 n] (s.irrevocable.setGrid g x))

/-! ## GLAUNCH (R237) -/

/-- The faults of GLAUNCH, in order. Their OFF is sA, to which R237 gives no value (DESIGN CHOICE, log 25). -/
def glaunchCheck (t : Team) (off : Nat) : Option Trap :=
  if !t.launch then some { code := 9, sub := 7, off := off }
  else if off % 64 ≠ 0 then some { code := 5, sub := 1, off := off }
  else if t.scratchSize < off + 64 then some { code := 8, sub := 0x10, off := off }
  else none

def glaunchBody (o : QOps) : Body := teamOnly (fun iss s =>
  let t := s.team
  let off := (s.group.sreg o.sa).toNat
  if iss.p = 0 then .skip s
  else match glaunchCheck t off with
    | some x => { s := s, raised := together iss.p x }
    | none =>
      let r : Rec := BitVec.ofNat 512 (leNat (t.scratchBytes off 64))
      let (s, code) := s.drainGroup.irrevocable.postRecord r (recPrio r) (some t.ctx)
      tqResult o iss.p 1 [BitVec.ofNat 64 code] s)

def execTqdef (o : QOps) (s : State) : Host.Outcome State Fault Refusal := execCompared (.tqdef o) (tqdefBody o) s
def execTqdone (o : QOps) (s : State) : Host.Outcome State Fault Refusal := execCompared (.tqdone o) (tqdoneBody o) s
def execTqget (o : QOps) (s : State) : Host.Outcome State Fault Refusal := execCompared (.tqget o) (tqgetBody o) s
def execRngget (o : QOps) (s : State) : Host.Outcome State Fault Refusal := execCompared (.rngget o) (rnggetBody o) s
def execGlaunch (o : QOps) (s : State) : Host.Outcome State Fault Refusal := execCompared (.glaunch o) (glaunchBody o) s

end Sys2Proof.Machine
end

