-- ==== Sys2Proof/Machine/Admission.lean ====
section
/-! DEFINITION. The admission unit: launch ports, admission, pre-emption, restore and the end of a grid (R400 to
R415, R439, R440). -/
namespace Sys2Proof.Machine
open Sys2Proof

/-! ## The waiting list (R407, R409) -/

/-- Order of the waiting list: level, highest first, then post time, then the order of acceptance. -/
def waitsBefore (a b : Nat × Grid) : Bool :=
  let p := fun (x : Nat × Grid) => recPrio x.2.record
  p b < p a || (p a = p b && (a.2.postTime < b.2.postTime || (a.2.postTime = b.2.postTime && a.1 < b.1)))

def insertGrid (lt : Nat × Grid → Nat × Grid → Bool) (x : Nat × Grid) : List (Nat × Grid) → List (Nat × Grid)
  | [] => [x]
  | y :: r => if lt x y then x :: y :: r else y :: insertGrid lt x r
def sortGrids (lt : Nat × Grid → Nat × Grid → Bool) (l : List (Nat × Grid)) : List (Nat × Grid) :=
  l.foldl (fun l x => insertGrid lt x l) []

def State.waiting (s : State) : List (Nat × Grid) := sortGrids waitsBefore (s.grids.filter (fun g => g.2.waits))

/-! ## Save-area slots (R411) -/

/-- The lowest free slots of the pool, at most n. -/
def State.freeSlots (s : State) (n : Nat) : List Nat :=
  let used := s.grids.flatMap (fun g => g.2.slots)
  ((List.range (min s.sapoolCount (used.length + n))).filter (fun k => !used.contains k)).take n

/-- Entries of the restore list in use, counting gangs on their way to it (R409). -/
def State.restoreList (s : State) : Nat :=
  (s.grids.filter (fun g => g.2.phase = .preempted || g.2.phase = .stopping || g.2.phase = .restoring)).length

/-- A resident grid for which the restore list and the pool have room. -/
def State.canSave (s : State) (g : Grid) : Bool :=
  s.restoreList < 64 && (s.freeSlots g.place.length).length = g.place.length

/-! ## The end of a grid (R320, R321, R412, R439, R440) -/

/-- A word translated as the admission unit does, on the shepherd die: it has no TLB (R412, R483). -/
def State.statusCheck (s : State) (ctx idx off : Nat) : State × Except (Nat × Nat) Acc :=
  let (s, d) := s.desc 8 ctx idx
  match descCheck ctx idx d .store with
  | some c => (s, .error c)
  | none =>
    if bits d 111 64 < off + 8 then (s, .error (8, 1))
    else if off % 8 ≠ 0 then (s, .error (5, 1))
    else
      let va := bits d 56 8 * 256 + off
      let walk := s.walkRoot 8 ctx va
      let s := walk.reach 8 s
      match walk.res with
      | .fail n => (s, .error (0x0B, n))
      | .leaf lv p =>
        if !bit p 56 then (s, .error (0x0B, 3))
        else
          let k := 2 ^ levelShift lv
          let pa := bits p 51 8 * 256 / k * k + va % k
          match s.access? 8 pa { w := true } with
          | .denied => (s, .error (9, 6))
          | .bad => (s, .error (0x30, 5))
          | .mem key => if s.poisoned key then (s, .error (0x30, 5)) else (s.uncache (pa / 128), .ok (.mem key))
          | a => (s, .ok a)

/-- The status word, and its event in the log; a store that would fault is not made. -/
def State.statusStore (s : State) (g : Grid) : State :=
  let r := g.record
  let w := g.status * 2 ^ 56 + recGridid r
  let (s, a) := s.statusCheck (recCtx r) (recBits r 287 276) (recBits r 319 288)
  match a with
  | .ok a => (s.putAcc 8 a (leBytes 8 w)).logEvent (recGridid r) (recCtx r) 0 0 {} 4 w
  | .error c => s.logEvent (recGridid r) (recCtx r) c.1 c.2 {} 4 w

/-- Cores on which a grid has a team, or to which it is being restored. -/
def State.gridCores (s : State) (g : Nat) : List Nat :=
  (s.cores.filter (fun c => (match c.2.team with | some t => t.grid = g | none => false)
    || (c.2.restoring && ((s.grid g).phase = .restoring || (s.grid g).phase = .ending) && (s.grid g).place.contains c.1))).map Prod.fst

/-- Every group of a team has ended, and every operation, and no write is held. -/
def Team.over (t : Team) : Bool :=
  (List.range t.ngrp).all (fun g => (t.group g).ended) && t.ops.all (fun o => o.phase = .done) && t.held.isEmpty

/-- The teams of a grid are on their cores: it is resident, or is being pre-empted and they may still go on (R393). -/
def Grid.placed (g : Grid) : Bool := g.phase = .resident || g.phase = .stopping

/-- A grid all of whose teams are on their cores and over. -/
def State.gangOver (s : State) (g : Nat) : Bool :=
  (s.grid g).placed && (s.grid g).place.all (fun c => match (s.coreAt c).team with | some t => t.over | none => false)

/-- A lost core's stores: those that have left it are performed, the others are lost (R321; log 1). -/
def State.loseStores (s : State) (c : Nat) : State :=
  let n := (s.stores.filter (fun r => r.core = c)).length
  let k := s.choice (256 + c) % (n + 1)
  let gone := ((s.stores.filter (fun r => r.core = c)).drop k).map MemReq.id
  { s with stores := s.stores.filter (fun r => !(r.core = c && gone.contains r.id)) }

/-- Everything a grid issued is performed, and every epoch with partials ends, core by core, those that the grid left in cores from
which it was pre-empted among them (R320). -/
def State.drainGrid (s : State) (cs : List Nat) : State :=
  let s := s.drainIf (fun r => cs.contains r.core)
  let held := s.cores.map (fun c => (c.1, (c.2.partials.map (fun p => p.1 / 32)).dedup))
  let s := held.foldl (fun s c => c.2.foldl (fun s ln => s.sendPartials c.1 ln) s) s
  (held.flatMap Prod.snd).dedup.foldl (fun s ln => s.endEpoch ln) s

/-- Faults that no join has delivered when a team ends are recorded, and delivered so (R246). -/
def State.leftFaults (s : State) (c : Nat) : State :=
  match (s.coreAt c).team with
  | some t =>
    let left := if t.twin then [] else t.ops.filter (fun o => o.undelivered.isSome)
    let s := left.foldl (fun s o => match o.undelivered with
      | some f => (s.terminal c t o.grp o.lane o.pc 0 1 (Trap.ofFault o f)).markDeferred t.grid
      | none => s) s
    if left.isEmpty then s
    else s.modTeamAt c (fun t => { t with ops := t.ops.map (fun o => if left.any (fun x => x.id = o.id) then { o with delivered := true } else o) })
  | none => s

/-- Teams that have ended leave no fault without a record (R246): kept up after every step. -/
def State.noteEnded (s : State) : State :=
  (s.cores.filter (fun c => match c.2.team with
    | some t => !t.twin && t.ops.any (fun o => o.undelivered.isSome) && t.over
    | none => false)).foldl (fun s c => s.leftFaults c.1) s

/-- A core is free again. -/
def Core.freed (c : Core) : Core :=
  { c with team := none, stopped := false, saved := false, restoring := false, due := 0, erets := false, lost := false, btb := [] }

/-- Cores that were lost, of a grid that ends CORE_LOST (R321, R451). -/
def State.lostCores (s : State) (g : Grid) (cs : List Nat) : List Nat :=
  if g.status = 4 then cs.filter (fun c => (s.coreAt c).lost) else []

/-- The end of a grid whose status is decided, or that is over. -/
def State.finishGrid (s : State) (g : Nat) : State :=
  let cs := s.gridCores g
  -- its running operations stop at interrupt points (R440)
  let s := if (s.grid g).placed then s else (cs.filter (fun c => !(s.coreAt c).stopped)).foldl State.stopOps s
  let s := (s.lostCores (s.grid g) cs).foldl State.loseStores s
  let s := cs.foldl State.leftFaults (s.drainGrid cs)
  let s := s.modGrid g (fun x => if x.placed then { x with status := if x.deferred then 3 else 1 } else x)
  let s := s.statusStore (s.grid g)
  let s := cs.foldl (fun s c =>
    let had := (s.coreAt c).team.isSome
    let s := s.modCore c Core.freed
    if had then s.logRetired c else s) s
  -- a saved state is discarded with its slot (R413)
  let s := { s with saved := tputs none s.saved ((s.grid g).slots.map (fun k => (s.slotAddr k, none))) }
  (s.modGrid g (fun x => { x with phase := .ended, slots := [], place := [], preempt := false, bump := false, killed := false })).releaseHeld (recCtx (s.grid g).record)

def State.gridDue (s : State) (g : Nat) : Bool := (s.grid g).phase = .ending || s.gangOver g

/-- Stores of a grid's cores to control spaces that are still queued: they take effect before its status word (R320, R321). -/
def State.regQueued (s : State) (cs : List Nat) : Bool := s.stores.any (fun r => cs.contains r.core && s.isReg r.kind.span.1)

/-- The end of a grid: the stores of a lost core that stay are settled first, and stores to control spaces arrive; then the rest. -/
def execGridEnd (grid : Nat) (s : State) : Host.Outcome State Fault Refusal :=
  let cs := s.gridCores grid
  .next (if !s.gridDue grid then s
    else if s.regQueued cs then ((s.lostCores (s.grid grid) cs).foldl State.loseStores s).drainIf (fun r => cs.contains r.core)
    else s.finishGrid grid)

/-! ## Teams of a new grid (R20 to R28, R46, R48, R223, R276, R278, R406, R408) -/

/-- The parts of a length among weights: each its floor, the rest one each from the first on (R46). -/
def shares (n total : Nat) (ws : List Nat) : List Nat :=
  let base := ws.map (fun w => n * w / total)
  let rest := n - base.sum
  base.mapIdx (fun i b => if i < rest then b + 1 else b)

/-- Contiguous ranges of some lengths. -/
def layOut (start : Nat) : List Nat → List (Nat × Nat)
  | [] => []
  | n :: r => (start, start + n) :: layOut (start + n) r

/-- The clusters' ranges of a space of length n, in cluster order (R46). `slots` is the die slot of each cluster. -/
def spaceRanges (n teamsPer : Nat) (slots : List Nat) : List (Nat × (Nat × Nat)) :=
  let dies := (List.range 8).filter (fun d => slots.contains d)
  let cls := fun d => (List.range slots.length).filter (fun c => slots.getD c 0 = d)
  let parts := shares n (slots.length * teamsPer) (dies.map (fun d => (cls d).length * teamsPer))
  let clParts := dies.zip parts |>.flatMap (fun x => (cls x.1).zip (shares x.2 (cls x.1).length ((cls x.1).map (fun _ => 1))))
  (clParts.map Prod.fst).zip (layOut 0 (clParts.map Prod.snd))

/-- The die slot of each cluster: dies that host the grid's teams, ascending (R414). -/
def dieSlots (size : Nat) (place : List Nat) (clusters : Nat) : List Nat :=
  let dies := (List.range clusters).map (fun c => dieOf (place.getD (c * size) 0))
  let host := (List.range 8).filter (fun d => dies.contains d)
  dies.map (fun d => host.findIdx (fun x => x = d))

/-- Team i of a grid, at its start; i counts on over the twins. -/
def Rec.team (r : Rec) (g entry i : Nat) : Team :=
  let n := recNteam r
  let id := i % n
  let size := recRows r * recCols r
  let first : Group := { flags := BitVec.ofNat 64 (recBits r 84 83 * 64) }
  let thr := recNgrp r * lanes
  let b0 : Barrier := { tcount := thr, init := true }
  let b16 : Barrier := { tcount := thr * size, init := true }
  let t : Team :=
    { grid := g, ctx := recCtx r, gridid := recGridid r, nteam := n, teamid := id, clid := id / size, clrank := id % size
      rows := recRows r, cols := recCols r, tr := 4 < recRows r, ngrp := recNgrp r, partw := recPartw r, regalloc := recRegs r
      hEn := bit entry 32, hAddr := bits entry 31 2 * 4, launch := bit entry 34, twin := n ≤ i
      codeVa := recCodeVa r, codeSz := recCodeSz r
      groups := tputs {} [] ((List.range (recNgrp r)).map (fun k => (k, first)))
      active := List.range (min (recNgrp r) 8)
      pending := (List.range (recNgrp r)).drop 8
      barriers := tputs {} [] ((0, b0) :: (if id % size = 0 then [(16, b16)] else [])) }
  -- the start of a redundant copy serves as its first checkpoint (R447)
  if recRed r then t.takeCheckpoint else t

/-- Admit a new grid on some cores. -/
def State.admitNew (s : State) (g : Nat) (place : List Nat) : State :=
  let x := s.grid g
  let r := x.record
  let entry := s.ctxEntry (recCtx r)
  let slots := dieSlots (recRows r * recCols r) place (recClusters r)
  let ranges := (List.range 4).flatMap (fun k =>
    (spaceRanges (recLen r k) (recRows r * recCols r) slots).filterMap (fun c => if c.2.2 ≤ c.2.1 then none else some (4 * c.1 + k, c.2)))
  let s := (place.mapIdx (fun i c => (i, c))).foldl (fun s p =>
    s.modCore p.2 (fun (c : Core) => { c with team := some (Rec.team r g entry p.1), stopped := false, saved := false, btb := [] })) s
  (s.ctxReach (recCtx r)).setGrid g
    { x with phase := .resident, byp := 0, admitNo := s.admitted, place := place, clSlot := slots, ranges := tputs (0, 0) [] ranges, tq := [] }

/-- Admit a pre-empted grid again: its cores are to be entered with RESTORE (R410, R411). -/
def State.admitAgain (s : State) (g : Nat) (place : List Nat) : State :=
  let x := s.grid g
  let s := ((place.zip x.slots)).foldl (fun s p =>
    s.modCore p.1 (fun (c : Core) => { c with restoring := true, stopped := false, saved := false, due := 2, slotAddr := s.slotAddr p.2 })) s
  s.setGrid g { x with phase := .restoring, byp := 0, admitNo := s.admitted, place := place }

def State.admitGrid (s : State) (g : Nat) (place : List Nat) : State :=
  let t := if (s.grid g).phase = .waiting then s.admitNew g place else s.admitAgain g place
  { t with admitted := t.admitted + 1 }

/-! ## Pre-emption for a waiting grid (R409) -/

/-- Subsets of k elements, in the order of the list. -/
def choose {α : Type} : Nat → List α → List (List α)
  | 0, _ => [[]]
  | _ + 1, [] => []
  | k + 1, x :: r => (choose k r).map (fun l => x :: l) ++ choose (k + 1) r

/-- Cores that a grid's removal would free. -/
def State.wouldFree (s : State) (g : Nat) : List Nat := (s.gridCores g).filter (fun c => !(s.coreAt c).retired)

/-- Order of the choice: lowest level first, the most recently admitted first within a level. -/
def removedBefore (a b : Nat × Grid) : Bool :=
  let p := fun (x : Nat × Grid) => recPrio x.2.record
  p a < p b || (p a = p b && b.2.admitNo < a.2.admitNo)

/-- The resident grids to pre-empt for the head: none when it does not help, or when enough cores are on their way. Of
equal sets the first in the order of R407 (DEDUCED, log 35). -/
def State.victims (s : State) (h : Grid) : List Nat :=
  let p := recPrio h.record
  let coming := (s.grids.filter (fun g => g.2.phase = .stopping || (g.2.phase = .resident && g.2.preempt && s.canSave g.2))).flatMap (fun g => s.wouldFree g.1)
  let free := s.freeCores ++ coming
  if (s.placeOn h.record free).isSome then []
  else
    let cands := sortGrids removedBefore (s.grids.filter (fun g =>
      g.2.phase = .resident && !g.2.preempt && !s.gangOver g.1 && recPrio g.2.record + 2 ≤ p && s.canSave g.2))
    let works := fun (l : List (Nat × Grid)) =>
      let n := (l.map (fun g => g.2.place.length)).sum
      s.restoreList + l.length ≤ 64 && (s.freeSlots n).length = n
        && (s.placeOn h.record (free ++ l.flatMap (fun g => s.wouldFree g.1))).isSome
    match (List.range cands.length).findSome? (fun k => (choose (k + 1) cands).find? works) with
    | some l => l.map Prod.fst
    | none => []

/-! ## The admission step (R407) -/

/-- The first grid of a list that fits the free cores, with its place. -/
def State.firstFit (s : State) : List (Nat × Grid) → Option (Nat × List Nat)
  | [] => none
  | g :: r => match s.placeOn g.2.record s.freeCores with
    | some pl => some (g.1, pl)
    | none => s.firstFit r

/-- Whether the unit admits at all: no domain being formed (R467), no isolation (R475), no recovery (R489). -/
def State.admits (s : State) : Bool := s.domain.forming.isNone && !s.domain.isolated && !s.boot.recovery

/-- A waiting grid that no longer fits its partition with every remaining core free ends KILLED (R450; DEDUCED, log 35). -/
def State.endUnfit (s : State) : State :=
  s.waiting.foldl (fun s g => if s.fitsEmpty g.2.record then s else s.endGrid g.1 5) s

/-- The waiting grids that a step may admit: with a hot outlet no new one (R495). -/
def State.mayAdmit (s : State) : List (Nat × Grid) := s.waiting.filter (fun g => !s.boot.hot || g.2.phase = .preempted)

/-- The grids chosen to make room for the head: each step chooses anew (R409). -/
def State.unbump (s : State) (p : Grid → Bool) : State :=
  if s.grids.all (fun g => !(g.2.bump && p g.2)) then s
  else { s with grids := s.grids.map (fun (g : Nat × Grid) => if p g.2 then (g.1, { g.2 with bump := false }) else g) }

/-- A grid chosen to make room that cannot be saved any more is not chosen (R409): kept up after every step. -/
def State.noteBumps (s : State) : State := s.unbump (fun g => !s.canSave g)

def State.admission (s : State) : State :=
  let s := s.endUnfit.unbump (fun _ => true)
  match s.mayAdmit with
  | [] => s
  | h :: rest =>
    let s := { s with grids := s.grids.map (fun (g : Nat × Grid) => if g.1 = h.1 || !g.2.waits then g else (g.1, { g.2 with byp := 0 })) }
    match s.placeOn h.2.record s.freeCores with
    | some pl => s.admitGrid h.1 pl
    | none =>
      let s := (s.victims h.2).foldl (fun s v => s.modGrid v (fun x => { x with bump := true })) s
      if h.2.byp < 16 then
        match s.firstFit rest with
        | some (g, pl) => (s.admitGrid g pl).modGrid h.1 (fun x => { x with byp := x.byp + 1 })
        | none => s
      else s

def execAdmissionStep (s : State) : Host.Outcome State Fault Refusal := .next (if s.admits then s.admission else s)

/-- Whether an admission step would change anything. -/
def State.admissionDue (s : State) : Bool := s.admits && s.admission ≠ s

/-! ## Gangs stop and resume (R409 to R411) -/

/-- A pre-emption that is wanted, or that makes room for the head, and has room itself. -/
def State.preemptReady (s : State) (g : Nat) : Bool :=
  let x := s.grid g
  x.phase = .resident && (x.preempt || x.bump) && s.canSave x && !s.gangOver g

def execPreemptGang (stop : GangStop) (s : State) : Host.Outcome State Fault Refusal :=
  let grid := stop.grid
  .next (if s.preemptReady grid then
    let x := s.grid grid
    let s := x.place.foldl (fun s c => s.stopOps c) s
    let slots := s.freeSlots x.place.length
    let s := (x.place.zip slots).foldl (fun s p => s.modCore p.1 (fun (c : Core) =>
      { c with stopped := true, saved := false, due := 1, slotAddr := s.slotAddr p.2
               team := c.team.map (fun (t : Team) => { t with stoppedAt := some s.cycle }) })) s
    let s := s.setGrid grid { x with phase := .stopping, preempt := false, bump := false, slots := slots }
    (x.place.filter (fun c => stop.fails.contains c)).foldl State.coreLost s
  else s)

/-- Every team of a restoring gang has loaded and asked to go on. -/
def State.gangLoaded (s : State) (g : Nat) : Bool :=
  (s.grid g).phase = .restoring && (s.grid g).place.all (fun c =>
    let x := s.coreAt c
    x.restoring && x.erets && (match x.team with | some t => t.grid = g | none => false))

def execGangResume (grid : Nat) (s : State) : Host.Outcome State Fault Refusal :=
  .next (if s.gangLoaded grid then
    let s := (s.grid grid).place.foldl (fun s c => s.modCore c (Core.goOn s.cycle)) s
    let s := s.modGrid grid (fun x => { x with phase := .resident, slots := [] })
    if (s.grid grid).killed then s.endGrid grid 2 else s
  else s)

/-! ## Words to the unit (R401 to R405, R411, R415) -/

/-- A store to a launch port by poster number (R401, R402): one that is not a whole aligned record is ignored with code
5. A shepherd core's result stands in its LPRES. In recovery every poster is in reset (R489). -/
def execLaunchPortPost (port poster : Nat) (store : PortStore) (s : State) : Host.Outcome State Fault Refusal :=
  if 8 ≤ port ∨ s.boot.recovery then .next s
  else
    let r := if store.whole then s.postRecord store.record port none else (s, 5)
    let s := { r.1 with lastPost := (s.cycle, poster + 1) }
    .next (if 192 ≤ poster ∧ poster < 208 then
      { s with lpres := tput 0 s.lpres (poster - 192) (BitVec.ofNat 64 (r.2 * 2 ^ 40 + port * 2 ^ 32 + recGridid store.record)) }
    else s)

/-- The grids that LCTL names. -/
def State.named (s : State) (ctx gridid : Nat) : List Nat :=
  (s.grids.filter (fun g => recCtx g.2.record = ctx && recGridid g.2.record = gridid)).map Prod.fst

def execLctlPreempt (ctx gridid : Nat) (s : State) : Host.Outcome State Fault Refusal :=
  .next (if s.boot.recovery then s else (s.named ctx gridid).foldl (fun s g => s.modGrid g (fun x => if (x.phase = .resident ∧ !s.gangOver g) ∨ x.phase = .restoring then { x with preempt := true } else x)) s)

def execLctlKill (ctx gridid : Nat) (s : State) : Host.Outcome State Fault Refusal :=
  .next (if s.boot.recovery then s else (s.named ctx gridid).foldl (fun s g => if s.gangOver g then s else s.endGrid g 5) s)

/-- SAPOOL is written while no grid is stopping, stopped or pre-empted. -/
def execSapoolWrite (w : Dword) (s : State) : Host.Outcome State Fault Refusal :=
  .next (if s.restoreList = 0 ∧ !s.boot.recovery then { s with sapoolBase := bits w.toNat 63 35, sapoolCount := bits w.toNat 15 0 } else s)

end Sys2Proof.Machine
end

