-- ==== Sys2Proof/Machine/MainMemory.lean ====
section
/-! DEFINITION. Main memory as the shepherd side sets it up: channel sets and their restriping, registers and tables
without behaviour of their own, refresh (R7, R310, R478 to R488). -/
namespace Sys2Proof.Machine
open Sys2Proof

/-! ## Channel sets (R478) -/

def State.setChset (s : State) (n : Nat) (x : ChSet) : State := { s with chsets := tput {} s.chsets n x }

/-- Context entry 0, which the trusted firmware has written, stands at CTXTAB once memory is there (R387, R490; log 4). -/
def State.placeEntry0 (s : State) : State :=
  if s.base 0 = 0 then s
  else match s.locate (s.base 0) with
    | .at k => s.setBytes k (leBytes 64 s.boot.entry0.toNat)
    | _ => s

/-- Writing EN = 1: an off set with a live channel comes into use. -/
def State.enableSet (s : State) (n : Nat) : State :=
  let x := s.chset n
  let live := (s.liveOf { x with leaving := [] }).length
  if x.en ∨ x.state ≠ 0 ∨ live = 0 then s
  else
    let s := s.setChset n { x with en := true, state := 1, nlive := live, bound := 0, leaving := [] }
    if s.base 0 / 2 ^ 39 % 256 = n then s.placeEntry0 else s

/-- The bytes of the new places of a restripe are forgotten. -/
def State.dropPlaces (s : State) : State :=
  { s with mem := s.mem.filter (fun e => e.1 < newPlace), poison := s.poison.filter (fun e => e.1 < newPlace / 128) }

/-- Writing EN = 0: what is on its way is performed, and the set is out of use; a lost set becomes off, and so does one in use,
which moves nothing more (DEDUCED, log 31). -/
def State.disableSet (s : State) (n : Nat) : State :=
  let s := if (s.chset n).en then s.drainAll else s
  let s := if (s.chset n).state = 2 then s.dropPlaces else s
  s.setChset n { s.chset n with en := false, state := 0, leaving := [] }

def execChsetEnable (n : Nat) (s : State) : Host.Outcome State Fault Refusal := .next (if n < 256 ∧ !s.boot.recovery then s.enableSet n else s)
def execChsetDisable (n : Nat) (s : State) : Host.Outcome State Fault Refusal := .next (if n < 256 ∧ !s.boot.recovery then s.disableSet n else s)

/-- Word k of an entry with a value (R478). A GRAN of 9 to 15, of which the manual gives no granule, is stored as 8
(DESIGN CHOICE, log 43); EN has a step of its own, BOUND, NLIVE and STATE ignore writes. -/
def ChSet.put (x : ChSet) (k w : Nat) : ChSet :=
  if k = 0 then { x with cbase := bits w 63 32 }
  else if k = 1 then { x with csize := bits w 63 32 }
  else if k = 2 then { x with gran := min (bits w 35 32) 8 }
  else if 4 ≤ k ∧ k < 8 then
    let i := 64 * (k - 4)
    let m := x.chmask.toNat
    { x with chmask := BitVec.ofNat 256 (m - bits m (i + 63) i * 2 ^ i + w % 2 ^ 64 * 2 ^ i) }
  else x

/-- A write of a word of an entry's fields other than EN, while EN = 0. -/
def State.writeSet (s : State) (n k w : Nat) : State :=
  let x := s.chset n
  if x.en ∨ 256 ≤ n then s else s.setChset n (x.put k w)

/-- A write of a word of an entry: its fields, then EN, which enables or disables the set (R478). -/
def State.setWord (s : State) (n k w : Nat) : State :=
  let s := s.writeSet n k w
  if k ≠ 0 ∨ 256 ≤ n then s else if bit w 0 then s.enableSet n else s.disableSet n

/-! ## Retiring a channel (R482) -/

/-- The unit of a channel: stack·32 + channel is its number (R452, R476). -/
def chUnit (c : Nat) : HwUnit := { cls := 4, idx := c }

/-- Begin the next restripe, lowest set first, when none is in progress; a set whose last channel leaves is lost, once what is on
its way is performed. -/
def State.startRestripes (s : State) : State :=
  (s.chsets.map Prod.fst).foldl (fun s n =>
    let x := s.chset n
    if s.chsets.any (fun y => y.2.state = 2) ∨ x.state ≠ 1 then s
    else match x.leaving with
      | [] => s
      | c :: _ =>
        if (s.liveOf x).length = 1 then
          (s.drainAll.setChset n { x with nlive := 0, state := 3, leaving := [] }).logEvent 0 0 0 0 (chUnit c) 2 0
        else s.setChset n { x with state := 2, bound := 0 }) s

/-- A channel retires: every set that holds it is to be restriped. -/
def State.retireChannel (s : State) (c : Nat) : State :=
  if s.retiredCh.contains c then s
  else
    let s1 := { s with retiredCh := s.retiredCh ++ [c] }
    { s1 with chsets := s.chsets.map (fun (x : Nat × ChSet) =>
        if x.2.en && x.2.chmask.getLsbD c && x.2.state ≠ 3 then (x.1, { x.2 with leaving := x.2.leaving ++ [c] }) else x) }.startRestripes

/-- The channels that fail to train at boot retire (R490). -/
def State.trainChannels (s : State) : State :=
  let gone := (List.range 256).filter (fun c => !Config.channelTrains c && !s.retiredCh.contains c)
  let s1 := s.addRetired (gone.map chUnit)
  if s.chsets.any (fun x => x.2.en) then gone.foldl State.retireChannel s1 else { s1 with retiredCh := s.retiredCh ++ gone }

/-- The place of a set-linear address under some live channels. -/
def ChSet.placeOf (x : ChSet) (live : List Nat) (l : Nat) : Nat :=
  let g := 2 ^ (x.gran + 8)
  let q := l / g
  live.getD (q % live.length) 0 * chBytes + x.cbase * 65536 + q / live.length * g + l % g

/-- Move the bytes of a span, and its poison. -/
def State.moveSpan (s : State) (src dst n : Nat) : State :=
  if src = dst then s
  else
    let here := fun (k : Nat) => dst ≤ k && k < dst + n
    let from_ := fun (k : Nat) => src ≤ k && k < src + n
    { s with
      mem := tputs 0 (s.mem.filter (fun e => !here e.1)) ((s.mem.filter (fun e => from_ e.1)).map (fun e => (e.1 - src + dst, e.2)))
      poison := tputs false (s.poison.filter (fun e => !here (128 * e.1)))
        ((s.poison.filter (fun e => from_ (128 * e.1))).map (fun e => (e.1 + dst / 128 - src / 128, e.2))) }

/-- Where the granules that move end: below (N − 1)·CSIZE·65,536. -/
def State.moveEnd (s : State) (x : ChSet) : Nat := ((s.liveOf x).length - 1) * x.csize * 65536

/-- The last granule has moved: what a set's channels held is replaced by what stands at the new places; the new reserve has lost
its values. -/
def State.settlePlaces (s : State) (x : ChSet) : State :=
  let old := fun (k : Nat) => (s.liveOf x).any (fun c => let b := c * chBytes + x.cbase * 65536; b ≤ k && k < b + x.csize * 65536)
  { s with
    mem := tputs 0 (s.mem.filter (fun e => e.1 < newPlace && !old e.1)) ((s.mem.filter (fun e => newPlace ≤ e.1)).map (fun e => (e.1 - newPlace, e.2)))
    poison := tputs false (s.poison.filter (fun e => 128 * e.1 < newPlace && !old (128 * e.1)))
      ((s.poison.filter (fun e => newPlace ≤ 128 * e.1)).map (fun e => (e.1 - newPlace / 128, e.2))) }

/-- After the last granule: NLIVE falls, the set is active, the channel has left it; the next set follows. -/
def State.restripeDone (s : State) (n : Nat) : State :=
  let x := s.chset n
  let c := x.leaving.headD 0
  (((s.settlePlaces x).setChset n { x with nlive := (s.liveOf x).length - 1, state := 1, leaving := x.leaving.drop 1 }).logEvent
    0 0 0 0 (chUnit c) 2 0).startRestripes

/-- Move the granule at BOUND to its new place. -/
def State.restripeOne (s : State) (n : Nat) : State :=
  let x := s.chset n
  if x.state ≠ 2 ∨ x.leaving.isEmpty then s
  else
    let g := 2 ^ (x.gran + 8)
    let live := s.liveOf x
    let s1 := if x.bound < s.moveEnd x then
        (s.moveSpan (x.placeOf live x.bound) (newPlace + x.placeOf (live.filter (fun c => c ≠ x.leaving.headD 256)) x.bound) g).setChset n
          { x with bound := x.bound + g }
      else s
    if s1.moveEnd x ≤ (s1.chset n).bound then s1.restripeDone n else s1

def execRestripeGranule (n : Nat) (s : State) : Host.Outcome State Fault Refusal := .next (s.restripeOne n)

/-! ## Registers and tables without behaviour of their own (R7, R8) -/

/-- An access-table entry without its reserved bits. -/
def accessBits (w : Nat) : Nat := bits w 63 48 * 2 ^ 48 + bits w 45 44 * 2 ^ 44 + bits w 29 0

/-- A store of the shepherd side to memory, as master 8 (R483): the lines are cached nowhere afterwards. -/
def State.shepherdStore (s : State) (pa : Nat) (bs : List Byte) : State := (s.uncache (pa / 128)).physWrite 8 pa bs

/-- The access tables keep the values of the trusted firmware from the start of stage 3 until module reset, and a store to one changes
nothing (R490; log 58). -/
def State.tablesOpen (s : State) : Bool := s.boot.stage < 3

def State.writeReg (s : State) (r : HwReg) (w : Dword) : State :=
  let v := w.toNat
  match r with
  | .sigHead => { s with sigHead := v % 256 }
  | .fqDesc q => { s with fqs := tput {} s.fqs (q % 256) { tget {} s.fqs (q % 256) with ring := bits v 51 13, en := bit v 0 } }
  | .fqHead q => { s with fqs := tput {} s.fqs (q % 256) { tget {} s.fqs (q % 256) with head := bits v 7 0 } }
  | .logHead => { s with logHead := bits v 11 0 }
  | .access c k => if !s.tablesOpen then s else { s with access := tput 0 s.access (c % 256 * 16 + k % 16) (BitVec.ofNat 64 (accessBits v)) }
  | .foldAccess f m => if !s.tablesOpen then s else { s with foldAccess := tput 0 s.foldAccess (f % 2 * 32 + m % 32) (BitVec.ofNat 64 (bits v 17 0)) }
  | .chset n k => s.setWord n (k % 8) v
  | .memory pa =>
    if s.isReg (pa / 8 * 8) then { s with regStores := s.regStores ++ [⟨192, pa / 8 * 8, leBytes 8 v⟩] }
    else s.shepherdStore (pa / 8 * 8) (leBytes 8 v)

/-- A store of the shepherd side; in recovery its cores are in reset (R489). -/
def execRegisterWrite (r : HwReg) (w : Dword) (s : State) : Host.Outcome State Fault Refusal :=
  .next (if s.boot.recovery then s else s.writeReg r w)

/-- A shepherd core's full barrier (R310, R399): its earlier stores, to memory and to control spaces, are performed in this model
in the step that makes them, so nothing is left to order (log 1). -/
def execShepherdFullBarrier (n : Nat) (s : State) : Host.Outcome State Fault Refusal := .next (if n < 16 then s else s)

/-! ## Refresh (R487, R488) -/

/-- Keys of a bank's owed refreshes and of a pseudo-channel. -/
def pcKey (ch pc : Nat) : Nat := ch % 256 * 2 + pc % 2
def bankKey (ch pc bank : Nat) : Nat := pcKey ch pc * 48 + bank % 48

/-- A bank falls due: it is refreshed, with some it owes, or postpones (log 12), as it does while all-bank refreshes run; with 8
owed, all-bank refreshes start, the first of which is issued now (R488). -/
def execBankRefreshDue (ch pc bank : Nat) (s : State) : Host.Outcome State Fault Refusal :=
  let k := bankKey ch pc bank
  let owed := tget 0 s.refresh k
  let runs := tget false s.allBank (pcKey ch pc)
  let done := if runs then 0 else s.choice 2 % (owed + 2)
  .next (if done = 0 ∧ 8 ≤ owed then ({ s with allBank := tput false s.allBank (pcKey ch pc) true } : State).count ch
      (fun c => { c with refab := wrap64 (c.refab + toBit !runs) })
    else ({ s with refresh := tput 0 s.refresh k (owed + 1 - done) } : State).count ch
      (fun c => { c with refpb := wrap64 (c.refpb + done) }))

/-- One all-bank refresh is complete: every bank owes one less, and another is issued while one owes more than 4. -/
def execAllBankRefreshDone (ch pc : Nat) (s : State) : Host.Outcome State Fault Refusal :=
  let p := pcKey ch pc
  .next (if tget false s.allBank p then
    let owed := s.refresh.map (fun (x : Nat × Nat) => if x.1 / 48 = p then (x.1, x.2 - 1) else x)
    let left := owed.filter (fun x => x.2 ≠ 0)
    let more := left.any (fun x => x.1 / 48 = p && 4 < x.2)
    ({ s with refresh := left, allBank := tput false s.allBank p more } : State).count ch
      (fun c => { c with refab := wrap64 (c.refab + toBit more), latstall := wrap64 (c.latstall + s.choice 3) })
  else s)

end Sys2Proof.Machine
end

