-- ==== Sys2Proof/Machine/Domain.lean ====
section
/-! DEFINITION. Requests to the directory home, die directories, messages, Wileg ports, the load-store domain and the
failure of fold dies (R453 to R475, R484). -/
namespace Sys2Proof.Machine
open Sys2Proof

/-! ## Requests and messages (R458 to R464, R470, R484) -/

/-- Whether a source module may make a request at a fold die (R484). -/
def State.foldAllows (s : State) (f m ln : Nat) (write : Bool) : Bool :=
  let e := (tget 0 s.foldAccess (f % 2 * 32 + m % 32)).toNat
  let set := ln / 2 ^ 32 % 256
  bits e 7 0 ≤ set && set ≤ bits e 15 8 && (if write then bit e 17 else bit e 16)

/-- Whether the channel behind a line lets another module reach it, as master 9 (R483, R484). -/
def State.channelAllows (s : State) (ln : Nat) (write : Bool) : Bool :=
  match s.access? 9 (ln * 128) { r := !write, w := write } with | .denied => false | _ => true

/-- A request that the home would take now reaches the line's channel: the home serves it neither from the shared-line store nor from a
die that holds the line; a RED takes no data (R461, R473, R484). -/
def State.toChannel (s : State) (ln kind : Nat) : Bool :=
  let x := s.fold (s.dirOf ln)
  let safe := (s.domain.home ln).2
  let fst := if safe then ((s.endEpoch ln).exactEntry ln).fst else ((x.entry ln).getD { line := ln }).fst
  s.accepts ln && kind ≠ 1 && (fst = 0 || fst = 4 || kind = 3 && fst = 1 && !safe && !x.inStore ln)

/-- A request of a core; cores 192·(1 + m) on are those of another module m, whose requests its fold access entry must
allow, and the channel that they reach. In recovery the fold dies are in reset (R489). -/
def State.request (s : State) (core ln kind : Nat) : State :=
  if s.boot.recovery then s
  else if core < numCores then s.dirRequest core ln kind
  else
    let m := core / numCores - 1
    if s.domain.peers.contains m && s.foldAllows (s.domain.home ln).1 m ln (kind ≠ 3)
        && (!s.toChannel ln kind || s.channelAllows ln (kind ≠ 3)) then s.dirRequest core ln kind
    else { s with retries := s.retries.filter (fun r => !(r.core = core && r.line = ln && r.kind = kind)) }

def execDirRead (core line : Nat) (s : State) : Host.Outcome State Fault Refusal := .next (s.request core line 3)
def execDirWrite (core line : Nat) (s : State) : Host.Outcome State Fault Refusal := .next (s.request core line 0)
def execDirRed (core line : Nat) (s : State) : Host.Outcome State Fault Refusal := .next (s.request core line 1)

/-- A refused request of a core whose backoff is over. -/
def State.retryDue (s : State) (core : Nat) : Option Retry := s.retries.find? (fun r => r.core = core && r.due ≤ s.cycle)
def execRequestRetry (core : Nat) (s : State) : Host.Outcome State Fault Refusal :=
  .next (match s.retryDue core with | some r => s.request r.core r.line r.kind | none => s)

/-- A recall whose acknowledgements and write-backs have arrived frees its entry. -/
def execRecallComplete (fold line : Nat) (s : State) : Host.Outcome State Fault Refusal := .next (s.recallDone fold line)

/-- A reservation's 4,096 cycles are over. -/
def execWayReservationExpire (fold set : Nat) (s : State) : Host.Outcome State Fault Refusal :=
  .next (s.modFold fold (fun x => { x with reserves := x.reserves.filter (fun r => !(r.set = set && r.til ≤ s.cycle)) }))

/-- An invalidation: a message on the forwarding channel that a grant or a recall waits for (R460, R468). -/
def State.isInv (s : State) (m : Msg) : Bool := m.vc = 1 && s.dirWaits.any (fun w => w.msgs.contains m.id)

/-- A die directory handles an invalidation that is on its way to it, or that a home on another module sends, which it
acknowledges over the link (R460, R468). -/
def execDieInvalidate (die line : Nat) (s : State) : Host.Outcome State Fault Refusal :=
  .next (if s.msgs.any (fun m => m.line = line && s.isInv m && s.sent m && m.dst = s.diePtr die) then s.invalidateDie die line
    else if s.dirOf line = 2 ∧ die < 8 then
      ((s.invalidateDie die line).leaveDie die line).postAbroad 2 1 (8 * ((s.domain.home line).1 / 2)) line
    else s)

/-- The entry of a line whose owner has taken a forwarded read: FST 2 from M, 1 from E (R461). -/
def State.sharedFrom (s : State) (die ln : Nat) (dirty : Bool) : State :=
  match (s.fold (s.dirOf ln)).entry ln with
  | some e => if e.fst = 3 ∧ e.own = s.diePtr die then s.modFold (s.dirOf ln) (fun x => x.putEntry { e with fst := if dirty then 2 else 1 }) else s
  | none => s

/-- The owning die takes a forwarded request: for a read M becomes O and E becomes S, for a write the line leaves; its entry follows
(R461). The data goes over the link when the home is elsewhere: to whose module, the home knows (a free choice, log 7; R468). -/
def execOwnerForward (die line : Nat) (write : Bool) (s : State) : Host.Outcome State Fault Refusal :=
  let holds := s.dieHolds die line (fun l => permits l 3)
  let t := (s.mapLine line (fun c => dieOf c = die) (fun l =>
    if l = .g then l else if write then .i else if l = .m then .o else if l = .e then .s else l)).dropX die line
  let t := if write then t.leaveDie die line else t.sharedFrom die line (s.dieHolds die line isDirty)
  let m := s.domain.peers.getD (s.choice 11 % s.domain.peers.length) ((s.domain.home line).1 / 2)
  .next (if holds ∧ s.dirOf line = 2 ∧ die < 8 then t.postAbroad 2 3 (8 * m) line else t)

def execWriteback (core line : Nat) (s : State) : Host.Outcome State Fault Refusal := .next (s.writeBack core line)

/-- A near cache's change of state is recorded: a line that leaves, an E line that is written, a line that is written
back. -/
def execDieDirectoryReport (core line : Nat) (st : LineState) (s : State) : Host.Outcome State Fault Refusal :=
  .next (if st = .i then (if s.line core line = .i then s else s.giveUp core line)
    else if st = .m then (if s.line core line = .e then s.setLine core line .m else s)
    else if st = .s then s.writeBack core line
    else s)

/-- The acknowledgement of an invalidation comes after its die has given the line up (R460). -/
def State.ackHeld (s : State) (id : Nat) : Bool :=
  s.msgs.any (fun m => m.id = id && s.isInv m && s.dieHolds (s.ptrDie m.dst) m.line (fun l => l ≠ .i))

/-- A message that its sender has not started yet cannot be acknowledged (R469). -/
def State.unsent (s : State) (id : Nat) : Bool := s.msgs.any (fun m => m.id = id && !s.sent m)

/-- An acknowledgement releases the held message and its flits (R470). -/
def execAcknowledgement (id : Nat) (s : State) : Host.Outcome State Fault Refusal :=
  .next (if s.ackHeld id || s.unsent id then s else s.acknowledge id)

/-- A held message goes again, by the route that is live now (R470, R471). -/
def State.sendAgain (s : State) (m : Msg) : State :=
  if s.leaves m then
    let (s, m) := (s.unload [m.id]).transmit { m with sent := s.cycle }
    { s with msgs := s.msgs.map (fun x => if x.id = m.id then m else x) }
  else { s with msgs := s.msgs.map (fun x => if x.id = m.id then { x with sent := s.cycle } else x) }

/-- A message without acknowledgement for 2^16 cycles goes again. -/
def execMessageResend (id : Nat) (s : State) : Host.Outcome State Fault Refusal :=
  .next (match s.msgs.find? (fun m => m.id = id) with
    | none => s
    | some m => if s.cycle < m.sent + 2 ^ 16 then s else s.sendAgain m)

/-! ## Ports (R465 to R471) -/

def portUnit (k : Nat) : HwUnit := { cls := 5, idx := k }

/-- A port retires: its traffic goes by the spare link or a relay from now on, what it carried unacknowledged too
(R471). -/
def State.retirePort (s : State) (k : Nat) : State :=
  let s := s.modPort k (fun p => { p with retired := true, replay := [] })
  (s.msgs.filter (fun m => m.port = some k)).foldl State.sendAgain s

/-- A port that fails training counts as retired (R466). -/
def State.portFails (s : State) (k : Nat) : State :=
  let s := s.retirePort k
  s.addRetired [portUnit k]

/-- A port trains with all 8 lanes and a round trip of at most 40 flit times, or counts as retired. -/
def execLinkTrain (fold port lanesUp roundTrip : Nat) (s : State) : Host.Outcome State Fault Refusal :=
  let k := portKey fold port
  .next (if s.boot.recovery then s
    else if lanesUp = 8 ∧ roundTrip ≤ 40 then s.modPort k (fun p => { p with trained := true }) else s.portFails k)

/-- Free flits of a receiver's buffer for a channel. -/
def Port.freeFlits (p : Port) (vc : Nat) : Nat := 192 - tget 0 p.free vc

/-- STOP for a channel (R469): this receiver sends it when its free space is below 64 flits; when the sign is the peer's, its
STOP arrives and no new message starts on the channel. -/
def Port.stopIf (vc : Nat) (p : Port) : Port :=
  if p.freeFlits vc < 64 ∧ !p.stopped.contains vc then { p with stopped := p.stopped ++ [vc] } else p
def execFlowStop (fold port : Nat) (sign : FlowSign) (s : State) : Host.Outcome State Fault Refusal :=
  let vc := sign.vc
  .next (if s.boot.recovery then s else s.modPort (portKey fold port) (fun p =>
    if sign.peers then { p with held := if p.held.contains vc then p.held else p.held ++ [vc] }
    else p.stopIf vc))

/-! ## The domain forms (R467) -/

/-- DOMFORM ends with a code. -/
def State.formAnswer (s : State) (code : Nat) : State := { s with boot := { s.boot with code := code, reply := [] } }

/-- No port has passed a peer. -/
def State.clearPeers (s : State) : State := { s with ports := s.ports.map (fun (p : Nat × Port) => (p.1, { p.2 with peer := none })) }

/-- Formation ends with code 4, and the module stays a domain of one. -/
def State.formFails (s : State) (k : Nat) : State :=
  let s := s.clearPeers.logEvent 0 0 0 0 (portUnit k) 8 0
  ({ s with domain := { s.domain with forming := none, size := 1, peers := [] } } : State).formAnswer 4

/-- A spare link whose peer is reached by no primary link. -/
def State.straySpare (s : State) : Option Nat :=
  ([16, 34] : List Nat).find? (fun k => (s.port k).trained && !(s.port k).retired && (s.port k).peer.any (fun p => !s.domain.peers.contains p))

/-- All M − 1 peers have passed: HT is filled with the live fold dies of the M modules in ascending order, once the failures of the domain of one are
over, and the lines that near caches hold have their entries at their new homes (R454, R459). -/
def State.formedIf (s : State) : State :=
  let d := s.domain
  if d.forming.isSome ∧ d.peers.length + 1 = d.size then
    match s.straySpare with
    | some k => s.formFails k
    | none =>
      let s := d.failed.foldl (fun s _ => s.endFailure) s
      let ms := (List.range 32).filter (fun m => m = d.module || d.peers.contains m)
      let folds := (ms.flatMap (fun m => [2 * m, 2 * m + 1])).filter (fun f => !d.failed.contains f && !d.dead.contains f)
      ({ s with domain := { s.domain with forming := none, formed := true, live := folds, ht := [] } } : State).rehome.formAnswer 0
  else s

/-- Formation starts: the number of modules and the identifier go out over every trained port. -/
def State.formStart (s : State) (m : Nat) (ident : Dword) : State :=
  let s : State := { s.clearPeers with domain := { s.domain with forming := some (s.cycle + 2 ^ 30), size := m, ident := ident, peers := [] } }
  (((List.range 36).filter (fun k => (s.port k).trained && !(s.port k).retired)).foldl (fun s k => s.postOn k (s.diePtr 0)) s).formedIf

/-- What a peer reports passes; whether a spare's peer is also reached by a primary link is judged at the end. -/
def Domain.peerOk (d : Domain) (fold port peer m : Nat) (ident : Dword) : Bool :=
  m = d.size && ident = d.ident && peer < m && d.module < m && peer ≠ d.module
    && (port = 16 || port < 16 && peer % 2 = fold && peer / 2 = port)

/-- A peer's report at a port; the fold bridge, port 17, leads to no other module. One that comes when M − 1 peers have passed by other ports has its link carry traffic if it passes;
otherwise the log has EVENT 8 and the domain stays (DESIGN CHOICE, log 33). -/
def execDomformMessage (fold port peer peerFold m : Nat) (ident : Dword) (s : State) : Host.Outcome State Fault Refusal :=
  let k := portKey fold port
  let d := s.domain
  let ok := d.peerOk fold port peer m ident
  .next (if port = 17 ∨ !(s.port k).trained ∨ (s.port k).retired ∨ s.boot.recovery then s
    else
      let t := s.modPort k (fun p => { p with peer := some peer, peerFold := peerFold })
      if d.forming.isSome then
        if !ok then s.formFails k
        else ({ t with domain := { d with peers := if port = 16 ∨ d.peers.contains peer then d.peers else d.peers ++ [peer] } } : State).formedIf
      else if !d.formed ∨ (s.port k).peer.isSome then s
      else if ok ∧ d.peers.contains peer then t
      else s.logEvent 0 0 0 0 (portUnit k) 8 0)

/-- The port that a timeout names: the first trained one, no fold bridge, that has passed no peer, else the primary one of the first module that has
not passed. -/
def State.silentPort (s : State) : Nat :=
  let d := s.domain
  match (List.range 36).find? (fun k => k % 18 ≠ 17 && (s.port k).trained && !(s.port k).retired && (s.port k).peer.isNone) with
  | some k => k
  | none =>
    let m := ((List.range d.size).find? (fun m => m ≠ d.module && !d.peers.contains m)).getD 0
    portKey m (m / 2)
def State.formLate (s : State) : Bool := match s.domain.forming with | some t => t ≤ s.cycle | none => false
def execDomformTimeout (s : State) : Host.Outcome State Fault Refusal := .next (if s.formLate then s.formFails s.silentPort else s)

/-! ## A fold die fails (R472 to R475) -/

/-- This module leaves the domain: every grid ends KILLED, and none is admitted. -/
def State.isolate (s : State) : State :=
  let s := { s with domain := { s.domain with isolated := true } }
  (s.grids.map Prod.fst).foldl (fun s g => s.endGrid g 5) s

/-- Another module leaves the domain: its memory is lost, and lines of it are discarded elsewhere, a dirty one with an entry in the
log. What its cores held or asked is gone, also from entries, and no message for it waits any more (R461, R475). -/
def State.loseModule (s : State) (m f : Nat) : State :=
  let mine := fun (ln : Nat) => lineModule ln = m
  let its := fun (c : Nat) => numCores ≤ c && c / numCores - 1 = m
  let dirty := (s.cores.filter (fun c => !its c.1)).flatMap (fun c => c.2.lines.filter (fun l => mine l.1 && isDirty l.2))
  let left := (s.cores.filter (fun c => its c.1)).flatMap (fun c => (c.2.lines.filter (fun l => !mine l.1)).map (fun l => (dieOf c.1, l.1)))
  let gone := s.dirWaits.filter (fun w => mine w.line || (its w.core && w.kind ≠ 2))
  let s := dirty.foldl (fun s _ => s.foldStep f 5) s
  let s : State := { s.forget (gone.flatMap DirWait.msgs) with
    domain := { s.domain with lost := s.domain.lost ++ [m], peers := s.domain.peers.filter (· ≠ m) }
    dirWaits := s.dirWaits.filter (fun w => !gone.contains w)
    retries := s.retries.filter (fun r => !mine r.line && !its r.core)
    xdies := s.xdies.filter (fun x => !mine x.1)
    folds := s.folds.map (fun (x : Nat × Fold) => (x.1, { x.2 with entries := x.2.entries.filter (fun e => !mine e.line)
                                                                   store := x.2.store.filter (fun l => !mine l) }))
    cores := (s.cores.filter (fun c => !its c.1)).map (fun (c : Nat × Core) =>
      (c.1, { c.2 with lines := c.2.lines.filter (fun l => !mine l.1), partials := c.2.partials.filter (fun p => !mine (p.1 / 32)) })) }
  let s := left.foldl (fun s x => s.leaveDie x.1 x.2) s
  let s := ((gone.map DirWait.line).filter (fun ln => !mine ln)).foldl State.regain s
  (s.msgs.filter (fun x => x.dst / 8 = m)).foldl (fun s x => s.acknowledge x.id) s

/-- A failed fold die has lost its directory and store; what it had accepted is asked again, and served from the start (R473). Of a die
on another module the entries of this module's dies are lost. -/
def State.foldGone (s : State) (f : Nat) : State :=
  let at_ := fun (ln : Nat) => (s.domain.home ln).1 = f
  let gone := s.dirWaits.filter (fun w => at_ w.line)
  let again := (gone.filter (fun w => w.kind ≠ 2)).map (fun w => ({ core := w.core, line := w.line, kind := w.kind, refusals := 0, due := s.cycle } : Retry))
  let t := s.forget (gone.flatMap DirWait.msgs)
  ({ t with dirWaits := s.dirWaits.filter (fun w => !at_ w.line), retries := s.retries ++ again } : State).modFold (s.foldIx f) (fun x =>
    if f / 2 = s.domain.module then {}
    else { x with entries := x.entries.filter (fun e => !at_ e.line), store := x.store.filter (fun ln => !at_ ln) })

/-- A fold die of the domain fails; of a module that is not in it, that is known when a domain forms with it (R467). With both of a module's gone, the module leaves the domain; accesses to its memory that were on their
way are performed first (R475). -/
def State.foldFails (s : State) (f : Nat) : State :=
  let d := s.domain
  if d.failed.contains f then s
  else if !d.live.contains f then
    (if f < 64 ∧ f / 2 ≠ d.module ∧ !d.formed ∧ !d.dead.contains f then { s with domain := { d with dead := d.dead ++ [f] } } else s)
  else
    let s := if s.domain.failed.contains (f ^^^ 1) then s.drainAll else s
    let s := s.foldGone f
    let s := { s with domain := { s.domain with failed := s.domain.failed ++ [f] } }
    let s := if s.domain.failed.contains (f ^^^ 1) then
        (if f / 2 = s.domain.module then s.isolate else s.loseModule (f / 2) f).foldStep f 5
      else s
    s.beginFailure

def execFoldDieFailure (fold : Nat) (s : State) : Host.Outcome State Fault Refusal := .next (s.foldFails fold)
/-- No answer over the fold bridge for 2^16 cycles: the other fold die of this module has failed. -/
def execFoldBridgeTimeout (fold : Nat) (s : State) : Host.Outcome State Fault Refusal :=
  .next (s.foldFails (2 * s.domain.module + fold % 2))

/-- Step 3: every die has reported, and the partner has exact entries for the SAFE slots. In recovery the fold dies are in reset (R489). -/
def execFoldRebuildComplete (s : State) : Host.Outcome State Fault Refusal :=
  .next (match s.domain.safeOf with | none => s | some f => if s.boot.recovery then s else s.rebuild f)

/-- The set that the rehash moves next: of the lowest slot that names the failed die, the first that has not moved. -/
def Domain.nextSet (d : Domain) : Option Nat := match d.safeOf with
  | some f => if d.rebuilt ∧ d.rest ≠ [] then (d.slotOf f).map (fun i => 64 * i + min d.moved 63) else none
  | none => none

/-- Step 4, set by set: the set that moves next is frozen, then its entries stand at their new home (R464, R472). After its last
set a slot takes its new fold die (DEDUCED, log 32). In recovery the fold dies are in reset (R489). -/
def execFoldRehashSet (set : Nat) (s : State) : Host.Outcome State Fault Refusal :=
  .next (if s.domain.nextSet ≠ some set ∨ s.boot.recovery then s
    else if 64 ≤ s.domain.moved ∨ s.domain.frozen = some set then
      let s := s.thaw
      if s.domain.moved < 64 then s else s.slotMoved (s.domain.safeOf.getD 0) (set / 64)
    else { s with domain := { s.domain with frozen := some set } })

end Sys2Proof.Machine
end

