-- ==== Sys2Proof/Machine/Scalar.lean ====
section
/-! DEFINITION. The scalar integer instructions (R137 to R143). -/
namespace Sys2Proof.Machine
open Sys2Proof

/-- What a scalar instruction computes: its result, and whether DZ is set (R142). -/
structure SRes where
  v : Dword
  dz : Bool := false
  deriving DecidableEq, Repr

/-- The shared effect of a scalar instruction: sD written once per issue, s0 discarded (R137). -/
def scalarBody (o : SOps) (f : Group → SRes) : Body :=
  uniform (fun g => let r := f g; (g.setS o.d r.v).raise (if r.dz then fDZ else 0))

/-! ## Operations (R139 to R143) -/

def mulHigh (u : Bool) (a b : Dword) : Dword :=
  if u then BitVec.ofNat 64 (a.toNat * b.toNat / 2 ^ 64) else BitVec.ofInt 64 (a.toInt * b.toInt / 2 ^ 64)

/-- Truncating division (R142). -/
def divS (u : Bool) (a b : Dword) : SRes :=
  if b = 0 then ⟨0, a ≠ 0⟩ else if u then ⟨a / b, false⟩ else ⟨BitVec.ofInt 64 (a.toInt.tdiv b.toInt), false⟩
def remS (u : Bool) (a b : Dword) : SRes :=
  if b = 0 then ⟨a, a ≠ 0⟩ else if u then ⟨a % b, false⟩ else ⟨BitVec.ofInt 64 (a.toInt.tmod b.toInt), false⟩

def lessS (u : Bool) (a b : Dword) : Bool := if u then a.ult b else a.slt b

/-- The condition of SCMP, coded as in R118 (R141). -/
def condS (cc : Nat) (u : Bool) (a b : Dword) : Bool :=
  if cc = 0 then a = b else if cc = 1 then a ≠ b else if cc = 2 then lessS u a b else if cc = 3 then !lessS u b a
  else if cc = 4 then lessS u b a else !lessS u a b

def clz64 (a : Dword) : Nat := if a = 0 then 64 else 63 - Nat.log2 a.toNat

/-- Position and effective width of SBFX and SBFI (R143). -/
def fieldSpec (b : Dword) : Nat × Nat :=
  let p := bits b.toNat 5 0
  (p, min (bits b.toNat 12 6) (64 - p))

def extractField (u : Bool) (a b : Dword) : Dword :=
  let (p, w) := fieldSpec b
  let v := a.toNat / 2 ^ p % 2 ^ w
  if w = 0 then 0 else if u then BitVec.ofNat 64 v else BitVec.ofInt 64 (signed w v)

def insertField (d a b : Dword) : Dword :=
  let (p, w) := fieldSpec b
  let m := BitVec.ofNat 64 ((2 ^ w - 1) * 2 ^ p)
  (d &&& ~~~m) ||| (BitVec.ofNat 64 (a.toNat * 2 ^ p) &&& m)

/-- The effect of each scalar code, from A, B and the old D (R139 to R143). -/
def scalarFn (maj min : Nat) (u : Bool) (d a b : Dword) : SRes :=
  let k := b.toNat % 64
  match maj, min with
  | 0, 0 => ⟨a + b, false⟩
  | 0, 1 => ⟨a - b, false⟩
  | 0, 2 => ⟨a * b, false⟩
  | 0, 3 => ⟨mulHigh u a b, false⟩
  | 0, 4 => divS u a b
  | 0, 5 => remS u a b
  | 0, 6 => ⟨if lessS u b a then b else a, false⟩
  | 0, 7 => ⟨if lessS u a b then b else a, false⟩
  | 0, 8 => ⟨a &&& b, false⟩
  | 0, 9 => ⟨a ||| b, false⟩
  | 0, 10 => ⟨a ^^^ b, false⟩
  | 0, 11 => ⟨a &&& ~~~b, false⟩
  | 0, 12 => ⟨a <<< k, false⟩
  | 0, 13 => ⟨a >>> k, false⟩
  | 0, 14 => ⟨a.sshiftRight k, false⟩
  | 0, 15 => ⟨a.rotateLeft k, false⟩
  | 1, 0 => ⟨b, false⟩
  | 1, 1 => ⟨b, false⟩
  | 1, 2 => ⟨BitVec.ofNat 64 (clz64 a), false⟩
  | 1, 3 => ⟨BitVec.ofNat 64 (popMask a), false⟩
  | 1, 4 => ⟨extractField u a b, false⟩
  | 1, 5 => ⟨insertField d a b, false⟩
  | 1, 6 => ⟨if d ≠ 0 then a else b, false⟩
  | 2, cc => ⟨if condS cc u a b then 1 else 0, false⟩
  | _, _ => ⟨d, false⟩

/-- The body of a scalar form. -/
def scBody (maj min : Nat) (o : SOps) : Body :=
  scalarBody o (fun g => scalarFn maj min o.u (g.sreg o.d) (opA g o) (opB g o))

/-! ## The meanings -/

/-- Issue a scalar form: no guard, one step of the group (R137). -/
def execScalar (i : Instr) (maj min : Nat) (o : SOps) (s : State) : Host.Outcome State Fault Refusal :=
  .next (runIssue i State.performReqs (s.issueOf (wordsOf i)) (scBody maj min o) s)

def execSadd (o : SOps) (s : State) : Host.Outcome State Fault Refusal := execScalar (.sadd o) 0 0 o s
def execSsub (o : SOps) (s : State) : Host.Outcome State Fault Refusal := execScalar (.ssub o) 0 1 o s
def execSmul (o : SOps) (s : State) : Host.Outcome State Fault Refusal := execScalar (.smul o) 0 2 o s
def execSmulh (o : SOps) (s : State) : Host.Outcome State Fault Refusal := execScalar (.smulh o) 0 3 o s
def execSdiv (o : SOps) (s : State) : Host.Outcome State Fault Refusal := execScalar (.sdiv o) 0 4 o s
def execSrem (o : SOps) (s : State) : Host.Outcome State Fault Refusal := execScalar (.srem o) 0 5 o s
def execSmin (o : SOps) (s : State) : Host.Outcome State Fault Refusal := execScalar (.smin o) 0 6 o s
def execSmax (o : SOps) (s : State) : Host.Outcome State Fault Refusal := execScalar (.smax o) 0 7 o s
def execSand (o : SOps) (s : State) : Host.Outcome State Fault Refusal := execScalar (.sand o) 0 8 o s
def execSor (o : SOps) (s : State) : Host.Outcome State Fault Refusal := execScalar (.sor o) 0 9 o s
def execSxor (o : SOps) (s : State) : Host.Outcome State Fault Refusal := execScalar (.sxor o) 0 10 o s
def execSandn (o : SOps) (s : State) : Host.Outcome State Fault Refusal := execScalar (.sandn o) 0 11 o s
def execSshl (o : SOps) (s : State) : Host.Outcome State Fault Refusal := execScalar (.sshl o) 0 12 o s
def execSshr (o : SOps) (s : State) : Host.Outcome State Fault Refusal := execScalar (.sshr o) 0 13 o s
def execSsra (o : SOps) (s : State) : Host.Outcome State Fault Refusal := execScalar (.ssra o) 0 14 o s
def execSrol (o : SOps) (s : State) : Host.Outcome State Fault Refusal := execScalar (.srol o) 0 15 o s
def execSmov (o : SOps) (s : State) : Host.Outcome State Fault Refusal := execScalar (.smov o) 1 0 o s
def execSli (o : SOps) (s : State) : Host.Outcome State Fault Refusal := execScalar (.sli o) 1 1 o s
def execSclz (o : SOps) (s : State) : Host.Outcome State Fault Refusal := execScalar (.sclz o) 1 2 o s
def execSpop (o : SOps) (s : State) : Host.Outcome State Fault Refusal := execScalar (.spop o) 1 3 o s
def execSbfx (o : SOps) (s : State) : Host.Outcome State Fault Refusal := execScalar (.sbfx o) 1 4 o s
def execSbfi (o : SOps) (s : State) : Host.Outcome State Fault Refusal := execScalar (.sbfi o) 1 5 o s
def execSsel (o : SOps) (s : State) : Host.Outcome State Fault Refusal := execScalar (.ssel o) 1 6 o s
def execScmp (cc : Nat) (o : SOps) (s : State) : Host.Outcome State Fault Refusal := execScalar (.scmp cc o) 2 cc o s

end Sys2Proof.Machine
end

