-- ==== Sys2Proof/Machine/Iter.lean ====
section
/-! DEFINITION. Iterators, sweeps and the repeat word (R129 to R132, R199 to R203). -/
namespace Sys2Proof.Machine
open Sys2Proof

/-! ## The body of an instruction word that can be repeated or swept -/

def laneDataBody (min : Nat) (o : VOps) : Body :=
  if min = 0 then bcastBody o else if min = 1 then extrBody o else laneBody o

def moveBody (min : Nat) (o : VOps) : Body :=
  let form := o.bf / 256 % 4
  if min = 0 then cvtBody o else if min = 1 then vtagBody o
  else if min = 2 then (if form = 1 then findBody o else applyBody o)
  else if form = 0 then zpPackBody o else zpExtrBody o

def crossBody (min : Nat) (o : VOps) : Body :=
  if min < 3 then xlaneBody min o else if min = 3 then shufBody o else if min < 6 then treeBody (min = 5) o
  else if min = 6 then ballotBody o else topkBody o

def statBody (min : Nat) (o : VOps) : Body :=
  if min = 1 then rmaxBody o else if min = 2 then normBody o
  else if o.d % 4 = 0 then statAccBody o else if o.d % 4 = 1 then statRdBody o else statClrBody o

/-- ITSET: the record's four words (R200). -/
def itsetBody (o : VOps) : Body :=
  uniform (fun g => g.setIt o.d ⟨g.sreg o.a, g.sreg (o.a + 1), g.sreg (o.a + 2), g.sreg (o.a + 3)⟩)
def IterRec.word (r : IterRec) (w : Nat) : Dword := if w = 0 then r.w0 else if w = 1 then r.w1 else if w = 2 then r.w2 else r.w3
/-- ITRD: a word of a record (R200), its reserved bits as ITSET wrote them (DESIGN CHOICE, log 71). -/
def itrdBody (o : VOps) : Body := perIssue (fun g => g.setS o.d ((g.iter o.a).word o.b))

/-- Formats A and I of majors 0x08 to 0x1D. -/
def vecBody (maj min : Nat) (o : VOps) : Body :=
  if maj ≤ 0x09 then intBody maj min o
  else if maj = 0x0A then logicBody min o
  else if maj ≤ 0x0C then cmpBody (maj = 0x0B) min o
  else if maj = 0x0D then laneDataBody min o
  else if maj ≤ 0x12 then (if min = 7 then classBody (maj - 0x0F) o else fltBody (maj - 0x0F) min o)
  else if maj = 0x13 then fcmpBody min o
  else if maj ≤ 0x15 then sfuBody (8 * (maj - 0x14) + min) o
  else if maj = 0x16 then moveBody min o
  else if maj = 0x18 then crossBody min o
  else if maj = 0x19 then statBody min o
  else if maj = 0x1C then fuseBody o
  else if min = 0 then itsetBody o else itrdBody o

def memBody (maj : Nat) (o : MOps) : Body :=
  if maj = 0x20 then ldBody o
  else if maj = 0x21 then stForm o
  else if maj = 0x22 then scratchBody o false true
  else if maj = 0x23 then (if stCompares o then comparePoint (scratchBody o false false) else scratchBody o false false)
  else fun iss s => (if xCompares o (maj = 0x24) s then comparePoint (scratchBody o true (maj = 0x24)) else scratchBody o true (maj = 0x24)) iss s

def atmBody (maj : Nat) (o : AOps) : Body :=
  if maj = 0x2A then comparesAfter (redBody o) else comparePoint (amoBody o (maj = 0x29))

def formBody : Form → Body
  | .sc maj min o => scBody maj min o
  | .vec maj min o => vecBody maj min o
  | .mem maj o => memBody maj o
  | .atm maj o => atmBody maj o
  | _ => fun _ s => .skip s

/-! ## Stepping register fields (R124, R129, R130) -/

/-- The registers that D, A, B and C (or O for A) name: each with its class and run. -/
def stepFields : Form → List (Nat × FRule × Nat)
  | .sc maj min o =>
    [(0, .sca 1, o.d)] ++ (if maj = 1 ∧ (min = 0 ∨ min = 1) then [] else [(1, .sca 1, o.a)])
      ++ (if o.bi ∨ o.lit.isSome ∨ maj = 1 ∧ (min = 2 ∨ min = 3) then [] else [(2, .sca 1, o.b)])
  | .vec maj min o | .sweep _ maj min o =>
    match vecRow maj min o with
    | some r =>
      [(0, if maj = 0x13 then .msk else r.d, if maj = 0x13 then o.d % 16 else o.d), (1, r.a, o.a)]
        ++ (if o.lit.isSome then [] else [(2, r.b, o.b)]) ++ [(3, r.c, o.c)]
    | none => []
  | .mem _ o => [(0, if o.ds then .sca 1 else .vec 1, o.d), (1, if o.ov then .vec 1 else .sca 1, o.off)]
  | .atm maj o =>
    (if maj = 0x2A then [] else [(0, .vec 1, o.d)]) ++ [(1, if o.ov then .vec 1 else .sca 1, o.off), (2, .vec 1, o.b)]
      ++ (if maj = 0x29 then [(3, .vec 1, o.c)] else [])
  | _ => []

def namesRegister : FRule → Bool
  | .vec _ | .sca _ | .msk | .itr => true
  | _ => false

def stepNat (n : Nat) (d : Int) : Nat := (n + d).toNat

/-- A step of field k of a format A or I form: codes that stand where another form has a register do not step (R201). -/
def stepOf (maj min : Nat) (o : VOps) (k : Nat) (d : Int) : Int :=
  if (stepFields (.vec maj min o)).any (fun x => x.1 = k && namesRegister x.2.1) then d else 0

/-- The operands of such a form with its register fields moved. -/
def stepOps (maj min : Nat) (d a b c : Int) (o : VOps) : VOps :=
  { o with d := stepNat o.d (stepOf maj min o 0 d), a := stepNat o.a (stepOf maj min o 1 a)
           b := stepNat o.b (stepOf maj min o 2 b), c := stepNat o.c (stepOf maj min o 3 c) }

/-- A form with the registers of D, A, B and C moved by some steps. -/
def stepForm (d a b c : Int) : Form → Form
  | .sc maj min o => .sc maj min { o with d := stepNat o.d d, a := stepNat o.a a, b := stepNat o.b b }
  | .vec maj min o => .vec maj min (stepOps maj min d a b c o)
  | .sweep n maj min o => .sweep n maj min (stepOps maj min d a b c o)
  | .mem maj o => .mem maj { o with d := stepNat o.d d, off := stepNat o.off a }
  | .atm maj o => .atm maj { o with d := stepNat o.d d, off := stepNat o.off a, b := stepNat o.b b, c := stepNat o.c c }
  | f => f

/-! ## REP -/

/-- The majors that REP takes (R130). -/
def repMajor (maj : Nat) : Bool :=
  maj ≤ 0x02 || (0x08 ≤ maj && maj ≤ 0x19) || maj = 0x1C || maj = 0x1D || (0x20 ≤ maj && maj ≤ 0x25)
    || (0x28 ≤ maj && maj ≤ 0x2A)

def formMajor : Form → Nat
  | .sc maj _ _ => maj | .br _ _ => 0x04 | .vec maj _ _ => maj | .sweep _ _ _ _ => 0x1E | .mem maj _ => maj
  | .atm maj _ => maj | .q maj _ _ => maj | .priv _ _ => 0x3D | .rep _ _ _ => 0x3E

/-- Every selected field names a register, and every stepped number meets R124 (R130). -/
def repLegal (regs cnt str sel : Nat) (f : Form) : Bool :=
  sel ≠ 0 && repMajor (formMajor f) &&
  (List.range 4).all fun k =>
    if bit sel k then
      match (stepFields f).find? (fun x => x.1 = k && namesRegister x.2.1) with
      | some (_, r, n) => r.causes regs (n + cnt * (str + 1)) = []
      | none => false
    else true

/-- The form that some words of a target show, the words that are missing read as 0. -/
def targetForm (ws : List Nat) : Form :=
  let w := ws.headD 0
  (decForm (bits w 7 2) (splitWords (w % 4) ws)).1

/-- The cause when the words after REP are no instruction, and whether it lies in the target: the target's own, unless that
is 0x07, words that the code lacks, and the words that stand there show that REP is not legal, 0x06 (R130). -/
def repCause (regs cnt str sel : Nat) (ws : List Nat) (c : Nat) : Nat × Bool :=
  if 6 < c ∧ (ws.isEmpty ∨ !repLegal regs cnt str sel (targetForm ws)) then (6, false) else (c, true)

/-- ILLEGAL_INSTRUCTION or a failed fetch: every thread of the issue set, together (R134). -/
def illegalBody (x : Trap) : Body := fun iss s => { s := s, raised := together iss.set x }

/-- The target in iteration j: its selected fields moved by j·(STR + 1) (R129, R131). -/
def repForm (str sel j : Nat) (f : Form) : Form :=
  let k : Int := j * (str + 1)
  let by_ := fun b : Nat => if bit sel b then k else 0
  stepForm (by_ 0) (by_ 1) (by_ 2) (by_ 3) f

/-- One iteration (R131): the target with its fields stepped; the record of a trap names the target (R132). -/
def repRun (cnt str sel : Nat) (f : Form) (n : Nat) (s : State) : State :=
  let iss := s.issueOf 1
  let j := tget 0 s.group.repcnt (lowLane iss.set)
  let g := repForm str sel j f
  match g.instr with
  | some i =>
    runIssue i State.performReqs
      { iss with
        first := j = 0, recPc := some (iss.pc + 4)
        next := if j < cnt then iss.pc else iss.pc + 4 + 4 * n, nextRep := if j < cnt then j + 1 else 0 } (formBody g) s
  | none => s

def repStop (cnt str sel : Nat) (recPc : Nat) (x : Trap) (s : State) : State :=
  runIssue (.rep cnt str sel) State.performReqs { (s.issueOf 1) with recPc := some recPc } (illegalBody x) s

/-- REP with the instruction behind it (R130, R131). -/
def repStep (cnt str sel : Nat) (s : State) : State :=
  let pc := s.group.issuePc
  match s.instrAt (pc + 4) with
  | (s, .fault sub va) => repStop cnt str sel (pc + 4) { code := 0x0B, sub := sub, va := va } s
  | (s, .illegal c _) =>
    let ws := match (s.fetchAt (pc + 4)).2 with | .words ws => ws | _ => []
    let (c, target) := repCause s.regalloc cnt str sel ws c
    repStop cnt str sel (if target then pc + 4 else pc) { code := 1, sub := c } s
  | (s, .ok t n) =>
    match t.form with
    | some f =>
      if repLegal s.regalloc cnt str sel f then repRun cnt str sel f n s
      else repStop cnt str sel pc { code := 1, sub := 6 } s
    | none => repStop cnt str sel pc { code := 1, sub := 6 } s

/-- The subcode of a target that lies behind a REP word at the issue program counter (R130). -/
def State.repTarget (s : State) : Option Nat :=
  let pc := s.group.issuePc
  match (s.fetchWords 1 pc).2 with
  | .words (w :: _) =>
    if bits w 7 2 ≠ 0x3E then none
    else match (s.instrAt (pc + 4)).2 with | .illegal c _ => some c | _ => none
  | _ => none

/-! ## SWEEP -/

/-- Extents minus 1 and counters, dimension 0 first. -/
def IterRec.ext (r : IterRec) (k : Nat) : Nat := bits r.w0.toNat (39 + 8 * k) (32 + 8 * k)
def IterRec.cnt (r : IterRec) (k : Nat) : Nat := bits r.w0.toNat (7 + 8 * k) (8 * k)
/-- The stride of field f (0 to 3 for D, A, B, C) in dimension k. -/
def IterRec.stride (r : IterRec) (f k : Nat) : Int :=
  let w := if f < 2 then r.w1 else r.w2
  let lo := 32 * (f % 2) + 8 * k
  signed 8 (bits w.toNat (lo + 7) lo)

/-- Whether a field steps: not D's sources held by BC, nor a literal (R201). -/
def IterRec.steps (r : IterRec) (o : VOps) (f : Nat) : Bool :=
  f = 0 || (!bit r.w3.toNat (f - 1) && !(f = 2 && o.lit.isSome))

def sumDims (f : Nat → Int) : Int := f 0 + f 1 + f 2 + f 3

/-- A field's step at the current tuple. -/
def IterRec.offset (r : IterRec) (o : VOps) (f : Nat) : Int :=
  if r.steps o f then sumDims (fun k => r.cnt k * r.stride f k) else 0

/-- Lowest and highest step of a field over the tuples that remain. The tuples after the current one that first
differ from it in dimension j form a box. -/
def IterRec.span (r : IterRec) (f : Nat) : List (Int × Int) :=
  (List.range 4).filterMap fun j =>
    if j ≠ 0 ∧ r.ext j ≤ r.cnt j then none
    else
      let lo := fun k => if k < j then 0 else if k = j ∧ j ≠ 0 then r.cnt k + 1 else r.cnt k
      let hi := fun k => if k ≤ j then r.ext k else r.cnt k
      let x := fun k => (lo k : Int) * r.stride f k
      let y := fun k => (hi k : Int) * r.stride f k
      some (sumDims (fun k => min (x k) (y k)), sumDims (fun k => max (x k) (y k)))

/-- R202: the record and every register that the remaining tuples reach. -/
def sweepLegal (r : IterRec) (regs maj min : Nat) (o : VOps) : Bool :=
  (List.range 4).all (fun k => r.cnt k ≤ r.ext k) && bits r.w3.toNat 63 13 = 0 && bits r.w3.toNat 7 3 = 0
    && (maj ≠ 0x1C || (bits r.w3.toNat 10 8 < 5 && bits r.w3.toNat 12 11 ≠ 3))
    && (stepFields (.vec maj min o)).all fun x =>
      !namesRegister x.2.1 || !r.steps o x.1 ||
      (r.span x.1).all (fun b => 0 ≤ x.2.2 + b.1 && x.2.1.causes regs (x.2.2 + b.2).toNat = [])

/-- The record after one tuple, and whether that was the last (R201). -/
def IterRec.next (r : IterRec) : IterRec × Bool :=
  let go := fun (acc : Bool × Nat) (k : Nat) =>
    if !acc.1 then (false, acc.2 + r.cnt k * 2 ^ (8 * k))
    else if r.ext k < r.cnt k + 1 then (true, acc.2) else (false, acc.2 + (r.cnt k + 1) * 2 ^ (8 * k))
  let (last, low) := (List.range 4).foldl go (true, 0)
  ({ r with w0 := BitVec.ofNat 64 (r.w0.toNat / 2 ^ 32 * 2 ^ 32 + low) }, last)

/-- One iteration: a trap leaves the counters, and the threads that go on at this tuple (R201, R202). -/
def sweepBody (itn : Nat) (gd : Guard) (inner : Body) : Body := fun iss s =>
  let all := guardSet s.group iss.set gd
  let r := inner iss s
  if r.stay then r
  else if iss.p ≠ all ∨ r.raised.mask ≠ 0 then { r with moves := [(iss.set, iss.pc)] }
  else
    let (rec, last) := (r.s.group.iter itn).next
    { r with s := r.s.modGroup (Group.setIt itn rec), moves := if last then [] else [(iss.set, iss.pc)] }

/-- The form that a sweep performs at the current tuple. -/
def IterRec.form (r : IterRec) (maj min : Nat) (o : VOps) : Form :=
  stepForm (r.offset o 0) (r.offset o 1) (r.offset o 2) (r.offset o 3) (.vec maj min o)

/-- The instruction that the current group's issue of i performs: a repeat's target or a sweep's inner instruction with the
registers that it reaches now. -/
def State.performs (s : State) (i : Instr) : Instr :=
  let g := s.group
  match i with
  | .rep _ str sel =>
    (match (s.instrAt (g.issuePc + 4)).2 with
      | .ok t _ => (t.form.bind (fun f => (repForm str sel (tget 0 g.repcnt (lowLane g.issueSet)) f).instr)).getD i
      | _ => i)
  | .sweep itn inner =>
    (match inner.vecForm with
      | some (maj, min, o) => ((g.iter itn).form maj min o).instr.getD i
      | none => i)
  | _ => i

/-- A sweep's issue at the current tuple. -/
def sweepStep (itn : Nat) (inner : Instr) (s : State) : State :=
  let i := Instr.sweep itn inner
  let iss := s.issueOf (wordsOf i)
  match inner.vecForm with
  | some (maj, min, o) =>
    let r := s.group.iter itn
    if sweepLegal r s.regalloc maj min o then
      match r.form maj min o with
      | .vec _ _ o =>
        let body := if maj = 0x1C then fuseWith (bits r.w3.toNat 10 8) (bits r.w3.toNat 12 11) o else vecBody maj min o
        runIssue ((vecInstr maj min o).getD i) State.performReqs iss (sweepBody itn o.g body) s
      | _ => s
    else runIssue (.illegalInstruction 5) State.performReqs iss (illegalBody { code := 1, sub := 5 }) s
  | none => s

def execRep (cnt str sel : Nat) (s : State) : Host.Outcome State Fault Refusal :=
  .next ((repStep cnt str sel s).mirror (s.performs (.rep cnt str sel)) s)
def execSweep (itn : Nat) (inner : Instr) (s : State) : Host.Outcome State Fault Refusal := .next (sweepStep itn inner s)

def execItset (o : VOps) (s : State) : Host.Outcome State Fault Refusal := execWord (.itset o) (itsetBody o) s
def execItrd (o : VOps) (s : State) : Host.Outcome State Fault Refusal := execWord (.itrd o) (itrdBody o) s

end Sys2Proof.Machine
end

