-- ==== Sys2Proof/Machine/Events.lean ====
section
/-! DEFINITION. What happens to groups between issues: swaps (R36 to R39), waits that end (R152, R155, R235, R350),
results and requests that arrive (R211, R216, R220, R486); the issue of what is no instruction (R134, R408). -/
namespace Sys2Proof.Machine
open Sys2Proof

/-! ## Order of issue (R35) -/

/-- Oldest most recent issue first, a group that has not issued as oldest, ties to the lower GRPID. -/
def Team.olderThan (t : Team) (a b : Nat) : Bool :=
  let key := fun g => match (t.group g).lastIssue with | none => 0 | some n => n + 1
  key a < key b || (key a = key b && a < b)

def insertBy {α : Type} (lt : α → α → Bool) (x : α) : List α → List α
  | [] => [x]
  | y :: r => if lt x y then x :: y :: r else y :: insertBy lt x r

/-- Active groups in the order in which a slot tries them. -/
def Team.issueOrder (t : Team) : List Nat := t.active.foldl (fun l g => insertBy t.olderThan g l) []

/-- A group that has a thread to issue: eligible, and not at a comparison that has still to be made (R446). -/
def Team.ready (t : Team) (g : Nat) : Bool :=
  (t.group g).eligible ≠ 0 && !t.atCompare.contains 16 && (!t.atCompare.contains g || t.passed = some g)

/-- A group may issue: it has a thread to issue, and its copy does not wait, but for the step whose comparison has matched. -/
def State.groupReady (s : State) (c : Nat) (t : Team) (g : Nat) : Bool := t.ready g && (!s.copyWaits c || t.passed = some g)

/-! ## What an issue waits for (R30, R125, R242) -/

/-- The instruction that the current group issues next, its registers as this issue reaches them. -/
def State.nextInstr (s : State) : Option Instr :=
  match (s.instrAt s.group.issuePc).2 with
  | .ok i _ => some (s.performs i)
  | _ => none

/-- The threads of the next issue that break a promise (R127). -/
def State.violators (s : State) (i : Instr) : Dword := s.group.violators i s.group.issueSet

/-- The threads that perform an instruction of the current group, the violators of a promise left out (R31, R127). -/
def State.performers (s : State) (i : Instr) : Dword :=
  guardSet s.group s.group.issueSet (guardOf i) &&& ~~~s.violators i

/-- The outstanding results that it waits for (R125). -/
def State.waitsFor (s : State) (i : Instr) : List Outstanding :=
  if !acts i (s.performers i) (s.violators i) then [] else s.group.outstanding.filter (Outstanding.hits (namesOf i ++ hiddenOf i))

/-- Instructions that start an operation. -/
def startsOp (i : Instr) : Bool :=
  match i.qForm with
  | some (maj, qop, _) => maj = 0x30 && qop < 5 || maj = 0x34 || maj = 0x38 || maj = 0x3A && qop = 3 || maj = 0x3B
  | none => false
def isCorr (i : Instr) : Bool := match i with | .mxdelta _ | .mxsolve _ => true | _ => false

/-- Whether it waits for its queue, for its array, or for the operations before it (R242, R380). -/
def State.engineWaits (s : State) (i : Instr) : Bool :=
  startsOp i && !s.isSvc && s.performers i ≠ 0 && (s.mustWait (inMatrixOrder i) || isCorr i && corrWait (optOf i) s)

/-- A load, AMO, CAS or GLAUNCH waits until its group's stores to control spaces have taken effect (R294, R300). -/
def State.regWaits (s : State) (i : Instr) : Bool :=
  (match i with | .ld _ | .amo _ | .cas _ | .glaunch _ => true | _ => false)
    && s.stores.any (fun r => r.core = s.core && r.grp = s.grp && s.isReg r.kind.span.1)

/-- Whether the instruction of a group could issue, its units aside. -/
def State.groupCan (s : State) (c g : Nat) : Bool :=
  let s := { s with core := c, grp := g }
  match s.nextInstr with
  | some i => (s.waitsFor i).isEmpty && !s.engineWaits i && !s.regWaits i
  | none => true

/-! ## Issue units (R496) -/

/-- The units that an instruction takes: 0 scalar, 1 vector, 2 special function, 3 engine. `act` is VFUSE's activation. -/
def vecUnits (maj min act : Nat) : List Nat :=
  if maj < 0x08 then []
  else if maj = 0x1D then [0]
  else if maj = 0x14 ∨ maj = 0x15 ∨ maj = 0x19 ∧ min ≠ 0 ∨ maj = 0x1C ∧ act ≠ 0 then [1, 2]
  else [1]

def unitsOf (act : Nat) (i : Instr) : List Nat :=
  match i.form with
  | some (.sc _ _ _) => [0]
  | some (.vec maj min _) => vecUnits maj min act
  | some (.sweep _ maj min _) => vecUnits maj min act
  | some (.q maj _ _) => if 0x30 ≤ maj then [3] else []
  | _ => []

/-- The activation of a fused form: of a repeat, the target's; of a sweep, the iterator's (R201). -/
def State.actOf (s : State) (i : Instr) : Nat :=
  match i with
  | .sweep itn _ => bits (s.group.iter itn).w3.toNat 10 8
  | i => match s.performs i with | .vfuse o => o.bf % 8 | _ => 0

/-- The units of the current group's next issue. -/
def State.nextUnits (s : State) : List Nat :=
  match (s.instrAt s.group.issuePc).2 with
  | .ok i _ => unitsOf (s.actOf i) (s.performs i)
  | _ => []

/-- The slots of the present cycle. -/
def Slots.at (x : Slots) (now : Nat) : Slots := if x.cycle = now then x else { cycle := now, sfuTil := x.sfuTil }
/-- A unit is free: of the vector pipes there are two. -/
def Slots.free (x : Slots) (now u : Nat) : Bool :=
  if u = 2 then x.sfuTil ≤ now else (x.units.filter (· = u)).length < (if u = 1 then 2 else 1)
/-- A group issues. -/
def Slots.take (x : Slots) (now g : Nat) (us : List Nat) : Slots :=
  let x := x.at now
  { x with grps := x.grps ++ [g], units := x.units ++ us, sfuTil := if us.contains 2 then now + 4 else x.sfuTil }
/-- The units of the current group's next issue are free in this cycle. -/
def State.unitsFree (s : State) : Bool := s.nextUnits.all (((s.coreAt s.core).slots.at s.cycle).free s.cycle)

/-! ## Swaps -/

/-- A group with no eligible thread whose waits let it go out (R36). -/
def Group.parked (g : Group) : Bool :=
  g.eligible = 0 && !g.ended && g.waits.all (fun w => match w.kind with
    | .sleepto _ _ _ _ | .barrier _ _ | .tqget _ _ _ _ | .pwwait _ _ _ => true
    | _ => false)

/-- For how many more cycles the array of a core is taken: by its own operations, or by the pair operation that slaves it
(R36). -/
def State.arrayTime (s : State) (c : Nat) : Nat :=
  let of := fun (d : Nat) (p : EngOp → Bool) => match (s.coreAt d).team with
    | some t => ((t.ops.filter (fun o => inMatrixOrder o.instr && o.phase ≠ .done && p o)).map
        (fun o => if o.phase = .running then o.til - s.cycle else o.len)).sum
    | none => 0
  max (of c (fun _ => true)) (if s.slaved c then of (c - 1) (fun o => o.phase = .running && isPair o.instr) else 0)

/-- Every reason for which a group's instruction cannot issue lets the group go out: it waits for loads that missed the near
cache, or is a matrix instruction whose array stays busy for more than 64 cycles; its units are free (R36, R380). -/
def State.stalled (s : State) (c g : Nat) : Bool :=
  let s := { s with core := c, grp := g }
  match s.nextInstr with
  | some i =>
    let ws := s.waitsFor i
    let e := s.engineWaits i
    (!ws.isEmpty || e) && ws.all Outstanding.missed && (!e || inMatrixOrder i && 64 < s.arrayTime c) && s.unitsFree && !s.regWaits i
  | none => false

/-- A group that may go out: ended, parked or stalled. -/
def State.swappable (s : State) (c g : Nat) : Bool :=
  match (s.coreAt c).team with
  | some t => let x := t.group g; x.ended || x.parked || (x.eligible ≠ 0 && s.stalled c g)
  | none => false

/-- The pending group that has been ready longest, ties to the lower GRPID (R37). -/
def Team.nextIn (t : Team) : Option Nat :=
  (t.pending.filter (fun g => t.readySince.any (fun r => r.1 = g) && (t.group g).eligible ≠ 0)).foldl (fun best g =>
    match best with
    | none => some g
    | some b =>
      let k := fun g => tget 0 t.readySince g
      if k g < k b || (k g = k b && g < b) then some g else some b) none

/-- Start a swap: neither group issues until it ends, after the 8 cycles that follow this one (R37). An ended group leaves for
good. -/
def State.startSwap (s : State) (c out inn : Nat) : State :=
  s.modTeamAt c (fun t => { t with
    active := t.active.filter (· ≠ out)
    pending := t.pending.filter (· ≠ inn) ++ (if (t.group out).ended then [] else [out])
    readySince := t.readySince.filter (fun r => r.1 ≠ inn)
    swap := some ⟨out, inn, s.cycle + 9⟩ })

/-- The swap of R37, if one is due: an active group that has ended gives its place first, then the swappable group whose last
issue is oldest (R36). -/
def State.swapDue (s : State) (c : Nat) : Option (Nat × Nat) :=
  match (s.coreAt c).team with
  | some t =>
    if t.swap.isSome || t.pending.isEmpty || (s.coreAt c).stopped then none
    else match t.nextIn with
      | none => none
      | some inn => ((t.issueOrder.find? (fun g => (t.group g).ended)).orElse
          (fun _ => t.issueOrder.find? (s.swappable c))).map (fun out => (out, inn))
  | none => none

def execGroupSwap (core : Nat) (s : State) : Host.Outcome State Fault Refusal :=
  .next (match s.swapDue core with | some (out, inn) => s.startSwap core out inn | none => s)

/-- The forced swap of R38, if one is due: a group pending and ready for 4,096 cycles, and the active group that
issued last. -/
def State.forcedDue (s : State) (c : Nat) : Option (Nat × Nat) :=
  match (s.coreAt c).team with
  | some t =>
    if t.swap.isSome || (s.coreAt c).stopped then none
    else match t.nextIn, t.issueOrder.getLast? with
      | some inn, some out => if tget 0 t.readySince inn + 4096 ≤ s.cycle then some (out, inn) else none
      | _, _ => none
  | none => none

def execForcedSwap (core : Nat) (s : State) : Host.Outcome State Fault Refusal :=
  .next (match s.forcedDue core with | some (out, inn) => s.startSwap core out inn | none => s)

/-- The swap in progress has ended. -/
def State.swapOver (s : State) (c : Nat) : Bool :=
  match (s.coreAt c).team with
  | some t => match t.swap with | some w => w.til ≤ s.cycle | none => false
  | none => false

def execSwapEnd (core : Nat) (s : State) : Host.Outcome State Fault Refusal :=
  .next (if s.swapOver core then s.modTeamAt core (fun t => match t.swap with
      | some w => { t with active := t.active ++ [w.inGrp], swap := none }
      | none => t) else s)

/-- Since when each pending group has been ready, that is, could issue; kept up after every step (R37, R38). -/
def Team.noteReady (can : Nat → Bool) (now : Nat) (t : Team) : Team :=
  { t with readySince := (t.pending.filter can).foldl (fun r g =>
      match t.readySince.find? (fun x => x.1 = g) with
      | some x => r ++ [x]
      | none => r ++ [(g, now)]) [] }

def State.noteReady (s : State) : State :=
  if s.cores.all (fun c => match c.2.team with | some t => t.pending.isEmpty | none => true) then s
  else { s with cores := s.cores.map (fun (c : Nat × Core) => (c.1, { c.2 with team := c.2.team.map (fun t =>
    if t.pending.isEmpty then t else t.noteReady (fun g => s.groupReady c.1 t g && s.groupCan c.1 g) s.cycle) })) }

/-! ## Waits for the copy queue (R272) -/

/-- A group's wait for the copy queue, noted when it begins and forgotten when the group issues from elsewhere. -/
def State.waitNoted (s : State) (c g : Nat) (x : Group) : Group :=
  let s := { s with core := c, grp := g }
  let here := x.copyWait.any (fun w => w.1 = x.issuePc)
  let waits := match s.nextInstr with
    | some i => startsOp i && !inMatrixOrder i && s.performers i ≠ 0 && s.mustWait false
    | none => false
  { x with copyWait := if here then x.copyWait else if waits then some (x.issuePc, s.cycle) else none }

/-- A team some group of which waits for the copy queue, or may. -/
def Team.copyFull (t : Team) : Bool := 16 ≤ (t.outstanding false).length || t.groups.any (fun g => g.2.copyWait.isSome)

/-- Waits for the copy queue are kept up after every step. -/
def State.noteWaits (s : State) : State :=
  if s.cores.all (fun c => match c.2.team with | some t => !t.copyFull | none => true) then s
  else { s with cores := s.cores.map (fun (c : Nat × Core) => (c.1, { c.2 with team := c.2.team.map (fun t =>
    if t.copyFull then { t with groups := t.groups.map (fun g => (g.1, if t.active.contains g.1 then s.waitNoted c.1 g.1 g.2 else g.2)) } else t) })) }

/-! ## Sleeping (R152, R155, R350) -/

def execSleepWake (core grp : Nat) (s : State) : Host.Outcome State Fault Refusal :=
  .next (s.modGroupAt core grp (Group.release (fun k => match k with | .sleep til => til ≤ s.cycle | _ => false)))

/-- A wait for an operation that can end: the operation is done, or the deadline has passed. -/
def WaitKind.over (t : Team) (now : Nat) : WaitKind → Bool
  | .sleepto _ _ dl id => (id ≠ 0 && t.isDone id) || dl ≤ now
  | .pwwait _ _ id => t.isDone id
  | _ => false

/-- Whether a lower group waits for the same operation: that one takes a pending fault (R246). -/
def Team.lowerWaits (t : Team) (grp : Nat) (id : Dword) : Bool :=
  t.groups.any (fun g => g.1 < grp && g.2.waits.any (fun w => w.kind.opId = some id))

/-- What a wait that ends writes: the SLEEPTO result, or the walk's status word. -/
def Team.waitResult (t : Team) (k : WaitKind) : Nat × Dword :=
  match k with
  | .sleepto sd _ _ id => (sd, if id ≠ 0 ∧ t.isDone id then 0 else 1)
  | .pwwait sd _ _ => (sd, t.walkStatus)
  | _ => (0, 0)

/-- The return point of a wait. -/
def WaitKind.pc : WaitKind → Nat
  | .sleepto _ pc _ _ => pc
  | .pwwait _ pc _ => pc
  | _ => 0

/-- End one wait of the current group: the fault of its operation is taken, or the result written. A result register s1 is
written whether or not a frame has opened or closed since the issue (DEDUCED, log 40). The instruction counts in its threads'
lookahead windows now, if it does not trap (R126, R164). The service group has no operations. -/
def State.endWait (s : State) (w : Wait) : State :=
  let t := if s.isSvc then {} else s.team
  let s1 := s.modGroup (fun g => { g with waits := g.waits.filter (fun x => x ≠ w) })
  let id := w.kind.opId.getD 0
  let fault := if !s.isSvc && t.isDone id && id ≠ 0 && !t.lowerWaits s.grp id then s1.joinFault id w.mask else none
  match fault with
  | some (s2, r) => (s2.modGroup (Group.setPcs (lanesOf w.mask) w.kind.pc)).takeTraps w.kind.pc r
  | none => let (sd, v) := t.waitResult w.kind; s1.modGroup (fun g => (g.count (lanesOf w.mask)).setS sd v)

/-- The first wait of a group for an operation that can end. -/
def Team.endingWait (t : Team) (grp now : Nat) : Option Wait := (t.group grp).waits.find? (fun w => w.kind.over t now)

/-- The wait of a core's group (16 is the service group) that can end. -/
def State.waitOver (s : State) (c grp : Nat) : Option Wait :=
  if grp = 16 then (s.coreAt c).svc.waits.find? (fun w => w.kind.over {} s.cycle)
  else match (s.coreAt c).team with | some t => t.endingWait grp s.cycle | none => none

def execSleeptoResume (core grp : Nat) (s : State) : Host.Outcome State Fault Refusal :=
  .next (match s.waitOver core grp with
    | some w => ({ s with core := core, grp := grp }).endWait w
    | none => s)

/-! ## Results and requests (R211, R216, R220, R486) -/

/-- Deliver the oldest result that has arrived. -/
def Group.deliverFirst (g : Group) : Group :=
  match g.outstanding.find? (fun o => o.req = 0) with
  | some o => { (o.results.foldl Result.apply g) with outstanding := g.outstanding.erase o }
  | none => g

def execLoadComplete (core grp : Nat) (s : State) : Host.Outcome State Fault Refusal :=
  .next (s.modGroupAt core grp Group.deliverFirst)

/-- Whether the oldest request is a plain store. -/
def State.storeNext (s : State) : Bool :=
  match s.stores with | r :: _ => (match r.kind with | .store _ _ _ => true | _ => false) | [] => false

def execStorePerform (s : State) : Host.Outcome State Fault Refusal := .next (if s.storeNext then s.performHead else s)
def execMscAtomicStep (s : State) : Host.Outcome State Fault Refusal := .next (if s.storeNext then s else s.performHead)

/-- A G line leaves its near cache: its partials go to the home (R220). -/
def execGLineEvict (core line : Nat) (s : State) : Host.Outcome State Fault Refusal :=
  .next (if s.line core line = .g then s.giveUp core line else s)

/-! ## TQGET (R234, R235, R416) -/

/-- The TQGET waits of a group, in the order of issue: each with its result register and its deadline. -/
def Group.tqWaits (g : Group) : List (Wait × Nat × Nat) :=
  g.waits.filterMap (fun w => match w.kind with | .tqget sd dl _ _ => some (w, sd, dl) | _ => none)
/-- The first of them whose deadline passes a test. -/
def Group.tqWait (g : Group) (p : Nat → Bool) : Option (Wait × Nat × Nat) := g.tqWaits.find? (fun x => p x.2.2)
/-- The number of the outstanding result of a TQGET that waits, and what becomes of its write of s1. -/
def WaitKind.tqReq : WaitKind → Nat
  | .tqget _ _ r _ => r
  | _ => 0
def WaitKind.tqFate : WaitKind → Nat
  | .tqget _ _ _ f => f
  | _ => 0

/-- A register that a TQGET writes. Its write of s1 is lost when it was issued inside a frame that has closed (R163); issued before a
frame that is open now, it is what the frame restores (R32, R160, R167). -/
def Group.setTq (fate n : Nat) (v : Dword) (g : Group) : Group :=
  if n ≠ 1 then g.setS n v
  else if fate = 2 then g
  else match (if fate = 0 then g.frame else none) with
    | some f => { g with frame := some { f with savedS1 := v } }
    | none => g.setS 1 v

/-- A TQGET returns two words, to both copies of a redundant team. -/
def State.tqReturn (s : State) (c grp : Nat) (w : Wait) (sd : Nat) (a b : Dword) : State :=
  s.modKept c grp (fun g => if w ∉ g.waits then g else
    ((({ g with waits := g.waits.filter (fun x => x ≠ w), outstanding := g.outstanding.filter (fun o => o.req ≠ w.kind.tqReq) } : Group).setTq
      w.kind.tqFate sd a).setTq w.kind.tqFate (sd + 1) b))

/-- The first waiting TQGET of a group whose deadline passes a test: in a redundant grid the primary asks. -/
def State.tqAsks (s : State) (c grp : Nat) (p : Nat → Bool) : Option (Team × Wait × Nat × Nat) :=
  match (s.coreAt c).team with
  | some t => if t.twin then none else ((t.group grp).tqWait p).map (fun x => (t, x))
  | none => none

/-- Places of a core's steps at a task queue within a cycle: its waiting TQGETs, which it issued in earlier cycles, then what it
issues now (R231, R416). -/
def waitPlace (core : Nat) : Nat := 2 * core
def issuePlace (core : Nat) : Nat := 2 * core + 1
/-- A step at the queue of a grid is noted: those at lower places in this cycle are over. -/
def Grid.noteTq (now n : Nat) (g : Grid) : Grid :=
  { g with tqLast := (now, if g.tqLast.1 = now then max n g.tqLast.2 else n) }
/-- A step at a place in this cycle may still come. -/
def Grid.tqTurn (now n : Nat) (g : Grid) : Bool := g.tqLast.1 ≠ now || g.tqLast.2 ≤ n

/-- The first READY task that has reached a core's waiting TQGETs in this cycle: none once a step of a higher core has come (R416). -/
def Grid.reached (now core : Nat) (g : Grid) : Option (Nat × TqSlot) :=
  if g.tqTurn now (waitPlace core) then g.firstReady else none

def execTqgetRearrive (core grp : Nat) (s : State) : Host.Outcome State Fault Refusal :=
  .next (match s.tqAsks core grp (fun _ => true) with
    | some (t, w, sd, _) => match (s.grid t.grid).reached s.cycle core with
      | some (n, x) =>
        let (a, b) := taskWords n x
        ((s.setSlot t.grid n { x with state := .taken }).modGrid t.grid (Grid.noteTq s.cycle (waitPlace core))).tqReturn core grp w sd a b
      | none => s
    | none => s)

/-- A TQGET at its deadline, with no task that has reached it: EMPTY, DRAINED judged in this step. -/
def execTqgetDeadline (core grp : Nat) (s : State) : Host.Outcome State Fault Refusal :=
  .next (match s.tqAsks core grp (fun dl => dl ≤ s.cycle) with
    | some (t, w, sd, _) =>
      let g := s.grid t.grid
      if (g.reached s.cycle core).isNone then
        (s.modGrid t.grid (Grid.noteTq s.cycle (waitPlace core))).tqReturn core grp w sd g.emptyWord 0
      else s
    | none => s)

/-! ## No instruction (R134, R408) -/

/-- The issue of what is no instruction: every thread of the issue set takes the trap, together. -/
def State.issueNone (s : State) (i : Instr) (x : Trap) : State :=
  runIssue i State.performReqs (s.issueOf 1) (illegalBody x) s

def execIllegalInstruction (sub : Nat) (s : State) : Host.Outcome State Fault Refusal :=
  .next (s.issueNone (.illegalInstruction sub) { code := 1, sub := sub })
def execCodeFetchFault (sub va : Nat) (s : State) : Host.Outcome State Fault Refusal :=
  .next (s.issueNone (.codeFetchFault sub va) { code := 0x0B, sub := sub, va := va })

end Sys2Proof.Machine
end

