-- ==== Sys2Proof/Machine/Errors.lean ====
section
/-! DEFINITION. Corrected and uncorrectable errors, rollback, redundant copies compared, units retired (R441 to R451),
flits (R470). -/
namespace Sys2Proof.Machine
open Sys2Proof

/-! ## Retiring a unit (R450) -/

/-- A core retires: the gang on it, or that is being restored to it, is to be pre-empted, and the core is never free again;
its event follows when it has no team. -/
def State.retireCore (s : State) (c : Nat) : State :=
  if (s.coreAt c).retired then s
  else
  let s := s.modCore c (fun x => { x with retired := true })
  let s := { s with grids := s.grids.map (fun (g : Nat × Grid) =>
    if (g.2.phase = .resident ∨ g.2.phase = .restoring) ∧ g.2.place.contains c then (g.1, { g.2 with preempt := true }) else g) }
  if (s.coreAt c).restoring then s else s.logRetired c

/-- The units that retire with one: the core of a near cache or an issue unit, the channel of a slice (R450). -/
def retiringWith (u : HwUnit) : List HwUnit :=
  u :: (if (u.cls = 2 ∨ u.cls = 7) ∧ u.idx < numCores then [{ cls := 1, idx := u.idx }]
        else if u.cls = 3 ∧ u.idx < 256 then [{ cls := 4, idx := u.idx }] else [])

/-- A unit whose fault is lasting is retired, a near cache, slice or issue unit with its core or channel. Cores are logged when
their gang has left them, channels as their sets are restriped. -/
def State.retireUnit (s : State) (u : HwUnit) : State :=
  if s.retiredUnits.contains u then s
  else
    let s := s.addRetired (retiringWith u)
    let gone := fun (s : State) => s.logEvent 0 0 0 0 u 2 0
    if u.cls = 1 then (if u.idx < numCores then s.retireCore u.idx else s)
    else if u.cls = 2 ∨ u.cls = 7 then (if u.idx < numCores then gone (s.retireCore u.idx) else s)
    else if u.cls = 3 then gone (s.retireChannel u.idx)
    else if u.cls = 4 then s.retireChannel u.idx
    else if u.cls = 5 then gone (s.retirePort u.idx)
    else if u.cls = 6 then gone (s.foldFails (2 * s.domain.module + u.idx % 2))
    else s

/-- A corrected error is counted and logged; above the threshold the unit is retired (R449). -/
def State.corrected (s : State) (u : HwUnit) : State :=
  let s := if s.windowOver then s.newWindow else s
  let n := tget 0 s.errors (unitKey u) + 1
  let s := ({ s with errors := tput 0 s.errors (unitKey u) n } : State).logEvent 0 0 0 0 u 1 0
  if s.threshold < n then s.retireUnit u else s

def execCorrectedError (unit : HwUnit) (s : State) : Host.Outcome State Fault Refusal := .next (s.corrected unit)

def execErrorWindowReset (s : State) : Host.Outcome State Fault Refusal := .next (if s.windowOver then s.newWindow else s)

/-- The two copies of a core's scoreboard disagree: what is in flight issues again, and nothing else changes (R448). -/
def execScoreboardMismatch (core : Nat) (s : State) : Host.Outcome State Fault Refusal :=
  .next (if core < numCores then s.corrected { cls := 7, idx := core } else s)

/-! ## Flits (R470) -/

/-- A flit with a bad CRC, or out of turn, is dropped and asked for again; those that come behind it until the replay are dropped with
no error of their own, since one replay counts once; one that came before is a duplicate. A receiver whose buffer falls below 64 free
flits sends STOP (R469). -/
def execFlitReceive (fold port vc seq : Nat) (crcOk : Bool) (s : State) : Host.Outcome State Fault Refusal :=
  let k := portKey fold port
  let p := s.port k
  let want := tget 0 p.rxSeq vc
  .next (if (crcOk && seq < want) || s.boot.recovery then s
    else if want < seq && tget 0 p.replayAsked vc = want + 1 then s
    else if !crcOk || seq ≠ want then
      (s.modPort k (fun p => { p with replayAsked := tput 0 p.replayAsked vc (want + 1) })).corrected (portUnit k)
    else s.modPort k (fun p => { p with
      rxSeq := tput 0 p.rxSeq vc (want + 1)
      free := if vc = 2 then p.free else tput 0 p.free vc (min (tget 0 p.free vc + 1) 192)
      replayAsked := tput 0 p.replayAsked vc 0 }.stopIf vc))

/-- GO for a channel (R469): the buffer has been read down to 128 free flits; when the sign is the peer's, its GO arrives and the
messages that waited start, in order. The peer's request for a replay: what stands in the port's replay buffer for the channel goes
again, a corrected error of the port at this end too (R470; DEDUCED, log 56). -/
def execFlowGo (fold port : Nat) (sign : FlowSign) (s : State) : Host.Outcome State Fault Refusal :=
  let vc := sign.vc
  let k := portKey fold port
  .next (if s.boot.recovery then s
    else if sign.ask then (if (s.port k).replay.any (fun x => x.1 = vc) then s.corrected (portUnit k) else s)
    else if sign.peers then
      let s := s.modPort k (fun p => { p with held := p.held.filter (· ≠ vc) })
      (s.msgs.filter (fun m => m.vc = vc && m.port.isNone && s.leaves m)).foldl State.sendAgain s
    else s.modPort k (fun p =>
      { p with stopped := p.stopped.filter (· ≠ vc), free := tput 0 p.free vc (min (tget 0 p.free vc) 64) }))


/-! ## Uncorrectable errors where they are consumed (R441) -/

/-- What a lane of a load, AMO or CAS reads: the buffer index, whether a register gives it, the offset, the size, the kind
of the access, and whether the access is group-uniform. -/
def laneRead (g : Group) (l : Nat) : Instr → Option (Nat × Bool × Nat × Nat × AKind × Bool)
  | .ld o => some (bufIndex g o.br o.bt, o.br, effOff g o.ov o.off o.lit l, MemSize o, .load, o.ds)
  | .amo o | .cas o => some (bufIndex g o.br o.bt, o.br, effOff g o.ov o.off o.lit l, 4, .atomic, false)
  | _ => none

/-- The program counter of a record at an issue: the target's in a repeat (R132). -/
def State.recordPc (s : State) (i : Instr) : Nat := match i with | .rep _ _ _ => s.group.issuePc + 4 | _ => s.group.issuePc

/-- Bad data in the lowest lane of the load, AMO or CAS that the current group is about to issue: that lane traps, with the
address that it read; of a group-uniform load, the set together (DEDUCED, log 34). -/
def State.errorRead (s : State) (u : HwUnit) : State :=
  match (s.instrAt s.group.issuePc).2 with
  | .ok i _ =>
    let j := s.performs i
    let g := s.group
    let p := guardSet g g.issueSet (guardOf j)
    let l := lowLane p
    match (if p = 0 then none else laneRead g l j) with
    | some (idx, br, off, size, k, whole) =>
      match s.bufCheck idx br off off size k with
      | (s, .ok _ va _) =>
        let x : Trap := { code := 0x30, sub := 1, off := off, bt := idx, va := va, detail := unitKey u, pcAt := some (s.recordPc i) }
        s.takeTraps g.issuePc (if whole then together p x else { own := [(l, x)] })
      | (s, .trap _) => s
    | none => s
  | _ => s

/-- The issue set of a group consumes bad data of its own team and traps together; inside a repeat PC is the repeated instruction's
(R132). -/
def State.errorTraps (s : State) (sub : Nat) (u : HwUnit) : State :=
  let pc := match (s.instrAt s.group.issuePc).2 with | .ok i _ => s.recordPc i | _ => s.group.issuePc
  s.takeTraps s.group.issuePc (together s.group.issueSet { code := 0x30, sub := sub, detail := unitKey u, pcAt := some pc })

/-- The virtual address of a queued store, nibble store or reduction; none for an AMO or CAS. -/
def ReqKind.writeVa : ReqKind → Option Nat
  | .store _ va _ => some va
  | .nibble _ va _ _ => some va
  | .combine _ va _ _ _ => some va
  | .amo _ _ _ _ _ _ => none

/-- The oldest queued store, nibble store or reduction of a group meets a bad target: it is dropped with a deferred record
(DEDUCED, log 34). -/
def State.errorStore (s : State) (c grp : Nat) (u : HwUnit) : State :=
  match s.stores.find? (fun r => r.core = c && r.grp = grp && r.kind.writeVa.isSome) with
  | some r => ({ s with stores := s.stores.filter (fun q => q ≠ r) }.deferredFault r (r.kind.writeVa.getD 0) 0x30 5 (unitKey u)).settleReq r
  | none => s

/-- The first running operation of a team meets bad data. -/
def State.errorOp (s : State) (c : Nat) (t : Team) (u : HwUnit) : State :=
  match t.ops.find? (fun o => o.phase = .running && o.ran.isNone) with
  | some op =>
    (s.asOp c op).badData c op { code := 0x30, sub := 6, detail := unitKey u }
  | none => s

/-- Bad data consumed at a core: 1 in one lane of a load or atomic, 2 to 4 and 6 rolled back or delivered, 5 deferred, 7
the area that a restore is to read. -/
def State.uncorrectable (s : State) (c grp sub : Nat) (u : HwUnit) : State :=
  let s0 := { s with core := c, grp := grp }
  match (s.coreAt c).team with
  | none =>
    if sub = 7 then match s.locate (s.coreAt c).slotAddr with
      | .at k => { s with poison := tput false s.poison (k / 128) true }.noteError (unitKey u)
      | _ => s
    else s
  | some t =>
    if sub = 1 then s0.errorRead u
    else if sub = 5 then s.errorStore c grp u
    else if sub = 6 then s.errorOp c t u
    else if sub = 2 ∨ sub = 3 ∨ sub = 4 then (if s.rollsBack t (unitKey u) then s.rollTeam c sub (unitKey u) else s0.errorTraps sub u)
    else s

def execUncorrectableError (core grp sub : Nat) (unit : HwUnit) (s : State) : Host.Outcome State Fault Refusal :=
  .next (if core < numCores ∧ grp < 16 then s.uncorrectable core grp sub unit else s)

/-! ## Redundant copies compared (R446, R447) -/

/-- What the signature folds of a held write: buffer index, offset, size and data, a nibble's size apart (R446; log 9). -/
def HeldWrite.signed (h : HeldWrite) : Nat × Nat × List Byte × Bool := (h.bt, h.off, h.data, h.nib.isSome)
/-- The signatures agree: the same writes in any order. -/
def sameWrites (a b : List HeldWrite) : Bool := (a.map HeldWrite.signed).isPerm (b.map HeldWrite.signed)

/-- A point that both copies have reached: a group's, a checkpoint's (16), an operation's (32 and more), or the end of both (17). -/
def Team.meeting (t u : Team) : Option Nat :=
  match t.points.find? u.points.contains with
  | some g => some g
  | none =>
    let ended := fun (x : Team) => (List.range x.ngrp).all (fun g => (x.group g).ended) && x.ops.all (fun o => o.phase = .done)
    if ended t && ended u && (!t.held.isEmpty || !u.held.isEmpty) then some 17 else none

/-- The comparison that is due at a primary's core: the copies and the point. -/
def State.compareDue (s : State) (c : Nat) : Option (Nat × Team × Team × Nat) :=
  match (s.coreAt c).team with
  | some t =>
    if !(s.grid t.grid).record.getLsbD 88 || t.twin || t.passed.isSome || (s.coreAt c).stopped then none
    else
      let d := (s.grid t.grid).place.getD (t.nteam + t.teamid) c
      match (s.coreAt d).team with
      | some u => (t.meeting u).map (fun g => (d, t, u, g))
      | none => none
  | none => none

/-- A request is performed, after those that were there before it, or waits for its line (R474). -/
def State.performNow (s : State) (r : MemReq) : State := (s.enqueue r).drainIf (fun q => q = r)

/-- Perform a held write of the primary at the address of its issue: a store, a nibble store, a step at its home, or a reduction
combined into its core's partial; to another core's scratchpad, in both copies (R445). -/
def State.performHeld (s : State) (c : Nat) (h : HeldWrite) : State :=
  let req := fun (k : ReqKind) =>
    ({ id := 0, core := c, grp := h.grp, lane := h.lane, pc := h.pc, bt := h.bt, off := h.off, rep := h.rep, owner := s.ownerOf c, kind := k } : MemReq)
  match h.pad, h.red, h.nib with
  | some d, _, _ => (s.bothCopies d).foldl (fun s e => s.modTeamAt e (fun t => t.setScratch h.off h.data)) s
  | none, some (op, ty), _ =>
    let v := BitVec.ofNat 32 (leNat h.data)
    if 16 ≤ op then s.performNow (req (.combine h.pa h.va op ty v)) else s.performRed (req (.combine h.pa h.va op ty v)) h.pa h.va op ty v
  | none, none, some high => s.performNow (req (.nibble h.pa h.va high (h.data.headD 0)))
  | none, none, none => s.performNow (req (.store h.pa h.va h.data))

/-- Both copies start a new interval: the primary's step at the point comes next, unless it has been taken, held (R445). -/
def Team.newInterval (g : Nat) (t : Team) : Team :=
  let behind := t.after.contains g
  let t := { t with held := [], heldLanes := 0, mismatched := false, after := t.after.filter (· ≠ g)
                    atCompare := if g = 16 ∨ behind then t.atCompare.filter (· ≠ g) else t.atCompare
                    passed := if g < 16 ∧ !behind ∧ !t.twin then some g else none }
  t.takeCheckpoint (if behind then 16 else min g 16)

/-- DETAIL of a mismatch at a point: the barrier and PHASE of an arrival at a cluster barrier, else barrier 0 (R435). -/
def State.signDetailAt (s : State) (c g : Nat) (t : Team) : Nat :=
  let at_ := fun (o : QOps) => if 16 ≤ o.x then signDetail o.x (s.barrier c o.x).phase else t.signDetail
  if 32 ≤ g then (match (t.opAtPoint g).bind EngOp.bar with
    | some b => if 16 ≤ b then signDetail b (s.barrier c b).phase else t.signDetail
    | none => t.signDetail)
  else if 16 ≤ g ∨ t.after.contains g then t.signDetail
  else match ({ s with core := c, grp := g } : State).nextInstr with
    | some (.bararr o) => at_ o
    | some (.baraw o) => at_ o
    | _ => t.signDetail

/-- The operation at a point is over (R446). -/
def State.finishPoint (s : State) (c g : Nat) : State :=
  match (s.coreAt c).team.bind (fun t => t.opAtPoint g) with
  | some op => (s.asOp c op).opOver c op (op.ran.getD none) op.donecnt
  | none => s

/-- Where a record of a mismatch at a point stands: group, lane, program counter, repeat. -/
def Team.placeAt (t : Team) (g : Nat) : Nat × Nat × Nat × Nat :=
  match t.opAtPoint g with
  | some op => (op.grp, op.lane, op.pc, 0)
  | none =>
    let low := if g < 16 then g else 0
    let x := t.group low
    (low, lowLane x.issueSet, x.issuePc, tget 0 x.repcnt (lowLane x.issueSet))

/-- The comparison that is due at a primary's core (R446, R447). An operation at the point is over before the new checkpoint is
taken, so a rollback does not repeat its arrival (log 9). -/
def State.compare (s : State) (c : Nat) : State :=
  match s.compareDue c with
  | none => s
  | some (d, t, u, g) =>
    if sameWrites t.held u.held ∧ t.after.contains g = u.after.contains g then
      let s := (t.held.foldl (fun s h => s.performHeld c h) s).finishPoint c g
      let s := s.finishPoint d g
      (s.modTeamAt c (Team.newInterval g)).modTeamAt d (Team.newInterval g)
    else if t.mismatched ∨ t.checkpoint.isNone ∨ u.checkpoint.isNone then
      let (low, l, pc, rep) := t.placeAt g
      (s.terminal c t low l pc rep 2 { code := 0x31, sub := 1, detail := s.signDetailAt c g t }).endGrid t.grid 2
    else
      (s.rollCopies c (fun t => { t.rollback with mismatched := true })).logEvent t.gridid t.ctx 0x31 1 { cls := 1, idx := c } 7 0

def execSignatureCompare (core : Nat) (s : State) : Host.Outcome State Fault Refusal := .next (s.compare core)

end Sys2Proof.Machine
end

