-- ==== Sys2Proof/Machine/Management.lean ====
section
/-! DEFINITION. Reset, boot, the management port, cooling (R467, R489 to R495). -/
namespace Sys2Proof.Machine
open Sys2Proof

/-! ## Reset and boot (R489, R490) -/

/-- VALID of every context entry falls to 0 (R387; how it does in memory is the model's reading, log 13). -/
def State.invalidateContexts (s : State) : State :=
  if s.base 0 = 0 then s
  else (List.range 256).foldl (fun s c =>
    let a := s.base 0 + 64 * c + 7
    s.physWrite 8 a [BitVec.ofNat 8 (s.physNat 8 a 1 % 128)]) s

/-- The module resets. Boot NOR, the fuses and Pyari's own store keep what they hold; memory keeps its bytes (log 13)
but for the VALID bits of the context table. -/
def execModuleReset (s : State) : Host.Outcome State Fault Refusal :=
  .next { State.reset with
    tick := s.tick, inputs := s.inputs, mem := s.invalidateContexts.mem, poison := s.poison
    boot := { nor := s.boot.nor, loaded := s.boot.nor, rootKey := s.boot.rootKey, floor := s.boot.floor, ownerKey := s.boot.enrolled, enrolled := s.boot.enrolled } }

/-- Alignment of each base of R490, in the order of `Config.bootBase`. -/
def baseAlign : List Nat := [65536, 4, 8192, 8192, 8192, 8192, 131072, 65536]

/-- Bases that the trusted firmware writes before stage 3 (R490). -/
def bootBases : Tbl Dword :=
  tputs 0 [] (baseAlign.mapIdx (fun i a => (i, BitVec.ofNat 64 ((Config.bootBase i).toNat % 2 ^ 52 / a * a))))

/-- The compute and fold dies and the shepherd cores are in reset (R489): nothing of theirs is left but that a core is retired. -/
def State.toRecovery (s : State) : State :=
  { s with
    boot := { s.boot with recovery := true }
    cores := (s.cores.filter (fun c => c.2.retired)).map (fun c => (c.1, { retired := true }))
    folds := [], xdies := [], dirWaits := [], retries := [], msgs := [], walks := [], stores := [], regStores := []
    fqs := s.fqs.map (fun q => (q.1, { q.2 with waiting := [] }))
    domain := { s.domain with safeOf := none, rebuilt := false, rehash := 0, rest := [], moved := 0, frozen := none } }

/-- The bytes of an image or key, and the digest of an image with its length and version (R489). -/
def imageBytes (x : Nat) : List Byte := leBytes (Nat.log2 x / 8 + 1) x
def imageDigest (image version : Nat) : Nat :=
  Config.digest (imageBytes image ++ leBytes 8 (imageBytes image).length ++ leBytes 4 version)

/-- The image of a stage: what boot NOR held at the reset, as a later UPDATE takes effect at the next (R493); where this model knows
nothing of it, the one that the step names (R489; log 10). -/
def Boot.image (b : Boot) (n image : Nat) : Nat := if tget 0 b.loaded n = 0 then image else tget 0 b.loaded n

/-- The SHA-256 of the key that verifies a stage: the fused root key's, that of the vendor key in the trusted firmware, the enrolled
owner key's (R489). -/
def Boot.stageKey (b : Boot) (n : Nat) : Option Nat :=
  if n = 2 then some b.rootKey else if n = 3 then some (Config.digest (imageBytes b.vendorKey)) else b.ownerKey

/-- A stage's image passes: a signature of it, its length and its version by the stage's key, and a version at or above the floor
(R489; log 10). -/
def Boot.verifies (b : Boot) (n version : Nat) (sig : Signature) (image : Nat) : Bool :=
  b.stageKey n = some (Config.digest (imageBytes sig.key)) && sig.digest = imageDigest (b.image n image) version
    && tget 0 b.floor n ≤ version

/-- Entry 0 with VALID = 1, its reserved fields 0 (R387, R490). -/
def firstEntry : BitVec 512 :=
  Config.bootEntry &&& BitVec.ofNat 512 (2 ^ 179 - 2 ^ 140 + (2 ^ 128 - 2 ^ 88) + (2 ^ 72 - 2 ^ 64) + 2 ^ 34 + (2 ^ 33 - 1))
    ||| BitVec.ofNat 512 (2 ^ 63)

/-- The access tables that the trusted firmware writes, of channels and of fold dies (R483, R484, R490). -/
def bootAccess : Tbl Dword :=
  tputs 0 [] ((List.range 4096).map (fun i => (i, BitVec.ofNat 64 (accessBits (Config.bootAccess (i / 16) (i % 16)).toNat))))
def bootFoldAccess : Tbl Dword :=
  tputs 0 [] ((List.range 64).map (fun i => (i, BitVec.ofNat 64 (bits (Config.bootFoldAccess (i / 32) (i % 32)).toNat 17 0))))

/-- The boot report: base n at n, entry k of channel c at 8 + 16c + k, that of module m at fold die f at 4104 + 32f + m. Where in
shepherd memory it stands the manual does not say (log 4). -/
def bootReport : Tbl Dword :=
  bootBases ++ bootAccess.map (fun e => (e.1 + 8, e.2)) ++ bootFoldAccess.map (fun e => (e.1 + 4104, e.2))

/-- The Wileg ports are trained, electrically; those that fail retire (R466, R490). -/
def State.trainPorts (s : State) : State :=
  ((List.range 36).filter (fun k => !(s.port k).trained && !(s.port k).retired)).foldl (fun s k =>
    if Config.portTrains k then s.modPort k (fun p => { p with trained := true }) else s.portFails k) s

/-- What the trusted firmware does before stage 3 starts: channels and ports are trained, the bases and the access tables written and
reported, and context entry 0 (R490). -/
def State.bootTables (s : State) : State :=
  ({ s.trainChannels.trainPorts with
    access := bootAccess, foldAccess := bootFoldAccess
    boot := { s.boot with base := bootBases, report := bootReport, entry0 := firstEntry } } : State).placeEntry0

/-- The next stage's image is verified and runs, or the module stays in recovery. Stage 4 needs an owner key (R489, R493). -/
def execBootStageVerify (version : Nat) (sig : Signature) (image : Nat) (s : State) : Host.Outcome State Fault Refusal :=
  let b := s.boot
  let n := b.stage + 1
  .next (if b.recovery ∨ 4 < n then s
    else if !b.verifies n version sig image then s.toRecovery
    else
      let s := if n = 3 then s.bootTables else s
      { s with boot := { s.boot with
        stage := n, version := tput 0 b.version n version, measured := tput 0 b.measured n (imageDigest (b.image n image) version)
        vendorKey := if n = 2 then Config.vendorKey (b.image n image) else b.vendorKey } })

/-! ## Commands of the management port (R493) -/

/-- A command's status code and reply. -/
def State.answer (s : State) (code : Nat) (reply : List Nat) : State := { s with boot := { s.boot with code := code, reply := reply } }
/-- A refusal whose code the manual does not give (log 14). -/
def State.refuseCode (s : State) : Nat := 1 + s.choice 4 % 255

/-- Grids of a partition's contexts that are admitted or waiting (R491). -/
def State.partBusy (s : State) (n : Nat) : Bool :=
  s.grids.any (fun g => g.2.phase ≠ .ended && bits (s.ctxEntry (recCtx g.2.record)) 178 176 = n)

/-- The code of a partition write. -/
def State.partCode (s : State) (n w : Nat) : Nat :=
  let old := (tget 0 s.parts n).toNat
  let shared := (List.range 8).any (fun m => m ≠ n && bit (tget 0 s.parts m).toNat 0
    && bits (tget 0 s.parts m).toNat 15 8 &&& bits w 15 8 ≠ 0)
  if bit w 0 ∧ shared then 2
  else if bit old 0 ∧ bits w 15 8 ≠ bits old 15 8 ∧ s.partBusy n then 3
  else 0

/-- Pyari's measurement of the partition table, a digest of its bytes (R492; log 10). -/
def State.partDigest (s : State) : Nat := Config.digest ((List.range 8).flatMap (fun n => leBytes 8 (tget 0 s.parts n).toNat))

/-- PARTSET; the measurement of the table follows (R492). -/
def State.partset (s : State) (n : Nat) (w : Dword) : State :=
  if 8 ≤ n then s.answer s.refuseCode []
  else
    let c := s.partCode n w.toNat
    let v := BitVec.ofNat 64 (bits w.toNat 15 8 * 256 + bits w.toNat 0 0)
    if c ≠ 0 then s.answer c []
    else
      let s := { s with parts := tput 0 s.parts n v }
      ({ s with boot := { s.boot with partMeasured := some s.partDigest } } : State).answer 0 []

/-- MODNUM: the module's own two fold dies are renumbered with it (R453, R467). Every address of its memory changes: what is on its
way is performed first, and no line stays cached, so no entry names an old pointer (R459; log 57). -/
def State.modnum (s : State) (n : Nat) : State :=
  let d := s.domain
  if d.formed ∨ d.forming.isSome ∨ 32 ≤ n then s.answer s.refuseCode []
  else
    let s := s.drainAll
    let s := s.heldLines.foldl State.dropLine s
    ({ s with retries := [], domain := { d with
    module := n, live := [2 * n, 2 * n + 1], failed := d.failed.map (fun f => 2 * n + f % 2), safeOf := d.safeOf.map (fun f => 2 * n + f % 2)
    rest := d.rest.map (fun f => 2 * n + f % 2)
    ht := d.ht.map (fun x => (x.1, 2 * n + (x.2 - 1) % 2 + 1)) } } : State).answer 0 []

/-- CHSET: word k of entry n; the word that holds EN also enables or disables. -/
def State.mgmtSet (s : State) (n k : Nat) (w : Dword) : State :=
  if 256 ≤ n ∨ 8 ≤ k then s.answer s.refuseCode []
  else
    (s.setWord n k w.toNat).answer 0 []

/-- Pyari's measurement of a stage and its version; stage 1 stands in ROM (R489, R492). -/
def Boot.measure (b : Boot) (n : Nat) : Nat := if n = 1 then Config.romDigest else tget 0 b.measured n
def Boot.versionOf (b : Boot) (n : Nat) : Nat := if n = 1 then Config.romVersion else tget 0 b.version n

/-- The report of R492, the measurement of the partition table with its entries, and the certificate of the key that signs it. -/
def State.report (s : State) (nonce : Nat) : List Nat :=
  let b := s.boot
  [nonce] ++ ([1, 2, 3, 4] : List Nat).map b.measure ++ ([1, 2, 3, 4] : List Nat).map b.versionOf
    ++ [b.partMeasured.getD s.partDigest] ++ (List.range 8).map (fun n => (tget 0 s.parts n).toNat) ++ [s.domain.module, s.retiredUnits.length] ++ Config.certificate

/-- The cores that a grid has: none while it waits, those that it left at a pre-emption among them (R409, R494). -/
def Grid.cores (g : Grid) : List Nat := if g.waits then [] else g.place

/-- The summary of R494, laid out field after field (log 15). -/
def State.summary (s : State) : List Nat :=
  let grids := s.grids.filter (fun g => g.2.phase ≠ .ended)
  (List.range 8).map (fun n => (tget 0 s.parts n).toNat)
    ++ [grids.length] ++ grids.flatMap (fun g =>
      [recCtx g.2.record, recPrio g.2.record, recGridid g.2.record, g.2.cores.length] ++ g.2.cores)
    ++ (List.range 8).map s.lqstat
    ++ [s.logHead, s.logTail] ++ (List.range 256).flatMap (fun q => [(tget {} s.fqs q).head, (tget {} s.fqs q).tail])
    ++ [s.retiredUnits.length] ++ s.retiredUnits.map unitKey
    ++ (List.range 36).map (fun k => (if (s.port k).trained then 1 else 0) + (if (s.port k).retired then 2 else 0))
    ++ (match s.domain.safeOf with
        | some f => (List.range 4096).map (fun i => if s.domain.slot i = f then 1 else 0)
        | none => List.replicate 4096 0)

/-- ENROLL: the first in recovery from the attached server alone, a later one signed by the key it replaces. Pyari keeps the key's SHA-256, and it takes effect at the next reset. -/
def State.enroll (s : State) (key : Nat) (signedByOld fromServer : Bool) : State :=
  let b := s.boot
  let take : State := ({ s with boot := { b with enrolled := some (Config.digest (imageBytes key)) } } : State).answer 0 []
  if b.enrolled.isNone then (if b.recovery && fromServer then take else s.answer s.refuseCode [])
  else if signedByOld then take else s.answer 2 []

/-- DOMFORM: refused while a grid is there or once the domain has formed; else formation starts, and its end answers. -/
def State.domform (s : State) (m : Nat) (ident : Dword) : State :=
  if s.domain.formed then s.answer 2 []
  else if s.grids.any (fun g => g.2.phase ≠ .ended) then s.answer 3 []
  else if m = 0 ∨ 32 < m ∨ s.domain.forming.isSome then s.answer s.refuseCode []
  else s.formStart m ident

/-- One command runs. In recovery the port answers STATUS, UPDATE and ENROLL alone (R489). -/
def State.command (s : State) : MgmtCmd → State
  | .status => s.answer 0 [s.boot.stage, if s.boot.recovery then 1 else 0]
  | .update stage image => ({ s with boot := { s.boot with nor := tput 0 s.boot.nor stage image } } : State).answer 0 []
  | .enroll key a b => s.enroll key a b
  | .partset n w => if s.boot.recovery then s else s.partset n w
  | .modnum n => if s.boot.recovery then s else s.modnum n
  | .errthr n => if s.boot.recovery then s
      else if n = 0 then s.answer 2 []
      else if 256 ≤ n then s.answer s.refuseCode []
      else ({ s with threshold := n } : State).answer 0 []
  | .chset n k w => if s.boot.recovery then s else s.mgmtSet n k w
  | .attest nonce => if s.boot.recovery then s else let r := s.report nonce.toNat; s.answer 0 (r ++ [Config.sign r])
  | .resync => if s.boot.recovery then s else s.answer 0 s.summary
  | .domform m ident => if s.boot.recovery then s else s.domform m ident

/-- A command arrives: it runs, or is queued behind a DOMFORM that runs, up to 16; a further one is refused with code 1
(R493). -/
def State.arrives (s : State) (i : MgmtCmd) : State :=
  if s.domain.forming.isNone ∧ s.boot.queue.isEmpty then s.command i
  else if s.boot.queue.length < 16 then { s with boot := { s.boot with queue := s.boot.queue ++ [i] } }
  else s.answer 1 []

/-- The first queued command runs once the port is free. -/
def State.nextCommand (s : State) : State :=
  match s.boot.queue with
  | i :: r => if s.domain.forming.isNone then ({ s with boot := { s.boot with queue := r } } : State).command i else s
  | [] => s

def execMgmtStatus (s : State) : Host.Outcome State Fault Refusal := .next (s.arrives .status)
def execMgmtUpdate (stage image : Nat) (s : State) : Host.Outcome State Fault Refusal := .next (s.arrives (.update stage image))
def execMgmtPartset (n : Nat) (w : Dword) (s : State) : Host.Outcome State Fault Refusal := .next (s.arrives (.partset n w))
def execMgmtModnum (n : Nat) (s : State) : Host.Outcome State Fault Refusal := .next (s.arrives (.modnum n))
def execMgmtErrthr (n : Nat) (s : State) : Host.Outcome State Fault Refusal := .next (s.arrives (.errthr n))
def execMgmtChset (n k : Nat) (w : Dword) (s : State) : Host.Outcome State Fault Refusal := .next (s.arrives (.chset n k w))
def execMgmtAttest (nonce : BitVec 256) (s : State) : Host.Outcome State Fault Refusal := .next (s.arrives (.attest nonce))
def execMgmtResync (s : State) : Host.Outcome State Fault Refusal := .next (s.arrives .resync)
def execMgmtEnroll (key : Nat) (signedByOld fromServer : Bool) (s : State) : Host.Outcome State Fault Refusal :=
  .next (s.arrives (.enroll key signedByOld fromServer))
def execMgmtDomform (m : Nat) (ident : Dword) (s : State) : Host.Outcome State Fault Refusal := .next (s.arrives (.domform m ident))

/-! ## Cooling (R495) -/

def execOutletTempHigh (s : State) : Host.Outcome State Fault Refusal := .next { s with boot := { s.boot with hot := true } }
def execOutletTempFall (s : State) : Host.Outcome State Fault Refusal := .next { s with boot := { s.boot with hot := false } }
end Sys2Proof.Machine
end

