-- ==== Sys2Proof/Machine/Spaces.lean ====
section
/-! DEFINITION. Stores to the control spaces (R398, R399, R401, R430, R432, R452, R478): what each does when it arrives. -/
namespace Sys2Proof.Machine
open Sys2Proof

/-- A store of n bytes of value v to a control space at offset off (R398 to R401, R415, R430, R432, R452, R478). A store
of less than a register's 8 bytes changes those bytes; a launch port takes a whole record, a doorbell 16 bytes. Of a store wider
than 8 bytes that covers several registers, of which the manual says nothing, the first register is written alone (DESIGN CHOICE,
log 29). -/
def State.spaceStore (s : State) (poster sp off n v : Nat) : Host.Outcome State Fault Refusal :=
  let o8 := off / 8 * 8
  let old := s.regWord sp o8
  let sh := off % 8 * 8
  let c := if 8 ≤ n then v % 2 ^ 64 else old - old / 2 ^ sh % 2 ^ (8 * n) * 2 ^ sh + v % 2 ^ (8 * n) * 2 ^ sh
  let w := BitVec.ofNat 64 c
  if sp = 2 then
    if off < 512 then execLaunchPortPost (off / 64) poster ⟨BitVec.ofNat 512 v, off % 64 = 0 && n = 64⟩ s
    else if o8 = 0x1200 ∧ bits c 33 32 = 1 then execLctlPreempt (bits c 47 40) (bits c 31 0) s
    else if o8 = 0x1200 ∧ bits c 33 32 = 2 then execLctlKill (bits c 47 40) (bits c 31 0) s
    else if o8 = 0x1300 then execSapoolWrite w s
    else .next s
  else if sp = 3 then
    if off = 0x1000 ∧ n = 8 then execFqResolve w s
    else if 0x1000 ≤ off then .next s
    else execRegisterWrite (if off % 16 < 8 then .fqDesc (off / 16) else .fqHead (off / 16)) w s
  else if sp = 4 then execRegisterWrite .sigHead w s
  else if sp = 5 then
    if off % 16 = 0 ∧ n = 16 then execDoorbell (off / 16) (BitVec.ofNat 64 v) (BitVec.ofNat 64 (v / 2 ^ 64)) s else .next s
  else if sp = 6 then execRegisterWrite .logHead w s
  else if off < 0x4000 then execRegisterWrite (.chset (off / 64) (off % 64 / 8)) w s
  else if off < 0xC000 then execRegisterWrite (.access ((off - 0x4000) / 128) ((off - 0x4000) % 128 / 8)) w s
  else if off < 0xC200 then execRegisterWrite (.foldAccess ((off - 0xC000) / 256) ((off - 0xC000) % 256 / 8)) w s
  else .next s

/-- The oldest store on its way to a control space arrives. -/
def State.regArrives (s : State) : Host.Outcome State Fault Refusal :=
  match s.regStores with
  | [] => .next s
  | r :: rest =>
    let s := { s with regStores := rest }
    match s.space? r.pa with
    | some (sp, off) => s.spaceStore r.poster sp off r.bytes.length (leNat r.bytes)
    | none => .next s

/-- Stores on their way to control spaces arrive, oldest first (at most n). -/
def State.regsArrive : Nat → State → State
  | 0, s => s
  | n + 1, s => if s.regStores.isEmpty then s else match s.regArrives with | .next t => State.regsArrive n t | _ => s

/-! ## Cooling (R495) -/

/-- Grids that have not ended. -/
def State.openGrids (s : State) : List Nat := (s.grids.filter (fun g => g.2.phase ≠ .ended)).map Prod.fst

/-- What the open grids have stored is performed, stores to control spaces too, but for what a lost core loses (R321). -/
def State.settleGrids (s : State) : State :=
  let gs := s.openGrids
  let cs := gs.flatMap s.gridCores
  let s := gs.foldl (fun s g => (s.lostCores (s.grid g) (s.gridCores g)).foldl State.loseStores s) s
  let s := s.drainIf (fun r => cs.contains r.core)
  State.regsArrive s.regStores.length s

/-- Every open grid ends KILLED, unless an earlier cause has decided its status (R440). -/
def State.killGrids (s : State) : State := s.openGrids.foldl (fun s g => s.endGrid g 5) s

/-- At 80 °C every grid ends KILLED, with its event and every store it issued performed before its status is stored, and the module is
held in recovery (R321, R489, R495). -/
def execOutletTempCritical (s : State) : Host.Outcome State Fault Refusal :=
  let s := s.killGrids.settleGrids.killGrids
  let s := s.openGrids.foldl State.finishGrid s
  let s := (State.regsArrive s.regStores.length s).toRecovery
  .next { s with
    boot := { s.boot with hot := true }
    grids := s.grids.map (fun (g : Nat × Grid) => (g.1, { g.2 with phase := .ended })) }

end Sys2Proof.Machine
end

