-- ==== Sys2Proof/Machine/Dispatch.lean ====
section
/-! DEFINITION. One arm for each instruction and each step of the hardware. -/
namespace Sys2Proof.Machine
open Sys2Proof

def exec (i : Instr) (s : State) : Host.Outcome State Fault Refusal :=
  match i with
  | .sadd o => Sys2Proof.Machine.execSadd o s
  | .ssub o => Sys2Proof.Machine.execSsub o s
  | .smul o => Sys2Proof.Machine.execSmul o s
  | .smulh o => Sys2Proof.Machine.execSmulh o s
  | .sdiv o => Sys2Proof.Machine.execSdiv o s
  | .srem o => Sys2Proof.Machine.execSrem o s
  | .smin o => Sys2Proof.Machine.execSmin o s
  | .smax o => Sys2Proof.Machine.execSmax o s
  | .sand o => Sys2Proof.Machine.execSand o s
  | .sor o => Sys2Proof.Machine.execSor o s
  | .sxor o => Sys2Proof.Machine.execSxor o s
  | .sandn o => Sys2Proof.Machine.execSandn o s
  | .sshl o => Sys2Proof.Machine.execSshl o s
  | .sshr o => Sys2Proof.Machine.execSshr o s
  | .ssra o => Sys2Proof.Machine.execSsra o s
  | .srol o => Sys2Proof.Machine.execSrol o s
  | .smov o => Sys2Proof.Machine.execSmov o s
  | .sli o => Sys2Proof.Machine.execSli o s
  | .sclz o => Sys2Proof.Machine.execSclz o s
  | .spop o => Sys2Proof.Machine.execSpop o s
  | .sbfx o => Sys2Proof.Machine.execSbfx o s
  | .sbfi o => Sys2Proof.Machine.execSbfi o s
  | .ssel o => Sys2Proof.Machine.execSsel o s
  | .scmp cc o => Sys2Proof.Machine.execScmp cc o s
  | .jmp o => Sys2Proof.Machine.execJmp o s
  | .brz o => Sys2Proof.Machine.execBrz o s
  | .brnz o => Sys2Proof.Machine.execBrnz o s
  | .brLt o => Sys2Proof.Machine.execBrLt o s
  | .brLe o => Sys2Proof.Machine.execBrLe o s
  | .brGt o => Sys2Proof.Machine.execBrGt o s
  | .brGe o => Sys2Proof.Machine.execBrGe o s
  | .call o => Sys2Proof.Machine.execCall o s
  | .brmAny o => Sys2Proof.Machine.execBrmAny o s
  | .brmAll o => Sys2Proof.Machine.execBrmAll o s
  | .brmNone o => Sys2Proof.Machine.execBrmNone o s
  | .jmpr o => Sys2Proof.Machine.execJmpr o s
  | .callr o => Sys2Proof.Machine.execCallr o s
  | .ret o => Sys2Proof.Machine.execRet o s
  | .exit o => Sys2Proof.Machine.execExit o s
  | .yield o => Sys2Proof.Machine.execYield o s
  | .sleep o => Sys2Proof.Machine.execSleep o s
  | .nop o => Sys2Proof.Machine.execNop o s
  | .elect o => Sys2Proof.Machine.execElect o s
  | .sleepto o => Sys2Proof.Machine.execSleepto o s
  | .trap o => Sys2Proof.Machine.execTrap o s
  | .tret o => Sys2Proof.Machine.execTret o s
  | .tretSkip o => Sys2Proof.Machine.execTretSkip o s
  | .tretPass o => Sys2Proof.Machine.execTretPass o s
  | .rdsr o => Sys2Proof.Machine.execRdsr o s
  | .rdsrC o => Sys2Proof.Machine.execRdsrC o s
  | .rdclk o => Sys2Proof.Machine.execRdclk o s
  | .vaddI32 o => Sys2Proof.Machine.execVaddI32 o s
  | .vsubI32 o => Sys2Proof.Machine.execVsubI32 o s
  | .vmulI32 o => Sys2Proof.Machine.execVmulI32 o s
  | .vmulhI32 o => Sys2Proof.Machine.execVmulhI32 o s
  | .vmadI32 o => Sys2Proof.Machine.execVmadI32 o s
  | .vminI32 o => Sys2Proof.Machine.execVminI32 o s
  | .vmaxI32 o => Sys2Proof.Machine.execVmaxI32 o s
  | .vabsI32 o => Sys2Proof.Machine.execVabsI32 o s
  | .vaddN32 o => Sys2Proof.Machine.execVaddN32 o s
  | .vsubN32 o => Sys2Proof.Machine.execVsubN32 o s
  | .vmulN32 o => Sys2Proof.Machine.execVmulN32 o s
  | .vmulhN32 o => Sys2Proof.Machine.execVmulhN32 o s
  | .vmadN32 o => Sys2Proof.Machine.execVmadN32 o s
  | .vminN32 o => Sys2Proof.Machine.execVminN32 o s
  | .vmaxN32 o => Sys2Proof.Machine.execVmaxN32 o s
  | .vand o => Sys2Proof.Machine.execVand o s
  | .vor o => Sys2Proof.Machine.execVor o s
  | .vxor o => Sys2Proof.Machine.execVxor o s
  | .vshl o => Sys2Proof.Machine.execVshl o s
  | .vshr o => Sys2Proof.Machine.execVshr o s
  | .vsra o => Sys2Proof.Machine.execVsra o s
  | .vsel o => Sys2Proof.Machine.execVsel o s
  | .vmov o => Sys2Proof.Machine.execVmov o s
  | .vcmpI32 cc o => Sys2Proof.Machine.execVcmpI32 cc o s
  | .vcmpN32 cc o => Sys2Proof.Machine.execVcmpN32 cc o s
  | .vbcast o => Sys2Proof.Machine.execVbcast o s
  | .vextr o => Sys2Proof.Machine.execVextr o s
  | .vlane o => Sys2Proof.Machine.execVlane o s
  | .vfaddF32 o => Sys2Proof.Machine.execVfaddF32 o s
  | .vfsubF32 o => Sys2Proof.Machine.execVfsubF32 o s
  | .vfmulF32 o => Sys2Proof.Machine.execVfmulF32 o s
  | .vfmaF32 o => Sys2Proof.Machine.execVfmaF32 o s
  | .vfminF32 o => Sys2Proof.Machine.execVfminF32 o s
  | .vfmaxF32 o => Sys2Proof.Machine.execVfmaxF32 o s
  | .vfsgnF32 o => Sys2Proof.Machine.execVfsgnF32 o s
  | .vfclassF32 o => Sys2Proof.Machine.execVfclassF32 o s
  | .vfaddBf16 o => Sys2Proof.Machine.execVfaddBf16 o s
  | .vfsubBf16 o => Sys2Proof.Machine.execVfsubBf16 o s
  | .vfmulBf16 o => Sys2Proof.Machine.execVfmulBf16 o s
  | .vfmaBf16 o => Sys2Proof.Machine.execVfmaBf16 o s
  | .vfminBf16 o => Sys2Proof.Machine.execVfminBf16 o s
  | .vfmaxBf16 o => Sys2Proof.Machine.execVfmaxBf16 o s
  | .vfsgnBf16 o => Sys2Proof.Machine.execVfsgnBf16 o s
  | .vfclassBf16 o => Sys2Proof.Machine.execVfclassBf16 o s
  | .vfaddF16 o => Sys2Proof.Machine.execVfaddF16 o s
  | .vfsubF16 o => Sys2Proof.Machine.execVfsubF16 o s
  | .vfmulF16 o => Sys2Proof.Machine.execVfmulF16 o s
  | .vfmaF16 o => Sys2Proof.Machine.execVfmaF16 o s
  | .vfminF16 o => Sys2Proof.Machine.execVfminF16 o s
  | .vfmaxF16 o => Sys2Proof.Machine.execVfmaxF16 o s
  | .vfsgnF16 o => Sys2Proof.Machine.execVfsgnF16 o s
  | .vfclassF16 o => Sys2Proof.Machine.execVfclassF16 o s
  | .vfcmp cc o => Sys2Proof.Machine.execVfcmp cc o s
  | .vexp o => Sys2Proof.Machine.execVexp o s
  | .vexp2 o => Sys2Proof.Machine.execVexp2 o s
  | .vlog2 o => Sys2Proof.Machine.execVlog2 o s
  | .vrcp o => Sys2Proof.Machine.execVrcp o s
  | .vrsqrt o => Sys2Proof.Machine.execVrsqrt o s
  | .vsqrt o => Sys2Proof.Machine.execVsqrt o s
  | .vsin o => Sys2Proof.Machine.execVsin o s
  | .vcos o => Sys2Proof.Machine.execVcos o s
  | .vtanh o => Sys2Proof.Machine.execVtanh o s
  | .vsigm o => Sys2Proof.Machine.execVsigm o s
  | .vgelu o => Sys2Proof.Machine.execVgelu o s
  | .vcvt o => Sys2Proof.Machine.execVcvt o s
  | .vtag o => Sys2Proof.Machine.execVtag o s
  | .vscaleApply o => Sys2Proof.Machine.execVscaleApply o s
  | .vscaleFind o => Sys2Proof.Machine.execVscaleFind o s
  | .vzpPack o => Sys2Proof.Machine.execVzpPack o s
  | .vzpExtr o => Sys2Proof.Machine.execVzpExtr o s
  | .vxlaneDn o => Sys2Proof.Machine.execVxlaneDn o s
  | .vxlaneUp o => Sys2Proof.Machine.execVxlaneUp o s
  | .vxlaneBfly o => Sys2Proof.Machine.execVxlaneBfly o s
  | .vshuf o => Sys2Proof.Machine.execVshuf o s
  | .vred o => Sys2Proof.Machine.execVred o s
  | .vscan o => Sys2Proof.Machine.execVscan o s
  | .vballot o => Sys2Proof.Machine.execVballot o s
  | .vtopk o => Sys2Proof.Machine.execVtopk o s
  | .vstatAcc o => Sys2Proof.Machine.execVstatAcc o s
  | .vstatRd o => Sys2Proof.Machine.execVstatRd o s
  | .vstatClr o => Sys2Proof.Machine.execVstatClr o s
  | .vrmax o => Sys2Proof.Machine.execVrmax o s
  | .vnorm o => Sys2Proof.Machine.execVnorm o s
  | .vfuse o => Sys2Proof.Machine.execVfuse o s
  | .itset o => Sys2Proof.Machine.execItset o s
  | .itrd o => Sys2Proof.Machine.execItrd o s
  | .sweep itn inner => Sys2Proof.Machine.execSweep itn inner s
  | .ld o => Sys2Proof.Machine.execLd o s
  | .st o => Sys2Proof.Machine.execSt o s
  | .sld o => Sys2Proof.Machine.execSld o s
  | .sst o => Sys2Proof.Machine.execSst o s
  | .ldx o => Sys2Proof.Machine.execLdx o s
  | .stx o => Sys2Proof.Machine.execStx o s
  | .amo o => Sys2Proof.Machine.execAmo o s
  | .cas o => Sys2Proof.Machine.execCas o s
  | .red o => Sys2Proof.Machine.execRed o s
  | .fence o => Sys2Proof.Machine.execFence o s
  | .barinit o => Sys2Proof.Machine.execBarinit o s
  | .bararr o => Sys2Proof.Machine.execBararr o s
  | .barwait o => Sys2Proof.Machine.execBarwait o s
  | .baraw o => Sys2Proof.Machine.execBaraw o s
  | .barq o => Sys2Proof.Machine.execBarq o s
  | .tqdef o => Sys2Proof.Machine.execTqdef o s
  | .tqdone o => Sys2Proof.Machine.execTqdone o s
  | .tqget o => Sys2Proof.Machine.execTqget o s
  | .rngget o => Sys2Proof.Machine.execRngget o s
  | .glaunch o => Sys2Proof.Machine.execGlaunch o s
  | .cpy o => Sys2Proof.Machine.execCpy o s
  | .cpyt o => Sys2Proof.Machine.execCpyt o s
  | .cpym o => Sys2Proof.Machine.execCpym o s
  | .gath o => Sys2Proof.Machine.execGath o s
  | .scat o => Sys2Proof.Machine.execScat o s
  | .cpyst o => Sys2Proof.Machine.execCpyst o s
  | .mxzero o => Sys2Proof.Machine.execMxzero o s
  | .mxmul o => Sys2Proof.Machine.execMxmul o s
  | .mxmulSp o => Sys2Proof.Machine.execMxmulSp o s
  | .mxpair o => Sys2Proof.Machine.execMxpair o s
  | .mxpairSp o => Sys2Proof.Machine.execMxpairSp o s
  | .mxrd o => Sys2Proof.Machine.execMxrd o s
  | .mxwr o => Sys2Proof.Machine.execMxwr o s
  | .mxbeta o => Sys2Proof.Machine.execMxbeta o s
  | .mxdelta o => Sys2Proof.Machine.execMxdelta o s
  | .mxsolve o => Sys2Proof.Machine.execMxsolve o s
  | .pwinit o => Sys2Proof.Machine.execPwinit o s
  | .pwjoin o => Sys2Proof.Machine.execPwjoin o s
  | .pwleave o => Sys2Proof.Machine.execPwleave o s
  | .pwrun o => Sys2Proof.Machine.execPwrun o s
  | .pwrunResume o => Sys2Proof.Machine.execPwrunResume o s
  | .pwwait o => Sys2Proof.Machine.execPwwait o s
  | .pwstat o => Sys2Proof.Machine.execPwstat o s
  | .btmap o => Sys2Proof.Machine.execBtmap o s
  | .btinv o => Sys2Proof.Machine.execBtinv o s
  | .btcow o => Sys2Proof.Machine.execBtcow o s
  | .kvput o => Sys2Proof.Machine.execKvput o s
  | .massdec o => Sys2Proof.Machine.execMassdec o s
  | .massmin o => Sys2Proof.Machine.execMassmin o s
  | .mfpr o => Sys2Proof.Machine.execMfpr o s
  | .mtpr o => Sys2Proof.Machine.execMtpr o s
  | .eret o => Sys2Proof.Machine.execEret o s
  | .tlbinv o => Sys2Proof.Machine.execTlbinv o s
  | .bufinv o => Sys2Proof.Machine.execBufinv o s
  | .cachefl o => Sys2Proof.Machine.execCachefl o s
  | .ctxsave o => Sys2Proof.Machine.execCtxsave o s
  | .ctxload o => Sys2Proof.Machine.execCtxload o s
  | .halt o => Sys2Proof.Machine.execHalt o s
  | .signal o => Sys2Proof.Machine.execSignal o s
  | .rep cnt str sel => Sys2Proof.Machine.execRep cnt str sel s
  | .groupSwap core => Sys2Proof.Machine.execGroupSwap core s
  | .forcedSwap core => Sys2Proof.Machine.execForcedSwap core s
  | .swapEnd core => Sys2Proof.Machine.execSwapEnd core s
  | .sleepWake core grp => Sys2Proof.Machine.execSleepWake core grp s
  | .sleeptoResume core grp => Sys2Proof.Machine.execSleeptoResume core grp s
  | .loadComplete core grp => Sys2Proof.Machine.execLoadComplete core grp s
  | .storePerform => Sys2Proof.Machine.execStorePerform s
  | .mscAtomicStep => Sys2Proof.Machine.execMscAtomicStep s
  | .gLineEvict core line => Sys2Proof.Machine.execGLineEvict core line s
  | .tqgetRearrive core grp => Sys2Proof.Machine.execTqgetRearrive core grp s
  | .tqgetDeadline core grp => Sys2Proof.Machine.execTqgetDeadline core grp s
  | .illegalInstruction sub => Sys2Proof.Machine.execIllegalInstruction sub s
  | .codeFetchFault sub va => Sys2Proof.Machine.execCodeFetchFault sub va s
  | .engineOpStart core serial => Sys2Proof.Machine.execEngineOpStart core serial s
  | .engineOpComplete core serial => Sys2Proof.Machine.execEngineOpComplete core serial s
  | .engineOpFault core serial code sub off => Sys2Proof.Machine.execEngineOpFault core serial code sub off s
  | .copyLateExpiry core serial => Sys2Proof.Machine.execCopyLateExpiry core serial s
  | .walkNode core => Sys2Proof.Machine.execWalkNode core s
  | .pageWalk core ctx va => Sys2Proof.Machine.execPageWalk core ctx va s
  | .faultQueuePost q => Sys2Proof.Machine.execFaultQueuePost q s
  | .serviceFaultPost core => Sys2Proof.Machine.execServiceFaultPost core s
  | .serviceEntryPreempt core => Sys2Proof.Machine.execServiceEntryPreempt core s
  | .serviceEntryRestore core => Sys2Proof.Machine.execServiceEntryRestore core s
  | .serviceEntryRequest core => Sys2Proof.Machine.execServiceEntryRequest core s
  | .preemptGang stop => Sys2Proof.Machine.execPreemptGang stop s
  | .gangResume grid => Sys2Proof.Machine.execGangResume grid s
  | .admissionStep => Sys2Proof.Machine.execAdmissionStep s
  | .gridEnd grid => Sys2Proof.Machine.execGridEnd grid s
  | .scoreboardMismatch core => Sys2Proof.Machine.execScoreboardMismatch core s
  | .signatureCompare core => Sys2Proof.Machine.execSignatureCompare core s
  | .recallComplete fold line => Sys2Proof.Machine.execRecallComplete fold line s
  | .requestRetry core => Sys2Proof.Machine.execRequestRetry core s
  | .wayReservationExpire fold set => Sys2Proof.Machine.execWayReservationExpire fold set s
  | .dieInvalidate die line => Sys2Proof.Machine.execDieInvalidate die line s
  | .ownerForward die line write => Sys2Proof.Machine.execOwnerForward die line write s
  | .writeback core line => Sys2Proof.Machine.execWriteback core line s
  | .dieDirectoryReport core line st => Sys2Proof.Machine.execDieDirectoryReport core line st s
  | .acknowledgement id => Sys2Proof.Machine.execAcknowledgement id s
  | .messageResend id => Sys2Proof.Machine.execMessageResend id s
  | .foldBridgeTimeout fold => Sys2Proof.Machine.execFoldBridgeTimeout fold s
  | .foldRehashSet set => Sys2Proof.Machine.execFoldRehashSet set s
  | .restripeGranule n => Sys2Proof.Machine.execRestripeGranule n s
  | .bankRefreshDue ch pc bank => Sys2Proof.Machine.execBankRefreshDue ch pc bank s
  | .allBankRefreshDone ch pc => Sys2Proof.Machine.execAllBankRefreshDone ch pc s
  | .fqResolve w => Sys2Proof.Machine.execFqResolve w s
  | .doorbell core lo hi => Sys2Proof.Machine.execDoorbell core lo hi s
  | .launchPortPost port poster store => Sys2Proof.Machine.execLaunchPortPost port poster store s
  | .lctlPreempt ctx gridid => Sys2Proof.Machine.execLctlPreempt ctx gridid s
  | .lctlKill ctx gridid => Sys2Proof.Machine.execLctlKill ctx gridid s
  | .sapoolWrite w => Sys2Proof.Machine.execSapoolWrite w s
  | .chsetEnable n => Sys2Proof.Machine.execChsetEnable n s
  | .chsetDisable n => Sys2Proof.Machine.execChsetDisable n s
  | .registerWrite r w => Sys2Proof.Machine.execRegisterWrite r w s
  | .shepherdFullBarrier n => Sys2Proof.Machine.execShepherdFullBarrier n s
  | .uncorrectableError core grp sub unit => Sys2Proof.Machine.execUncorrectableError core grp sub unit s
  | .correctedError unit => Sys2Proof.Machine.execCorrectedError unit s
  | .errorWindowReset => Sys2Proof.Machine.execErrorWindowReset s
  | .dirRead core line => Sys2Proof.Machine.execDirRead core line s
  | .dirWrite core line => Sys2Proof.Machine.execDirWrite core line s
  | .dirRed core line => Sys2Proof.Machine.execDirRed core line s
  | .flitReceive fold port vc seq crcOk => Sys2Proof.Machine.execFlitReceive fold port vc seq crcOk s
  | .flowStop fold port sign => Sys2Proof.Machine.execFlowStop fold port sign s
  | .flowGo fold port sign => Sys2Proof.Machine.execFlowGo fold port sign s
  | .linkTrain fold port lanesUp roundTrip => Sys2Proof.Machine.execLinkTrain fold port lanesUp roundTrip s
  | .domformMessage fold port peer peerFold m ident => Sys2Proof.Machine.execDomformMessage fold port peer peerFold m ident s
  | .domformTimeout => Sys2Proof.Machine.execDomformTimeout s
  | .foldDieFailure fold => Sys2Proof.Machine.execFoldDieFailure fold s
  | .foldRebuildComplete => Sys2Proof.Machine.execFoldRebuildComplete s
  | .moduleReset => Sys2Proof.Machine.execModuleReset s
  | .bootStageVerify version sig image => Sys2Proof.Machine.execBootStageVerify version sig image s
  | .mgmtStatus => Sys2Proof.Machine.execMgmtStatus s
  | .mgmtUpdate stage image => Sys2Proof.Machine.execMgmtUpdate stage image s
  | .mgmtPartset n w => Sys2Proof.Machine.execMgmtPartset n w s
  | .mgmtModnum n => Sys2Proof.Machine.execMgmtModnum n s
  | .mgmtErrthr n => Sys2Proof.Machine.execMgmtErrthr n s
  | .mgmtChset n k w => Sys2Proof.Machine.execMgmtChset n k w s
  | .mgmtAttest nonce => Sys2Proof.Machine.execMgmtAttest nonce s
  | .mgmtResync => Sys2Proof.Machine.execMgmtResync s
  | .mgmtEnroll key signedByOld fromServer => Sys2Proof.Machine.execMgmtEnroll key signedByOld fromServer s
  | .mgmtDomform m ident => Sys2Proof.Machine.execMgmtDomform m ident s
  | .outletTempHigh => Sys2Proof.Machine.execOutletTempHigh s
  | .outletTempCritical => Sys2Proof.Machine.execOutletTempCritical s
  | .outletTempFall => Sys2Proof.Machine.execOutletTempFall s

end Sys2Proof.Machine
end

