-- ==== Sys2Proof/Machine/Schedule.lean ====
section
/-! DEFINITION. What may happen next: the issues and the steps of the hardware that are enabled in a state, the choice
among them, and the passing of time (R19, R30, R34 to R38, R44, R302, R496; log 1, 2). -/
namespace Sys2Proof.Machine
open Sys2Proof

/-- An action in a list, when it is enabled. -/
def offer (p : Bool) (a : Action) : List Action := if p then [a] else []

/-! ## Issue slots (R35, R37, R496) -/

/-- A core whose team runs: its grid has not ended, the core is not stopped (R393), the module not in recovery. -/
def State.running (s : State) (c : Nat) : Bool :=
  match (s.coreAt c).team with
  | some t => (s.grid t.grid).phase ≠ .ending && (s.grid t.grid).phase ≠ .ended && !(s.coreAt c).stopped && !s.boot.recovery
  | none => false

/-- The groups of a core in the order in which a slot tries them: the service group (16; log 1), then the ready active
groups (R35). None of the team issues while a forced swap is due (R38). -/
def State.order (s : State) (c : Nat) (x : Core) : List Nat :=
  (if x.svcRun && x.svc.eligible ≠ 0 && !s.boot.recovery then [16] else [])
    ++ (match x.team with
        | some t => if s.running c && (s.forcedDue c).isNone then t.issueOrder.filter (s.groupReady c t) else []
        | none => [])

/-- The group that the next slot of a core goes to in this cycle: the first in order that has not issued in it, can issue,
and whose units are free; a swap takes one of the two slots in its 8 cycles (R35, R37, R496). -/
def State.slotGoesTo (s : State) (c : Nat) (x : Core) : Option Nat :=
  let sl := x.slots.at s.cycle
  let swaps : Bool := match x.team with | some t => t.swap.any (fun w => w.til ≤ s.cycle + 8) | none => false
  if (if swaps then 1 else 2) ≤ sl.grps.length then none
  else (s.order c x).find? (fun g => !sl.grps.contains g && s.groupCan c g
    && ({ s with core := c, grp := g } : State).unitsFree)

/-! ## Turns within a cycle (R47, R231, R402, R416) -/

def isTask (i : Instr) : Bool := match i with | .tqdef _ | .tqdone _ | .tqget _ => true | _ => false

/-- A core's TQGETs that wait, each with its group and its deadline, in the order of issue. -/
def Team.tqOrder (t : Team) : List (Nat × Nat) :=
  let ws := (List.range t.ngrp).flatMap (fun g => (t.group g).tqWaits.map (fun x => (g, x.2.2, x.1.kind.tqReq)))
  (ws.foldl (fun l x => insertBy (fun a b => a.2.2 < b.2.2) x l) []).map (fun x => (x.1, x.2.1))

/-- A step of a waiting TQGET of a core that is due in this cycle: its group, and whether it takes a task. The first takes one that
has reached it; otherwise any at its deadline returns (R416). -/
def State.tqStep (s : State) (c : Nat) (t : Team) : Option (Nat × Bool) :=
  if t.twin || !s.running c then none
  else
    let gr := s.grid t.grid
    let l := t.tqOrder
    match (if (gr.reached s.cycle c).isSome then l.head? else none) with
    | some (g, _) => some (g, true)
    | none => (l.find? (fun x => x.2 ≤ s.cycle)).map (fun x => (x.1, false))

/-- The lowest core of a grid with such a step: the one whose turn it is. -/
def State.tqNext (s : State) (grid : Nat) : Option (Nat × Nat × Bool) :=
  s.cores.findSome? (fun c => match c.2.team with
    | some t => if t.grid = grid then (s.tqStep c.1 t).map (fun x => (c.1, x)) else none
    | none => none)

/-- Whether a waiting TQGET of a core's group is the one whose turn it is: to take a task, or to end at its deadline (R416). -/
def State.tqTurn (s : State) (c g : Nat) (take : Bool) : Bool :=
  match (s.coreAt c).team with | some t => s.tqNext t.grid = some (c, g, take) | none => true

/-- Whether a post may be taken in this cycle after those taken (R402). -/
def State.postTurn (s : State) (poster : Nat) : Bool := s.lastPost.1 ≠ s.cycle || s.lastPost.2 ≤ poster + 1

/-- Whether a post of a core to the signal queue may be taken in this cycle after those taken (R398). -/
def State.sigTurn (s : State) (core : Nat) : Bool := s.lastSig.1 ≠ s.cycle || s.lastSig.2 ≤ core + 1

/-- Whether an issue keeps the order in which one cycle's steps are applied: at a task queue by core, waiting TQGETs of lower
cores and its own first; at RNGGET by TEAMID; at the launch ports by poster; at the signal queue by core. -/
def State.issueTurn (s : State) (c g : Nat) : Bool :=
  match ({ s with core := c, grp := g } : State).nextInstr, (s.coreAt c).team with
  | some (.signal _), _ => g ≠ 16 || s.sigTurn c
  | some i, some t =>
    if g = 16 then true
    else if isTask i then
      (s.grid t.grid).tqTurn s.cycle (issuePlace c) && (match s.tqNext t.grid with | some x => c < x.1 | none => true)
    else match i with
      | .rngget _ => (s.grid t.grid).rngLast.1 ≠ s.cycle || (s.grid t.grid).rngLast.2 ≤ t.teamid + 1
      | .glaunch _ => s.postTurn c
      | _ => true
  | _, _ => true

/-- The next store on its way to a control space may arrive. -/
def State.regTurn (s : State) : Bool :=
  match s.regStores with
  | r :: _ => (match s.space? r.pa with | some (2, off) => 512 ≤ off || s.postTurn r.poster | _ => true)
  | [] => false

/-- Whether an action keeps that order, records aside. -/
def State.orderly (s : State) : Action → Bool
  | .issue c g => s.issueTurn c g
  | .regArrives => s.regTurn
  | .input (.launchPortPost _ poster _) => s.postTurn poster
  | .input (.tqgetRearrive c g) => s.tqTurn c g true
  | .input (.tqgetDeadline c g) => s.tqTurn c g false
  | .hw (.serviceFaultPost c) => s.sigTurn c
  | _ => true

/-- What an issue leaves besides its instruction's effect: the slot and the units, and the turn. -/
def State.noteIssue (s was : State) (c g : Nat) : State :=
  let w : State := { was with core := c, grp := g }
  let s := s.modCore c (fun x => { x with slots := x.slots.take was.cycle g w.nextUnits })
  match w.nextInstr, (was.coreAt c).team with
  | some i, some t =>
    if g = 16 then s
    else if isTask i then s.modGrid t.grid (Grid.noteTq was.cycle (issuePlace c))
    else match i with
      | .rngget _ => s.modGrid t.grid (fun x => { x with rngLast := (was.cycle, t.teamid + 1) })
      | .glaunch _ => { s with lastPost := (was.cycle, c + 1) }
      | _ => s
  | _, _ => s

/-! ## Steps that are due (R37, R38, R152, R155, R235, R272, R416, R449, R463, R464, R467, R470) -/

/-- A thread of a group that is due to wake from SLEEP. -/
def Group.sleepOver (g : Group) (now : Nat) : Bool := g.waits.any (fun w => match w.kind with | .sleep til => til ≤ now | _ => false)

/-- The group of a core's waiting TQGET whose turn it is at its grid's queue. -/
def State.tqDue (s : State) (c : Nat) (t : Team) : List Action :=
  match s.tqNext t.grid with
  | some (d, g, take) => if d = c then [.hw (if take then .tqgetRearrive c g else .tqgetDeadline c g)] else []
  | none => []

/-- What is due at a core. -/
def State.coreDue (s : State) (c : Nat) (x : Core) : List Action :=
  offer (x.svcRun && x.svc.sleepOver s.cycle) (.hw (.sleepWake c 16)) ++ offer (x.svcRun && (s.waitOver c 16).isSome) (.hw (.sleeptoResume c 16))
    ++ (match x.team with
        | some t =>
          if !s.running c then []
          else (List.range t.ngrp).flatMap (fun g => offer ((t.group g).sleepOver s.cycle) (.hw (.sleepWake c g))
                ++ offer (s.waitOver c g).isSome (.hw (.sleeptoResume c g)))
            ++ s.tqDue c t
            ++ t.ops.flatMap (fun op => offer (s.isLate op) (.hw (.copyLateExpiry c op.serial)))
            ++ offer (s.swapDue c).isSome (.hw (.groupSwap c)) ++ offer (s.forcedDue c).isSome (.hw (.forcedSwap c))
            ++ offer (s.swapOver c) (.hw (.swapEnd c))
        | none => [])

/-- Everything that is due: time stands until it has happened. -/
def State.dueActions (s : State) : List Action :=
  s.cores.flatMap (fun c => s.coreDue c.1 c.2)
    ++ s.msgs.flatMap (fun m => offer (m.sent + 2 ^ 16 ≤ s.cycle) (.hw (.messageResend m.id)))
    ++ s.retries.flatMap (fun r => offer (r.due ≤ s.cycle) (.hw (.requestRetry r.core)))
    ++ s.folds.flatMap (fun f => (f.2.reserves.filter (fun r => r.til ≤ s.cycle)).map (fun r => Action.hw (.wayReservationExpire f.1 r.set)))
    ++ offer s.formLate .formLate ++ offer s.windowOver .windowOver

/-- Cycles at which something falls due at a group. -/
def Group.dueAt (g : Group) : List Nat :=
  g.waits.filterMap (fun w => match w.kind with | .sleep til => some til | .sleepto _ _ dl _ => some dl | .tqget _ dl _ _ => some dl | _ => none)

/-- Cycles at which something falls due at a core; a task that could not reach a waiting TQGET in this cycle reaches it in
the next (R416). -/
def State.coreDueAt (s : State) (c : Nat) (x : Core) : List Nat :=
  (if x.svcRun then x.svc.dueAt else [])
    ++ (match x.team with
        | some t =>
          if !s.running c then []
          else t.groups.flatMap (fun g => g.2.dueAt)
            ++ (if !t.tqOrder.isEmpty && (s.grid t.grid).firstReady.isSome then [s.cycle + 1] else [])
            ++ t.ops.flatMap (fun op => match op.budgetEnd with | some e => if op.phase = .done then [] else [e + 1] | none => [])
            ++ (match t.swap with | some w => [w.til] | none => []) ++ t.readySince.map (fun r => r.2 + 4096)
        | none => [])

def State.dueAt (s : State) : List Nat :=
  s.cores.flatMap (fun c => s.coreDueAt c.1 c.2) ++ s.msgs.map (fun m => m.sent + 2 ^ 16) ++ s.retries.map Retry.due
    ++ s.folds.flatMap (fun f => f.2.reserves.map Reserve.til) ++ s.domain.forming.toList ++ [(s.window + 1) * 2 ^ 29]

/-! ## Acting -/

/-- The words that an issue fetches: of a repeat, those of its target too (R130). -/
def State.issueWords (s : State) (i : Instr) (n : Nat) : Nat :=
  match i with
  | .rep _ _ _ => n + (match (s.instrAt (s.group.issuePc + 4)).2 with | .ok _ m => m | .illegal _ m => m | .fault _ _ => 0)
  | _ => n

/-- The issue of a group: the instruction at its issue program counter, or what stands for one (R134, R408); of a REP that is
no instruction, the lowest cause of the pair. The record names the target when that cause lies in its words alone; where the REP word
has the same cause, the REP (DESIGN CHOICE, log 22; R130). -/
def State.issueStep (s : State) (c g : Nat) : Host.Outcome State Fault Refusal :=
  if numCores ≤ c then .fault .noSuchCore
  else
    let s := { s with core := c, grp := g }
    match s.instrAt s.group.issuePc with
    | (s, .ok i n) => exec i (s.fetchReach s.group.issuePc (s.issueWords i n))
    | (s, .illegal sub n) =>
      let s := s.fetchReach s.group.issuePc n
      match s.repTarget with
      | some n => if n < sub then .next (repStop 0 0 0 (s.group.issuePc + 4) { code := 1, sub := n } s) else exec (.illegalInstruction sub) s
      | none => exec (.illegalInstruction sub) s
    | (s, .fault sub va) => exec (.codeFetchFault sub va) s

/-- A change of the state that an outcome holds. -/
def thenOn (f : State → State) : Host.Outcome State Fault Refusal → Host.Outcome State Fault Refusal
  | .next s => .next (f s)
  | o => o

/-- What the outside may start: a step of the hardware, but no issue. -/
def isInput : Instr → Bool
  | .illegalInstruction _ | .codeFetchFault _ _ => false
  | i => i.form.isNone

def State.act (s : State) : Action → Host.Outcome State Fault Refusal
  | .issue c g => thenOn (fun t => t.noteIssue s c g) (s.issueStep c g)
  | .hw i => exec i s
  | .input i => let s := { s with inputs := s.inputs.drop 1 }; if isInput i then exec i s else .next s
  | .goes k vc => execFlowGo (k / 18) (k % 18) { vc := vc } s
  | .formLate => execDomformTimeout s
  | .windowOver => execErrorWindowReset s
  | .rebuilt => execFoldRebuildComplete s
  | .regArrives => s.regArrives
  | .nextCommand => .next s.nextCommand
  | .pass => .next s

/-- An action would record a trap after one of a higher core, or open a frame after one of a higher core or group, in this cycle: it
comes in a later one (R437, R438). Of an action that performs queued stores, those that fault out of that order go first, one by one. -/
def State.comesLate (s : State) (a : Action) : Bool :=
  (s.trapPlace ≠ 0 || s.stores.any (fun r => r.core ≠ (s.stores.headD r).core) || !s.stores.isEmpty && s.cores.any (fun c => !c.2.partials.isEmpty))
    && (match s.act a with | .next t => t.noteEnded.recLate | _ => false)

/-- What is due and may happen in this cycle. -/
def State.dueNow (s : State) : List Action := s.dueActions.filter (fun a => !s.comesLate a)

/-- Whether an action may come now. While a store to a launch port waits for its poster's turn in the next cycle, only what is due
may (R300, R402). -/
def State.inTurn (s : State) (a : Action) : Bool :=
  s.orderly a && (s.regStores.isEmpty || a = .regArrives || a = .pass || s.dueActions.contains a) && !s.comesLate a

/-! ## The passing of time -/

/-- The next cycle at which something falls due. -/
def State.nextDue (s : State) : Option Nat := (s.dueAt.filter (fun n => s.cycle < n)).min?

/-- The cycle after a step: any later one, at least `least` later, but none past the next at which something falls due, and
none while something is due (log 2). -/
def State.nextCycle (s : State) (least : Nat) : Nat :=
  if !s.dueNow.isEmpty then s.cycle
  else
    let n := s.cycle + max least (Config.elapsed s.tick)
    match s.nextDue with | some d => min n d | none => n

/-! ## Of a core -/

/-- A result of a group that has arrived. -/
def Group.hasResult (g : Group) : Bool := g.outstanding.any (fun o => o.req = 0)

/-- What may happen to one engine operation. -/
def State.opActions (s : State) (c : Nat) (t : Team) (op : EngOp) : List Action :=
  offer (s.canStart c t op) (.hw (.engineOpStart c op.serial)) ++ offer (s.canComplete c t op) (.hw (.engineOpComplete c op.serial))

/-- What may happen at a running team, its issues and what is due aside. -/
def State.teamActions (s : State) (c : Nat) (t : Team) : List Action :=
  (List.range t.ngrp).flatMap (fun g => offer (t.group g).hasResult (.hw (.loadComplete c g)))
    ++ t.ops.flatMap (fun op => s.opActions c t op)
    ++ offer (!t.walkOver && !s.walkWaits c t) (.hw (.walkNode c))
    ++ offer (s.compareDue c).isSome (.hw (.signatureCompare c))

/-- The issue of a core. -/
def State.issueActions (s : State) (c : Nat) (x : Core) : List Action := ((s.slotGoesTo c x).map (fun g => Action.issue c g)).toList

/-- What may happen at a core besides, its service group and its near cache included. -/
def State.coreActions (s : State) (c : Nat) (x : Core) : List Action :=
  offer (x.svcRun && x.svc.hasResult) (.hw (.loadComplete c 16))
    ++ offer (x.svcFault.isSome && !s.sigFull) (.hw (.serviceFaultPost c))
    ++ offer (x.preemptDue && s.svcClear c) (.hw (.serviceEntryPreempt c)) ++ offer (x.restoreDue && s.svcClear c) (.hw (.serviceEntryRestore c))
    ++ offer (x.requestDue && s.svcClear c) (.hw (.serviceEntryRequest c))
    ++ (x.lines.filter (fun l => l.2 = .g)).map (fun l => Action.hw (.gLineEvict c l.1))
    ++ (match x.team with | some t => if s.running c then s.teamActions c t else [] | none => [])

/-! ## Of the module -/

/-- Grids that end, stop or go on; admission. -/
def State.gridActions (s : State) : List Action :=
  s.grids.flatMap (fun g => offer (s.gridDue g.1) (.hw (.gridEnd g.1)) ++ offer (s.preemptReady g.1) (.hw (.preemptGang ⟨g.1, []⟩))
      ++ offer (s.gangLoaded g.1) (.hw (.gangResume g.1)))
    ++ offer s.admissionDue (.hw .admissionStep)

/-- Messages and requests of the directories; a receiver that has sent STOP sends GO when it has read its buffer down (R469). -/
def State.cohActions (s : State) : List Action :=
  s.ports.flatMap (fun p => p.2.stopped.map (fun vc => Action.goes p.1 vc)) ++
  (s.msgs.filter s.sent).map (fun m => if s.ackHeld m.id then .hw (.dieInvalidate (s.ptrDie m.dst) m.line) else .hw (.acknowledgement m.id))
    ++ s.folds.flatMap (fun f =>
      (f.2.entries.filter (fun e => e.fst = 5 && s.dirWaits.any (fun w => w.line = e.line && w.kind = 2 && w.msgs.isEmpty))).map
        (fun e => Action.hw (.recallComplete f.1 e.line)))

/-- The failure of a fold die; nothing of it goes on in recovery (R489). -/
def State.foldActions (s : State) : List Action :=
  if s.boot.recovery then []
  else offer (s.domain.safeOf.isSome && !s.domain.rebuilt) .rebuilt
    ++ (match s.domain.nextSet with | some n => [.hw (.foldRehashSet n)] | none => [])

/-- The queue of writes, stores to control spaces, the fault queues, walks in flight, restriping, all-bank refreshes, the
management port. -/
def State.memActions (s : State) : List Action :=
  (match s.stores with | [] => [] | _ => [if s.storeNext then .hw .storePerform else .hw .mscAtomicStep])
    ++ offer (!s.regStores.isEmpty) .regArrives
    ++ s.fqs.flatMap (fun q => offer (!q.2.waiting.isEmpty && !q.2.full) (.hw (.faultQueuePost q.1)))
    ++ (s.walks.filter (fun w => w.res.isSome)).map (fun w => Action.hw (.pageWalk (24 * w.die) w.ctx (65536 * w.page)))
    ++ s.chsets.flatMap (fun x => offer (x.2.state = 2) (.hw (.restripeGranule x.1)))
    ++ s.allBank.map (fun p => Action.hw (.allBankRefreshDone (p.1 / 2) (p.1 % 2)))
    ++ offer (!s.boot.queue.isEmpty && s.domain.forming.isNone) .nextCommand

/-- Everything that may happen next. When no core can issue and nothing is due, time may just pass. -/
def State.actions (s : State) : List Action :=
  let due := s.dueActions
  let issues := s.cores.flatMap (fun c => s.issueActions c.1 c.2)
  due ++ issues ++ s.cores.flatMap (fun c => s.coreActions c.1 c.2) ++ s.gridActions ++ s.memActions ++ s.cohActions ++ s.foldActions
    ++ offer (s.dueNow.isEmpty && issues.all (fun a => !s.inTurn a)) .pass

/-! ## The next one (R34, R35, R44) -/

/-- Enabled actions with the step since which each has been enabled, the oldest first. -/
def offersOf (old : List Offer) (acts : List Action) (now : Nat) : List Offer :=
  old.filter (fun o => acts.contains o.act) ++ (acts.filter (fun a => old.all (fun o => o.act ≠ a))).map (fun a => ⟨a, now⟩)

/-- Actions that must happen at last: all but the eviction of a G line. -/
def Action.owed : Action → Bool
  | .hw (.gLineEvict _ _) => false
  | _ => true

/-- An action that has waited for more steps than the device lets any wait. -/
def Offer.overdue (now : Nat) (o : Offer) : Bool := o.act.owed && o.since + Config.patience < now

/-- Of several actions: one in turn that is overdue, the oldest first, or a free choice among those in turn (log 1). -/
def State.pick (s : State) (os : List Offer) : Action :=
  match os.find? (fun o => o.overdue s.tick && s.inTurn o.act) with
  | some o => o.act
  | none =>
    let l := os.filter (fun o => s.inTurn o.act)
    (l.getD (s.choice 0 % l.length) ⟨.pass, 0⟩).act

/-- The next enabled action, and the offers that stay. -/
def State.chosen (s : State) : Action × List Offer :=
  match s.actions with
  | [] => (.pass, [])
  | [a] => (if s.inTurn a then a else .pass, [])
  | acts =>
    let os := offersOf s.offered acts s.tick
    let a := s.pick os
    (a, os.filter (fun o => o.act ≠ a))

/-- The step's own action: an input whose turn it is, else one that is enabled. -/
def State.nextAction (s : State) : Action × List Offer :=
  match s.inputs with
  | i :: _ => if s.inTurn (.input i) then (.input i, s.offered) else s.chosen
  | [] => s.chosen

/-- Stores to control spaces take effect in the step that performs them, in order, but for one whose turn comes in the next cycle
(R300, R402). -/
def State.flushRegs : Nat → State → State
  | 0, s => s
  | n + 1, s => if s.regTurn then (match s.regArrives with | .next t => State.flushRegs n t | _ => s) else s

/-- What every step does besides its action: stores to control spaces arrive, faults of ended teams are recorded (R246), time goes
on, groups that have become ready and waits for the copy queue are noted (R37, R272). -/
def State.after (least : Nat) (s : State) : State :=
  let s := (State.flushRegs s.regStores.length s).noteEnded.noteBumps
  let s : State := { s with tick := s.tick + 1, recLate := false }
  ({ s with cycle := s.nextCycle least } : State).noteReady.noteWaits

/-- Cycles that an action takes at least. -/
def Action.least : Action → Nat
  | .pass => 1
  | _ => 0

/-! ## Placing one instruction -/

/-- The launch record of a team alone on core 0: context 1, code at 0x100000, 768 vector registers, one group, the
largest scratchpad beside them and 5 accumulator tiles. -/
def fetchRecord : BitVec 512 :=
  BitVec.ofNat 512 (0x100000 * 2 ^ 192 + 1 * 2 ^ 168 + (56 + 4 * 1024) * 2 ^ 128 + 96 * 2 ^ 89 + 1 * 2 ^ 72 + 1 * 2 ^ 68 + 20)

/-- The context table at 0 with context 1 valid, its page table at 0x1000 and 0x2000 (one leaf of 1 GiB at 0 with every
right), its buffer table at 0x20000. -/
def fetchTables : List (Nat × Nat) :=
  [(64, 2 ^ 63), (72, 1 * 2 ^ 24 + 2 * 2 ^ 76 % 2 ^ 64), (80, 2 * 2 ^ 12), (0x1000, 0x2000 + 4), (0x2000, 8 + 2 ^ 55 + 2 ^ 56 + 2 ^ 57)]

/-- A machine whose only enabled action is the issue of the instruction with these bits, at code offset 0 of a team on
core 0 (log 16). -/
def State.placed (s : State) (nbits w : Nat) : State :=
  let s1 : State := { State.reset with
    tick := s.tick, cycle := s.cycle, window := s.cycle / 2 ^ 29, mem := s.mem
    boot := { State.reset.boot with base := [] }
    chsets := [(0, { chmask := 1, nlive := 1, state := 1, csize := 24576, en := true })]
    access := [(0, BitVec.ofNat 64 (0xFFFF * 2 ^ 48 + 3 * 2 ^ 44 + 0x7FFF * 2 ^ 15))] }
  let s2 := fetchTables.foldl (fun (s : State) p => s.setBytes p.1 (leBytes 8 p.2)) s1
  let s3 := s2.setBytes 0x100000 ((tableWords nbits w).flatMap (leBytes 4))
  let t := Rec.team fetchRecord 0 (s3.ctxEntry 1) 0
  { s3 with
    cores := [(0, { team := some t })]
    grids := [(0, { record := fetchRecord, phase := .resident, place := [0], clSlot := [0] })]
    nextGrid := 1 }

end Sys2Proof.Machine
end

