-- ==== Sys2Proof/Safety.lean ====
section
/-! DEFINITION. The terms of the claims: when an issue has nothing in its way, what an issue leaves alone, and what a safe
run is. -/
namespace Sys2Proof.Machine
open Sys2Proof

/-- The group that issues stands on its core: the service group, or a group of a team that is there. -/
def State.present (s : State) : Bool := s.isSvc || (s.coreAt s.core).team.isSome

/-- Instruction i has nothing in its way: its group is there, a thread is eligible, no result that it needs is on its
way (R125), and no thread promised not to touch its registers (R126). -/
def State.quiet (i : Instr) (s : State) : Bool :=
  s.present && s.group.issueSet != 0 && s.group.outstanding.all (fun o => !o.hits (namesOf i ++ hiddenOf i))
    && (List.range 64).all (fun l => !s.group.promised (namesOf i) l)

/-- The threads that perform instruction i: the issue set under its guard (R31). -/
def State.doers (i : Instr) (s : State) : Dword := guardSet s.group s.group.issueSet (guardOf i)

/-- Nothing outside the issuing group has changed: no memory, no other core, no register of the module. -/
def OnlyGroup (s t : State) : Prop := ∃ f, t = s.modGroup f

/-- Exited threads, trap frame and pending results of a group are unchanged. -/
structure Group.SameControl (g h : Group) : Prop where
  exited : h.exited = g.exited
  frame : h.frame = g.frame
  trapmask : h.trapmask = g.trapmask
  retpc : h.retpc = g.retpc
  retrep : h.retrep = g.retrep
  trapinfo : h.trapinfo = g.trapinfo
  outstanding : h.outstanding = g.outstanding

/-- The threads of p stand at `dest`, the others of the issue set at the next instruction, n words on; all are outside a
repeat, and no other thread has moved (R31, R144). -/
def Group.Went (g h : Group) (n : Nat) (p : Dword) (dest : Nat) : Prop :=
  ∀ l < 64, tget 0 h.pc l =
      (if p.getLsbD l then dest else if g.issueSet.getLsbD l then g.issuePc + 4 * n else tget 0 g.pc l)
    ∧ tget 0 h.repcnt l = (if g.issueSet.getLsbD l then 0 else tget 0 g.repcnt l)

/-- t is s after an issue of i that changed registers of its group and no more: the frame of such an instruction. What
may differ: registers, FLAGS, and the windows and waits that every issue counts down (R33, R126). -/
structure IssueFrame (i : Instr) (s t : State) (p : Dword) (dest : Nat) : Prop where
  only : OnlyGroup s t
  control : s.group.SameControl t.group
  went : s.group.Went t.group (wordsOf i) p dest

/-- Every scalar register but those listed is unchanged. -/
def SameS (but : List Nat) (g h : Group) : Prop := ∀ n, n ∉ but → h.sreg n = g.sreg n
/-- Every vector register but those listed is unchanged, with its tag. -/
def SameV (but : List Nat) (g h : Group) : Prop := ∀ n, n ∉ but → h.vreg n = g.vreg n
/-- Every mask register but those listed is unchanged. -/
def SameM (but : List Nat) (g h : Group) : Prop := ∀ n, n ∉ but → tget 0 h.m n = tget 0 g.m n
/-- Every iterator record but those listed is unchanged. -/
def SameIt (but : List Nat) (g h : Group) : Prop := ∀ n, n ∉ but → h.iter n = g.iter n

/-- A register of tag `tag` holds f in the lanes of p and what it held in the others (R54); without lanes nothing is
written. -/
def WroteV (p : Dword) (n tag : Nat) (f : Nat → Word) (g h : Group) : Prop :=
  if p = 0 then h.vreg n = g.vreg n
  else h.tag n = tag ∧ ∀ l < 64, h.lane n l = if p.getLsbD l then f l else g.lane n l

/-- The sticky flags fl are set and no flag is cleared (R71, R72). -/
def RaisedFlags (fl : Nat) (g h : Group) : Prop := h.flags = g.flags ||| BitVec.ofNat 64 fl


/-- An issue of i that writes no more than the listed scalar, vector, mask and iterator registers, and FLAGS, and moves
the threads of p to `dest`. -/
structure Changes (i : Instr) (ss vs ms its : List Nat) (s t : State) (p : Dword := 0) (dest : Nat := 0) : Prop where
  frame : IssueFrame i s t p dest
  scalars : SameS ss s.group t.group
  vectors : SameV vs s.group t.group
  masks : SameM ms s.group t.group
  iters : SameIt its s.group t.group

/-- No register of the group has changed. -/
structure Group.SameRegisters (g h : Group) : Prop where
  scalars : SameS [] g h
  vectors : SameV [] g h
  masks : SameM [] g h
  iters : SameIt [] g h
  flags : h.flags = g.flags

/-- Threads `ls` have left the open frame of a group; the last one closes it and restores s1 (R163, R164). -/
structure Group.LeftFrame (g h : Group) (ls : Dword) : Prop where
  stays : g.frame = none ∨ g.trapmask &&& ls = 0 → h.frame = g.frame ∧ h.trapmask = g.trapmask ∧ SameS [] g h
  some : g.frame ≠ none → g.trapmask &&& ls ≠ 0 → g.trapmask &&& ~~~ls ≠ 0 →
    h.frame = g.frame ∧ h.trapmask = g.trapmask &&& ~~~ls ∧ SameS [] g h
  last : ∀ f, g.frame = Option.some f → g.trapmask &&& ls ≠ 0 → g.trapmask &&& ~~~ls = 0 →
    h.frame = none ∧ h.trapmask = 0 ∧ h.sreg 1 = f.savedS1 ∧ SameS [1] g h

/-- The traps r open a frame in s: a handler is enabled, block b is the lowest free one, and the records can be written
at the places ps, in the state u that the translations leave (R160, R437, R438). -/
structure FrameOpens (s : State) (r : Raised) (b : Nat) (ps : List (Acc × Nat)) (u : State) : Prop where
  team : s.isSvc = false
  none : s.group.frame = none
  handler : s.team.hEn = true
  long : 8192 ≤ (s.recLength s.team.ctx).2
  free : (List.range ((s.recLength s.team.ctx).2 / 4096 - 1)).find? (fun b => !(s.blocksHeld s.team.ctx).contains b) = some b
  places : (s.recLength s.team.ctx).1.framePlaces (4096 + 4096 * b)
    ((s.recLength s.team.ctx).1.frameRecords s.group.issuePc r) = (u, some ps)

/-- The frame of the threads p stands open after an issue of i, in block b: each thread keeps what it trapped with, `info`,
stands at the handler, and returns where it trapped; s1 points at the block and keeps its value, no other register has
changed; the other threads of the issue have gone on; of memory the records alone are written (R160, R161). -/
structure FrameOpened (i : Instr) (s t u : State) (p : Dword) (tog : Bool) (info : TrapInfo) (b : Nat) (ps : List (Acc × Nat)) :
    Prop where
  frame : t.group.frame = some { block := b, savedS1 := s.group.s1Now, tog := tog, low := lowLane p }
  saved : s.group.outstanding = [] → s.group.s1Now = s.group.sreg 1
  trapmask : t.group.trapmask = p
  pointer : t.group.sreg 1 = BitVec.ofNat 64 (4096 + 4096 * b)
  scalars : SameS [1] s.group t.group
  vectors : SameV [] s.group t.group
  masks : SameM [] s.group t.group
  iters : SameIt [] s.group t.group
  flags : t.group.flags = s.group.flags
  exited : t.group.exited = s.group.exited
  trapped : ∀ l < 64, p.getLsbD l = true → tget 0 t.group.pc l = s.team.hAddr ∧ tget 0 t.group.repcnt l = 0
    ∧ tget 0 t.group.retpc l = s.group.issuePc ∧ tget 0 t.group.retrep l = tget 0 s.group.repcnt l
    ∧ tget {} t.group.trapinfo l = info
  others : ∀ l < 64, p.getLsbD l = false → tget 0 t.group.pc l =
    if s.group.issueSet.getLsbD l then s.group.issuePc + 4 * wordsOf i else tget 0 s.group.pc l
  records : t.mem = (ps.foldl (fun (s : State) q => s.putAcc (dieOf s.core) q.1 (leBytes 64 q.2)) u).mem
  outside : ∀ key, (∀ q ∈ ps, ∀ k, q.1 = .mem k → key < k ∨ k + 64 ≤ key) → t.byte key = s.byte key

/-- Whatever request a home keeps waiting waits for messages alone that a request may wait for (R468). -/
def State.waitsOk (s : State) : Bool := s.dirWaits.all (fun w => s.msgs.all (fun m => !w.msgs.contains m.id || vcMayWait 0 m.vc))

/-- The magnitude of a finite code, as a rational number; 0 for a NaN and an infinity (R51 to R53). -/
def Fmt.mag (f : Fmt) (c : Nat) : ℚ := match f.val c with | .fin _ m e => m * (2 : ℚ) ^ e | _ => 0

/-- The flags that any lane of p raises (R72). -/
def flagsOf (p : Dword) (f : Nat → Nat) : Nat := (lanesOf p).foldl (fun a l => a ||| f l) 0

end Sys2Proof.Machine
end

