-- ==== Sys2Proof/Certificates/Slice0/Obligations.lean ====
section
/-! DEFINITION. The statements for the provers. -/
open Sys2Proof Sys2Proof.Machine

/-! ## Scalar instructions -/

/-- R137 to R140, R143: each scalar instruction completes and writes its result to sD and nothing else; a write to s0 is
discarded and s0 reads as 0. So do the counts of SCLZ and SPOP, and the bit fields of SBFX and SBFI. -/
def Obligations.ScalarResults : Prop :=
  (∀ (mk : SOps → Instr) (f : Bool → Dword → Dword → Dword → Dword), (mk, f) ∈ ([
       (.sadd, fun _ _ a b => a + b), (.ssub, fun _ _ a b => a - b), (.smul, fun _ _ a b => a * b),
       (.smulh, fun u _ a b => if u then BitVec.ofInt 64 ((a.toNat * b.toNat : Int) / 2 ^ 64) else BitVec.ofInt 64 (a.toInt * b.toInt / 2 ^ 64)),
       (.smin, fun u _ a b => if u then (if a.toNat ≤ b.toNat then a else b) else if a.toInt ≤ b.toInt then a else b),
       (.smax, fun u _ a b => if u then (if b.toNat ≤ a.toNat then a else b) else if b.toInt ≤ a.toInt then a else b),
       (.sand, fun _ _ a b => a &&& b), (.sor, fun _ _ a b => a ||| b), (.sxor, fun _ _ a b => a ^^^ b),
       (.sandn, fun _ _ a b => a &&& ~~~b), (.sshl, fun _ _ a b => a <<< (b.toNat % 64)),
       (.sshr, fun _ _ a b => a >>> (b.toNat % 64)), (.ssra, fun _ _ a b => a.sshiftRight (b.toNat % 64)),
       (.srol, fun _ _ a b => a <<< (b.toNat % 64) ||| a >>> (64 - b.toNat % 64)),
       (.smov, fun _ _ _ b => b), (.sli, fun _ _ _ b => b), (.ssel, fun _ d a b => if d = 0 then b else a)] :
         List ((SOps → Instr) × (Bool → Dword → Dword → Dword → Dword))) →
     ∀ (o : SOps) (s : State), s.quiet (mk o) = true →
       ∃ t, exec (mk o) s = .next t ∧ Changes (mk o) [o.d] [] [] [] s t
         ∧ t.group.sreg o.d = (if o.d = 0 then 0 else f o.u (s.group.sreg o.d) (opA s.group o) (opB s.group o))
         ∧ t.group.flags = s.group.flags)
  ∧ (∀ (mk : SOps → Instr) (ok : Bool → Dword → Dword → Dword → Dword → Prop), (mk, ok) ∈ ([
         (.sclz, fun _ _ a _ r => r.toNat ≤ 64 ∧ (∀ k < r.toNat, a.getLsbD (63 - k) = false)
           ∧ (r.toNat < 64 → a.getLsbD (63 - r.toNat) = true)),
         (.spop, fun _ _ a _ r => r.toNat = ((List.range 64).filter (fun k => a.getLsbD k)).length),
         (.sbfx, fun u _ a b r =>
           let p := b.toNat % 64
           let w := min (b.toNat / 64 % 128) (64 - p)
           ∀ k < 64, r.getLsbD k = if k < w then a.getLsbD (p + k) else !u && decide (0 < w) && a.getLsbD (p + w - 1)),
         (.sbfi, fun _ d a b r =>
           let p := b.toNat % 64
           let w := min (b.toNat / 64 % 128) (64 - p)
           ∀ k < 64, r.getLsbD k = if p ≤ k ∧ k < p + w then a.getLsbD (k - p) else d.getLsbD k)] :
           List ((SOps → Instr) × (Bool → Dword → Dword → Dword → Dword → Prop))) →
       ∀ (o : SOps) (s : State), s.quiet (mk o) = true →
         ∃ t, exec (mk o) s = .next t ∧ Changes (mk o) [o.d] [] [] [] s t
           ∧ (o.d ≠ 0 → ok o.u (s.group.sreg o.d) (opA s.group o) (opB s.group o) (t.group.sreg o.d))
           ∧ t.group.flags = s.group.flags)

/-- R141, R142: SCMP writes 1 or 0 to sD as its condition holds or not. SDIV and SREM complete for every divisor: quotients
are truncated, the remainder has the dividend's sign, and DZ alone is set, for a nonzero dividend over 0. -/
def Obligations.ScalarCompareAndDivide : Prop :=
  (∀ (cc : Nat) (o : SOps) (s : State), cc < 6 → s.quiet (.scmp cc o) = true →
     ∃ t, exec (.scmp cc o) s = .next t ∧ Changes (.scmp cc o) [o.d] [] [] [] s t
       ∧ (o.d ≠ 0 → t.group.sreg o.d =
           let a := opA s.group o
           let b := opB s.group o
           let x : Int := if o.u then a.toNat else a.toInt
           let y : Int := if o.u then b.toNat else b.toInt
           if cc = 0 ∧ a = b ∨ cc = 1 ∧ a ≠ b ∨ cc = 2 ∧ x < y ∨ cc = 3 ∧ x ≤ y ∨ cc = 4 ∧ y < x ∨ cc = 5 ∧ y ≤ x then 1
           else 0)
       ∧ t.group.flags = s.group.flags)
  ∧ (∀ (rem : Bool) (o : SOps) (s : State), let i := if rem then Instr.srem o else Instr.sdiv o
       s.quiet i = true →
       ∃ t, exec i s = .next t ∧ Changes i [o.d] [] [] [] s t
         ∧ (let a := opA s.group o
            let b := opB s.group o
            let x : Int := if o.u then a.toNat else a.toInt
            let y : Int := if o.u then b.toNat else b.toInt
            (o.d ≠ 0 → t.group.sreg o.d =
               if b = 0 then (if rem then a else 0) else BitVec.ofInt 64 (if rem then x - y * x.tdiv y else x.tdiv y))
             ∧ RaisedFlags (if b = 0 ∧ a ≠ 0 then 2 else 0) s.group t.group))

/-! ## Branches, calls and waits -/

/-- R144 to R148: a displacement branch moves the guard-true threads to its target when its condition holds, and the other
threads of the issue set to the next instruction; no register changes. CALL and CALLR also write the return address to s63,
CALLR having read its target; JMPR and RET jump to a register; a target that is no multiple of 4 raises ALIGNMENT 0x01
for the guard-true threads together, which open a frame, and s63 is not written. -/
def Obligations.BranchesAndCalls : Prop :=
  (∀ (mk : BOps → Instr) (cond : BOps → Group → Dword → Prop), (mk, cond) ∈ ([
       (.jmp, fun _ _ _ => True), (.brz, fun o g _ => g.sreg o.a = 0), (.brnz, fun o g _ => g.sreg o.a ≠ 0),
       (.brLt, fun o g _ => (g.sreg o.a).toInt < 0), (.brLe, fun o g _ => (g.sreg o.a).toInt ≤ 0),
       (.brGt, fun o g _ => 0 < (g.sreg o.a).toInt), (.brGe, fun o g _ => 0 ≤ (g.sreg o.a).toInt),
       (.brmAny, fun o g p => g.mreg g.issueSet o.a &&& p ≠ 0), (.brmAll, fun o g p => g.mreg g.issueSet o.a &&& p = p),
       (.brmNone, fun o g p => g.mreg g.issueSet o.a &&& p = 0)] :
         List ((BOps → Instr) × (BOps → Group → Dword → Prop))) →
     ∀ (o : BOps) (s : State), s.quiet (mk o) = true →
       ∃ t, exec (mk o) s = .next t
         ∧ (cond o s.group (s.doers (mk o)) →
             Changes (mk o) [] [] [] [] s t (s.doers (mk o)) (branchTarget o s.group.issuePc))
         ∧ (¬ cond o s.group (s.doers (mk o)) → Changes (mk o) [] [] [] [] s t)
         ∧ t.group.flags = s.group.flags)
  ∧ (∀ (s : State),
       (∀ o, s.quiet (.call o) = true → ∃ t, exec (.call o) s = .next t
         ∧ Changes (.call o) [63] [] [] [] s t (s.doers (.call o)) (branchTarget o s.group.issuePc)
         ∧ t.group.sreg 63 = (if s.doers (.call o) = 0 then s.group.sreg 63
             else BitVec.ofNat 64 (s.group.issuePc + 4 * wordsOf (.call o))) ∧ t.group.flags = s.group.flags)
       ∧ (∀ o, s.quiet (.callr o) = true → (s.doers (.callr o) ≠ 0 → (s.group.sreg o.a).toNat % 4 = 0) → ∃ t, exec (.callr o) s = .next t
         ∧ Changes (.callr o) [63] [] [] [] s t (s.doers (.callr o)) (s.group.sreg o.a).toNat
         ∧ t.group.sreg 63 = (if s.doers (.callr o) = 0 then s.group.sreg 63
             else BitVec.ofNat 64 (s.group.issuePc + 4 * wordsOf (.callr o))) ∧ t.group.flags = s.group.flags)
       ∧ (∀ o, s.quiet (.jmpr o) = true → (s.doers (.jmpr o) ≠ 0 → (s.group.sreg o.a).toNat % 4 = 0) → ∃ t, exec (.jmpr o) s = .next t
         ∧ Changes (.jmpr o) [] [] [] [] s t (s.doers (.jmpr o)) (s.group.sreg o.a).toNat ∧ t.group.flags = s.group.flags)
       ∧ (∀ o, s.quiet (.ret o) = true → (s.doers (.ret o) ≠ 0 → (s.group.sreg 63).toNat % 4 = 0) → ∃ t, exec (.ret o) s = .next t
         ∧ Changes (.ret o) [] [] [] [] s t (s.doers (.ret o)) (s.group.sreg 63).toNat ∧ t.group.flags = s.group.flags))
  ∧ (∀ (o : VOps) (s u : State) (b : Nat) (ps : List (Acc × Nat)) (i : Instr) (x : Dword),
       (i, x) ∈ ([(.jmpr o, s.group.sreg o.a), (.callr o, s.group.sreg o.a), (.ret o, s.group.sreg 63)] : List (Instr × Dword)) →
       s.quiet i = true → s.doers i ≠ 0 → x.toNat % 4 ≠ 0 →
       FrameOpens s (together (s.doers i) { code := 5, sub := 1, off := x.toNat }) b ps u →
       ∃ t, exec i s = .next t ∧ FrameOpened i s t u (s.doers i) true { code := 5, sub := 1, core := s.core } b ps)

/-- R153, R154: NOP changes program counters alone; ELECT writes the lowest guard-true lane's bit to a whole mask register. -/
def Obligations.NopAndElect : Prop :=
  ∀ (o : VOps) (s : State),
    (s.quiet (.nop o) = true → ∃ t, exec (.nop o) s = .next t ∧ Changes (.nop o) [] [] [] [] s t
      ∧ t.group.flags = s.group.flags)
    ∧ (s.quiet (.elect o) = true → ∃ t, exec (.elect o) s = .next t ∧ Changes (.elect o) [] [] [o.d] [] s t
      ∧ t.group.flags = s.group.flags
      ∧ (o.d ≠ 0 → s.doers (.elect o) ≠ 0 → ∀ l < 64, (tget 0 t.group.m o.d).getLsbD l = true ↔
          (s.doers (.elect o)).getLsbD l = true ∧ ∀ k < l, (s.doers (.elect o)).getLsbD k = false)
      ∧ (o.d = 0 ∨ s.doers (.elect o) = 0 → tget 0 t.group.m o.d = tget 0 s.group.m o.d))
    ∧ decode 768 [0x00000614] = .ok (.nop {}) 1 ∧ decode 768 [0x00000F14] = .ok (.elect { d := 1 }) 1

/-! ## Vector integer instructions -/

/-- R65, R173: integer arithmetic on the lanes of P, exact and then wrapped, or clamped with SAT, which raises the SAT flag;
the high half of a product, the lesser and the greater operand. The result has the suffix's tag. -/
def Obligations.VectorArithmetic : Prop :=
  (∀ (mk : VOps → Instr) (sgn useB useC : Bool) (exact : Int → Int → Int → Int), (mk, sgn, useB, useC, exact) ∈ ([
       (.vaddI32, true, true, false, fun x y _ => x + y), (.vsubI32, true, true, false, fun x y _ => x - y),
       (.vmulI32, true, true, false, fun x y _ => x * y), (.vmadI32, true, true, true, fun x y z => x * y + z),
       (.vabsI32, true, false, false, fun x _ _ => |x|),
       (.vaddN32, false, true, false, fun x y _ => x + y), (.vsubN32, false, true, false, fun x y _ => x - y),
       (.vmulN32, false, true, false, fun x y _ => x * y), (.vmadN32, false, true, true, fun x y z => x * y + z)] :
         List ((VOps → Instr) × Bool × Bool × Bool × (Int → Int → Int → Int))) →
     ∀ (o : VOps) (s : State), s.quiet (mk o) = true → intTag (s.group.tag o.a) = true →
       (useB = true → tagB s.group o intTag = true) → (useC = true → intTag (s.group.tag (addendReg o)) = true) →
       let int := fun (w : Word) => if sgn then w.toInt else (w.toNat : Int)
       let lo : Int := if sgn then -2 ^ 31 else 0
       let hi : Int := if sgn then 2 ^ 31 - 1 else 2 ^ 32 - 1
       let v := fun l => exact (int (vA s.group o l)) (int (vB s.group o l)) (int (vC s.group o l))
       ∃ t, exec (mk o) s = .next t ∧ Changes (mk o) [] [o.d] [] [] s t
         ∧ WroteV (s.doers (mk o)) o.d (if sgn then 7 else 8)
             (fun l => BitVec.ofInt 32 (if o.sat then max lo (min hi (v l)) else v l)) s.group t.group
         ∧ RaisedFlags (flagsOf (s.doers (mk o)) (fun l => if o.sat ∧ (v l < lo ∨ hi < v l) then 32 else 0)) s.group t.group)
  ∧ (∀ (mk : VOps → Instr) (sgn : Bool) (f : Int → Int → Int), (mk, sgn, f) ∈ ([
         (.vmulhI32, true, fun x y => x * y / 2 ^ 32), (.vminI32, true, min), (.vmaxI32, true, max),
         (.vmulhN32, false, fun x y => x * y / 2 ^ 32), (.vminN32, false, min), (.vmaxN32, false, max)] :
           List ((VOps → Instr) × Bool × (Int → Int → Int))) →
       ∀ (o : VOps) (s : State), s.quiet (mk o) = true → intTag (s.group.tag o.a) = true → tagB s.group o intTag = true →
         let int := fun (w : Word) => if sgn then w.toInt else (w.toNat : Int)
         ∃ t, exec (mk o) s = .next t ∧ Changes (mk o) [] [o.d] [] [] s t
           ∧ WroteV (s.doers (mk o)) o.d (if sgn then 7 else 8)
               (fun l => BitVec.ofInt 32 (f (int (vA s.group o l)) (int (vB s.group o l)))) s.group t.group
           ∧ t.group.flags = s.group.flags)

/-- R174, R175: bitwise operations, shifts by the low five bits, the select under a mask and the move give A's tag; a compare
writes the bits of the lanes of P in its mask register and leaves the others; m0 is not written. -/
def Obligations.VectorLogicAndCompare : Prop :=
  (∀ (mk : VOps → Instr) (useB : Bool) (f : Bool → Word → Word → Word), (mk, useB, f) ∈ ([
       (.vand, true, fun _ a b => a &&& b), (.vor, true, fun _ a b => a ||| b), (.vxor, true, fun _ a b => a ^^^ b),
       (.vshl, true, fun _ a b => a <<< (b.toNat % 32)), (.vshr, true, fun _ a b => a >>> (b.toNat % 32)),
       (.vsra, true, fun _ a b => a.sshiftRight (b.toNat % 32)), (.vsel, true, fun m a b => if m then a else b),
       (.vmov, false, fun _ a _ => a)] : List ((VOps → Instr) × Bool × (Bool → Word → Word → Word))) →
     ∀ (o : VOps) (s : State), s.quiet (mk o) = true → s.group.tag o.a ≤ 12 →
       (useB = true → tagB s.group o anyTag = true) →
       ∃ t, exec (mk o) s = .next t ∧ Changes (mk o) [] [o.d] [] [] s t
         ∧ WroteV (s.doers (mk o)) o.d (s.group.tag o.a)
             (fun l => f ((s.group.mreg s.group.issueSet (o.c % 16)).getLsbD l) (vA s.group o l) (vB s.group o l)) s.group t.group
         ∧ t.group.flags = s.group.flags)
  ∧ (∀ (sgn : Bool) (cc : Nat) (o : VOps) (s : State), let i := if sgn then Instr.vcmpI32 cc o else Instr.vcmpN32 cc o
       cc < 6 → s.quiet i = true → intTag (s.group.tag o.a) = true → tagB s.group o intTag = true →
       ∃ t, exec i s = .next t ∧ Changes i [] [] [o.d] [] s t ∧ t.group.flags = s.group.flags
         ∧ ∀ l < 64, (tget 0 t.group.m o.d).getLsbD l =
             if o.d ≠ 0 ∧ (s.doers i).getLsbD l then
               (let a := vA s.group o l
                let b := vB s.group o l
                let x : Int := if sgn then a.toInt else a.toNat
                let y : Int := if sgn then b.toInt else b.toNat
                decide (cc = 0 ∧ a = b ∨ cc = 1 ∧ a ≠ b ∨ cc = 2 ∧ x < y ∨ cc = 3 ∧ x ≤ y ∨ cc = 4 ∧ y < x ∨ cc = 5 ∧ y ≤ x))
             else (tget 0 s.group.m o.d).getLsbD l)

/-- R176, R182, R200: VBCAST, VLANE and VTAG write a vector register, VEXTR a scalar one; ITSET writes the four words of a
record, ITRD reads one, once an issue, also when no thread performs it (the model's reading, log 42). -/
def Obligations.LaneDataAndIterators : Prop :=
  (∀ (o : VOps) (s : State),
     (s.quiet (.vbcast o) = true → ∃ t, exec (.vbcast o) s = .next t ∧ Changes (.vbcast o) [] [o.d] [] [] s t
       ∧ WroteV (s.doers (.vbcast o)) o.d 0 (fun _ => (s.group.sreg o.a).setWidth 32) s.group t.group
       ∧ t.group.flags = s.group.flags)
     ∧ (s.quiet (.vlane o) = true → ∃ t, exec (.vlane o) s = .next t ∧ Changes (.vlane o) [] [o.d] [] [] s t
       ∧ WroteV (s.doers (.vlane o)) o.d 8 (fun l => BitVec.ofNat 32 l) s.group t.group ∧ t.group.flags = s.group.flags)
     ∧ (s.quiet (.vtag o) = true → s.group.tag o.a ≤ 12 → ∃ t, exec (.vtag o) s = .next t
       ∧ Changes (.vtag o) [] [o.d] [] [] s t ∧ WroteV (s.doers (.vtag o)) o.d o.b (fun l => s.group.lane o.a l) s.group t.group
       ∧ t.group.flags = s.group.flags)
     ∧ (s.quiet (.vextr o) = true → s.group.tag o.a ≤ 12 → ∃ t, exec (.vextr o) s = .next t
       ∧ Changes (.vextr o) [o.d] [] [] [] s t ∧ t.group.flags = s.group.flags
       ∧ (o.d ≠ 0 → s.doers (.vextr o) ≠ 0 → t.group.sreg o.d =
           if (s.group.sreg o.b).toNat < 64 then (s.group.lane o.a (s.group.sreg o.b).toNat).setWidth 64 else 0)
       ∧ (s.doers (.vextr o) = 0 → t.group.sreg o.d = s.group.sreg o.d)))
  ∧ (∀ (o : VOps) (s : State), let g := s.group
       (s.quiet (.itset o) = true → ∃ t, exec (.itset o) s = .next t ∧ Changes (.itset o) [] [] [] [o.d] s t
         ∧ t.group.flags = g.flags
         ∧ t.group.iter o.d = if s.doers (.itset o) = 0 then g.iter o.d
             else ⟨g.sreg o.a, g.sreg (o.a + 1), g.sreg (o.a + 2), g.sreg (o.a + 3)⟩)
       ∧ (s.quiet (.itrd o) = true → ∃ t, exec (.itrd o) s = .next t ∧ Changes (.itrd o) [o.d] [] [] [] s t
         ∧ t.group.flags = g.flags
         ∧ t.group.sreg o.d = if o.d = 0 then 0 else (g.iter o.a).word o.b))

/-! ## Ends, waits, status registers -/

/-- R33, R150 to R152, R163: EXIT ends the guard-true threads, which leave an open frame; YIELD holds its threads until every
other eligible thread has issued, SLEEP for 32 cycles; no register changes. -/
def Obligations.EndsAndYields : Prop :=
  (∀ (o : VOps) (s : State), s.quiet (.exit o) = true →
     ∃ t, exec (.exit o) s = .next t ∧ t.group.exited = s.group.exited ||| s.doers (.exit o)
       ∧ s.group.LeftFrame t.group (s.doers (.exit o)) ∧ (s.group.frame = none → OnlyGroup s t) ∧ t.mem = s.mem
       ∧ SameV [] s.group t.group ∧ SameM [] s.group t.group ∧ SameIt [] s.group t.group ∧ t.group.flags = s.group.flags
       ∧ ∀ l < 64, t.group.eligible.getLsbD l = true → (s.doers (.exit o)).getLsbD l = false)
  ∧ (∀ (o : VOps) (s : State),
       (s.quiet (.yield o) = true → ∃ t, exec (.yield o) s = .next t ∧ Changes (.yield o) [] [] [] [] s t
         ∧ t.group.flags = s.group.flags
         ∧ (let g := s.group.satisfy s.group.issueSet
            let p := s.doers (.yield o)
            t.group.waits = g.waits ++ (if p = 0 ∨ g.eligible &&& ~~~p = 0 then [] else [⟨p, .yield (g.eligible &&& ~~~p)⟩])))
       ∧ (s.quiet (.sleep o) = true → ∃ t, exec (.sleep o) s = .next t ∧ Changes (.sleep o) [] [] [] [] s t
         ∧ t.group.flags = s.group.flags ∧ t.group.eligible &&& s.doers (.sleep o) = 0
         ∧ ∀ w, (∀ x, w.kind ≠ .yield x) → (w ∈ t.group.waits ↔
             w ∈ s.group.waits ∨ (w = ⟨s.doers (.sleep o), .sleep (s.cycle + 32)⟩ ∧ s.doers (.sleep o) ≠ 0))))

/-- R155 to R158: SLEEPTO answers 0 when the operation is done, 1 when the deadline has passed, and otherwise its threads
wait with no register written; in the service group every nonzero identifier counts as done (the model's reading, log 11).
RDSR and RDSR.C read a status register, the latter clears the sticky flags; RDCLK reads the cycle counter; each acts once an
issue, also when no thread performs it (log 42). -/
def Obligations.SleeptoAndStatus : Prop :=
  (∀ (o : VOps) (s : State), let i := Instr.sleepto o
     let id := s.group.sreg o.b
     let deadline := (s.group.sreg o.a).toNat
     let fin := id ≠ 0 ∧ (s.isSvc = true ∨ s.team.isDone id = true)
     s.quiet i = true → s.doers i ≠ 0 → (fin → s.isSvc = false → s.joinFault id (s.doers i) = none) →
     ∃ t, exec i s = .next t ∧ t.group.flags = s.group.flags
       ∧ (fin ∨ deadline ≤ s.cycle → Changes i [o.d] [] [] [] s t)
       ∧ (fin → o.d ≠ 0 → t.group.sreg o.d = 0)
       ∧ (¬ fin → deadline ≤ s.cycle → o.d ≠ 0 → t.group.sreg o.d = 1)
       ∧ (¬ fin → s.cycle < deadline → Changes i [] [] [] [] s t
           ∧ ⟨s.doers i, .sleepto o.d s.group.issuePc deadline id⟩ ∈ t.group.waits))
  ∧ (∀ (o : VOps) (s : State),
       (∀ clear : Bool, let i := if clear then Instr.rdsrC o else Instr.rdsr o
         s.quiet i = true → ∃ t, exec i s = .next t ∧ Changes i [o.d] [] [] [] s t
           ∧ t.group.sreg o.d = (if o.d = 0 then 0 else s.statusReg o.a)
           ∧ t.group.flags = (if clear then s.group.flags &&& ~~~63 else s.group.flags))
       ∧ (s.quiet (.rdclk o) = true → ∃ t, exec (.rdclk o) s = .next t ∧ Changes (.rdclk o) [o.d] [] [] [] s t
         ∧ t.group.flags = s.group.flags
         ∧ t.group.sreg o.d = (if o.d = 0 then 0 else BitVec.ofNat 64 s.cycle))
       ∧ s.statusReg 0 = s.group.flags ∧ s.statusReg 1 = 64 ∧ s.statusReg 9 = BitVec.ofNat 64 s.grp
       ∧ s.statusReg 10 = BitVec.ofNat 64 (s.core / 24) ∧ s.statusReg 11 = BitVec.ofNat 64 (s.core % 24)
       ∧ s.statusReg 16 = s.group.trapmask ∧ ∀ n, 17 ≤ n → s.statusReg n = 0)

/-! ## Traps -/

/-- R434: the fields of a fault record. -/
def Obligations.RecordFields : Prop :=
  ∀ (s : State) (core : Nat) (t : Team) (grp lane pc rep kind : Nat) (x : Trap), kind < 4 →
    let r := s.record core t grp lane pc rep kind x
    r < 2 ^ 512 ∧ bits r 7 0 = x.code % 256 ∧ bits r 15 8 = x.sub % 256 ∧ bits r 21 16 = rep % 64
      ∧ bits r 27 22 = x.laneAt.getD lane % 64 ∧ bits r 31 28 = x.grpAt.getD grp % 16 ∧ bits r 36 32 = x.coreAt.getD core % 24
      ∧ bits r 39 37 = x.coreAt.getD core / 24 % 8 ∧ bits r 47 40 = t.teamid % 256 ∧ bits r 55 48 = t.ctx % 256
      ∧ bits r 60 56 = s.domain.module % 32 ∧ bits r 62 61 = kind ∧ bit r 63 = true
      ∧ bits r 95 64 = x.pcAt.getD pc % 2 ^ 32 ∧ bits r 127 96 = t.gridid % 2 ^ 32 ∧ bits r 191 128 = x.off % 2 ^ 64
      ∧ bits r 255 192 = x.va % 2 ^ 57 ∧ bits r 319 256 = x.opid.toNat ∧ bits r 383 320 = x.cycleAt.getD s.cycle % 2 ^ 64
      ∧ bits r 447 384 = x.bt % 4096 ∧ bits r 511 448 = x.detail % 2 ^ 64

/-- R159, R160: TRAP opens a frame: its block holds the records, s1 points at it and keeps its value, the trapping threads
stand at the handler, and the others of the issue set go on; bytes outside the records are unchanged. With no handler the
grid ends FAULTED, and its threads do not move. -/
def Obligations.TrapEntry : Prop :=
  (∀ (o : VOps) (s u : State) (b : Nat) (ps : List (Acc × Nat)), let i := Instr.trap o
     let p := s.doers i
     s.quiet i = true → p ≠ 0 → FrameOpens s (ownAll p { code := 0x20, sub := o.b }) b ps u →
     ∃ t, exec i s = .next t ∧ FrameOpened i s t u p false { code := 0x20, sub := o.b, core := s.core } b ps)
  ∧ (∀ (o : VOps) (s : State), let i := Instr.trap o
       s.quiet i = true → s.doers i ≠ 0 → s.isSvc = false → s.group.frame = none → s.team.hEn = false →
       ∃ t, exec i s = .next t ∧ t.group.frame = none ∧ t.group.trapmask = s.group.trapmask
         ∧ ((s.grid s.team.grid).phase ≠ .ended → (s.grid s.team.grid).phase ≠ .ending →
             t.grid s.team.grid = { s.grid s.team.grid with phase := .ending, status := 2 })
         ∧ (∀ l < 64, (s.doers i).getLsbD l = true → tget 0 t.group.pc l = s.group.issuePc)
         ∧ s.group.SameRegisters t.group)

/-- R163, R166, R429 to R431: TRET returns threads of the open frame to where they trapped, TRET.SKIP past it, and they leave
the frame. TRET.PASS of one thread that trapped with TRANSLATION and whose context has an enabled fault queue posts it and
holds the thread until its token is resolved. What TRET.SKIP does at a refused REP is the model's reading (log 17). -/
def Obligations.TrapReturn : Prop :=
  (∀ (skip : Bool) (o : VOps) (s : State), let i := if skip then Instr.tretSkip o else Instr.tret o
     let p := s.doers i
     s.quiet i = true → p ≠ 0 → p &&& ~~~s.group.trapmask = 0 → s.group.frame ≠ none →
     ∃ t, exec i s = .next t ∧ s.group.LeftFrame t.group p ∧ t.mem = s.mem
       ∧ SameV [] s.group t.group ∧ SameM [] s.group t.group ∧ SameIt [] s.group t.group
       ∧ t.group.flags = s.group.flags ∧ t.group.exited = s.group.exited
       ∧ ∀ l < 64, p.getLsbD l = true →
           (let back := (tget 0 s.group.retpc l, tget 0 s.group.retrep l)
            (tget 0 t.group.pc l, tget 0 t.group.repcnt l) =
             if skip then s.skipTo (tget {} s.group.trapinfo l).code back.1 back.2 else back))
  ∧ (∀ (o : VOps) (s : State) (l : Nat), let i := Instr.tretPass o
       let p := s.doers i
       let q := bits (s.ctxEntry s.team.ctx) 71 64
       s.quiet i = true → l < 64 → p = laneBit l → p &&& ~~~s.group.trapmask = 0 → s.group.frame ≠ none → s.isSvc = false →
       (tget {} s.group.trapinfo l).code = 0x0B → (tget {} s.fqs q).en = true → s.tokens.length < 2 ^ 16 →
       ∃ t, exec i s = .next t ∧ s.group.LeftFrame t.group p
         ∧ ⟨p, .pass s.newToken⟩ ∈ t.group.waits ∧ s.newToken ∉ s.tokens
         ∧ tget 0 t.group.pc l = tget 0 s.group.retpc l ∧ tget 0 t.group.repcnt l = tget 0 s.group.retrep l
         ∧ SameV [] s.group t.group ∧ SameM [] s.group t.group ∧ SameIt [] s.group t.group
         ∧ (let e := s.fqEntry l (tget 0 s.group.retpc l) s.newToken (tget {} s.group.trapinfo l)
            let f := tget {} s.fqs q
            if f.waiting = [] ∧ f.full = false then tget {} t.fqs q = { f with tail := (f.tail + 1) % 256 }
               ∧ t.mem = (s.physWrite (masterOf (dieOf s.core)) (f.ring * 2 ^ 13 + 32 * f.tail) (leBytes 32 e.toNat)).mem
            else if f.full = true then tget {} t.fqs q = { f with waiting := f.waiting ++ [(dieOf s.core, e)] } ∧ t.mem = s.mem
            else (tget {} t.fqs q).waiting = f.waiting.tail ++ [(dieOf s.core, e)]))

/-! ## Floating point -/

/-- R67, R68: the one rounding of F32, BF16 and F16: short of overflow the result is the nearest code, ties to even, or
the next one in the direction of the mode, and INX is set exactly when it differs from the exact value. -/
def Obligations.FloatRounds : Prop :=
  ∀ f ∈ [F32, BF16, F16], ∀ (mode : Nat) (neg : Bool) (num den : Nat) (e : Int), mode < 4 → 0 < num → 0 < den →
    let r := f.round mode false neg num den e
    let x : ℚ := num / den * 2 ^ e
    let c := r.code % f.signBit
    let down := mode = 1 ∨ mode = 2 ∧ neg = true ∨ mode = 3 ∧ neg = false
    bit r.code (f.eb + f.mb) = neg
      ∧ (r.fl &&& fOVF = 0 → c ≤ f.maxCode
        ∧ (mode = 0 → ∀ d ≤ f.maxCode, |x - f.mag c| ≤ |x - f.mag d| ∧ (|x - f.mag c| = |x - f.mag d| → d = c ∨ c % 2 = 0))
        ∧ (down → f.mag c ≤ x ∧ ∀ d ≤ f.maxCode, f.mag d ≤ x → f.mag d ≤ f.mag c)
        ∧ (mode ≠ 0 → ¬ down → x ≤ f.mag c ∧ ∀ d ≤ f.maxCode, x ≤ f.mag d → f.mag c ≤ f.mag d)
        ∧ (r.fl &&& fINX ≠ 0 ↔ f.mag c ≠ x))

/-- R177 to R180: floating-point arithmetic on each element of the lanes of P, in the instruction's mode, for sources of
exactly the major's tag; VFCLASS writes the class masks and sets no flag; VFCMP writes, in the lanes of P of its mask,
whether the condition holds for every element. -/
def Obligations.FloatInstructions : Prop :=
  (∀ (mk : VOps → Instr) (tag : Nat) (useC : Bool) (F : Fmt → Nat → Bool → Nat → Nat → Nat → FRes), (mk, tag, useC, F) ∈ ([
       (.vfaddF32, 1, false, fun f m sat a b _ => f.add m sat a b), (.vfsubF32, 1, false, fun f m sat a b _ => f.sub m sat a b),
       (.vfmulF32, 1, false, fun f m sat a b _ => f.mul m sat a b), (.vfmaF32, 1, true, fun f m sat a b c => f.fma m sat a b c),
       (.vfminF32, 1, false, fun f _ _ a b _ => f.minmax false a b), (.vfmaxF32, 1, false, fun f _ _ a b _ => f.minmax true a b),
       (.vfsgnF32, 1, false, fun f _ _ a b _ => f.copySign a b),
       (.vfaddBf16, 2, false, fun f m sat a b _ => f.add m sat a b), (.vfsubBf16, 2, false, fun f m sat a b _ => f.sub m sat a b),
       (.vfmulBf16, 2, false, fun f m sat a b _ => f.mul m sat a b), (.vfmaBf16, 2, true, fun f m sat a b c => f.fma m sat a b c),
       (.vfminBf16, 2, false, fun f _ _ a b _ => f.minmax false a b), (.vfmaxBf16, 2, false, fun f _ _ a b _ => f.minmax true a b),
       (.vfsgnBf16, 2, false, fun f _ _ a b _ => f.copySign a b),
       (.vfaddF16, 3, false, fun f m sat a b _ => f.add m sat a b), (.vfsubF16, 3, false, fun f m sat a b _ => f.sub m sat a b),
       (.vfmulF16, 3, false, fun f m sat a b _ => f.mul m sat a b), (.vfmaF16, 3, true, fun f m sat a b c => f.fma m sat a b c),
       (.vfminF16, 3, false, fun f _ _ a b _ => f.minmax false a b), (.vfmaxF16, 3, false, fun f _ _ a b _ => f.minmax true a b),
       (.vfsgnF16, 3, false, fun f _ _ a b _ => f.copySign a b)] :
         List ((VOps → Instr) × Nat × Bool × (Fmt → Nat → Bool → Nat → Nat → Nat → FRes))) →
     ∀ (o : VOps) (s : State), s.quiet (mk o) = true → s.group.tag o.a = tag → tagB s.group o (fun t => t = tag) = true →
       (useC = true → s.group.tag (addendReg o) = tag) →
       let r := fun l => perElem tag (fun i => F (fmtOfTag tag) (modeOf s.group o) o.sat (elemOf tag (vA s.group o l) i)
         (elemOf tag (vB s.group o l) i) (elemOf tag (vC s.group o l) i))
       ∃ t, exec (mk o) s = .next t ∧ Changes (mk o) [] [o.d] [] [] s t
         ∧ WroteV (s.doers (mk o)) o.d tag (fun l => (r l).w) s.group t.group
         ∧ RaisedFlags (flagsOf (s.doers (mk o)) (fun l => (r l).fl)) s.group t.group)
  ∧ ((∀ (mk : VOps → Instr) (tag : Nat), (mk, tag) ∈ ([(.vfclassF32, 1), (.vfclassBf16, 2), (.vfclassF16, 3)] :
           List ((VOps → Instr) × Nat)) →
       ∀ (o : VOps) (s : State), s.quiet (mk o) = true → s.group.tag o.a = tag →
         ∃ t, exec (mk o) s = .next t ∧ Changes (mk o) [] [o.d] [] [] s t ∧ t.group.flags = s.group.flags
           ∧ WroteV (s.doers (mk o)) o.d 8 (fun l => BitVec.ofNat 32 ((List.range (elems tag)).foldl
               (fun n i => n + 2 ^ (16 * i + (fmtOfTag tag).classBit (elemOf tag (vA s.group o l) i))) 0)) s.group t.group)
     ∧ ∀ (cc : Nat) (o : VOps) (s : State), let i := Instr.vfcmp cc o
       let tag := o.d / 16 % 4 + 1
       let r := fun l => (List.range (elems tag)).map (fun k =>
         (fmtOfTag tag).cmp cc (elemOf tag (vA s.group o l) k) (elemOf tag (vB s.group o l) k))
       cc < 6 → s.quiet i = true → s.group.tag o.a = tag → tagB s.group o (fun t => t = tag) = true →
       ∃ t, exec i s = .next t ∧ Changes i [] [] [o.d % 16] [] s t
         ∧ RaisedFlags (flagsOf (s.doers i) (fun l => (r l).foldl (fun a x => a ||| x.2) 0)) s.group t.group
         ∧ ∀ l < 64, (tget 0 t.group.m (o.d % 16)).getLsbD l =
             if o.d % 16 ≠ 0 ∧ (s.doers i).getLsbD l = true then (r l).all Prod.fst else (tget 0 s.group.m (o.d % 16)).getLsbD l)

/-- R181: each special function completes on every code of its format, element by element, with its own flags. -/
def Obligations.SpecialFunctions : Prop :=
  ∀ (mk : VOps → Instr) (fn : Nat), (mk, fn) ∈ ([(.vexp, 0), (.vexp2, 1), (.vlog2, 2), (.vrcp, 3), (.vrsqrt, 4), (.vsqrt, 5),
      (.vsin, 6), (.vcos, 7), (.vtanh, 8), (.vsigm, 9), (.vgelu, 10)] : List ((VOps → Instr) × Nat)) →
    ∀ (o : VOps) (s : State), let tag := o.b % 4 + 1
      let r := fun l => perElem tag (fun i => sfu fn (o.b % 4) (elemOf tag (vA s.group o l) i))
      s.quiet (mk o) = true → s.group.tag o.a = tag →
      ∃ t, exec (mk o) s = .next t ∧ Changes (mk o) [] [o.d] [] [] s t
        ∧ WroteV (s.doers (mk o)) o.d tag (fun l => (r l).w) s.group t.group
        ∧ RaisedFlags (flagsOf (s.doers (mk o)) (fun l => (r l).fl)) s.group t.group

/-- R76's table of special inputs, the overflow of VRCP, and of VEXP and VEXP2 from the first power of two beyond the finite
codes on; and for VRCP and VSQRT, by the model's reading of R76's bound (log 5, a design choice, stronger than one unit in the last
place at and above a power of two): a finite result is one of the two codes between which the exact value lies, an exact value itself. -/
def Obligations.SpecialValues : Prop :=
  ∀ ty < 3, let f := fmtOfTy ty
    let ninf := f.sgn true f.infCode
    let one := (2 ^ (f.eb - 1) - 1) * 2 ^ f.mb
    (∀ fn < 2, sfu fn ty f.infCode = ⟨f.infCode, 0⟩ ∧ sfu fn ty ninf = ⟨0, 0⟩)
    ∧ (sfu 2 ty f.infCode = ⟨f.infCode, 0⟩ ∧ sfu 4 ty f.infCode = ⟨0, 0⟩ ∧ sfu 5 ty f.infCode = ⟨f.infCode, 0⟩
        ∧ sfu 5 ty (f.sgn true 0) = ⟨f.sgn true 0, 0⟩ ∧ sfu 9 ty f.infCode = ⟨one, 0⟩ ∧ sfu 9 ty ninf = ⟨0, 0⟩
        ∧ sfu 10 ty f.infCode = ⟨f.infCode, 0⟩ ∧ sfu 10 ty ninf = ⟨f.sgn true 0, 0⟩)
    ∧ (∀ neg, sfu 8 ty (f.sgn neg f.infCode) = ⟨f.sgn neg one, 0⟩ ∧ sfu 2 ty (f.sgn neg 0) = ⟨ninf, fDZ⟩ ∧ sfu 3 ty (f.sgn neg 0) = ⟨f.sgn neg f.infCode, fDZ⟩
        ∧ sfu 4 ty (f.sgn neg 0) = ⟨f.sgn neg f.infCode, fDZ⟩ ∧ sfu 3 ty (f.sgn neg f.infCode) = ⟨f.sgn neg 0, 0⟩
        ∧ sfu 6 ty (f.sgn neg f.infCode) = ⟨f.nan, fINV⟩ ∧ sfu 7 ty (f.sgn neg f.infCode) = ⟨f.nan, fINV⟩)
    ∧ (∀ c, 0 < c → c ≤ f.infCode → ∀ fn ∈ [2, 4, 5], sfu fn ty (f.sgn true c) = ⟨f.nan, fINV⟩)
    ∧ (∀ fn < 11, ∀ c < 2 ^ f.width, (f.val c).isNan = true → sfu fn ty c = ⟨f.nan, if (f.val c).isSnan then fINV else 0⟩)
    ∧ ∀ c, 0 < c → c ≤ f.maxCode →
        (2 ^ (f.eb - 1) ≤ f.mag c → ∀ fn < 2, sfu fn ty c = ⟨f.infCode, fOVF⟩)
        ∧ (f.mag f.maxCode * f.mag c < 1 → ∀ neg, sfu 3 ty (f.sgn neg c) = ⟨f.sgn neg f.infCode, fOVF⟩)
        ∧ (let r := sfu 3 ty c
         r.fl = 0 → r.code ≤ f.maxCode ∧ (f.mag r.code * f.mag c = 1 ∨
           (0 < r.code ∧ f.mag (r.code - 1) * f.mag c < 1 ∧ 1 < f.mag r.code * f.mag c) ∨
           (f.mag r.code * f.mag c < 1 ∧ (r.code < f.maxCode → 1 < f.mag (r.code + 1) * f.mag c))))
        ∧ (let r := sfu 5 ty c
           r.fl = 0 ∧ r.code ≤ f.maxCode ∧ (f.mag r.code ^ 2 = f.mag c ∨
             (0 < r.code ∧ f.mag (r.code - 1) ^ 2 < f.mag c ∧ f.mag c < f.mag r.code ^ 2) ∨
             (f.mag r.code ^ 2 < f.mag c ∧ f.mag c < f.mag (r.code + 1) ^ 2)))

/-! ## Conversions -/

/-- R58 to R63, R183 to R186: VCVT converts each lane's flat run of elements, and an FP4 result also writes its block scale;
the block-scale and zero-point forms. A NaN scale of VSCALE.APPLY (log 41), and SAT beside INX or alone (log 44), are the model's
readings. -/
def Obligations.ConversionForms : Prop :=
  (∀ (o : VOps) (s : State), let i := Instr.vcvt o
     let dt := o.bf % 16
     let sf := o.bf / 16 % 16
     let n := max (elems sf) (elems dt)
     let p := s.doers i
     let r := fun l => cvtLane sf dt (modeOf s.group o) o.sat (runElems s.group sf o.a n l) (s.group.lane o.c l)
     s.quiet i = true → dt ≤ 12 → sf ≤ 12 → allTag s.group sf o.a (n / elems sf) = true →
       (sf = 6 ∨ isOb sf = true ∨ isOb dt = true → compTag (s.group.tag o.c) = true) →
       badZero s.group (if isOb sf then sf else dt) o.c p = [] → (dt = 6 → o.c ≠ o.d) →
     ∃ t, exec i s = .next t
       ∧ Changes i [] ((List.range (n / elems dt)).map (o.d + ·) ++ if dt = 6 then [o.c] else []) [] [] s t
       ∧ (∀ k < n / elems dt, WroteV p (o.d + k) dt (fun l => (r l).regs.getD k 0) s.group t.group)
       ∧ (dt = 6 → WroteV p o.c 0 (fun l => (r l).comp.getD 0) s.group t.group)
       ∧ RaisedFlags (flagsOf p (fun l => (r l).fl)) s.group t.group)
  ∧ (∀ (o : VOps) (s : State), let g := s.group
       let dt := o.bf % 16
       let sf := o.bf / 16 % 16
       let xs := fun l => runElems g sf o.a 8 l
       (let i := Instr.vscaleFind o
        let r := fun l => fp4Scale ((xs l).map (fmtOfTag sf).val)
        s.quiet i = true → allTag g sf o.a (8 / elems sf) = true →
        ∃ t, exec i s = .next t ∧ Changes i [] [o.d] [] [] s t
         ∧ WroteV (s.doers i) o.d 0 (fun l => BitVec.ofNat 32 (r l).code) g t.group
         ∧ RaisedFlags (flagsOf (s.doers i) (fun l => (r l).fl)) g t.group)
       ∧ (let i := Instr.vscaleApply o
          let r := fun l => (xs l).map (fun c => fp4Elem (modeOf g o) (bits (g.lane o.c l).toNat 7 0) ((fmtOfTag sf).val c))
          s.quiet i = true → allTag g sf o.a (8 / elems sf) = true → compTag (g.tag o.c) = true →
          ∃ t, exec i s = .next t ∧ Changes i [] [o.d] [] [] s t
           ∧ WroteV (s.doers i) o.d 6 (fun l => packElems 6 ((r l).map FRes.code)) g t.group
           ∧ RaisedFlags (flagsOf (s.doers i) (fun l => (r l).foldl (fun a x => a ||| x.fl) 0)) g t.group)
       ∧ (let i := Instr.vzpPack o
          let hi : Int := if dt = 11 then 255 else 15
          let v := fun l => if sf = 7 then (vA g o l).toInt else ((vA g o l).toNat : Int)
          s.quiet i = true → g.tag o.a = sf →
          ∃ t, exec i s = .next t ∧ Changes i [] [o.d] [] [] s t
           ∧ WroteV (s.doers i) o.d 0 (fun l => BitVec.ofInt 32 (max 0 (min hi (v l)))) g t.group
           ∧ RaisedFlags (flagsOf (s.doers i) (fun l => if v l < 0 ∨ hi < v l then 32 else 0)) g t.group)
       ∧ (let i := Instr.vzpExtr o
          s.quiet i = true → compTag (g.tag o.a) = true → badZero g sf o.a (s.doers i) = [] →
          ∃ t, exec i s = .next t ∧ Changes i [] [o.d] [] [] s t ∧ t.group.flags = g.flags
           ∧ WroteV (s.doers i) o.d 8 (fun l => BitVec.ofNat 32 ((vA g o l).toNat % if sf = 12 then 16 else 256)) g t.group))

/-! ## Cross-lane instructions -/

/-- R187 to R191: VXLANE moves lanes by a distance, a lane off the edge keeping its own; VSHUF selects by index, 0 beyond the
lanes; VBALLOT gathers a bit of each lane of P, also when P is empty (the model's reading, log 42); VRED and VSCAN complete
for every operation and type, as the tree over the
lanes of P, which for integer addition is their sum. -/
def Obligations.CrossLane : Prop :=
  (∀ (o : VOps) (s : State), let g := s.group
     (∀ (mk : VOps → Instr) (src : Nat → Nat), (mk, src) ∈ ([
         (.vxlaneDn, fun l => if l + o.b < 64 then l + o.b else l), (.vxlaneUp, fun l => if o.b ≤ l then l - o.b else l),
         (.vxlaneBfly, fun l => if l ^^^ o.b < 64 then l ^^^ o.b else l)] : List ((VOps → Instr) × (Nat → Nat))) →
       s.quiet (mk o) = true → g.tag o.a ≤ 12 →
       ∃ t, exec (mk o) s = .next t ∧ Changes (mk o) [] [o.d] [] [] s t ∧ t.group.flags = g.flags
         ∧ WroteV (s.doers (mk o)) o.d (g.tag o.a) (fun l => g.lane o.a (src l)) g t.group)
     ∧ (s.quiet (.vshuf o) = true → g.tag o.a ≤ 12 → tagB g o intTag = true →
       ∃ t, exec (.vshuf o) s = .next t ∧ Changes (.vshuf o) [] [o.d] [] [] s t ∧ t.group.flags = g.flags
         ∧ WroteV (s.doers (.vshuf o)) o.d (g.tag o.a)
             (fun l => if (vB g o l).toNat < 64 then g.lane o.a (vB g o l).toNat else 0) g t.group)
     ∧ (s.quiet (.vballot o) = true → g.tag o.a ≤ 12 →
       ∃ t, exec (.vballot o) s = .next t ∧ Changes (.vballot o) [] [] [o.d] [] s t ∧ t.group.flags = g.flags
         ∧ ∀ l < 64, (tget 0 t.group.m o.d).getLsbD l =
             if o.d ≠ 0 then (s.doers (.vballot o)).getLsbD l && decide (vA g o l ≠ 0)
             else (tget 0 g.m o.d).getLsbD l))
  ∧ (∀ (scan : Bool) (o : VOps) (s : State), let i := if scan then Instr.vscan o else Instr.vred o
       let p := s.doers i
       let r := runTree (if scan then scanStep else redStep) s.group o p
       s.quiet i = true → treeTags o s.group = true →
       ∃ t, exec i s = .next t ∧ Changes i [] [o.d] [] [] s t
         ∧ WroteV p o.d (o.b / 8 % 16) (fun l => (r.1.getD (if scan then l else 0) none).getD 0) s.group t.group
         ∧ RaisedFlags r.2 s.group t.group)
  ∧ (∀ (scan : Bool) (o : VOps) (s : State), let i := if scan then Instr.vscan o else Instr.vred o
       let p := s.doers i
       s.quiet i = true → treeTags o s.group = true → o.b % 8 = 0 → o.b / 8 % 16 = 7 ∨ o.b / 8 % 16 = 8 → o.sat = false →
       ∃ t, exec i s = .next t ∧ Changes i [] [o.d] [] [] s t ∧ t.group.flags = s.group.flags
         ∧ WroteV p o.d (o.b / 8 % 16) (fun l => ((lanesOf p).filter (fun k => !scan || k ≤ l)).foldl
             (fun a k => a + vA s.group o k) 0) s.group t.group)

/-- R192: VTOPK leaves the k best of the list and the candidates, in order, with their tags. -/
def Obligations.TopK : Prop :=
  ∀ (o : VOps) (s : State), let i := Instr.vtopk o
    let g := s.group
    let p := s.doers i
    let k := o.bf % 128 + 1
    let n := (k + 63) / 64
    let entry := fun (h : Group) (j : Nat) =>
      (⟨(h.lane (o.d + j / 64) (j % 64)).toNat, (h.lane (o.c + j / 64) (j % 64)).toNat⟩ : TopEntry)
    let cand := (lanesOf (g.mreg g.issueSet o.xf)).map (fun l => (⟨(vA g o l).toNat, (g.lane o.b l).toNat⟩ : TopEntry))
    s.quiet i = true → p ≠ 0 → allTag g 1 o.d n = true → g.tag o.a = 1 → intTag (g.tag o.b) = true →
      (∀ r < n, intTag (g.tag (o.c + r)) = true) → o.d + n ≤ o.c ∨ o.c + n ≤ o.d →
    ∃ t c, exec i s = .next t
      ∧ Changes i [] ((List.range n).map (o.d + ·) ++ (List.range n).map (o.c + ·)) [] [] s t ∧ t.group.flags = g.flags
      ∧ List.Perm c ((List.range k).map (entry g) ++ cand) ∧ c.Pairwise (fun x y => topLess y x = false)
      ∧ (∀ r < n, t.group.tag (o.d + r) = 1 ∧ t.group.tag (o.c + r) = 8)
      ∧ ∀ j < 64 * n, entry t.group j = if j < k ∧ p.getLsbD (j % 64) = true then c.getD j ⟨0, 0⟩ else entry g j

/-! ## Row statistics and fused forms -/

/-- R77, R80, R193 to R198: VSTAT.ACC adds the elements of the lanes of P to an entry of the team, VSTAT.CLR empties it,
VSTAT.RD writes its mean and variance; VRMAX, VNORM and VFUSE. Their special functions rest on free values (log 5), as do SiLU
and GELU at −∞ (log 49); VFUSE's flags (log 23) and its overflow (log 47) are the model's readings. -/
def Obligations.StatisticsAndFused : Prop :=
  (∀ (o : VOps) (s : State), let g := s.group
     let e := (g.sreg o.a).toNat
     s.isSvc = false → e < 128 * s.team.tiles →
     (let i := Instr.vstatAcc o
      let tag := o.d / 4 % 4 + 1
      let xs := (lanesOf (s.doers i)).flatMap (fun l => (elemsOf tag (vB g o l)).map (fmtOfTag tag).val)
      s.quiet i = true → s.doers i ≠ 0 → tagB g o (fun t => t = tag) = true →
      ∃ t, exec i s = .next t ∧ Changes i [] [] [] [] (s.setStat e (xs.foldl RowStat.acc (s.stat e))) t ∧ t.group.flags = g.flags
       ∧ t.stat e = xs.foldl RowStat.acc (s.stat e) ∧ (t.stat e).n = (s.stat e).n + xs.length
       ∧ ∀ k, k ≠ e → t.stat k = s.stat k)
     ∧ (let i := Instr.vstatClr o
        s.quiet i = true → s.doers i ≠ 0 →
        ∃ t, exec i s = .next t ∧ Changes i [] [] [] [] (s.setStat e {}) t ∧ t.group.flags = g.flags
         ∧ t.stat e = {} ∧ ∀ k, k ≠ e → t.stat k = s.stat k)
     ∧ (let i := Instr.vstatRd o
        let r := (s.stat e).meanVar
        s.quiet i = true →
        ∃ t, exec i s = .next t ∧ Changes i [] [o.b, o.b + 1] [] [] s t
         ∧ WroteV (s.doers i) o.b 1 (fun _ => BitVec.ofNat 32 r.1) g t.group
         ∧ WroteV (s.doers i) (o.b + 1) 1 (fun _ => BitVec.ofNat 32 r.2.1) g t.group
         ∧ RaisedFlags (if s.doers i = 0 then 0 else r.2.2) g t.group))
  ∧ (∀ (o : VOps) (s : State), let g := s.group
       (let i := Instr.vrmax o
        let m := maxAll ((lanesOf (s.doers i)).map (fun l => (vA g o l).toNat))
        let r := fun l => rmaxLane m (vB g o l).toNat
        s.quiet i = true → g.tag o.a = 1 → tagB g o (fun t => t = 1) = true →
        ∃ t, exec i s = .next t ∧ Changes i [] [o.d, o.d + 1] [] [] s t
         ∧ WroteV (s.doers i) o.d 1 (fun l => BitVec.ofNat 32 (r l).1.code) g t.group
         ∧ WroteV (s.doers i) (o.d + 1) 1 (fun l => BitVec.ofNat 32 (r l).2.code) g t.group
         ∧ RaisedFlags (m.fl ||| flagsOf (s.doers i) (fun l => (r l).1.fl ||| (r l).2.fl)) g t.group)
       ∧ (let i := Instr.vnorm o
          let e := bits (g.sreg o.b).toNat 31 0
          let st := (s.stat e).meanVar
          let v := sfu 4 0 (F32.add 0 false st.2.1 (bits (g.sreg o.b).toNat 63 32)).code
          let r := fun l => normLane (modeOf g o) o.sat (vA g o l).toNat st.1 v.code
          s.isSvc = false → s.quiet i = true → g.tag o.a = 1 → e < 128 * s.team.tiles →
          ∃ t, exec i s = .next t ∧ Changes i [] [o.d] [] [] s t
           ∧ WroteV (s.doers i) o.d 1 (fun l => BitVec.ofNat 32 (r l).code) g t.group
           ∧ RaisedFlags (if s.doers i = 0 then 0 else st.2.2 ||| v.fl ||| flagsOf (s.doers i) (fun l => (r l).fl)) g t.group)
       ∧ (let i := Instr.vfuse o
          let ty := o.bf / 8 % 4
          let tag := ty + 1
          let c := o.xf % 1024
          let r := fun l => perElem tag (fun k => fuseElem (fmtOfTy ty) (o.bf % 8) ty (modeOf g o) o.sat
            (elemOf tag (g.lane o.a l) k) (elemOf tag (g.lane o.b l) k) (elemOf tag (g.lane o.c l) k) (elemOf tag (g.lane c l) k))
          s.quiet i = true → g.tag o.a = tag → g.tag o.b = tag → g.tag o.c = tag → g.tag c = tag →
          ∃ t, exec i s = .next t ∧ Changes i [] [o.d] [] [] s t
           ∧ WroteV (s.doers i) o.d tag (fun l => (r l).w) g t.group
           ∧ RaisedFlags (flagsOf (s.doers i) (fun l => (r l).fl)) g t.group))

/-! ## Iterators, sweeps, repeats -/

/-- R201: the sweep form performs its instruction once with the fields stepped by the current tuple, advances the record,
and comes again until the last tuple; for the integer addition VADD.I32 the result is the stepped instruction's. -/
def Obligations.SweepSteps : Prop :=
  ∀ (itn maj min : Nat) (inner : Instr) (o o' : VOps) (s : State), let i := Instr.sweep itn inner
    let rec0 := s.group.iter itn
    let i' := (vecInstr maj min o').getD i
    let n := wordsOf i
    let body := if maj = 0x1C then fuseWith (bits rec0.w3.toNat 10 8) (bits rec0.w3.toNat 12 11) o' else vecBody maj min o'
    let res := body ((s.issueOf n).by (s.doers i')) s
    let nxt := (res.s.group.iter itn).next
    inner.vecForm = some (maj, min, o) → sweepLegal rec0 s.regalloc maj min o = true →
      stepForm (rec0.offset o 0) (rec0.offset o 1) (rec0.offset o 2) (rec0.offset o 3) (.vec maj min o) = .vec maj min o' →
      s.quiet i' = true → res.raised.mask = 0 → res.stay = false →
    exec i s = .next ((res.s.modGroup (Group.setIt itn nxt.1)).modGroup
        (s.group.finish (s.issueOf n) s.tick res.selfSat 0 res.placed
          (if nxt.2 = true then [] else [(s.group.issueSet, s.group.issuePc)])))
      ∧ (∀ t, maj = 8 → min = 0 → exec i s = .next t →
          s.group.Went t.group n (if rec0.next.2 = true then 0 else s.group.issueSet) s.group.issuePc
          ∧ t.group.iter itn = rec0.next.1 ∧ SameIt [itn] s.group t.group ∧ SameS [] s.group t.group
          ∧ SameM [] s.group t.group ∧ SameV [o'.d] s.group t.group
          ∧ WroteV (s.doers i') o'.d 7 (fun l => (intResult true o'.sat ((vA s.group o' l).toInt + (vB s.group o' l).toInt)).w)
              s.group t.group)

/-- R129 to R131: one iteration of REP performs the instruction behind it with its fields stepped, and moves its threads
to the next iteration or past that instruction; for a scalar instruction the result is the stepped one's. -/
def Obligations.RepeatSteps : Prop :=
  ∀ (cnt str sel n : Nat) (i0 i' : Instr) (f : Form) (s u : State),
    let pc := s.group.issuePc
    let j := tget 0 s.group.repcnt (lowLane s.group.issueSet)
    let step := fun k => if bit sel k then ((j * (str + 1) : Nat) : Int) else 0
    let g := stepForm (step 0) (step 1) (step 2) (step 3) f
    let iss : Issue := { pc := pc, first := decide (j = 0), next := if j < cnt then pc else pc + 4 + 4 * n,
                         nextRep := if j < cnt then j + 1 else 0, recPc := some (pc + 4), set := s.group.issueSet }
    let u1 := if j = 0 then u.modGroup (Group.count (lanesOf s.group.issueSet)) else u
    let res := formBody g (iss.by (u.doers i')) u1
    s.instrAt (pc + 4) = (u, .ok i0 n) → i0.form = some f → repLegal s.regalloc cnt str sel f = true →
      g.instr = some i' → u.quiet i' = true → s.isRedundant = false → res.raised.mask = 0 → res.stay = false →
    exec (.rep cnt str sel) s = .next (res.s.modGroup (s.group.finish iss s.tick res.selfSat 0 res.placed res.moves))
      ∧ (∀ maj min o t, g = .sc maj min o → exec (.rep cnt str sel) s = .next t →
          (∀ l < 64, s.group.issueSet.getLsbD l = true →
            tget 0 t.group.pc l = iss.next ∧ tget 0 t.group.repcnt l = iss.nextRep)
          ∧ t.group.sreg o.d = (if o.d = 0 then 0 else
              (scalarFn maj min o.u (s.group.sreg o.d) (opA s.group o) (opB s.group o)).v)
          ∧ SameS [o.d] s.group t.group ∧ SameV [] s.group t.group ∧ SameM [] s.group t.group ∧ SameIt [] s.group t.group
          ∧ t.mem = s.mem)

/-! ## Memory -/

/-- R207, R211, R213, R214, R304: a buffer load of one lane (or of a group-uniform register) that passes its checks and whose line
the core can get, and
scratchpad loads of the own core and of a rank of the cluster, leave an outstanding result of the bytes at the address; no
register and no byte of memory changes before the result arrives. In the service group a scratchpad is that of the core's team
(the model's reading, log 11). -/
def Obligations.LoadsReturn : Prop :=
  (∀ (o : MOps) (s u : State) (l pa va key : Nat) (so : Bool), let i := Instr.ld o
     let p := s.doers i
     let g := s.group
     let size := MemSize o
     let off := effOff g o.ov o.off o.lit l
     let idx := bufIndex g o.br o.bt
     let missed := !permits (s.line s.core (pa / 128)) 3
     s.quiet i = true → p = laneBit l ∨ (o.ds = true ∧ p ≠ 0 ∧ l = lowLane p) → l < 64 → offTagOk g o.ov o.off = true →
       s.bufCheck idx o.br off off size .load = (u, .ok pa va so) → u.readCheck idx off pa va { r := true } = none →
       u.access? (dieOf s.core) pa { r := true } = .mem key → s.isRedundant = false → s.stores = [] →
       (∀ c ∈ s.cores, c.2.partials = []) → (s.domain.failed = [] ∨ (s.logTail + 1) % 4096 = s.logHead) →
       (u.readable pa).canRead pa = true →
     ∃ t, exec i s = .next t ∧ t.mem = s.mem ∧ g.SameRegisters t.group ∧ g.Went t.group (wordsOf i) 0 0
       ∧ t.group.exited = g.exited ∧ t.group.frame = g.frame
       ∧ t.group.outstanding = g.outstanding ++ [if o.ds then
           { dests := [.s o.d], missed := missed, results := [.scalar o.d (BitVec.ofNat 64 (leNat (s.bytesAt key size)))] }
         else { dests := [.v o.d], missed := missed, results := [.vec o.d o.tag [(l, loadSlot o (s.bytesAt key size))]] }])
  ∧ (∀ (x : Bool) (o : MOps) (s : State), let i := if x then Instr.ldx o else Instr.sld o
       let p := s.doers i
       let g := s.group
       let off := effOff g o.ov o.off o.lit
       let c := if x then s.rankCore s.team (rankOf o g) else s.core
       let bytes := fun l => s.padAt c (off l) (MemSize o)
       s.quiet i = true → p ≠ 0 → offTagOk g o.ov o.off = true → (x = true → rankOf o g < s.team.rows * s.team.cols ∧ s.isRedundant = false) →
         (∀ l < 64, p.getLsbD l = true → off l + MemSize o ≤ s.team.scratchSize ∧ off l % MemSize o = 0) →
       ∃ t, exec i s = .next t ∧ t.mem = s.mem ∧ g.SameRegisters t.group ∧ g.Went t.group (wordsOf i) 0 0
         ∧ t.team.scratch = s.team.scratch
         ∧ t.group.outstanding = g.outstanding ++ [if o.ds then
             { dests := [.s o.d], results := [.scalar o.d (BitVec.ofNat 64 (leNat (bytes (lowLane p))))] }
           else { dests := [.v o.d], results := [.vec o.d o.tag ((lanesOf p).map (fun l => (l, loadSlot o (bytes l))))] }])

/-- R207, R214, R216, R305: a buffer store of one lane that passes its checks, to a page that is not strongly ordered, queues
its bytes with the address; scratchpad stores write their lanes' bytes in ascending order, and no other byte, a release
having performed the group's earlier stores first. In the service group a scratchpad is that of the core's team (the model's
reading, log 11). -/
def Obligations.StoresWrite : Prop :=
  (∀ (o : MOps) (s u : State) (l pa va : Nat), let i := Instr.st o
     let p := s.doers i
     let g := s.group
     let off := effOff g o.ov o.off o.lit l
     let idx := bufIndex g o.br o.bt
     s.quiet i = true → p = laneBit l ∨ (o.ds = true ∧ p ≠ 0 ∧ l = lowLane p) → l < 64 → offTagOk g o.ov o.off = true →
       dataTagOk g o = true → s.isRedundant = false →
       s.bufCheck idx o.br off (if o.size = 3 then off / 2 else off) (MemSize o) .store = (u, .ok pa va false) →
     ∃ t, exec i s = .next t ∧ t.mem = s.mem ∧ g.SameRegisters t.group ∧ g.Went t.group (wordsOf i) 0 0
       ∧ t.group.outstanding = g.outstanding
       ∧ t.stores = s.stores ++ [⟨s.reqId, s.core, s.grp, l, g.issuePc, idx % 4096, off, tget 0 g.repcnt l,
           (s.team.grid, s.team.teamid), if o.size = 3 then .nibble pa va (off % 2 = 1) (BitVec.ofNat 8 ((g.lane o.d l).toNat % 16))
           else .store pa va (storeData o g l)⟩])
  ∧ (∀ (x : Bool) (o : MOps) (s : State), let i := if x then Instr.stx o else Instr.sst o
       let p := s.doers i
       let g := s.group
       let off := effOff g o.ov o.off o.lit
       let c := if x then s.rankCore s.team (rankOf o g) else s.core
       let ls := accessLanes o p
       let s0 := if o.ord = 2 then s.drainGroup else s
       s.quiet i = true → p ≠ 0 → offTagOk g o.ov o.off = true → dataTagOk g o = true → s.isRedundant = false →
         (s.isSvc = true → o.ord = 2 → s.svcEnded s0 = false) →
         (x = true → rankOf o g < s.team.rows * s.team.cols) → (s.coreAt c).team.isSome = true →
         (∀ l < 64, p.getLsbD l = true → off l + MemSize o ≤ s.team.scratchSize ∧ off l % MemSize o = 0) →
       ∃ t, exec i s = .next t ∧ t.mem = s0.mem ∧ t.stores = s0.stores ∧ g.SameRegisters t.group
         ∧ g.Went t.group (wordsOf i) 0 0
         ∧ (∀ d a n, (d = c → ∀ l ∈ ls, a + n ≤ off l ∨ off l + MemSize o ≤ a) → t.padAt d a n = s.padAt d a n)
         ∧ (∀ l ∈ ls, (∀ k ∈ ls, l < k → off l + MemSize o ≤ off k ∨ off k + MemSize o ≤ off l) →
             t.padAt c (off l) (MemSize o) = storeData o g l))

/-- R217 to R221: an AMO or CAS of one lane that passes its checks queues its request and leaves an outstanding result; a RED
combines its value into its core's partial of the element, which names its operation and type and is marked where REDs of two
kinds have met in it (its end is a free value then, log 51), and memory is unchanged until the gathering ends; the operations on integers. -/
def Obligations.AtomicsIssue : Prop :=
  (∀ (cas : Bool) (o : AOps) (s u : State) (l pa va : Nat), let i := if cas then Instr.cas o else Instr.amo o
     let p := s.doers i
     let g := s.group
     let off := effOff g o.ov o.off o.lit l
     let idx := bufIndex g o.br o.bt
     s.quiet i = true → l < 64 → p = laneBit l → offTagOk g o.ov o.off = true → atomTagOk o.ty (g.tag o.b) = true →
       (cas = true → atomTagOk o.ty (g.tag o.c) = true) → s.isRedundant = false → o.ord % 2 = 0 →
       s.bufCheck idx o.br off off 4 .atomic = (u, .ok pa va false) → u.readCheck idx off pa va { r := true, w := true } = none →
     ∃ t, exec i s = .next t ∧ t.mem = s.mem ∧ g.SameRegisters t.group ∧ g.Went t.group (wordsOf i) 0 0
       ∧ t.reqId = s.reqId + 1
       ∧ t.group.outstanding = g.outstanding ++ [{ req := s.reqId, dests := [.v o.d], results := [.vec o.d (atomTag o.ty) []] }]
       ∧ t.stores = s.stores ++ [⟨s.reqId, s.core, s.grp, l, g.issuePc, idx % 4096, off, tget 0 g.repcnt l,
           (s.team.grid, s.team.teamid), .amo (if cas then 7 else o.op) o.ty pa va (g.lane o.b l) (g.lane o.c l)⟩])
  ∧ (∀ (o : AOps) (s u : State) (l pa va key : Nat), let i := Instr.red o
       let p := s.doers i
       let g := s.group
       let off := effOff g o.ov o.off o.lit l
       let idx := bufIndex g o.br o.bt
       s.quiet i = true → l < 64 → p = laneBit l → offTagOk g o.ov o.off = true → atomTagOk o.ty (g.tag o.b) = true →
         s.isRedundant = false → s.stores = [] →
         s.bufCheck idx o.br off off 4 .atomic = (u, .ok pa va false) → u.access? (dieOf s.core) pa { w := true } = .mem key →
         u.poisoned key = false → s.line s.core (pa / 128) = .g →
       ∃ t, exec i s = .next t ∧ t.mem = s.mem ∧ g.SameRegisters t.group ∧ g.Went t.group (wordsOf i) 0 0
         ∧ t.group.outstanding = g.outstanding
         ∧ (∀ k, k ≠ pa / 4 → tget none (t.coreAt t.core).partials k = tget none (s.coreAt s.core).partials k)
         ∧ tget none (t.coreAt t.core).partials (pa / 4) = some {
             op := o.op, ty := o.ty, mixed := (tget none (s.coreAt s.core).partials (pa / 4)).any (fun q => q.mixed || q.op ≠ o.op || q.ty ≠ o.ty)
             grp := s.grp, lane := l, pc := g.issuePc, rep := tget 0 g.repcnt l, bt := idx % 4096, off := off, va := va
             owner := (s.team.grid, s.team.teamid)
             val := match tget none (s.coreAt s.core).partials (pa / 4) with
               | some q => atomOp o.op o.ty q.val (g.lane o.b l)
               | none => g.lane o.b l })
  ∧ (∀ (ty : Nat) (m b : Word), ty < 2 →
       atomOp 0 ty m b = m + b ∧ atomOp 3 ty m b = m &&& b ∧ atomOp 4 ty m b = m ||| b ∧ atomOp 5 ty m b = m ^^^ b
         ∧ atomOp 6 ty m b = b
         ∧ (let v := fun (w : Word) => if ty = 0 then w.toInt else (w.toNat : Int)
            v (atomOp 1 ty m b) = min (v m) (v b) ∧ v (atomOp 2 ty m b) = max (v m) (v b)))

/-! ## Fences, barriers, tasks -/

/-- R222, R226, R227: FENCE performs every earlier access of its group, in the one queue of the model (log 1): none stays but
behind a request whose line could not be had; BARINIT configures an idle barrier, BARQ reads its status word. -/
def Obligations.FenceAndBarrierSetup : Prop :=
  (∀ (o : QOps) (s : State), let i := Instr.fence o
     s.quiet i = true → s.doers i ≠ 0 → (2 ≤ o.y → 2 < o.x → s.isRedundant = false) →
       (s.isSvc = true → s.svcEnded s.drainGroup = false) →
     ∃ t, exec i s = .next t ∧ Changes i [] [] [] [] s.drainGroup t ∧ s.group.SameRegisters t.group
       ∧ ∀ r ∈ t.stores, r.core = s.core → r.grp = s.grp →
           ∃ q, t.stores.head? = some q ∧ (match q.kind with
             | .store pa _ _ => permits (t.line q.core (pa / 128)) 0 = false
             | .combine pa _ op _ _ => if 16 ≤ op then t.uncached (pa / 128) = false else permits (t.line q.core (pa / 128)) 1 = false
             | .nibble pa _ _ _ => t.uncached (pa / 128) = false
             | .amo _ _ pa _ _ _ => t.uncached (pa / 128) = false))
  ∧ (∀ (o : QOps) (s : State), let x := s.barrier s.core o.x
       s.isSvc = false → (s.coreAt (s.barrierCore s.core o.x)).team.isSome = true →
       (let i := Instr.barinit o
        let w := (s.group.sreg o.sa).toNat
        s.quiet i = true → s.doers i ≠ 0 → 0 < bits w 13 0 + bits w 23 16 →
          bits w 13 0 ≤ (if o.x < 16 then 1024 else s.team.clusterThreads) → bits w 63 24 = 0 → bits w 15 14 = 0 →
          x.tarr = 0 → x.earr = 0 → x.heldArr = 0 → s.barrierNamed s.core o.x = false →
        ∃ t, exec i s = .next t ∧ s.group.SameRegisters t.group ∧ s.group.Went t.group (wordsOf i) 0 0 ∧ t.mem = s.mem
         ∧ t.barrier s.core o.x = { x with tcount := bits w 13 0, ecount := bits w 23 16, init := true })
       ∧ (let i := Instr.barq o
          s.quiet i = true → s.doers i ≠ 0 →
          ∃ t, exec i s = .next t ∧ Changes i [o.sa] [] [] [] s t ∧ t.group.flags = s.group.flags
           ∧ (o.sa ≠ 0 → t.group.sreg o.sa = BitVec.ofNat 64 ((if x.init then 2 ^ 57 else 0) + x.earr % 256 * 2 ^ 48
               + x.tarr % 16384 * 2 ^ 32 + x.phase.toNat))))

/-- R223 to R225: arrivals count; the arrival that fills a barrier completes the phase, which lets waiting threads go. BARARR
writes the phase that it arrived in; BARAW waits for that phase unless it completed, BARWAIT for the one it is given. -/
def Obligations.BarrierPhases : Prop :=
  (∀ (aw : Bool) (o : QOps) (s : State), let i := if aw then Instr.baraw o else Instr.bararr o
     let p := s.doers i
     let x := s.barrier s.core o.x
     let full := x.tarr + popMask p = x.tcount ∧ x.earr = x.ecount
     s.quiet i = true → p ≠ 0 → s.isSvc = false → (16 ≤ o.x → s.isRedundant = false) →
       (s.coreAt (s.barrierCore s.core o.x)).team.isSome = true → x.init = true → x.tarr + popMask p ≤ x.tcount →
     ∃ t, exec i s = .next t ∧ t.mem = s.drainGroup.mem ∧ s.group.Went t.group (wordsOf i) 0 0
       ∧ SameS (if aw then [] else [o.sa]) s.group t.group ∧ SameV [] s.group t.group ∧ SameM [] s.group t.group
       ∧ SameIt [] s.group t.group ∧ t.group.flags = s.group.flags
       ∧ (aw = false → o.sa ≠ 0 → t.group.sreg o.sa = x.phase.setWidth 64)
       ∧ (¬ full → (t.barrier s.core o.x).phase = x.phase ∧ (t.barrier s.core o.x).tarr = x.tarr + popMask p
           ∧ (aw = true → ⟨p, .barrier o.x x.phase⟩ ∈ t.group.waits))
       ∧ (full → (t.barrier s.core o.x).phase = x.phase + 1 ∧ (t.barrier s.core o.x).tarr = 0
           ∧ (t.barrier s.core o.x).earr = min x.heldArr x.ecount
           ∧ ∀ w ∈ t.group.waits, w.kind ≠ .barrier o.x x.phase))
  ∧ (∀ (o : QOps) (s : State), let i := Instr.barwait o
       let x := s.barrier s.core o.x
       let ph := (s.group.sreg o.sa).setWidth 32
       s.quiet i = true → s.doers i ≠ 0 → s.isSvc = false → x.init = true →
       ∃ t, exec i s = .next t ∧ Changes i [] [] [] [] s t ∧ t.group.flags = s.group.flags
         ∧ ((x.phase - ph).toNat ∈ Set.Ico 1 (2 ^ 31) → ∀ w ∈ t.group.waits, (∀ y, w.kind ≠ .yield y) → w ∈ s.group.waits)
         ∧ ((x.phase - ph).toNat ∉ Set.Ico 1 (2 ^ 31) → ⟨s.doers i, .barrier o.x ph⟩ ∈ t.group.waits))

/-- R231 to R233: TQDEF defines a task in a FREE or TAKEN slot, READY at once when it waits for nothing; TQDONE of one entry
counts its task down, and makes it READY when it waited for one alone. -/
def Obligations.TasksChange : Prop :=
  (∀ (o : QOps) (s : State), let i := Instr.tqdef o
     let w := (s.group.sreg o.sa).toNat
     let x := s.slot s.team.grid (bits w 11 0)
     let n := bits w 27 12
     s.quiet i = true → s.doers i ≠ 0 → s.isSvc = false → s.isRedundant = false → x.state ≠ .waiting → x.state ≠ .ready →
       bit w 31 = false →
     ∃ t, exec i s = .next t ∧ SameS [o.x] s.group t.group ∧ SameV [] s.group t.group ∧ SameM [] s.group t.group
       ∧ SameIt [] s.group t.group ∧ t.group.flags = s.group.flags ∧ s.group.Went t.group (wordsOf i) 0 0 ∧ t.mem = s.mem
       ∧ (o.x ≠ 0 → t.group.sreg o.x = if n = 0 then 1 else 0)
       ∧ t.slot s.team.grid (bits w 11 0) = { state := if n = 0 then .ready else .waiting, count := n, prio := bits w 30 28
                                              payload := BitVec.ofNat 32 (bits w 63 32), readyCycle := if n = 0 then s.cycle else 0 }
       ∧ ∀ k, k ≠ bits w 11 0 → t.slot s.team.grid k = s.slot s.team.grid k)
  ∧ (∀ (o : QOps) (s : State), let i := Instr.tqdone o
       let w := (s.group.sreg o.sa).toNat
       let x := s.slot s.team.grid (bits w 11 0)
       s.quiet i = true → s.doers i ≠ 0 → s.isSvc = false → s.isRedundant = false →
         bits w 63 16 = 0 → bit w 15 = true → bits w 14 12 = 0 → 0 < x.count →
       ∃ t, exec i s = .next t ∧ SameS [o.x] s.group t.group ∧ SameV [] s.group t.group ∧ SameM [] s.group t.group
         ∧ SameIt [] s.group t.group ∧ t.group.flags = s.group.flags ∧ s.group.Went t.group (wordsOf i) 0 0
         ∧ t.mem = s.drainGroup.mem
         ∧ (o.x ≠ 0 → t.group.sreg o.x = if x.count = 1 then 1 else 0)
         ∧ t.slot s.team.grid (bits w 11 0) = (if x.count = 1 then { x with count := 0, state := .ready, readyCycle := s.cycle }
             else { x with count := x.count - 1 })
         ∧ ∀ k, k ≠ bits w 11 0 → t.slot s.team.grid k = s.slot s.team.grid k)

/-- R45, R46, R234 to R237, R403: TQGET takes the READY task of the highest priority, of those the earliest, of those the
lowest number; with none it answers EMPTY at its deadline, or its threads wait. RNGGET gives the next indices of the cluster's
range; an empty cluster first takes the upper part of its victim's. GLAUNCH posts the record in the scratchpad. The start
that comes with n = 0 is a free value (log 50); what becomes of a waiting TQGET's s1 across a frame is the model's reading
(log 40). -/
def Obligations.TasksRangesLaunches : Prop :=
  (∀ (o : QOps) (s : State), let i := Instr.tqget o
     let gr := s.grid s.team.grid
     let deadline := (s.group.sreg o.sa).toNat
     s.quiet i = true → s.doers i ≠ 0 → s.isSvc = false → s.isRedundant = false → 0 < o.x → Canon {} gr.tq = true →
     ∃ t, exec i s = .next t ∧ SameS [o.x, o.x + 1] s.group t.group ∧ SameV [] s.group t.group ∧ SameM [] s.group t.group
       ∧ SameIt [] s.group t.group ∧ t.group.flags = s.group.flags ∧ s.group.Went t.group (wordsOf i) 0 0 ∧ t.mem = s.mem
       ∧ (∀ k x, (k, x) ∈ gr.tq → x.state = .ready →
           (∀ k' y, (k', y) ∈ gr.tq → y.state = .ready → y.prio < x.prio ∨ y.prio = x.prio ∧
             (x.readyCycle < y.readyCycle ∨ x.readyCycle = y.readyCycle ∧ k ≤ k')) →
           t.group.sreg o.x = BitVec.ofNat 64 (x.prio * 2 ^ 12 + k) ∧ t.group.sreg (o.x + 1) = x.payload.setWidth 64
             ∧ t.slot s.team.grid k = { x with state := .taken })
       ∧ ((∀ k x, (k, x) ∈ gr.tq → x.state ≠ .ready) → deadline ≤ s.cycle →
           t.group.sreg o.x = BitVec.ofNat 64 (2 ^ 63 + (if ∃ kx ∈ gr.tq, kx.2.state = .waiting then 0 else 2 ^ 62))
             ∧ t.group.sreg (o.x + 1) = 0)
       ∧ ((∀ k x, (k, x) ∈ gr.tq → x.state ≠ .ready) → s.cycle < deadline →
           SameS [] s.group t.group ∧ ⟨s.doers i, .tqget o.x deadline s.reqId (if s.group.frame.isSome then 1 else 0)⟩ ∈ t.group.waits
             ∧ t.group.outstanding = s.group.outstanding ++ [{ req := s.reqId, dests := [.s o.x, .s (o.x + 1)] }]))
  ∧ (∀ (o : QOps) (s : State), let i := Instr.rngget o
       let gr := s.grid s.team.grid
       let cl := s.team.clid
       let c := bits (s.group.sreg o.sa).toNat 31 0
       let r := (gr.steal cl (o.y % 4)).range cl (o.y % 4)
       let n := min (max 1 c) (r.2 - r.1)
       s.quiet i = true → s.doers i ≠ 0 → s.isSvc = false → s.isRedundant = false → 0 < o.x →
       ∃ t, exec i s = .next t ∧ SameS [o.x, o.x + 1] s.group t.group ∧ SameV [] s.group t.group ∧ SameM [] s.group t.group
         ∧ SameIt [] s.group t.group ∧ t.group.flags = s.group.flags ∧ s.group.Went t.group (wordsOf i) 0 0 ∧ t.mem = s.mem
         ∧ (n ≠ 0 → t.group.sreg o.x = BitVec.ofNat 64 r.1) ∧ t.group.sreg (o.x + 1) = BitVec.ofNat 64 n
         ∧ (t.grid s.team.grid).left cl (o.y % 4) = r.2 - r.1 - n
         ∧ (gr.left cl (o.y % 4) ≠ 0 → r = gr.range cl (o.y % 4)))
  ∧ (∀ (o : QOps) (s : State), let i := Instr.glaunch o
       let off := (s.group.sreg o.sa).toNat
       let r : Rec := BitVec.ofNat 512 (leNat (s.team.scratchBytes off 64))
       let u := s.drainGroup
       let code := u.postCode r (recPrio r) (some s.team.ctx)
       s.quiet i = true → s.doers i ≠ 0 → s.isSvc = false → s.isRedundant = false → s.team.launch = true → off % 64 = 0 →
         off + 64 ≤ s.team.scratchSize →
       ∃ t, exec i s = .next t ∧ SameS [o.x] s.group t.group ∧ SameV [] s.group t.group ∧ SameM [] s.group t.group
         ∧ SameIt [] s.group t.group ∧ t.group.flags = s.group.flags ∧ s.group.Went t.group (wordsOf i) 0 0 ∧ t.mem = u.mem
         ∧ (o.x ≠ 0 → t.group.sreg o.x = BitVec.ofNat 64 code)
         ∧ (code = 0 → t.grid s.nextGrid = { record := r, postTime := s.cycle } ∧ t.nextGrid = s.nextGrid + 1)
         ∧ (code ≠ 0 → t.nextGrid = s.nextGrid))

/-! ## Engines and walks -/

/-- R238 to R245, R263, R272: an engine instruction that passes its checks queues its operation with the next identifier,
writes that identifier to s(SA), and changes no other register, no scratchpad and no accumulator. An operation with nothing to
do (a copy of no bytes, an MXZERO of no tile, an MXBETA of no β, a MASSDEC of no entries) completes at once where no earlier
operation is in its way (R254, R263, R362, R375). -/
def Obligations.EngineStarts : Prop :=
  ∀ (mk : QOps → Instr) (maj : Nat) (sp : QOps → EngSpec), (mk, maj, sp) ∈ ([
      (.cpy, 0x30, fun _ => copySpec 3 (cpyCheck false) cpyOutside), (.cpyt, 0x30, fun _ => copySpec 4 (cpyCheck true) cpyOutside),
      (.cpym, 0x30, fun _ => copySpec 3 cpymCheck cpymOutside),
      (.gath, 0x30, fun _ => copySpec 4 (listCheck false false) (fun _ _ => false)),
      (.scat, 0x30, fun o => copySpec 4 (listCheck true (2 ≤ dupMode (.scat o))) (fun _ _ => true)),
      (.mxzero, 0x34, fun _ => zeroSpec), (.mxmul, 0x34, fun _ => mulSpec false false), (.mxmulSp, 0x34, fun _ => mulSpec false true),
      (.mxpair, 0x34, fun _ => mulSpec true false), (.mxpairSp, 0x34, fun _ => mulSpec true true),
      (.mxrd, 0x34, fun _ => winSpec true), (.mxwr, 0x34, fun _ => winSpec false), (.mxbeta, 0x38, fun _ => betaSpec),
      (.mxdelta, 0x38, fun o => corrSpec false o.y), (.mxsolve, 0x38, fun o => corrSpec true o.y),
      (.pwrun, 0x3A, fun _ => pwrunSpec), (.pwrunResume, 0x3A, fun _ => pwrunSpec),
      (.btmap, 0x3B, fun _ => kvSpec 2 btmapCheck true), (.btinv, 0x3B, fun _ => kvSpec 1 btinvCheck false),
      (.btcow, 0x3B, fun _ => kvSpec 2 btcowCheck true), (.kvput, 0x3B, fun _ => kvSpec 2 kvputCheck true),
      (.massdec, 0x3B, fun _ => kvSpec 2 massdecCheck true), (.massmin, 0x3B, fun _ => kvSpec 3 massminCheck false)] :
        List ((QOps → Instr) × Nat × (QOps → EngSpec))) →
    ∀ (o : QOps) (s u : State), let i := mk o
      let e := sp o
      let p := s.doers i
      let ws := operandWords s.group o.sa e.k
      let op : EngOp := { id := opId maj s.team.serial, instr := i, words := ws, lane := lowLane p, pc := s.group.issuePc, grp := s.grp
                          bar := if bit o.y 0 then some (e.bar ws) else none
                          budgetEnd := if e.budget ws = 0 then none else some (s.budgetFrom s.group.issuePc + e.budget ws)
                          snap := e.snap u ws, outside := e.outside u ws, len := if inMatrixOrder i then s.choice 10 else 0 }
      s.quiet i = true → p ≠ 0 → s.isSvc = false →
        s.mustWait (inMatrixOrder i) = false → e.wait s = false → e.check s ws = (u, none) →
        (bit o.y 0 = true → u.barCheck (e.bar ws) = none) → e.late u ws = none →
      ∃ t, exec i s = .next t ∧ (op.idle = false → t.team.ops = s.team.prune.ops ++ [op])
        ∧ (op.idle = true → ∃ r ∈ t.team.ops, r.id = op.id ∧ r.instr = i ∧ r.words = ws ∧ r.fault = none
            ∧ (r.phase = .queued ∨ r.phase = .done)
            ∧ (s.isRedundant = false → s.isLate op = false → (∀ x ∈ s.team.ops, x.phase = .done) → r.phase = .done))
        ∧ t.team.serial = (if s.team.serial = 2 ^ 48 - 1 then 1 else s.team.serial + 1)
        ∧ (o.sa ≠ 0 → t.group.sreg o.sa = op.id) ∧ SameS [o.sa] s.group t.group ∧ SameV [] s.group t.group
        ∧ SameM [] s.group t.group ∧ SameIt [] s.group t.group ∧ t.group.flags = s.group.flags
        ∧ s.group.Went t.group (wordsOf i) 0 0 ∧ t.team.scratch = s.team.scratch ∧ t.team.acc = s.team.acc
        ∧ (maj = 0x3A → t.team.lastRun = op.id) ∧ (s.stores = [] → t.mem = s.mem)

/-- R275, R347 to R352: the status of an operation, the walk context, its changes, and waiting for a walk. -/
def Obligations.WalkWords : Prop :=
  ∀ (o : QOps) (s : State), let g := s.group
    let v := g.sreg (o.sa + 1)
    s.isSvc = false →
    (let i := Instr.cpyst o
     s.quiet i = true → s.doers i ≠ 0 → s.joinFault v (s.doers i) = none →
     ∃ t, exec i s = .next t ∧ Changes i [o.sa] [] [] [] s t ∧ t.group.flags = g.flags
      ∧ (o.sa ≠ 0 → t.group.sreg o.sa = s.team.opStatus v))
    ∧ (let i := Instr.pwstat o
       s.quiet i = true → s.doers i ≠ 0 →
       ∃ t, exec i s = .next t ∧ Changes i [o.sa] [] [] [] s t ∧ t.group.flags = g.flags
        ∧ (o.sa ≠ 0 → t.group.sreg o.sa = s.team.walkStatus))
    ∧ (let i := Instr.pwwait o
       let id := if v = 0 then s.team.lastRun else v
       s.quiet i = true → s.doers i ≠ 0 → s.joinFault id (s.doers i) = none →
       ∃ t, exec i s = .next t ∧ t.group.flags = g.flags
        ∧ (s.team.isDone id = true → Changes i [o.sa] [] [] [] s t ∧ (o.sa ≠ 0 → t.group.sreg o.sa = s.team.walkStatus))
        ∧ (s.team.isDone id = false → Changes i [] [] [] [] s t ∧ ⟨s.doers i, .pwwait o.sa g.issuePc id⟩ ∈ t.group.waits))
    ∧ (∀ u, let i := Instr.pwinit o
       let w : Walk := { desc := BitVec.ofNat 512 (s.team.padNat v.toNat 64) }
       s.quiet i = true → s.doers i ≠ 0 → pwinitCheck s v.toNat w = (u, none) →
       ∃ t, exec i s = .next t ∧ t.team.walk = some w ∧ (t.coreAt s.core).btb = [] ∧ t.mem = s.mem
        ∧ SameS [o.sa] g t.group ∧ SameV [] g t.group ∧ SameM [] g t.group ∧ SameIt [] g t.group ∧ t.group.flags = g.flags
        ∧ g.Went t.group (wordsOf i) 0 0 ∧ (o.sa ≠ 0 → t.group.sreg o.sa = t.team.walkStatus))
    ∧ (∀ (join : Bool) (w : Walk), let i := if join then Instr.pwjoin o else Instr.pwleave o
       let c := changeOf join v.toNat
       let n := w.changeCode c.1
       s.quiet i = true → s.doers i ≠ 0 → s.team.walk = some w → c.2 = true →
       ∃ t, exec i s = .next t ∧ t.team.walk = some (if n = 0 then { w with queue := w.queue ++ [c.1] } else w)
        ∧ t.mem = s.drainGroup.mem ∧ SameS [o.sa] g t.group ∧ SameV [] g t.group ∧ SameM [] g t.group ∧ SameIt [] g t.group
        ∧ t.group.flags = g.flags ∧ g.Went t.group (wordsOf i) 0 0 ∧ (o.sa ≠ 0 → t.group.sreg o.sa = BitVec.ofNat 64 n))

/-! ## The service level -/

/-- R386, R390 to R393, R398, R409, R410: outside the service group every privileged instruction traps its whole issue set
with PRIVILEGE and does nothing else; a register number above 7 is ILLEGAL 0x02 everywhere. In the group MFPR reads and MTPR
writes the privileged registers; ERET lets a stopped team go on unless its gang is being restored or an entry for it is due
(the model's reading, log 30), HALT removes a stopped team that has been saved, SIGNAL posts an entry of 16 bytes in memory;
these three first perform the group's stores. -/
def Obligations.ServiceRegistersAndEnds : Prop :=
  (∀ (o : POps) (s : State),
     let traps := fun (i : Instr) (x : Trap) => exec i s =
       .next ((s.modGroup (s.group.finish (s.issueOf 1) s.tick false s.group.issueSet 0 [])).takeTraps s.group.issuePc
         { tog := some (s.group.issueSet, x) })
     (∀ i ∈ [Instr.eret o, .tlbinv o, .bufinv o, .cachefl o, .ctxsave o, .ctxload o, .halt o, .signal o],
       s.quiet i = true → s.isSvc = false → traps i { code := 2, sub := 0 })
     ∧ (∀ x ∈ [(Instr.mfpr o, s.group.sreg o.sa), (.mtpr o, s.group.sreg o.sd)], s.quiet x.1 = true →
         (7 < x.2.toNat → traps x.1 { code := 1, sub := 2 })
         ∧ (x.2.toNat ≤ 7 → s.isSvc = false → traps x.1 { code := 2, sub := 0 }))
     ∧ (s.isSvc = true →
       (∀ v, let i := Instr.mfpr o
         s.quiet i = true → s.privReg (s.group.sreg o.sa).toNat = some v →
         ∃ t, exec i s = .next t ∧ Changes i [o.sd] [] [] [] s t ∧ t.group.flags = s.group.flags
           ∧ (o.sd ≠ 0 → t.group.sreg o.sd = v))
       ∧ (let i := Instr.mtpr o
          let n := (s.group.sreg o.sd).toNat
          s.quiet i = true → n ≤ 7 →
          ∃ t, exec i s = .next t ∧ s.group.Went t.group 1 0 0 ∧ SameS [o.sd] s.group t.group ∧ SameV [] s.group t.group
           ∧ SameM [] s.group t.group ∧ t.mem = s.mem
           ∧ (o.sd ≠ 0 → t.group.sreg o.sd = if n < 4 then 1 else 0)
           ∧ (∀ k, tget 0 (t.coreAt s.core).scr k = if n = k + 4 then s.group.sreg o.sa else tget 0 (s.coreAt s.core).scr k)
           ∧ ∀ c, c ≠ s.core → t.coreAt c = s.coreAt c)))
  ∧ (∀ (o : POps) (s : State), let u := s.drainGroup
       let c := u.coreAt s.core
       s.isSvc = true → s.svcEnded u = false →
       (s.quiet (.eret o) = true → ∃ t, exec (.eret o) s = .next t ∧ (t.coreAt s.core).svcRun = false ∧ t.mem = u.mem
         ∧ (∀ tm, c.team = some tm → c.restoring = false → c.due ≠ 1 → (t.coreAt s.core).team = some (tm.goOn s.cycle)
             ∧ (t.coreAt s.core).stopped = false ∧ (t.coreAt s.core).saved = false)
         ∧ (∀ tm, c.team = some tm → c.restoring = true ∨ c.due = 1 → (t.coreAt s.core).team = some tm
             ∧ (t.coreAt s.core).stopped = c.stopped ∧ (t.coreAt s.core).restoring = c.restoring
             ∧ (t.coreAt s.core).erets = c.restoring)
         ∧ (c.team = none → (t.coreAt s.core).team = none)
         ∧ ∀ d, d ≠ s.core → t.coreAt d = u.coreAt d)
       ∧ (s.quiet (.halt o) = true → ∃ t, exec (.halt o) s = .next t ∧ (t.coreAt s.core).svcRun = false
         ∧ (c.retired = false ∨ c.stopped = false ∨ c.saved = false ∨ c.team = none → t.mem = u.mem)
         ∧ (c.stopped = true → c.saved = true → (t.coreAt s.core).team = none
             ∧ (c.team ≠ none → (t.coreAt s.core).stopped = false ∧ (t.coreAt s.core).restoring = false))
         ∧ (c.stopped = false ∨ c.saved = false → (t.coreAt s.core).team = c.team ∧ (t.coreAt s.core).stopped = c.stopped)
         ∧ (c.stopped = true → c.saved = true → c.team ≠ none → (u.grid u.team.grid).phase = .stopping →
             (∀ d ∈ u.cores, d.1 ≠ s.core → ∀ tm, d.2.team = some tm → tm.grid ≠ u.team.grid) →
             (t.grid u.team.grid).phase = .preempted)
         ∧ ∀ d, d ≠ s.core → t.coreAt d = u.coreAt d)
       ∧ (s.quiet (.signal o) = true →
         ∃ t, exec (.signal o) s = .next t ∧ s.group.Went t.group 1 0 0
         ∧ SameS [o.sd] s.group t.group ∧ SameV [] s.group t.group ∧ SameM [] s.group t.group
         ∧ (if (s.sigTail + 1) % 256 = s.sigHead then t.sigTail = s.sigTail ∧ t.mem = u.mem ∧ (o.sd ≠ 0 → t.group.sreg o.sd = 1)
            else t.sigTail = (s.sigTail + 1) % 256 ∧ (o.sd ≠ 0 → t.group.sreg o.sd = 0)
             ∧ ∃ e : Nat, t.mem = (u.physWrite 8 (s.base 4 + 4096 + 16 * s.sigTail) (leBytes 16 e)).mem ∧ e < 2 ^ 128
                 ∧ bits e 127 64 = (s.group.sreg o.sa).toNat ∧ bits e 63 32 = s.group.issuePc % 2 ^ 32 ∧ bits e 12 8 = s.core % 24
                 ∧ bits e 2 0 = s.core / 24 % 8)))

/-- R394 to R396, R427: TLBINV and BUFINV forget translations, walks in flight and descriptors once the accesses in flight are
performed, those that redundant copies hold among them, and walks that waited for a walker begin, CACHEFL writes lines back, CTXSAVE and CTXLOAD move a team to and from a save area, whose layout beside the header,
the vector registers, the tiles and the scratchpad is the model's own, as are the header's words (log 28). -/
def Obligations.ServiceMaintenance : Prop :=
  ∀ (o : POps) (s : State), let v := (s.group.sreg o.sa).toNat
    s.isSvc = true →
    let kept := fun (t : State) => s.group.Went t.group 1 0 0 ∧ SameS [o.sd] s.group t.group ∧ SameV [] s.group t.group
      ∧ SameM [] s.group t.group ∧ SameIt [] s.group t.group ∧ t.group.flags = s.group.flags
    let code := fun (t : State) (n : Dword) => o.sd ≠ 0 → t.group.sreg o.sd = n
    let fine := fun (u : State) => s.svcEnded u = false
    (s.quiet (.tlbinv o) = true → bits v 63 62 ≠ 3 → fine s.drainAll → s.drainAll.stores = [] → s.drainAll.heldThrough v = false →
      ∃ t, exec (.tlbinv o) s = .next t ∧ kept t ∧ code t 0 ∧ t.mem = s.drainAll.mem ∧ t.stores = []
      ∧ (∀ w ∈ t.walks, walkNames v w = false ∨ ∃ x ∈ s.drainAll.walks, x.res = none ∧ x.die = w.die ∧ x.ctx = w.ctx ∧ x.page = w.page)
      ∧ ∀ c, (t.coreAt c).tlb = (s.drainAll.coreAt c).tlb.filter (fun e => !tlbNames v e))
    ∧ (s.quiet (.tlbinv o) = true → bits v 63 62 = 3 → ∃ t, exec (.tlbinv o) s = .next t ∧ kept t ∧ code t 1 ∧ t.mem = s.mem)
    ∧ (s.quiet (.bufinv o) = true → fine s.drainAll → s.drainAll.stores = [] → s.drainAll.heldBy v = false →
      ∃ t, exec (.bufinv o) s = .next t ∧ kept t ∧ code t 0 ∧ t.mem = s.drainAll.mem ∧ t.stores = []
      ∧ ∀ d, d ∈ t.descs ↔ d ∈ s.drainAll.descs ∧ ¬ (d.1 / 4096 % 256 = bits v 55 48 ∧ (bit v 63 = true ∨ d.1 % 4096 = bits v 11 0)))
    ∧ (s.quiet (.cachefl o) = true → (v % 4 = 1 ∨ v % 4 = 2 → fine (s.cacheFlush s.core (v % 4 = 2))) → ∃ t, exec (.cachefl o) s = .next t ∧ kept t
      ∧ (if v % 4 = 1 ∨ v % 4 = 2 then code t 0
            ∧ ∀ ln, t.line s.core ln ≠ .m ∧ t.line s.core ln ≠ .o ∧ (v % 4 = 2 → t.line s.core ln = .i)
         else code t 1 ∧ t.mem = s.mem))
    ∧ (s.quiet (.ctxsave o) = true → ∃ t, exec (.ctxsave o) s = .next t
      ∧ (∀ tm, (s.coreAt s.core).team = some tm → (s.coreAt s.core).stopped = true → v % 65536 = 0 → s.areaThere v tm.areaSize = true →
          fine s.drainCore → kept t ∧ code t 0 ∧ (t.coreAt s.core).saved = true
            ∧ (let tm' := ((s.drainCore.coreAt s.core).team.getD tm).forSave
               t.mem = ((s.drainCore.areaFill v tm').physWrite (dieOf s.core) v tm'.header).mem ∧ tget none t.saved v = some tm'))
      ∧ ((s.coreAt s.core).team = none ∨ (s.coreAt s.core).stopped = false → kept t ∧ code t 1 ∧ t.saved = s.saved))
    ∧ (s.quiet (.ctxload o) = true → ∃ t, exec (.ctxload o) s = .next t
      ∧ (∀ tm, (s.coreAt s.core).team = none → v % 65536 = 0 → s.areaBad v tm.areaSize = false → s.areaThere v tm.areaSize { r := true } = true → tget none s.saved v = some tm →
          s.headerOk v tm = true → partLegal tm.partw tm.ngrp tm.regalloc = true → kept t ∧ code t 0 ∧ (t.coreAt s.core).team = some (tm.forLoad (s.ctxEntry tm.ctx)) ∧ (t.coreAt s.core).stopped = true
            ∧ (t.coreAt s.core).saved = false ∧ t.mem = s.mem))

/-! ## Steps of the hardware -/

/-- R36 to R38: a swap takes a group out and another in, neither issuing for the 8 cycles that follow this one; then the group
that comes in is active. -/
def Obligations.GroupSwaps : Prop :=
  ∀ (c : Nat) (s : State) (tm : Team), (s.coreAt c).team = some tm →
    (∀ (forced : Bool) (out inn : Nat), let i := if forced then Instr.forcedSwap c else Instr.groupSwap c
      (if forced then s.forcedDue c else s.swapDue c) = some (out, inn) →
      ∃ t u, exec i s = .next t ∧ t = s.setCore c { s.coreAt c with team := some u } ∧ u.groups = tm.groups
        ∧ u.swap = some ⟨out, inn, s.cycle + 9⟩ ∧ out ∉ u.active ∧ (∀ g, g ≠ out → (g ∈ u.active ↔ g ∈ tm.active))
        ∧ (∀ g, g ∈ u.pending ↔ (g ∈ tm.pending ∧ g ≠ inn) ∨ (g = out ∧ (tm.group out).ended = false)))
    ∧ (∀ w, tm.swap = some w → w.til ≤ s.cycle →
      ∃ t, exec (.swapEnd c) s = .next t
        ∧ t = s.setCore c { s.coreAt c with team := some { tm with active := tm.active ++ [w.inGrp], swap := none } })

/-- R152, R155, R163, R167, R211, R234, R235, R350: waits that end, results that arrive, and a TQGET that is answered later. A
scalar load's result is written though its threads have exited (the model's reading, log 39); what becomes of a wait's s1 when
a frame has opened or closed since is log 40's: SLEEPTO and PWWAIT write it, a TQGET's is lost or kept for the frame. -/
def Obligations.WaitsEnd : Prop :=
  ∀ (c g : Nat) (s : State) (tm : Team), (s.coreAt c).team = some tm → g < 16 →
    let at' := fun (t : State) => ((t.coreAt c).team.getD {}).group g
    let old := tm.group g
    (∃ t, exec (.sleepWake c g) s = .next t ∧ t.mem = s.mem ∧ old.SameRegisters (at' t) ∧ (at' t).pc = old.pc
      ∧ ∀ w, w ∈ (at' t).waits ↔ w ∈ old.waits ∧ ∀ til, w.kind = .sleep til → s.cycle < til)
    ∧ (∀ w, tm.endingWait g s.cycle = some w → ({ s with core := c, grp := g } : State).joinFault (w.kind.opId.getD 0) w.mask = none →
      ∃ t, exec (.sleeptoResume c g) s = .next t ∧ t.mem = s.mem ∧ w ∉ (at' t).waits ∧ (at' t).pc = old.pc
        ∧ SameV [] old (at' t) ∧ SameM [] old (at' t) ∧ (at' t).flags = old.flags ∧ SameS [(tm.waitResult w.kind).1] old (at' t)
        ∧ (∀ sd pc dl id, w.kind = .sleepto sd pc dl id → sd ≠ 0 →
            (at' t).sreg sd = if id ≠ 0 ∧ tm.isDone id = true then 0 else 1)
        ∧ (∀ sd pc id, w.kind = .pwwait sd pc id → sd ≠ 0 → (at' t).sreg sd = tm.walkStatus))
    ∧ (∀ pre ms d r post, old.outstanding = pre ++ { req := 0, missed := ms, dests := d, results := [r] } :: post → (∀ y ∈ pre, y.req ≠ 0) →
      ∃ t, exec (.loadComplete c g) s = .next t ∧ t.mem = s.mem ∧ (at' t).outstanding = pre ++ post ∧ (at' t).pc = old.pc
        ∧ (at' t).flags = old.flags ∧ SameM [] old (at' t)
        ∧ (∀ n v, r = .scalar n v → SameV [] old (at' t) ∧ SameS [n] old (at' t) ∧ (n ≠ 0 → (at' t).sreg n = v))
        ∧ (∀ (n tag : Nat) (ls : List Nat) (f : Nat → Word), r = .vec n tag (ls.map (fun l => (l, f l))) → SameS [] old (at' t) ∧ SameV [n] old (at' t)
            ∧ ((∃ l ∈ ls, old.exited.getLsbD l = false) → (at' t).tag n = tag)
            ∧ ∀ l < 64, (at' t).lane n l = if l ∈ ls ∧ old.exited.getLsbD l = false then f l else old.lane n l))
    ∧ (∀ w sd dl, (s.grid tm.grid).record.getLsbD 88 = false → tm.twin = false → 0 < sd →
      let away := sd = 1 ∧ (w.kind.tqFate = 2 ∨ w.kind.tqFate = 0 ∧ old.frame ≠ none)
      let answered := fun (t : State) (a b : Dword) => t.mem = s.mem ∧ w ∉ (at' t).waits ∧ SameS [sd, sd + 1] old (at' t)
        ∧ (at' t).sreg sd = (if away then old.sreg sd else a) ∧ (at' t).sreg (sd + 1) = b
        ∧ (at' t).outstanding = old.outstanding.filter (fun o => o.req ≠ w.kind.tqReq)
        ∧ ∀ f, old.frame = some f → (at' t).frame = some (if sd = 1 ∧ w.kind.tqFate = 0 then { f with savedS1 := a } else f)
      (∀ k x, old.tqWait (fun _ => true) = some (w, sd, dl) → (s.grid tm.grid).firstReady = some (k, x) →
          (s.grid tm.grid).tqTurn s.cycle (waitPlace c) = true →
        ∃ t, exec (.tqgetRearrive c g) s = .next t
          ∧ answered t (BitVec.ofNat 64 (x.prio * 2 ^ 12 + k)) (x.payload.setWidth 64) ∧ t.slot tm.grid k = { x with state := .taken })
      ∧ (old.tqWait (fun d => d ≤ s.cycle) = some (w, sd, dl) →
          (s.grid tm.grid).firstReady = none ∨ (s.grid tm.grid).tqTurn s.cycle (waitPlace c) = false →
        ∃ t, exec (.tqgetDeadline c g) s = .next t ∧ answered t (s.grid tm.grid).emptyWord 0 ∧ (t.grid tm.grid).tq = (s.grid tm.grid).tq))

/-- R134, R408: words that are no instruction, and a fetch that is refused, trap the whole issue set together. -/
def Obligations.NoInstructionTraps : Prop :=
  ∀ (sub va : Nat) (s : State),
    (∀ ix ∈ [(Instr.illegalInstruction sub, ({ code := 1, sub := sub } : Trap)),
        (.codeFetchFault sub va, { code := 0x0B, sub := sub, va := va })],
      s.quiet ix.1 = true →
      exec ix.1 s = .next ((s.modGroup (s.group.finish (s.issueOf 1) s.tick false s.group.issueSet 0 [])).takeTraps s.group.issuePc
        { tog := some (s.group.issueSet, ix.2) })
      ∧ ∀ t, exec ix.1 s = .next t → s.isSvc = false → s.group.frame = none → s.team.hEn = false →
          (s.grid s.team.grid).phase ≠ .ended → (s.grid s.team.grid).phase ≠ .ending →
          t.grid s.team.grid = { s.grid s.team.grid with phase := .ending, status := 2 } ∧ s.group.SameRegisters t.group)

/-- R216, R218 to R220, R456, R457, R461, R464, R474, R485, R486: the oldest queued request is performed (one queue in issue order, log
1). A store writes its bytes and no other once its core has its line in M, and a reduction joins its core's partial once the core has
it in G; an atomic or a nibble store writes its operation's result once the line is cached nowhere, the atomic at the target that its
check has let through, and returns what was there. Until then the request stays first. -/
def Obligations.RequestsPerform : Prop :=
  ∀ (s : State) (r : MemReq) (rest : List MemReq) (key : Nat), s.stores = r :: rest → (∀ c ∈ s.cores, c.2.partials = []) →
    s.poisoned key = false → (s.domain.failed = [] ∨ (s.logTail + 1) % 4096 = s.logHead) →
    let v0 : State := { s with stores := rest }
    let stays := fun (t : State) => t.stores = r :: rest ∧ t.mem = s.mem
    (∀ pa va bs, r.kind = .store pa va bs → s.access? (dieOf r.core) pa { w := true } = .mem key →
      let held := permits ((v0.obtain r.core (pa / 128) 0).line r.core (pa / 128)) 0
      ∃ t, exec .storePerform s = .next t ∧ t.line r.core (pa / 128) = (v0.obtain r.core (pa / 128) 0).line r.core (pa / 128)
        ∧ (held = true → t.stores = rest ∧ t.bytesAt key bs.length = bs ∧ ∀ a, a < key ∨ key + bs.length ≤ a → t.byte a = s.byte a)
        ∧ (held = false → stays t))
    ∧ (∀ pa va high v, r.kind = .nibble pa va high v → s.access? (dieOf r.core) pa { w := true } = .mem key →
      let live := (v0.uncache (pa / 128)).uncached (pa / 128)
      ∃ t, exec .mscAtomicStep s = .next t ∧ (live = false → stays t)
        ∧ (live = true → t.stores = rest ∧ (∀ a, a ≠ key → t.byte a = s.byte a)
          ∧ (t.byte key).toNat = if high then v.toNat % 16 * 16 + (s.byte key).toNat % 16 else (s.byte key).toNat / 16 * 16 + v.toNat % 16))
    ∧ (∀ pa va op ty v, r.kind = .combine pa va op ty v → s.access? (dieOf r.core) pa { w := true } = .mem key →
      let held := permits ((v0.obtain r.core (pa / 128) 1).line r.core (pa / 128)) 1
      let live := (v0.uncache (pa / 128)).uncached (pa / 128)
      ∃ t, exec .mscAtomicStep s = .next t
        ∧ (op < 16 → held = false → stays t)
        ∧ (op < 16 → held = true → t.stores = rest ∧ t.mem = s.mem ∧ ∃ p, tget none (t.coreAt r.core).partials (pa / 4) = some p
            ∧ p.op = op ∧ p.ty = ty ∧ p.val = v ∧ p.mixed = false)
        ∧ (16 ≤ op → live = false → stays t)
        ∧ (16 ≤ op → live = true → t.stores = rest ∧ (∀ a, a < key ∨ key + 4 ≤ a → t.byte a = s.byte a)
            ∧ t.bytesAt key 4 = leBytes 4 (atomOp op ty (BitVec.ofNat 32 (leNat (s.bytesAt key 4))) v).toNat))
    ∧ (∀ op ty pa va v c, r.kind = .amo op ty pa va v c → s.atomicAt pa = .mem key →
      let live := (v0.uncache (pa / 128)).uncached (pa / 128)
      let m := BitVec.ofNat 32 (leNat (s.bytesAt key 4))
      let n := if op = 7 then (if m = c then v else m) else atomOp op ty m v
      ∃ t, exec .mscAtomicStep s = .next t ∧ (live = false → stays t)
        ∧ (live = true → t.stores = rest ∧ t.bytesAt key 4 = leBytes 4 n.toNat ∧ (∀ a, a < key ∨ key + 4 ≤ a → t.byte a = s.byte a)
          ∧ ∀ tm d q w, (s.coreAt r.core).team = some tm → r.grp < 16 → (s.grid tm.grid).record.getLsbD 88 = false →
            (tm.group r.grp).outstanding = [{ req := r.id, dests := d, results := [.vec q w []] }] → (∀ x ∈ rest, x.id ≠ r.id) →
            (((t.coreAt r.core).team.getD {}).group r.grp).outstanding = [{ req := 0, dests := d, results := [.vec q w [(r.lane, m)]] }]))

/-- R242, R244, R246, R254, R263, R272, R356, R362, R375, R441, R446, R464: an operation that its queue lets start runs, and one with nothing to
do is done at once; a running one that can complete is done with its fault and count, detected in that cycle; one that meets
bad data from outside, of the model's choice of buffer and unit (log 34), or whose budget ends, is done with that fault. No
fault that is neither comes to it. An operation of a redundant grid that is to be compared has then run, and waits for the comparison
(the model's reading, log 46). A step for which a line cannot be had yet is not made, and its refused requests come again. -/
def Obligations.OperationsRun : Prop :=
  ∀ (c n : Nat) (s : State) (tm : Team) (op : EngOp), s.opAt c n = some (tm, op) →
    let found := fun (t : State) => (t.coreAt c).team.bind (fun u => u.findOp op.id)
    let u := s.asOp c op
    let run := u.opEffect op
    let fault := run.2.1.map (fun f => { f with cycle := run.1.cycle, core := c })
    (s.canStart c tm op = true → isWalk op.instr = false → op.idle = false →
      ∃ t o, exec (.engineOpStart c n) s = .next t ∧ found t = some o ∧ o.phase = .running ∧ o.fault = op.fault ∧ o.words = op.words
        ∧ o.pos = op.pos ∧ t.mem = s.mem ∧ ∀ g, ((t.coreAt c).team.getD {}).group g = tm.group g)
    ∧ (s.canStart c tm op = true → op.idle = true → u.comparesOp op = false →
      ∃ t o, exec (.engineOpStart c n) s = .next t ∧ found t = some o ∧ o.phase = .done ∧ o.fault = none
        ∧ (isMassdec op.instr = true → o.donecnt = 0) ∧ t.mem = s.mem)
    ∧ (s.canComplete c tm op = true → run.1.stuck = false → u.opRollsBack run.2.1 = false →
      ∃ t o, exec (.engineOpComplete c n) s = .next t ∧ found t = some o ∧ o.donecnt = run.2.2 ∧ t.mem = run.1.mem
        ∧ (run.1.comparesOp op = false → o.phase = .done ∧ o.fault = fault)
        ∧ (run.1.comparesOp op = true → o.phase = .running ∧ o.ran = some fault))
    ∧ (∀ code sub off, op.phase = .running → op.ran = none →
      let own := (isWalk op.instr = false ∨ u.team.walkOver = true) ∧ run.2.1.any (fun f => f.code = code && f.sub = sub && f.off = off) = true
      (own → run.1.stuck = false → u.opRollsBack run.2.1 = false → run.1.comparesOp op = false →
        ∃ t o, exec (.engineOpFault c n code sub off) s = .next t ∧ found t = some o ∧ o.phase = .done
          ∧ o.fault = fault ∧ o.donecnt = run.2.2)
      ∧ (¬ own → code = 0x30 → sub = 6 → isWalk op.instr = false → u.opRollsBack (some (u.outsideFault op off)) = false →
          u.comparesOp op = false →
        ∃ t o, exec (.engineOpFault c n code sub off) s = .next t ∧ found t = some o ∧ o.phase = .done
          ∧ o.fault = some { u.outsideFault op off with cycle := s.cycle, core := c } ∧ o.donecnt = op.donecnt
          ∧ t.mem = s.mem)
      ∧ (¬ own → code ≠ 0x30 ∨ sub ≠ 6 → exec (.engineOpFault c n code sub off) s = .next s))
    ∧ (s.canComplete c tm op = true → run.1.stuck = true →
      exec (.engineOpComplete c n) s = .next { s with core := c, grp := op.grp, stuck := false, retries := run.1.retries })
    ∧ (s.isLate op = true → let late := if (u.copyLate op).1.stuck = true then (u, op.donecnt) else u.copyLate op
      late.1.comparesOp op = false →
      ∃ t o, exec (.copyLateExpiry c n) s = .next t ∧ found t = some o ∧ o.phase = .done
        ∧ o.fault = some { code := 0x12, sub := 1, cycle := late.1.cycle, core := c } ∧ o.donecnt = late.2 ∧ t.mem = late.1.mem
        ∧ (op.phase = .queued → late = (u, op.donecnt)))

/-- R254, R332 to R338, R341: MXZERO clears the words of its tiles and no other; a linear copy inside a scratchpad moves its bytes and
no other. A walk that starts has a position, each step of its main pass moves it on, and at the end of the order the catch-up
pass begins. A node that no sequence takes part in is passed; one whose block cannot be fetched leaves its sequences FAULTED with its
number and the REASON; one whose block is fetched works on each row of its sequences and counts in DONECNT. In the catch-up pass the
node is the next one of the lowest slot that has any left. -/
def Obligations.OperationsMove : Prop :=
  (∀ (c n : Nat) (s : State) (tm : Team) (op : EngOp), s.opAt c n = some (tm, op) → s.canComplete c tm op = true → op.pos = 0 → op.inner = [] →
     let after := fun (t : State) => (t.coreAt c).team.getD {}
     (∀ o, op.instr = .mxzero o → ∃ t, exec (.engineOpComplete c n) s = .next t ∧ t.mem = s.mem
       ∧ (∀ tile r k, tile < 16 → r < 128 → k < 128 → (after t).accWord tile r k = if bit (wordAt op.words 0) tile then 0 else tm.accWord tile r k)
       ∧ (after t).scratch = tm.scratch)
     ∧ (∀ o, op.instr = .cpy o →
       let src := epOff (wordAt op.words 0)
       let dst := epOff (wordAt op.words 1)
       let len := copyLen op.words
       epKind (wordAt op.words 0) = 1 → epKind (wordAt op.words 1) = 1 → len % 4 = 0 → src + len ≤ tm.scratchSize →
         dst + len ≤ tm.scratchSize → src + len ≤ dst ∨ dst + len ≤ src →
       ∃ t, exec (.engineOpComplete c n) s = .next t ∧ t.mem = s.mem
         ∧ (after t).scratchBytes dst len = tm.scratchBytes src len ∧ (after t).acc = tm.acc
         ∧ ∀ a k, a + k ≤ dst ∨ dst + len ≤ a → (after t).scratchBytes a k = tm.scratchBytes a k))
  ∧ (∀ (c : Nat) (s : State) (tm : Team) (w : Walk) (op : EngOp), (s.coreAt c).team = some tm →
       let run := fun (t : State) => ((t.coreAt c).team.bind Team.walk).bind Walk.run
       (∀ (r : WalkRun), tm.walkOp = some (w, r, op) → s.walkWaits c tm = false → r.catchUp = false → (let o := ({ s with core := c, grp := op.grp, stuck := false } : State).mainStep none r op; o.1.stuck = false ∧ o.2 = none) →
         ∃ t u, exec (.walkNode c) s = .next t ∧ run t = some u ∧ u.id = r.id ∧ u.resumed = r.resumed ∧ u.afresh = r.afresh
           ∧ ((Tree.order op.snap)[r.pos]? = none → u.catchUp = true ∧ u.pos = r.pos)
           ∧ ((Tree.order op.snap)[r.pos]? ≠ none → u.catchUp = false ∧ u.pos = r.pos + 1))
       ∧ (∀ n u, s.opAt c n = some (tm, op) → s.canStart c tm op = true → isWalk op.instr = true → tm.walk = some w →
         ((((s.asOp c op).startCopy op).1.modTeam (fun t => t.modOp op.id (fun o => { o with til := s.cycle + o.len }))).walkStart
           op (isResume op.instr)) = (u, none) → u.stuck = false →
         ∃ t, exec (.engineOpStart c n) s = .next t ∧ t.mem = u.mem
           ∧ run t = some { id := op.id, resumed := isResume op.instr, afresh := isResume op.instr || tm.btFresh }))
  ∧ (∀ (c : Nat) (s : State) (tm : Team) (w : Walk) (r : WalkRun) (op : EngOp), (s.coreAt c).team = some tm → tm.walkOp = some (w, r, op) → s.walkWaits c tm = false →
      let tree : Tree := op.snap
      let u : State := { s with core := c, grp := op.grp, stuck := false }
      let after := fun (t : State) (x : WalkRun) => t.mem = s.mem ∧ (t.coreAt c).team = some { tm with walk := some { w with run := some x } }
      -- what the fetch of a node from a state leads to, for its sequences
      let froze := fun (f : State) (why n : Nat) (qs : List Nat) (late : Bool) => ∀ v x, f.stuck = false → f.core = c → (f.coreAt c).team = some v → v.walk = some x →
        ∃ t y, exec (.walkNode c) s = .next t ∧ t.mem = f.mem ∧ (t.coreAt c).team.bind Team.walk = some y ∧ y.run = x.run
          ∧ ∀ q, y.seq q = if q ∈ qs then { x.seq q with state := 3, fnode := n, reason := why, lateFault := late } else x.seq q
      let worked := fun (f : State) (b : Block) (qs : List Nat) => ∀ v x, w.massen = false → f.stuck = false → f.core = c → (f.coreAt c).team = some v → v.walk = some x →
        ∃ t v' y, exec (.walkNode c) s = .next t ∧ t.mem = f.mem ∧ (t.coreAt c).team = some v' ∧ v'.walk = some y
          ∧ y.run.map WalkRun.pos = x.run.map WalkRun.pos
          ∧ (v'.findOp op.id).map EngOp.donecnt = (v.findOp op.id).map (fun o => o.donecnt + 1)
          ∧ (∀ q ∈ qs, ∀ k ∈ w.rowsOf q, (v.rowAtNode w b k).1.walk.map (fun z => z.row k) = some (y.row k)
              ∧ ∀ i < w.d, tget 0 v'.acc (w.oKey k i) = tget 0 (v.rowAtNode w b k).1.acc (w.oKey k i))
          ∧ ∀ k, (∀ q ∈ qs, k ∉ w.rowsOf q) → y.row k = x.row k
      (r.catchUp = false → r.resumed = true ∨ w.queue = [] →
        (tree.order[r.pos]? = none → ∃ t, exec (.walkNode c) s = .next t ∧ after t { r with catchUp := true })
        ∧ ∀ n, tree.order[r.pos]? = some n → let qs := w.subs r tree n
          let f := (u.modTeam (Team.setRun (fun x => { x with pos := x.pos + 1 }))).fetchNode w (tree.node n)
          (qs = [] → ∃ t, exec (.walkNode c) s = .next t ∧ after t { r with pos := r.pos + 1 })
          ∧ (qs ≠ [] → (∀ why, f.2 = .inl why → froze f.1 why n qs false) ∧ ∀ b, f.2 = .inr b → worked f.1 b qs))
      ∧ (∀ q more n rest, r.catchUp = true → w.lateSeqs r = q :: more → (w.seq q).late = n :: rest →
        let f := u.fetchNode w (tree.node n)
        (∀ why, f.2 = .inl why → froze f.1 why n [q] true) ∧ ∀ b, f.2 = .inr b → worked f.1 b [q]))

/-- R390, R391, R398, R399, R430: an entry that waits for a fault queue is written at its tail, as the die of the thread that passed, once there is room; a service
fault is posted to the signal ring, the next one of that group behind it; a doorbell is kept; a shepherd barrier finds its
core's stores performed (the model's choice, log 1). A service entry, once no store of the last run is on its way, starts the
service group at offset 0 with all its threads, s1 to s3 from the entry and every other register 0; the team of its core is
unchanged. -/
def Obligations.ServicePostsAndEntries : Prop :=
  (∀ (s : State),
     (∀ q die e rest base, let f := tget {} s.fqs q
       f.waiting = (die, e) :: rest → f.full = false →
       let at' := f.ring * 2 ^ 13 + 32 * f.tail
       ∃ t, exec (.faultQueuePost q) s = .next t ∧ tget {} t.fqs q = { f with tail := (f.tail + 1) % 256, waiting := rest }
         ∧ (∀ k, k ≠ q → tget {} t.fqs k = tget {} s.fqs k) ∧ t.cores = s.cores
         ∧ (s.access? (masterOf die) at' { w := true } = .mem base →
             t.bytesAt base 32 = leBytes 32 e.toNat ∧ ∀ a, a < base ∨ base + 32 ≤ a → t.byte a = s.byte a))
     ∧ (∀ c f, (s.coreAt c).svcFault = some f → s.sigFull = false →
       ∃ t e, exec (.serviceFaultPost c) s = .next t ∧ t.sigTail = (s.sigTail + 1) % 256
         ∧ t.coreAt c = { s.coreAt c with svcFault := (s.coreAt c).svcLate.head?, svcLate := (s.coreAt c).svcLate.drop 1 } ∧ (∀ d, d ≠ c → t.coreAt d = s.coreAt d)
         ∧ t.mem = (s.physWrite 8 (s.base 4 + 4096 + 16 * s.sigTail) (leBytes 16 e)).mem
         ∧ bits e 127 64 = 2 ^ 63 + f.sub % 256 * 256 + f.code % 256 ∧ bits e 63 32 = f.pc % 2 ^ 32 ∧ bits e 12 8 = c % 24
         ∧ bits e 2 0 = c / 24 % 8)
     ∧ (∀ c lo hi, c < numCores → s.boot.recovery = false →
       ∃ t, exec (.doorbell c lo hi) s = .next t ∧ t.mem = s.mem
         ∧ t.coreAt c = { s.coreAt c with bells := (s.coreAt c).bells ++ [(lo, hi)] } ∧ ∀ d, d ≠ c → t.coreAt d = s.coreAt d)
     ∧ ∀ n, exec (.shepherdFullBarrier n) s = .next s)
  ∧ (∀ (c : Nat) (s : State), let x := s.coreAt c
       x.svcFault = none → x.svcRun = false ∨ x.svc.ended = true → x.erets = false → s.svcClear c = true →
       let who := match x.team with | some t => if x.stopped = true then t.ctx % 256 * 256 + 128 else 0 | none => 0
       let entered := fun (t : State) (cause : Nat) (a b : Dword) =>
         let y := t.coreAt c
         y.svcRun = true ∧ y.svc.issueSet = BitVec.allOnes 64 ∧ y.svc.issuePc = 0 ∧ (y.svc.sreg 1).toNat = who + cause
           ∧ y.svc.sreg 2 = a ∧ y.svc.sreg 3 = b ∧ (∀ n, 3 < n → y.svc.sreg n = 0) ∧ y.svc.flags = 0
           ∧ y.team = x.team ∧ y.stopped = x.stopped ∧ t.mem = s.mem ∧ ∀ d, d ≠ c → t.coreAt d = s.coreAt d
       (x.due = 1 → x.stopped = true → x.team ≠ none →
         ∃ t, exec (.serviceEntryPreempt c) s = .next t ∧ entered t 1 (BitVec.ofNat 64 x.slotAddr) 0 ∧ (t.coreAt c).due = 0)
       ∧ (x.due = 2 → x.team = none →
         ∃ t, exec (.serviceEntryRestore c) s = .next t ∧ entered t 2 (BitVec.ofNat 64 x.slotAddr) 0 ∧ (t.coreAt c).due = 0)
       ∧ (∀ a b rest, x.bells = (a, b) :: rest →
         ∃ t, exec (.serviceEntryRequest c) s = .next t ∧ entered t 3 a b ∧ (t.coreAt c).bells = rest))

/-- R425 to R427, R432, R489: a page walk that no miss has begun begins with what it reads now, is over at once when it finds no leaf,
and waits while 64 of its die are in flight; one in flight ends, keeps in its die's TLB the leaf that it found with the table
entries that led there, and lets the next that waits begin: a step of its own and the entries kept are the model's choice
(log 36). In recovery there is neither (R489). RESOLVE lets the thread of its context and token go on, or ends the grid that holds it, at its restore when that is pre-empted. -/
def Obligations.PageWalkAndResolve : Prop :=
  ∀ (s : State),
    (s.boot.recovery = true → ∀ c ctx va w, exec (.pageWalk c ctx va) s = .next s ∧ exec (.fqResolve w) s = .next s)
    ∧ (s.boot.recovery = false → ∀ c ctx va, let die := dieOf c
      let page := va / 65536
      let inTlb := (tlbFind (s.coreAt c).tlb ctx va).isSome ∨ (tlbFind (tget [] s.dieTlb die) ctx va).isSome
      (s.walkFor c ctx va = none →
        (inTlb → exec (.pageWalk c ctx va) s = .next s)
        ∧ (¬ inTlb → (s.walking die).length < 64 → s.unwalked die = none →
          let r := s.walkDie die ctx (65536 * page)
          ∃ t, exec (.pageWalk c ctx va) s = .next t ∧ t.mem = s.mem ∧ t.cores = s.cores ∧ t.dieTlb = s.dieTlb
            ∧ (tget [] s.dieTabs die = [] → r = s.walkRoot die ctx (65536 * page))
            ∧ t.walks = s.walks ++ (match r.res with
                | .fail _ => []
                | .leaf lv p => [{ die := die, ctx := ctx, page := page, res := some (.leaf lv p), tabs := r.tabs }]))
        ∧ (¬ inTlb → 64 ≤ (s.walking die).length →
          exec (.pageWalk c ctx va) s = .next { s with walks := s.walks ++ [{ die := die, ctx := ctx, page := page }] }))
      ∧ (∀ w, s.walkFor c ctx va = some w → w.res = none → exec (.pageWalk c ctx va) s = .next s)
      ∧ (∀ w r, s.walkFor c ctx va = some w → w.res = some r →
        ∃ t, exec (.pageWalk c ctx va) s = .next t ∧ t.mem = s.mem ∧ t.cores = s.cores
          ∧ (s.unwalked die = none → t.walks = s.walks.erase w)
          ∧ (s.walks.Nodup → (s.walking die).length ≤ 64 → ∀ v, s.unwalked die = some v → v ∉ t.walks)
          ∧ (∀ n, r = .fail n → t.dieTlb = s.dieTlb ∧ t.dieTabs = s.dieTabs)
          ∧ ∀ lv p, r = .leaf lv p →
              leafEntry ctx (65536 * page) lv p ∈ tget [] t.dieTlb die ∧ ∀ b ∈ w.tabs, b ∈ tget [] t.dieTabs die))
    ∧ (s.boot.recovery = false → ∀ w, let token := bits w.toNat 15 0
      let ctx := bits w.toNat 31 24
      (bit w.toNat 32 = false →
        ∃ t, exec (.fqResolve w) s = .next t ∧ t.mem = s.mem ∧ (∀ e, e ∈ t.unresolved ↔ e ∈ s.unresolved ∧ e ≠ (ctx, token)) ∧ ∀ c tm, (s.coreAt c).team = some tm →
          ∃ u, (t.coreAt c).team = some u ∧ ∀ g, (tm.group g).SameRegisters (u.group g) ∧ (u.group g).pc = (tm.group g).pc
            ∧ ∀ x, x ∈ (u.group g).waits ↔ x ∈ (tm.group g).waits ∧ ¬ (tm.ctx = ctx ∧ x.kind = .pass token))
      ∧ (∀ tm, let held := s.cores.filterMap (fun c => c.2.team) ++ s.savedTeams
          tm ∈ held → tm.holdsToken ctx token = true → bit w.toNat 32 = true →
          (∀ u ∈ held, u.holdsToken ctx token = true → u.grid = tm.grid) →
          let x := s.grid tm.grid
          ∃ t, exec (.fqResolve w) s = .next t ∧ t.mem = s.mem ∧ t.cores = s.cores
            ∧ (x.phase = .preempted ∨ x.phase = .restoring → t.grid tm.grid = { x with killed := true })
            ∧ (x.phase = .waiting ∨ x.phase = .resident ∨ x.phase = .stopping →
                t.grid tm.grid = { x with phase := .ending, status := 2 })))

/-- R407 to R410: a waiting grid alone is admitted where placement puts it, each core getting its team; the head of the
waiting list is of the highest level and, of those, the earliest; a pre-empted one alone is restored where placement puts it,
also while the outlet is hot. A gang that is pre-empted stops on every core, its running operations at interrupt points; where
a core does not stop, it is lost and the grid ends CORE_LOST. One whose teams are loaded goes on together, or ends there when
a RESOLVE has killed it. -/
def Obligations.GangsMove : Prop :=
  ∀ (g : Nat) (s : State), let x := s.grid g
    (∀ h rest, s.waiting = h :: rest → ∀ y ∈ s.grids, y.2.waits = true →
      recPrio y.2.record < recPrio h.2.record ∨ recPrio y.2.record = recPrio h.2.record ∧ h.2.postTime ≤ y.2.postTime)
    ∧ (∀ pl, s.admits = true → s.waiting = [(g, x)] → x.phase = .waiting → s.boot.hot = false → s.fitsEmpty x.record = true →
        s.placeOn x.record s.freeCores = some pl → pl.Nodup →
      ∃ t, exec .admissionStep s = .next t ∧ t.mem = s.mem ∧ (t.grid g).phase = .resident ∧ (t.grid g).place = pl
        ∧ (t.grid g).record = x.record ∧ (t.grid g).admitNo = s.admitted ∧ (t.grid g).tq = []
        ∧ (∀ i c, pl[i]? = some c → ∃ tm, (t.coreAt c).team = some tm ∧ (t.coreAt c).stopped = false ∧ tm.grid = g
            ∧ tm.teamid = i % recNteam x.record ∧ tm.ctx = recCtx x.record ∧ tm.ngrp = recNgrp x.record
            ∧ tm.codeVa = recCodeVa x.record ∧ tm.regalloc = recRegs x.record ∧ tm.scratch = [] ∧ tm.ops = []
            ∧ ∀ k < recNgrp x.record, (tm.group k).issuePc = 0 ∧ (tm.group k).issueSet = BitVec.allOnes 64
              ∧ ∀ n, (tm.group k).sreg n = 0)
        ∧ ∀ c, c ∉ pl → t.coreAt c = s.coreAt c)
    ∧ (∀ pl, s.admits = true → s.waiting = [(g, x)] → x.phase = .preempted → s.fitsEmpty x.record = true →
        s.placeOn x.record s.freeCores = some pl → pl.Nodup →
      ∃ t, exec .admissionStep s = .next t ∧ t.mem = s.mem
        ∧ t.grid g = { x with phase := .restoring, bump := false, byp := 0, admitNo := s.admitted, place := pl }
        ∧ (∀ (i c k : Nat), pl[i]? = some c → x.slots[i]? = some k → t.coreAt c =
            { s.coreAt c with restoring := true, stopped := false, saved := false, due := 2, slotAddr := s.slotAddr k })
        ∧ ∀ c, c ∉ pl → t.coreAt c = s.coreAt c)
    ∧ (s.preemptReady g = true → x.place.Nodup → let u := x.place.foldl (fun s c => s.stopOps c) s
      let stopped := fun (v : Core) (w : Core) => w.stopped = true ∧ w.saved = false ∧ w.due = 1
        ∧ w.team = v.team.map (fun tm => { tm with stoppedAt := some u.cycle })
      let y : Grid := { x with phase := .stopping, preempt := false, bump := false, slots := u.freeSlots x.place.length }
      (∃ t, exec (.preemptGang ⟨g, []⟩) s = .next t ∧ t.mem = u.mem ∧ t.grid g = y
        ∧ (∀ c ∈ x.place, stopped (u.coreAt c) (t.coreAt c)) ∧ ∀ c, c ∉ x.place → t.coreAt c = u.coreAt c)
      ∧ ((∀ c ∈ x.place, ∀ tm, (s.coreAt c).team = some tm → ∀ o ∈ tm.ops, o.phase ≠ .running) → u = s)
      ∧ (∀ c ∈ x.place, ∀ tm, (u.coreAt c).team = some tm → tm.grid = g →
        ∃ t, exec (.preemptGang ⟨g, [c]⟩) s = .next t ∧ (t.coreAt c).retired = true ∧ stopped (u.coreAt c) (t.coreAt c)
          ∧ t.grid g = { y with phase := .ending, status := 4 }))
    ∧ (s.gangLoaded g = true → x.place.Nodup →
      ∃ t, exec (.gangResume g) s = .next t ∧ t.mem = s.mem
        ∧ (x.killed = false → t.grid g = { x with phase := .resident, slots := [] })
        ∧ (x.killed = true → t.grid g = { x with phase := .ending, status := 2, slots := [] })
        ∧ (∀ c ∈ x.place, (t.coreAt c).stopped = false ∧ (t.coreAt c).restoring = false
            ∧ (t.coreAt c).team = (s.coreAt c).team.map (Team.goOn s.cycle))
        ∧ ∀ c, c ∉ x.place → t.coreAt c = s.coreAt c)

/-- R412, R439, R440, R452: a grid whose end is due frees its cores and save slots; a gang that ran to its end has status
DONE, or DONE_FAULTS when a deferred fault was found. Its status word is stored where its record says, and the end logged with
that word; a store that would fault is not made, and the log names its cause. -/
def Obligations.GridsEnd : Prop :=
  ∀ (g : Nat) (s : State), let x := s.grid g
    s.gridDue g = true → s.stores = [] → x.status < 256 → (s.logTail + 1) % 4096 ≠ s.logHead → s.domain.failed = [] →
      (∀ c ∈ s.cores, c.2.partials = [] ∧ ∀ tm, c.2.team = some tm → ∀ o ∈ tm.ops, o.undelivered = none ∧ o.phase ≠ .running) →
      (∀ c ∈ s.gridCores g, (s.coreAt c).retired = false) →
    let st := (s.statusCheck (recCtx x.record) (recBits x.record 287 276) (recBits x.record 319 288)).2
    let log := s.base 6 + 4096 + 32 * s.logTail
    ∃ t e, exec (.gridEnd g) s = .next t ∧ (t.grid g).phase = .ended ∧ (t.grid g).place = [] ∧ (t.grid g).slots = []
      ∧ (t.grid g).record = x.record
      ∧ (t.grid g).status = (if x.placed = true then (if x.deferred = true then 3 else 1) else x.status)
      ∧ (∀ c ∈ s.gridCores g, (t.coreAt c).team = none ∧ (t.coreAt c).stopped = false ∧ (t.coreAt c).restoring = false)
      ∧ (∀ c, c ∉ s.gridCores g → (t.coreAt c).team.isSome = (s.coreAt c).team.isSome)
      ∧ t.logTail = (s.logTail + 1) % 4096
      ∧ bits e 103 96 = 4 ∧ bits e 95 0 = (t.grid g).status * 2 ^ 56 + recGridid x.record
      ∧ (∀ c, st = .error c → bits e 151 144 = c.1 % 256 ∧ bits e 143 136 = c.2 % 256)
      ∧ ∀ key, s.access? 8 log { w := true } = .mem key → t.bytesAt key 32 = leBytes 32 e
        ∧ (∀ c, st = .error c → ∀ a, a < key ∨ key + 32 ≤ a → t.byte a = s.byte a)
        ∧ (∀ k, st = .ok (.mem k) → k + 8 ≤ key ∨ key + 32 ≤ k →
            t.bytesAt k 8 = leBytes 8 ((t.grid g).status * 2 ^ 56 + recGridid x.record)
              ∧ ∀ a, a < k ∨ k + 8 ≤ a → a < key ∨ key + 32 ≤ a → t.byte a = s.byte a)

/-- R402 to R405, R411, R415, R430, R452, R478, R483, R489, R490: the words that shepherd cores write, none in recovery. That a set is disabled in any
state (log 31), that context entry 0 comes to stand in memory with its set (log 4), and that an access-table entry can be written until
stage 3 starts and not after it (log 58), is the model's reading. -/
def Obligations.ShepherdWords : Prop :=
  ∀ (s : State),
    (∀ port poster st, s.boot.recovery = true → exec (.launchPortPost port poster st) s = .next s)
    ∧ (∀ port poster record whole, port < 8 → s.boot.recovery = false → let code := if whole = true then s.postCode record port none else 5
      ∃ t, exec (.launchPortPost port poster ⟨record, whole⟩) s = .next t ∧ t.mem = s.mem ∧ t.cores = s.cores
        ∧ (192 ≤ poster → poster < 208 →
            tget 0 t.lpres (poster - 192) = BitVec.ofNat 64 (code * 2 ^ 40 + port * 2 ^ 32 + recGridid record))
        ∧ (poster < 192 → t.lpres = s.lpres)
        ∧ (code = 0 → t.grid s.nextGrid = { record := record, postTime := s.cycle } ∧ t.nextGrid = s.nextGrid + 1)
        ∧ (code ≠ 0 → t.grids = s.grids ∧ t.nextGrid = s.nextGrid) ∧ (recPrio record ≠ port → code = 5))
    ∧ (∀ ctx gridid, Canon {} s.grids = true → s.boot.recovery = false →
      let isIt := fun (g : Nat) => (∃ x, (g, x) ∈ s.grids) ∧ recCtx (s.grid g).record = ctx ∧ recGridid (s.grid g).record = gridid
      (∃ t, exec (.lctlPreempt ctx gridid) s = .next t ∧ t.cores = s.cores ∧ t.mem = s.mem
        ∧ ∀ g, let asked := isIt g ∧ ((s.grid g).phase = .resident ∧ s.gangOver g = false ∨ (s.grid g).phase = .restoring)
          (asked → t.grid g = { s.grid g with preempt := true }) ∧ (¬ asked → t.grid g = s.grid g))
      ∧ (∃ t, exec (.lctlKill ctx gridid) s = .next t ∧ t.cores = s.cores ∧ t.mem = s.mem
        ∧ ∀ g, let dies := isIt g ∧ s.gangOver g = false ∧ (s.grid g).phase ≠ .ended ∧ (s.grid g).phase ≠ .ending
          (dies → t.grid g = { s.grid g with phase := .ending, status := 5 }) ∧ (¬ dies → t.grid g = s.grid g)))
    ∧ (∀ w : Dword, ∃ t, exec (.sapoolWrite w) s = .next t ∧ (s.restoreList ≠ 0 ∨ s.boot.recovery = true → t = s)
      ∧ (s.restoreList = 0 → s.boot.recovery = false → t = { s with sapoolBase := bits w.toNat 63 35, sapoolCount := bits w.toNat 15 0 }))
    ∧ (s.boot.recovery = true → ∀ r w, exec (.registerWrite r w) s = .next s)
    ∧ (s.boot.recovery = false → ∀ w : Dword, ∃ t, exec (.registerWrite .logHead w) s = .next t ∧ t = { s with logHead := bits w.toNat 11 0 })
    ∧ (s.boot.recovery = false → ∀ (c k : Nat) (w : Dword), ∃ t, exec (.registerWrite (.access c k) w) s = .next t ∧ t.mem = s.mem ∧ t.cores = s.cores
      ∧ (3 ≤ s.boot.stage → t = s)
      ∧ (s.boot.stage < 3 → let e := (tget 0 t.access (c % 256 * 16 + k % 16)).toNat
         bits e 63 48 = bits w.toNat 63 48 ∧ bits e 47 46 = 0 ∧ bits e 45 44 = bits w.toNat 45 44 ∧ bits e 43 30 = 0
          ∧ bits e 29 0 = bits w.toNat 29 0))
    ∧ (∀ (pa key : Nat) (w : Dword), s.access? 8 (pa / 8 * 8) { w := true } = .mem key → (∀ c ∈ s.cores, c.2.partials = []) →
      s.boot.recovery = false → (s.domain.failed = [] ∨ (s.logTail + 1) % 4096 = s.logHead) →
      ∃ t, exec (.registerWrite (.memory pa) w) s = .next t ∧ t.bytesAt key 8 = leBytes 8 w.toNat
        ∧ ∀ a, a < key ∨ key + 8 ≤ a → t.byte a = s.byte a)
    ∧ (s.boot.recovery = true → ∀ n, exec (.chsetEnable n) s = .next s ∧ exec (.chsetDisable n) s = .next s)
    ∧ (s.boot.recovery = false → ∀ n < 256, let x := s.chset n
      (x.en = false → x.state = 0 → s.liveOf { x with leaving := [] } ≠ [] →
        ∃ t, exec (.chsetEnable n) s = .next t ∧ t.chset n =
          { x with en := true, state := 1, nlive := (s.liveOf { x with leaving := [] }).length, bound := 0, leaving := [] }
          ∧ (s.base 0 = 0 ∨ s.base 0 / 2 ^ 39 % 256 ≠ n → t.mem = s.mem)
          ∧ (s.base 0 ≠ 0 → s.base 0 / 2 ^ 39 % 256 = n → ∀ key, t.locate (s.base 0) = .at key →
              t.bytesAt key 64 = leBytes 64 s.boot.entry0.toNat))
      ∧ (∃ t, exec (.chsetDisable n) s = .next t
        ∧ (s.stores = [] → (x.state ≠ 2 → t.mem = s.mem) ∧ ∀ a < newPlace, t.byte a = s.byte a)
        ∧ t.chset n = { x with en := false, state := 0, leaving := [] } ∧ ∀ k, k ≠ n → t.chset k = s.chset k))

/-- R482, R487, R488: one granule of a restripe moves, to a place apart until the last has moved; then the set is active again
over the new places. Refreshes fall due and are done, none of a bank by itself while all-bank refreshes run. How many a bank
makes at once, and the stall, are free values (log 12). -/
def Obligations.MemoryUpkeep : Prop :=
  ∀ (s : State),
    (∀ n c rest, let x := s.chset n
      let g := 2 ^ (x.gran + 8)
      let live := s.liveOf x
      let src := x.placeOf live x.bound
      let dst := newPlace + x.placeOf (live.filter (fun d => d ≠ c)) x.bound
      let last := s.moveEnd x ≤ x.bound + g ∧ rest = [] ∧ ∀ k, k ≠ n → (s.chset k).leaving = []
      x.state = 2 → x.leaving = c :: rest → x.bound < s.moveEnd x → s.mem.wf = true →
      ∃ t, exec (.restripeGranule n) s = .next t ∧ t.cores = s.cores
        ∧ (x.bound + g < s.moveEnd x →
            t.bytesAt dst g = s.bytesAt src g ∧ ∀ a, a < dst ∨ dst + g ≤ a → t.byte a = s.byte a)
        ∧ (x.bound + g < s.moveEnd x → t.chset n = { x with bound := x.bound + g })
        -- the last granule's event is written to the log, unless that is full
        ∧ (last → (s.logTail + 1) % 4096 = s.logHead → ∀ d ∈ live, ∀ a < x.csize * 65536,
            let key := d * chBytes + x.cbase * 65536 + a
            t.byte key = if dst ≤ newPlace + key ∧ newPlace + key < dst + g then s.byte (src + (newPlace + key - dst))
              else s.byte (newPlace + key))
        ∧ (last → t.chset n = { x with bound := x.bound + g, nlive := live.length - 1, state := 1, leaving := [] }))
    ∧ (∀ ch pc bank, let k := bankKey ch pc bank
      let owed := tget 0 s.refresh k
      ∃ t, exec (.bankRefreshDue ch pc bank) s = .next t ∧ t.mem = s.mem ∧ t.cores = s.cores
        ∧ (owed ≤ 8 → tget 0 t.refresh k ≤ 8) ∧ (∀ j, j ≠ k → tget 0 t.refresh j = tget 0 s.refresh j)
        ∧ ((8 ≤ owed ∧ tget false t.allBank (pcKey ch pc) = true ∧ t.refresh = s.refresh
              ∧ (tget {} t.counters (ch % 256)).refab
                  = ((tget {} s.counters (ch % 256)).refab + if tget false s.allBank (pcKey ch pc) = true then 0 else 1) % 2 ^ 64)
          ∨ ∃ done ≤ owed + 1, (tget false s.allBank (pcKey ch pc) = true → done = 0) ∧ tget 0 t.refresh k = owed + 1 - done ∧ t.allBank = s.allBank
            ∧ (tget {} t.counters (ch % 256)).refpb = ((tget {} s.counters (ch % 256)).refpb + done) % 2 ^ 64))
    ∧ (∀ ch pc, let p := pcKey ch pc
      tget false s.allBank p = true → Canon 0 s.refresh = true →
      ∃ t, exec (.allBankRefreshDone ch pc) s = .next t ∧ t.mem = s.mem ∧ t.cores = s.cores
        ∧ (∀ k, tget 0 t.refresh k = if k / 48 = p then tget 0 s.refresh k - 1 else tget 0 s.refresh k)
        ∧ (tget false t.allBank p = true ↔ ∃ b < 48, 4 < tget 0 t.refresh (p * 48 + b))
        ∧ (tget {} t.counters (ch % 256)).refab
            = ((tget {} s.counters (ch % 256)).refab + if tget false t.allBank p = true then 1 else 0) % 2 ^ 64)

/-! ## Coherence -/

/-- R459 to R461, R464, R470: requests of this module's cores at a home on this module that has no request of the line in
progress: a first read grants E, a first write M, a first RED G; a write of a line that other dies hold waits until each
has acknowledged; a request for a line that waits (the model's reading, log 55), in the set that the rehash moves, or for a
fold die that has failed and whose slots are not yet SAFE, is refused and comes again after 32 cycles. -/
def Obligations.DirectoryGrants : Prop :=
  ∀ (core ln : Nat) (s : State), let h := (s.domain.home ln).1
    let x := s.fold (h % 2)
    let die := dieOf core
    core < numCores → s.boot.recovery = false → h / 2 = s.domain.module → (s.domain.home ln).2 = false → s.roomFor core ln = true →
    let asked := fun (kind : Nat) => if kind = 3 then Instr.dirRead core ln else if kind = 0 then .dirWrite core ln else .dirRed core ln
    let entry := fun (t : State) => (t.fold (h % 2)).entry ln
    let idle := (∀ w ∈ s.dirWaits, w.line ≠ ln) ∧ s.domain.frozen ≠ some (foldSet ln) ∧ s.homeLive ln = true
    let near := lineModule ln = s.domain.module
    (∀ kind ∈ [0, 1, 3], idle → x.entry ln = none → x.taken (foldSet ln) core ln s.cycle < 16 →
      ∃ t, exec (asked kind) s = .next t ∧ t.mem = s.mem ∧ t.line core ln = (if kind = 3 then .e else if kind = 0 then .m else .g)
        ∧ (∃ e, entry t = some e ∧ e.fst = (if kind = 1 then 4 else 3) ∧ e.own = s.diePtr die ∧ e.ptrs = [s.diePtr die] ∧ e.fmt = 0)
        ∧ ∀ c l, l ≠ ln → t.line c l = s.line c l)
    ∧ (∀ e, idle → x.entry ln = some e → e.fst = 1 ∨ e.fst = 2 →
      ∃ t, exec (.dirRead core ln) s = .next t ∧ t.mem = s.mem ∧ t.line core ln = .s
        ∧ entry t = some ({ e with used := s.cycle }.addSharer (s.diePtr die))
        ∧ ∀ c l, c ≠ core ∨ l ≠ ln → t.line c l = s.line c l)
    ∧ (∀ e, idle → x.entry ln = some e → e.fst ≤ 3 →
      let gives := (s.namedDies e).filter (fun d => d ≠ die)
      ∃ t, exec (.dirWrite core ln) s = .next t ∧ t.mem = s.mem
        ∧ entry t = some ({ e with used := s.cycle, fst := 3, own := s.diePtr die }.onlySharer (s.diePtr die))
        ∧ (t.fold (h % 2)).inStore ln = false
        ∧ (∀ c, c ≠ core → t.line c ln = if dieOf c = die then .i else s.line c ln)
        ∧ (gives = [] → t.line core ln = .m ∧ (near → t.msgs = s.msgs))
        ∧ (gives ≠ [] → t.line core ln = s.line core ln
            ∧ ∃ ms, (near → t.msgs = s.msgs ++ ms) ∧ (∀ m ∈ ms, m ∈ t.msgs) ∧ ms.map Msg.dst = gives.map s.diePtr ∧ (∀ m ∈ ms, m.line = ln ∧ m.vc = 1)
              ∧ t.dirWaits = s.dirWaits ++ [{ line := ln, core := core, kind := 0, msgs := ms.map Msg.id }]))
    ∧ (∀ kind ∈ [0, 1, 3], (∃ w ∈ s.dirWaits, w.line = ln) ∨ s.domain.frozen = some (foldSet ln) ∨ s.homeLive ln = false →
        (∀ r ∈ s.retries, ¬ (r.core = core ∧ r.line = ln ∧ r.kind = kind)) →
      ∃ t, exec (asked kind) s = .next t
        ∧ t = { s with retries := s.retries ++ [{ core := core, line := ln, kind := kind, refusals := 0, due := s.cycle + 32 }] })

/-- R461, R473, R483, R484: a request of a core of this module, or of another that its access entry, and the channel where it reaches one,
allow, is
served by its line's home, of whichever module, in every state in which the line has no request in progress and its set has a
way: a read leaves the core a copy that it may load from; a write and a RED leave an entry of FST 3 or 4, and the core M or G
at once, or after the acknowledgements of the dies asked. In safe mode every die is asked and no entry is kept. What is not
allowed changes nothing. A home on another module knows this module's dies alone (the model's choice, log 7). -/
def Obligations.DirectoryRequestsComplete : Prop :=
  ∀ (core ln : Nat) (s : State), let f := s.dirOf ln
    let safe := (s.domain.home ln).2
    let e := if safe = true then (s.endEpoch ln).exactEntry ln else ((s.fold f).entry ln).getD { line := ln }
    let asked := if safe = true then s.dies else match (s.fold f).entry ln with
      | some e => s.namedDies e
      | none => []
    let reaches := fun (kind : Nat) => kind ≠ 1 ∧ s.accepts ln = true ∧ (e.fst = 0 ∨ e.fst = 4
      ∨ kind = 3 ∧ e.fst = 1 ∧ safe = false ∧ (s.fold f).inStore ln = false)
    let allowed := fun (kind : Nat) => s.domain.peers.contains (core / numCores - 1) = true
      ∧ s.foldAllows (s.domain.home ln).1 (core / numCores - 1) ln (kind ≠ 3) = true ∧ (reaches kind → s.channelAllows ln (kind ≠ 3) = true)
    let may := fun (kind : Nat) => core < numCores ∧ s.roomFor core ln = true ∨ numCores ≤ core ∧ allowed kind
    s.boot.recovery = false →
    let free := (∀ w ∈ s.dirWaits, w.line ≠ ln) ∧ s.domain.frozen ≠ some (foldSet ln) ∧ s.homeLive ln = true ∧ s.canTell 0 (8 * ((s.domain.home ln).1 / 2)) = true ∧ e.fst ≤ 4
      ∧ (safe = false → (s.fold f).entry ln = none → f = 2 ∨ (s.fold f).taken (foldSet ln) core ln s.cycle < 16)
    let waits := fun (t : State) (kind n : Nat) => ∃ w ∈ t.dirWaits, w.line = ln ∧ w.core = core ∧ w.kind = kind
      ∧ w.msgs.length = n ∧ ∀ id ∈ w.msgs, ∃ m ∈ t.msgs, m.id = id ∧ m.line = ln ∧ m.vc = 1
    let left := fun (t : State) (p : DirEntry → Prop) => if safe = true then (t.fold f).entry ln = none
      else ∃ d, (t.fold f).entry ln = some d ∧ p d
    (free → may 3 → ∃ t, exec (.dirRead core ln) s = .next t ∧ permits (t.line core ln) 3 = true
        ∧ left t (fun d => d.fst = 1 ∨ d.fst = 2 ∨ d.fst = 3) ∧ t.dirWaits = s.dirWaits)
    ∧ (free → may 0 → let gives := asked.filter (fun d => d ≠ dieOf core)
        ∃ t, exec (.dirWrite core ln) s = .next t ∧ left t (fun d => d.fst = 3 ∧ d.own = s.diePtr (dieOf core))
          ∧ (gives = [] → t.line core ln = .m) ∧ (gives ≠ [] → waits t 0 gives.length))
    ∧ (free → may 1 → let gives := if safe = false ∧ (e.fst = 0 ∨ e.fst = 4) then [] else asked.filter (fun d => d ≠ dieOf core)
        ∃ t, exec (.dirRed core ln) s = .next t ∧ left t (fun d => d.fst = 4)
          ∧ (gives = [] → t.line core ln = .g) ∧ (gives ≠ [] → waits t 1 gives.length))
    ∧ (numCores ≤ core → ∀ kind ∈ [0, 1, 3], ¬ allowed kind →
      exec (if kind = 3 then .dirRead core ln else if kind = 0 then .dirWrite core ln else .dirRed core ln) s
        = .next { s with retries := s.retries.filter (fun r => !(r.core = core && r.line = ln && r.kind = kind)) })

/-- R220, R455 to R464, R468, R470: what happens to copies, messages, recalls, reservations and refused requests. An invalidation of a home on
another module is acknowledged to it, and data that it has forwarded goes over a link, to which module is free (log 7). -/
def Obligations.CopiesAndMessages : Prop :=
  ∀ (ln : Nat) (s : State), let f := s.dirOf ln
    (∀ c key k (p : Partial), s.line c ln = .g → (s.coreAt c).partials = [(k, some p)] → k / 32 = ln → s.locate (4 * k) = .at key →
        s.poisoned key = false → p.mixed = false →
      ∃ t, exec (.gLineEvict c ln) s = .next t ∧ t.line c ln = .i ∧ tget none (t.coreAt c).partials k = none
        ∧ t.bytesAt key 4 = leBytes 4 (atomOp p.op p.ty (BitVec.ofNat 32 (leNat (s.bytesAt key 4))) p.val).toNat
        ∧ ∀ a, a < key ∨ key + 4 ≤ a → t.byte a = s.byte a)
    ∧ (∀ c, ∃ t, exec (.writeback c ln) s = .next t ∧ t.mem = s.mem
      ∧ (s.line c ln = .m ∨ s.line c ln = .o → t.line c ln = .s ∧ ∀ e, (s.fold f).entry ln = some e → e.fst = 2 ∨ e.fst = 3 →
          (t.fold f).entry ln = some (if s.pendingAt ln = true then e else { e with fst := 1 }))
      ∧ (s.line c ln ≠ .m → s.line c ln ≠ .o → t = s))
    ∧ (∀ c, ∃ t, exec (.dieDirectoryReport c ln .m) s = .next t ∧ t.mem = s.mem
      ∧ t.line c ln = (if s.line c ln = .e then .m else s.line c ln) ∧ ∀ d l, d ≠ c ∨ l ≠ ln → t.line d l = s.line d l)
    ∧ (∀ die, (∃ m ∈ s.msgs, m.line = ln ∧ s.isInv m = true ∧ s.sent m = true ∧ m.dst = s.diePtr die) → s.dieHolds die ln (fun l => l = .g) = false →
      ∃ t, exec (.dieInvalidate die ln) s = .next t ∧ t.mem = s.mem
        ∧ (∀ c, t.line c ln = if dieOf c = die then .i else s.line c ln) ∧ ∀ c l, l ≠ ln → t.line c l = s.line c l)
    ∧ (∀ die < 8, (∀ m ∈ s.msgs, ¬ (m.line = ln ∧ s.isInv m = true ∧ s.sent m = true ∧ m.dst = s.diePtr die)) → s.dieHolds die ln (fun l => l = .g) = false → f = 2 →
      ∃ t m, exec (.dieInvalidate die ln) s = .next t ∧ t.mem = s.mem
        ∧ (∀ c, t.line c ln = if dieOf c = die then .i else s.line c ln) ∧ (∀ c l, l ≠ ln → t.line c l = s.line c l)
        ∧ m ∈ t.msgs ∧ m.line = ln ∧ m.vc = 2 ∧ m.flits = 1 ∧ m.dst = 8 * ((s.domain.home ln).1 / 2)
        ∧ ((∀ c ∈ s.cores, dieOf c.1 ≠ die → tget .i c.2.lines ln = .i) → s.pendingAt ln = false → (∀ e, (s.fold 2).entry ln = some e → e.fst ≠ 5) → (t.fold 2).entry ln = none))
    ∧ (∀ die < 8, ∀ write, f = 2 → s.domain.module ∉ s.domain.peers → s.dieHolds die ln (fun l => permits l 3) = true →
      ∃ t m, exec (.ownerForward die ln write) s = .next t ∧ m ∈ t.msgs ∧ m.line = ln ∧ m.vc = 2 ∧ m.flits = 3 ∧ m.dst / 8 ≠ s.domain.module)
    ∧ (∀ die write, ∃ t, exec (.ownerForward die ln write) s = .next t ∧ t.mem = s.mem
      ∧ (∀ c, t.line c ln = if dieOf c ≠ die ∨ s.line c ln = .g then s.line c ln else if write = true then .i
          else if s.line c ln = .m then .o else if s.line c ln = .e then .s else s.line c ln)
      ∧ ∀ c l, l ≠ ln → t.line c l = s.line c l)
    ∧ (∀ id core kind want, s.dirWaits = [{ line := ln, core := core, kind := kind, msgs := [id], want := want }] → kind = 0 ∨ kind = 1 →
        s.ackHeld id = false → s.unsent id = false → core < numCores → s.roomFor core ln = true → (s.fold f).entry ln ≠ none →
      ∃ t, exec (.acknowledgement id) s = .next t ∧ t.mem = s.mem ∧ t.dirWaits = [] ∧ (∀ m ∈ t.msgs, m.id ≠ id)
        ∧ (∀ k, ∀ x ∈ (t.port k).replay, x.2 ≠ id)
        ∧ t.line core ln = (if kind = 0 then .m else .g)
        ∧ (∀ c, c ≠ core → t.line c ln = if dieOf c ≠ dieOf core ∨ kind = 1 ∧ s.line c ln = .g then s.line c ln else .i)
        ∧ ∀ c l, l ≠ ln → t.line c l = s.line c l)
    ∧ (∀ id, s.ackHeld id = true ∨ s.unsent id = true → exec (.acknowledgement id) s = .next s)
    ∧ (∀ id m, s.msgs.find? (fun m => m.id = id) = some m → m.sent + 2 ^ 16 ≤ s.cycle →
      ∃ t, exec (.messageResend id) s = .next t ∧ t.mem = s.mem ∧ t.cores = s.cores ∧ t.dirWaits = s.dirWaits
        ∧ (∀ x ∈ t.msgs, x.id = id → x.sent = s.cycle) ∧ t.msgs.map Msg.id = s.msgs.map Msg.id
        ∧ ∀ p, m.bound = none → m.dst / 8 ≠ s.domain.module → 0 < m.flits → s.portTo (m.dst / 8) = some p → (s.port p).held.contains m.vc = false →
            (m.vc, id) ∈ (t.port p).replay)
    ∧ (∀ fd e core want, (s.fold fd).entry ln = some e → e.fst = 5 →
        s.dirWaits = [{ line := ln, core := core, kind := 2, msgs := [], want := want }] →
      ∃ t, exec (.recallComplete fd ln) s = .next t ∧ t.mem = s.mem ∧ t.cores = s.cores ∧ t.dirWaits = []
        ∧ (t.fold fd).entry ln = none
        ∧ ((s.fold fd).entry want = none →
            ∃ r ∈ (t.fold fd).reserves, r.set = foldSet ln ∧ r.core = core ∧ r.line = want ∧ r.til = s.cycle + 4096)
        ∧ ((s.fold fd).entry want ≠ none → (t.fold fd).reserves = (s.fold fd).reserves))
    ∧ (∀ fd set, ∃ t, exec (.wayReservationExpire fd set) s = .next t ∧ t.mem = s.mem ∧ t.cores = s.cores
      ∧ ∀ r, r ∈ (t.fold fd).reserves ↔ r ∈ (s.fold fd).reserves ∧ ¬ (r.set = set ∧ r.til ≤ s.cycle))
    ∧ (∀ c r, s.retryDue c = some r → r.core = c → r.kind = 0 ∨ r.kind = 1 ∨ r.kind = 3 →
      ∃ t, exec (.requestRetry c) s = .next t
        ∧ exec (if r.kind = 3 then .dirRead c r.line else if r.kind = 0 then .dirWrite c r.line else .dirRed c r.line) s = .next t)

/-! ## Links and the domain -/

/-- R454, R459, R465 to R471: a good flit in turn is taken, a bad one or one out of turn asked for again, those behind it dropped
until the replay, and one that came before dropped; STOP below 64 free flits and GO from 128 on, and the peer's hold the channel and let it go; a port trains with all its
lanes or retires. The peer's request for a replay is a corrected error of the port, as the model reads R470 (log 56). The last of
the M − 1 peers forms the domain, whose home table runs through its live fold dies, and held lines have their entries at their new
homes; a spare link to a module that no primary link reaches is judged then, and what a later report does is the model's choice
(log 33). A report that fails, or silence, leaves a domain of one. -/
def Obligations.LinksAndFormation : Prop :=
  (∀ (fold port vc : Nat) (s : State), s.boot.recovery = false → let k := portKey fold port
     let p := s.port k
     (∀ seq crc, let want := tget 0 p.rxSeq vc
       ∃ t, exec (.flitReceive fold port vc seq crc) s = .next t
         ∧ (crc = true → seq = want → t.mem = s.mem ∧ tget 0 (t.port k).rxSeq vc = want + 1 ∧ tget 0 (t.port k).replayAsked vc = 0
             ∧ (vc ≠ 2 → (t.port k).freeFlits vc < 64 → vc ∈ (t.port k).stopped) ∧ ∀ j, j ≠ k → t.port j = s.port j)
         ∧ (crc = true → seq < want → t = s) ∧ (want < seq → tget 0 p.replayAsked vc = want + 1 → t = s)
         ∧ (crc = false ∨ want < seq → (t.port k).rxSeq = p.rxSeq ∧ tget 0 (t.port k).replayAsked vc = want + 1))
     ∧ (∃ t, exec (.flowStop fold port { vc := vc }) s = .next t ∧ t.mem = s.mem ∧ (p.freeFlits vc < 64 → vc ∈ (t.port k).stopped)
         ∧ (64 ≤ p.freeFlits vc → t.port k = p) ∧ ∀ j, j ≠ k → t.port j = s.port j)
     ∧ (∃ t, exec (.flowGo fold port { vc := vc }) s = .next t ∧ t.mem = s.mem ∧ vc ∉ (t.port k).stopped ∧ 128 ≤ (t.port k).freeFlits vc
         ∧ (∀ v, v ≠ vc → (t.port k).freeFlits v = p.freeFlits v ∧ (v ∈ (t.port k).stopped ↔ v ∈ p.stopped))
         ∧ ∀ j, j ≠ k → t.port j = s.port j)
     ∧ (∃ t, exec (.flowStop fold port { vc := vc, peers := true }) s = .next t ∧ t.mem = s.mem ∧ t.msgs = s.msgs
         ∧ (∀ v, v ∈ (t.port k).held ↔ v = vc ∨ v ∈ p.held) ∧ (t.port k).replay = p.replay ∧ ∀ j, j ≠ k → t.port j = s.port j)
     ∧ (∃ t, exec (.flowGo fold port { vc := vc, peers := true }) s = .next t ∧ t.mem = s.mem
         ∧ (∀ v, v ∈ (t.port k).held ↔ v ≠ vc ∧ v ∈ p.held) ∧ t.msgs.map Msg.id = s.msgs.map Msg.id)
     ∧ (∀ peers, ∃ t, exec (.flowGo fold port { vc := vc, peers := peers, ask := true }) s = .next t
         ∧ ((∃ x ∈ p.replay, x.1 = vc) → exec (.correctedError { cls := 5, idx := k }) s = .next t) ∧ ((∀ x ∈ p.replay, x.1 ≠ vc) → t = s))
     ∧ (∀ up trip, ∃ t, exec (.linkTrain fold port up trip) s = .next t ∧ t.mem = s.mem
         ∧ (up = 8 ∧ trip ≤ 40 → t.port k = { p with trained := true } ∧ ∀ j, j ≠ k → t.port j = s.port j)
         ∧ (¬ (up = 8 ∧ trip ≤ 40) → t.port k = { p with retired := true, replay := [] } ∧ portUnit k ∈ t.retiredUnits
             ∧ ((∀ m ∈ s.msgs, m.port ≠ some k) → ∀ j, j ≠ k → t.port j = s.port j))))
  ∧ (∀ (s : State) (fold port peer pf m : Nat) (ident : Dword), let d := s.domain
       let k := portKey fold port
       (s.port k).trained = true → (s.port k).retired = false → port ≠ 17 → s.boot.recovery = false →
       ∃ t, exec (.domformMessage fold port peer pf m ident) s = .next t
       ∧ (∀ til, d.forming = some til →
         let peers := if port = 16 ∨ d.peers.contains peer = true then d.peers else d.peers ++ [peer]
         let now := fun (q : Nat) => if q = k then { s.port k with peer := some peer, peerFold := pf } else s.port q
         let stray := ∃ q ∈ [16, 34], (now q).trained = true ∧ (now q).retired = false ∧ ∃ x, (now q).peer = some x ∧ x ∉ peers
         let fails := t.domain.forming = none ∧ t.domain.size = 1 ∧ t.domain.peers = [] ∧ t.domain.formed = d.formed ∧ t.boot.code = 4
           ∧ ∀ q, (t.port q).peer = none
         (d.peerOk fold port peer m ident = true →
           (peers.length + 1 ≠ d.size → t.mem = s.mem ∧ t.domain.peers = peers ∧ t.domain.forming = some til ∧ t.domain.formed = d.formed
               ∧ (t.port k).peer = some peer ∧ (t.port k).peerFold = pf)
           ∧ (peers.length + 1 = d.size → stray → fails)
           ∧ (peers.length + 1 = d.size → ¬ stray → t.domain.peers = peers
               ∧ t.domain.formed = true ∧ t.domain.forming = none ∧ t.boot.code = 0
               ∧ t.domain.live.Pairwise (· < ·)
               ∧ (∀ f, f ∈ t.domain.live ↔ f < 64 ∧ (f / 2 = d.module ∨ f / 2 ∈ peers) ∧ f ∉ d.failed ∧ f ∉ d.dead)
               ∧ (∀ i, t.domain.slot i = t.domain.live.getD (i % t.domain.live.length) 0)
               ∧ (d.failed = [] → (∀ set, (s.heldLines.filter (fun ln => foldSet ln = set)).length ≤ 16) → t.mem = s.mem ∧ t.cores = s.cores
                   ∧ ∀ ln ∈ s.heldLines, (s.exactEntry ln).fst ≠ 0 → ∃ e, (t.fold (t.dirOf ln)).entry ln = some e ∧ e.fst = (s.exactEntry ln).fst)))
         ∧ (d.peerOk fold port peer m ident = false → fails))
       ∧ (d.forming = none → d.formed = true → (s.port k).peer = none → t.domain = d ∧
           (d.peerOk fold port peer m ident = true → peer ∈ d.peers →
             t.mem = s.mem ∧ (t.port k).peer = some peer ∧ (t.port k).peerFold = pf ∧ ∀ j, j ≠ k → t.port j = s.port j)
           ∧ (¬ (d.peerOk fold port peer m ident = true ∧ peer ∈ d.peers) → t.ports = s.ports
               ∧ ((s.logTail + 1) % 4096 ≠ s.logHead → t.logTail = (s.logTail + 1) % 4096))))
  ∧ ∀ (s : State) (til : Nat), s.domain.forming = some til → til ≤ s.cycle →
      ∃ t, exec .domformTimeout s = .next t ∧ t.domain.forming = none ∧ t.domain.size = 1
        ∧ t.domain.peers = [] ∧ t.boot.code = 4 ∧ ∀ q, (t.port q).peer = none

/-- R464, R472 to R474, R489: the failure of a fold die makes its slots SAFE; its partner gets exact entries; then the slots move,
set by set, each frozen while it moves, to the dies that are left as the rehash begins, with the ways that are kept. In which order
slots and sets move, and that FOLD_BRIDGE_TIMEOUT is the failure of the other die, is the model's reading (log 32). Nothing but the
log's events changes memory, while the sets that take entries have room; what the failed die had accepted, on whichever module, is
asked again. In recovery none of it goes on. -/
def Obligations.FoldFailures : Prop :=
  ∀ (f : Nat) (s : State), let d := s.domain
    let quietLog := (s.logTail + 1) % 4096 = s.logHead
    let inSet := fun (k set : Nat) => (s.fold k).entries.filter (fun e => foldSet e.line = set)
    (f < 64 → f ∈ d.live → d.failed = [] → d.safeOf = none → d.slotOf f ≠ none →
      ∃ t, exec (.foldDieFailure f) s = .next t ∧ (quietLog → t.mem = s.mem) ∧ t.cores = s.cores ∧ t.domain.failed = [f]
        ∧ t.domain.safeOf = some f ∧ t.domain.rebuilt = false ∧ (∀ i, t.domain.slot i = d.slot i)
        ∧ (f / 2 = d.module → (t.fold (f % 2)).entries = [] ∧ (t.fold (f % 2)).store = [])
        ∧ (f / 2 ≠ d.module → ∀ e ∈ (t.fold 2).entries, (d.home e.line).1 ≠ f)
        ∧ (∀ w ∈ s.dirWaits, (d.home w.line).1 = f → w ∉ t.dirWaits ∧ (∀ m ∈ t.msgs, m.id ∉ w.msgs)
            ∧ (w.kind ≠ 2 → ∃ r ∈ t.retries, r.core = w.core ∧ r.line = w.line ∧ r.kind = w.kind ∧ r.due = s.cycle))
        ∧ ∀ ln, d.slot (homeSlot ln) = f → t.domain.home ln = (f ^^^ 1, true))
    ∧ (∀ b, ∃ t, exec (.foldBridgeTimeout b) s = .next t ∧ exec (.foldDieFailure (2 * d.module + b % 2)) s = .next t)
    ∧ (d.safeOf = some f → d.rebuilt = false → s.boot.recovery = false →
      let k := s.foldIx (f ^^^ 1)
      ((s.fold k).entries.map DirEntry.line).Nodup →
      (∀ set, ((inSet k set).filter (fun e => e.line ∉ s.heldLines)).length + (s.heldLines.filter (fun ln => foldSet ln = set)).length ≤ 16) →
      ∃ t, exec .foldRebuildComplete s = .next t ∧ (quietLog → t.mem = s.mem) ∧ t.cores = s.cores
        ∧ t.domain = { d with rebuilt := true, rest := d.liveNow }
        ∧ ∀ ln ∈ s.heldLines, d.slot (homeSlot ln) = f → f ^^^ 1 ∉ d.failed → (s.exactEntry ln).fst ≠ 0 →
            (∀ e, (s.fold k).entry ln = some e → e.fst ≠ 5) → (t.fold k).entry ln = some (s.exactEntry ln))
    ∧ (s.boot.recovery = true → exec .foldRebuildComplete s = .next s ∧ ∀ set, exec (.foldRehashSet set) s = .next s)
    ∧ (∀ set, d.nextSet ≠ some set → exec (.foldRehashSet set) s = .next s)
    ∧ (∀ set, d.nextSet = some set → s.boot.recovery = false → d.moved < 64 → d.frozen ≠ some set →
      exec (.foldRehashSet set) s = .next { s with domain := { d with frozen := some set } })
    ∧ (∀ set, d.nextSet = some set → s.boot.recovery = false → d.safeOf = some f → d.moved < 64 → d.frozen = some set →
      let old := s.foldIx (f ^^^ 1)
      let new := s.foldIx (d.newHome f)
      (inSet old set).length + (inSet new set).length ≤ 16 → old ≠ 2 → d.newHome f ∉ d.failed →
      (∀ ln ∈ s.heldLines, foldSet ln = set → (s.fold old).entry ln ≠ none) →
      ∃ t, exec (.foldRehashSet set) s = .next t ∧ (quietLog → t.mem = s.mem) ∧ t.cores = s.cores ∧ t.domain.live = d.live
        ∧ t.domain.failed = d.failed ∧ t.domain.frozen = none
        ∧ (d.moved < 63 → t.domain = { d with moved := d.moved + 1, frozen := none })
        ∧ (d.moved = 63 → t.domain.moved = 0 ∧ ∀ i, t.domain.slot i = if i = set / 64 then d.newHome f else d.slot i)
        ∧ (old ≠ new → ((s.fold old).entries.map DirEntry.line).Nodup → ∀ ln,
            (foldSet ln = set → (t.fold old).entry ln = none ∧ ∀ e, (s.fold old).entry ln = some e → (t.fold new).entry ln = some e)
            ∧ (foldSet ln ≠ set → (t.fold old).entry ln = (s.fold old).entry ln ∧ (t.fold new).entry ln = (s.fold new).entry ln))
        ∧ (old ≠ new → ∀ r ∈ (s.fold old).reserves, r.set = set → foldSet r.line = set → r ∈ (t.fold new).reserves))

/-! ## Errors -/

/-- R441, R442, R444, R446 to R450: a corrected error is counted, and retires its unit above the threshold, a near cache or issue
unit with its core; a window passes; bad data rolls a team back to its checkpoint, or, with none and no handler, ends its grid; the
oldest write that meets it is dropped (which one an outside error meets, and in which window, is log 34's reading). Copies that
agree begin a new interval, and a mismatch rolls both back, a second one ends the grid; what counts as the same writes, and that
both copies go back together to where the step at their point is performed again, is the model's reading (log 9). -/
def Obligations.ErrorSteps : Prop :=
  ∀ (s : State), let quietLog := (s.logTail + 1) % 4096 = s.logHead
    (s.windowOver = false →
    (∀ u, let n := tget 0 s.errors (unitKey u) + 1
      ∃ t, exec (.correctedError u) s = .next t ∧ tget 0 t.errors (unitKey u) = n
        ∧ (∀ k, k ≠ unitKey u → tget 0 t.errors k = tget 0 s.errors k)
        ∧ (n ≤ s.threshold → (quietLog → t.mem = s.mem) ∧ t.cores = s.cores ∧ t.grids = s.grids ∧ t.retiredUnits = s.retiredUnits)
        ∧ (s.threshold < n → s.stores = [] → u ∈ t.retiredUnits)
        ∧ (s.threshold < n → u ∉ s.retiredUnits → (u.cls = 1 ∨ u.cls = 2 ∨ u.cls = 7) → u.idx < numCores →
            (quietLog → t.mem = s.mem) ∧ (t.coreAt u.idx).retired = true)
        ∧ (s.threshold < n → u ∉ s.retiredUnits → u.cls = 5 → (quietLog → t.mem = s.mem) ∧ (t.port u.idx).retired = true))
    ∧ (∀ c < numCores, ∃ t, exec (.scoreboardMismatch c) s = .next t ∧ exec (.correctedError { cls := 7, idx := c }) s = .next t)
    ∧ (∀ c grp sub u tm, c < numCores → grp < 16 → (s.coreAt c).team = some tm →
      (∀ k, sub = 2 ∨ sub = 3 ∨ sub = 4 ∨ sub = 6 → tm.checkpoint = some k → tm.irrevocable = false →
          unitKey u ∉ s.erred → (sub = 6 → ∃ o, tm.ops.find? (fun o => o.phase = .running && o.ran.isNone) = some o
            ∧ (isWalk o.instr = false ∨ unitKey u / 4096 = 1)) →
        ∃ t v, exec (.uncorrectableError c grp sub u) s = .next t ∧ (quietLog → t.mem = s.mem) ∧ (t.coreAt c).team = some v
          ∧ v.scratch = k.scratch ∧ v.acc = k.acc ∧ v.rowstat = k.rowstat ∧ v.beta = k.beta ∧ v.walk = k.walk ∧ unitKey u ∈ t.erred
          ∧ v.active = k.active ∧ v.pending = k.pending ∧ v.irrevocable = false
          ∧ v.ops = tm.ops.filter (fun o => o.phase = .done && k.ops.all (fun p => p.id ≠ o.id)) ++ k.ops
          ∧ (∀ g, (tget {} k.groups g).SameRegisters (v.group g) ∧ (v.group g).pc = (tget {} k.groups g).pc)
          ∧ t.grid tm.grid = s.grid tm.grid
          ∧ ∀ d ∈ s.bothCopies c, ∀ u' j, (s.coreAt d).team = some u' → u'.checkpoint = some j →
              ∃ w, (t.coreAt d).team = some w ∧ w.scratch = j.scratch ∧ w.acc = j.acc ∧ w.held = [] ∧ w.walk = j.walk)
      ∧ (sub = 2 ∨ sub = 3 ∨ sub = 4 → tm.checkpoint = none → (tm.group grp).issueSet ≠ 0 → (tm.group grp).frame = none →
          tm.hEn = false → (s.grid tm.grid).phase ≠ .ended → (s.grid tm.grid).phase ≠ .ending →
        ∃ t, exec (.uncorrectableError c grp sub u) s = .next t
          ∧ t.grid tm.grid = { s.grid tm.grid with phase := .ending, status := 2 })
      ∧ (∀ r, sub = 5 → s.stores.find? (fun r => r.core = c && r.grp = grp && r.kind.writeVa.isSome) = some r →
        ∃ t, exec (.uncorrectableError c grp sub u) s = .next t ∧ t.stores = s.stores.filter (fun q => q ≠ r)
          ∧ (t.grid r.owner.1).deferred = true)))
    ∧ (s.windowOver = true → ∃ t, exec .errorWindowReset s = .next t ∧ t.mem = s.mem ∧ t.errors = [] ∧ t.erred = []
        ∧ t.windowOver = false ∧ t.retiredUnits = s.retiredUnits)
    ∧ ∀ c d tm u g, s.compareDue c = some (d, tm, u, g) → c ≠ d →
      (g < 32 → tm.held = [] → u.held = [] → tm.after.contains g = u.after.contains g →
        let point := if tm.after.contains g = true then 16 else min g 16
        ∃ t v w, exec (.signatureCompare c) s = .next t ∧ t.mem = s.mem
        ∧ (t.coreAt c).team = some v ∧ (t.coreAt d).team = some w ∧ v.groups = tm.groups ∧ w.groups = u.groups
        ∧ v.checkpoint = some { tm.snapshot with point := point } ∧ w.checkpoint = some { u.snapshot with point := point }
        ∧ v.mismatched = false)
      ∧ (sameWrites tm.held u.held = false → tm.mismatched = false → ∀ k j, tm.checkpoint = some k → u.checkpoint = some j →
        ∃ t v w, exec (.signatureCompare c) s = .next t ∧ (quietLog → t.mem = s.mem)
        ∧ (t.coreAt c).team = some v ∧ (t.coreAt d).team = some w ∧ v.held = [] ∧ w.held = [] ∧ v.mismatched = true ∧ w.mismatched = true
        ∧ v.scratch = k.scratch ∧ w.scratch = j.scratch ∧ (∀ g, (v.group g).pc = (tget {} k.groups g).pc ∧ (w.group g).pc = (tget {} j.groups g).pc)
        ∧ t.grid tm.grid = s.grid tm.grid)
      ∧ (sameWrites tm.held u.held = false → tm.mismatched = true → (s.grid tm.grid).phase ≠ .ended →
          (s.grid tm.grid).phase ≠ .ending →
        ∃ t, exec (.signatureCompare c) s = .next t ∧ t.grid tm.grid = { s.grid tm.grid with phase := .ending, status := 2 })

/-! ## Boot, management, cooling -/

/-- R387, R483, R484, R489, R490, R495: a stage runs after the signature of its image, length and version is verified by its stage's key, and
the version against the floor, stage 4 with an owner key, else the module is in recovery with its dies in reset; before stage 3 the bases
are written, aligned, with the access tables and a valid context entry 0, all of them reported, and a channel or port that fails to
train is retired. What firmware writes there, and the digests, are free values, and an
image that this model knows nothing of is the one that the step names (logs 4, 10). A reset keeps the stores of R489, makes every
context entry invalid and, as the model chooses (log 13), leaves the rest of memory. Heat stops the admission of new grids, and at
80 °C every grid ends KILLED. -/
def Obligations.BootAndCooling : Prop :=
  ∀ (s : State), let b := s.boot
    let inReset := fun (t : State) => t.admits = false ∧ t.stores = [] ∧ (∀ f, t.fold f = {}) ∧ ∀ c, (t.coreAt c).team = none
      ∧ (t.coreAt c).svcRun = false ∧ (t.coreAt c).lines = []
    let entryAt := fun (c : Nat) => s.access? 8 (s.base 0 + 64 * c + 7) { w := true }
    (∃ t, exec .moduleReset s = .next t ∧ t.cores = [] ∧ t.grids = [] ∧ t.stores = [] ∧ t.domain = {} ∧ t.logTail = 0
      ∧ (s.base 0 = 0 → t.mem = s.mem)
      ∧ (∀ c key, s.base 0 ≠ 0 → c < 256 → entryAt c = .mem key → (t.byte key).getLsbD 7 = false)
      ∧ (∀ a, (∀ c < 256, entryAt c ≠ .mem a) → t.byte a = s.byte a)
      ∧ t.boot.stage = 1 ∧ t.boot.recovery = false ∧ t.boot.nor = b.nor ∧ t.boot.loaded = b.nor ∧ t.boot.rootKey = b.rootKey ∧ t.boot.floor = b.floor ∧ t.boot.ownerKey = b.enrolled)
    ∧ (∀ ver sig img, b.recovery = true ∨ 4 ≤ b.stage → exec (.bootStageVerify ver sig img) s = .next s)
    ∧ (∀ ver sig img, b.recovery = false → b.stage < 4 → let n := b.stage + 1
      let key := if n = 2 then some b.rootKey else if n = 3 then some (Config.digest (imageBytes b.vendorKey)) else b.ownerKey
      let good := key = some (Config.digest (imageBytes sig.key)) ∧ sig.digest = imageDigest (b.image n img) ver ∧ tget 0 b.floor n ≤ ver
      ∃ t, exec (.bootStageVerify ver sig img) s = .next t
        ∧ (good → t.boot.stage = n ∧ t.boot.recovery = false ∧ tget 0 t.boot.version n = ver
            ∧ tget 0 t.boot.measured n = imageDigest (b.image n img) ver ∧ (n ≠ 3 → t.mem = s.mem ∧ t.cores = s.cores ∧ t.chsets = s.chsets))
        ∧ (good → n = 3 → (∀ x ∈ s.chsets, x.2.en = false) → t.mem = s.mem ∧ t.cores = s.cores
            ∧ (∀ ka ∈ ([(0, 65536), (1, 4), (2, 8192), (3, 8192), (4, 8192), (5, 8192), (6, 131072), (7, 65536)] : List (Nat × Nat)),
                t.base ka.1 % ka.2 = 0)
            ∧ (∀ k < 8, tget 0 t.boot.report k = tget 0 t.boot.base k) ∧ t.boot.entry0.getLsbD 63 = true
            ∧ (∀ i < 4096, tget 0 t.boot.report (8 + i) = tget 0 t.access i) ∧ (∀ i < 64, tget 0 t.boot.report (4104 + i) = tget 0 t.foldAccess i)
            ∧ (∀ k < 36, (s.port k).trained = false → (s.port k).retired = false →
                if Config.portTrains k = true then (t.port k).trained = true ∧ (t.port k).retired = false else (t.port k).retired = true)
            ∧ (∀ c < 256, ∀ m < 16, tget 0 t.access (16 * c + m) = BitVec.ofNat 64 (accessBits (Config.bootAccess c m).toNat))
            ∧ ∀ c < 256, c ∈ t.retiredCh ↔ c ∈ s.retiredCh ∨ Config.channelTrains c = false)
        ∧ (¬ good → t.boot = { b with recovery := true } ∧ t.mem = s.mem ∧ inReset t))
    ∧ (∃ t, exec .outletTempHigh s = .next t ∧ t = { s with boot := { b with hot := true } } ∧ ∀ g ∈ t.mayAdmit, g.2.phase = .preempted)
    ∧ (∃ t, exec .outletTempFall s = .next t ∧ t = { s with boot := { b with hot := false } })
    ∧ (∃ t, exec .outletTempCritical s = .next t ∧ t.boot.recovery = true ∧ inReset t
        ∧ (∀ g ∈ s.grids.map Prod.fst, (t.grid g).phase = .ended)
        ∧ (s.stores = [] → s.regStores = [] → (∀ c ∈ s.cores, c.2.partials = [] ∧ ∀ tm, c.2.team = some tm → ∀ o ∈ tm.ops, o.undelivered = none ∧ o.phase ≠ .running) →
            ∀ g ∈ s.grids.map Prod.fst, (s.grid g).phase ≠ .ended → (s.grid g).phase ≠ .ending →
              (t.grid g).status = 5 ∧ (t.grid g).record = (s.grid g).record))

/-- R449, R467, R478, R489, R491 to R494: the commands of the management port. One that comes while another runs is queued,
up to 16, and a further one refused with code 1. Codes that the manual does not give are free values (log 14); what recovery answers
with no code, and the layout of RESYNC (log 15), EN = 0 at any time (log 31), the GRAN that a word stores (log 43), the digests and
images (log 10), and that MODNUM leaves no line cached (log 57) are the model's readings. -/
def Obligations.ManagementCommands : Prop :=
  ∀ (s : State), let b := s.boot
    let same := fun (t : State) => t.mem = s.mem ∧ t.cores = s.cores ∧ t.grids = s.grids
    (s.domain.forming ≠ none ∨ b.queue ≠ [] → ∀ (n k img key m : Nat) (w ident : Dword) (nonce : BitVec 256) (old server : Bool),
      ∀ x ∈ ([(.mgmtStatus, .status), (.mgmtUpdate n img, .update n img), (.mgmtPartset n w, .partset n w), (.mgmtModnum n, .modnum n),
          (.mgmtErrthr n, .errthr n), (.mgmtChset n k w, .chset n k w), (.mgmtAttest nonce, .attest nonce), (.mgmtResync, .resync),
          (.mgmtEnroll key old server, .enroll key old server), (.mgmtDomform m ident, .domform m ident)] : List (Instr × MgmtCmd)),
        (b.queue.length < 16 → exec x.1 s = .next { s with boot := { b with queue := b.queue ++ [x.2] } })
        ∧ (16 ≤ b.queue.length → exec x.1 s = .next { s with boot := { b with code := 1, reply := [] } }))
    ∧ (s.domain.forming = none → b.queue = [] →
    (∃ t, exec .mgmtStatus s = .next t ∧ same t ∧ t.boot.code = 0 ∧ t.boot.reply = [b.stage, if b.recovery = true then 1 else 0])
    ∧ (∀ n img, ∃ t, exec (.mgmtUpdate n img) s = .next t ∧ same t ∧ tget 0 t.boot.nor n = img ∧ t.boot.code = 0
        ∧ t.boot.stage = b.stage ∧ t.boot.loaded = b.loaded)
    ∧ (∀ key old server, let kept := Config.digest (imageBytes key)
      ∃ t, exec (.mgmtEnroll key old server) s = .next t ∧ same t
        ∧ (b.enrolled = none → (t.boot.enrolled = some kept ∧ t.boot.code = 0 ↔ b.recovery = true ∧ server = true))
        ∧ (∀ k, b.enrolled = some k → (old = true → t.boot.enrolled = some kept ∧ t.boot.code = 0)
            ∧ (old = false → t.boot.enrolled = some k ∧ t.boot.code = 2)))
    ∧ (b.recovery = true → ∀ n w k, exec (.mgmtPartset n w) s = .next s ∧ exec (.mgmtModnum n) s = .next s
        ∧ exec (.mgmtErrthr n) s = .next s ∧ exec (.mgmtChset n k w) s = .next s ∧ exec .mgmtResync s = .next s
        ∧ ∀ nonce, exec (.mgmtAttest nonce) s = .next s ∧ exec (.mgmtDomform n w) s = .next s)
    ∧ (b.recovery = false →
      (∀ n < 8, ∀ w : Dword, let code := s.partCode n w.toNat
        ∃ t, exec (.mgmtPartset n w) s = .next t ∧ same t ∧ t.boot.code = code
          ∧ (code ≠ 0 → t.parts = s.parts)
          ∧ (code = 0 → bit (tget 0 t.parts n).toNat 0 = bit w.toNat 0
              ∧ bits (tget 0 t.parts n).toNat 15 8 = bits w.toNat 15 8 ∧ bits (tget 0 t.parts n).toNat 63 16 = 0
              ∧ t.boot.partMeasured = some t.partDigest ∧ ∀ m, m ≠ n → tget 0 t.parts m = tget 0 s.parts m)
          ∧ (∀ m < 8, m ≠ n → bit w.toNat 0 = true → bit (tget 0 s.parts m).toNat 0 = true →
              bits (tget 0 s.parts m).toNat 15 8 &&& bits w.toNat 15 8 ≠ 0 → code = 2))
      ∧ (∀ n < 32, s.domain.formed = false → s.domain.forming = none →
        ∃ t, exec (.mgmtModnum n) s = .next t ∧ (s.stores = [] → s.heldLines = [] → same t ∧ t.boot.code = 0 ∧ t.domain.module = n
          ∧ t.domain.live = [2 * n, 2 * n + 1] ∧ ∀ i, t.domain.slot i / 2 = n))
      ∧ (∀ n < 256, ∃ t, exec (.mgmtErrthr n) s = .next t ∧ same t ∧ t.threshold = (if n = 0 then s.threshold else n)
          ∧ t.boot.code = if n = 0 then 2 else 0)
      ∧ (∀ n < 256, ∀ k < 8, ∀ w : Dword, let x := s.chset n
        ∃ t, exec (.mgmtChset n k w) s = .next t ∧ t.boot.code = 0
          ∧ (k ≠ 0 ∨ x.en = false → t.cores = s.cores ∧ t.grids = s.grids ∧ ∀ m, m ≠ n → t.chset m = s.chset m)
          ∧ (k ≠ 0 → t.mem = s.mem ∧ t.chset n = if x.en = true then x else x.put k w.toNat)
          ∧ (k = 0 → bit w.toNat 0 = false → (t.chset n).en = false ∧ (t.chset n).state = 0
              ∧ (x.en = false → x.state ≠ 2 → t.mem = s.mem ∧ (t.chset n).cbase = bits w.toNat 63 32))
          ∧ (k = 0 → bit w.toNat 0 = true → x.en = false → x.state = 0 → (∃ c < 256, x.chmask.getLsbD c = true ∧ c ∉ s.retiredCh) →
              (t.chset n).en = true ∧ (t.chset n).state = 1 ∧ (t.chset n).cbase = bits w.toNat 63 32
                ∧ (t.chset n).nlive = ((List.range 256).filter (fun c => x.chmask.getLsbD c && !s.retiredCh.contains c)).length)
          ∧ (k = 0 → bit w.toNat 0 = true → x.en = true → t.chset n = x ∧ t.mem = s.mem))
      ∧ (∀ nonce, ∃ t, exec (.mgmtAttest nonce) s = .next t ∧ same t ∧ t.boot.code = 0
          ∧ t.boot.reply = s.report nonce.toNat ++ [Config.sign (s.report nonce.toNat)] ∧ t.boot.reply.head? = some nonce.toNat)
      ∧ (∃ t, exec .mgmtResync s = .next t ∧ same t ∧ t.boot.code = 0
          ∧ ∀ n < 8, t.boot.reply[n]? = some (tget 0 s.parts n).toNat)
      ∧ (∀ m ident, ∃ t, exec (.mgmtDomform m ident) s = .next t ∧ (m ≠ 1 ∨ s.domain.failed = [] ∧ s.heldLines = [] → same t)
          ∧ (s.domain.formed = true → t.boot.code = 2 ∧ t.domain = s.domain)
          ∧ (s.domain.formed = false → (∃ g ∈ s.grids, g.2.phase ≠ .ended) → t.boot.code = 3 ∧ t.domain = s.domain)
          ∧ (s.domain.formed = false → (∀ g ∈ s.grids, g.2.phase = .ended) → 1 < m → m ≤ 32 →
              t.boot = b ∧ t.domain.forming = some (s.cycle + 2 ^ 30) ∧ t.domain.size = m ∧ t.domain.ident = ident
                ∧ t.domain.peers = [] ∧ (∀ q, (t.port q).peer = none)
                ∧ ∀ q < 36, (s.port q).trained = true → (s.port q).retired = false →
                    ∃ y ∈ t.msgs, y.bound = some q ∧ y.port = (if (s.port q).held.contains 3 = true then none else some q)
                      ∧ y.vc = 3 ∧ y.flits = 1 ∧ y.sent = s.cycle)
          ∧ (s.domain.formed = false → (∀ g ∈ s.grids, g.2.phase = .ended) → m = 1 →
              t.boot.code = 0 ∧ t.domain.formed = true ∧ t.domain.forming = none ∧ t.domain.size = 1 ∧ t.domain.peers = []))))

/-! ## The whole machine -/

/-- R107 to R134: decoding the words of a well-formed instruction gives it back, with its length. -/
def Obligations.DecodeOfEncode : Prop := ∀ i, WellFormed i → decode 768 (encode i) = .ok i (encode i).length

/-- R107, R110: the same for every scalar instruction, each operand at each value of its field, and whatever words
follow. -/
def Obligations.ScalarDecodeOfEncode : Prop :=
  ∀ (maj min : Nat) (o : SOps) (i : Instr) (more : List Nat), scInstr maj min o = some i → o.fits = true → WellFormed i →
    decode 768 (encode i ++ more) = .ok i (encode i).length

/-- R107 to R134: words written out in the manual decode to the instructions it gives for them, and the reserved ones of
its list are refused with its subcodes. -/
def Obligations.WordsDecode : Prop :=
  decode 768 [0x0C142040] = .ok (.vfaddF32 { d := 4, a := 5, b := 6 }) 1
    ∧ decode 768 [0x0C142000] = .ok (.sadd { d := 4, a := 5, b := 6 }) 1
    ∧ decode 768 [0x00001106, 0, 1] = .ok (.sli { d := 2, lit := some (2 ^ 32) }) 3
    ∧ decode 768 [0x00140011, 0, 0x400] = .ok (.jmp { disp := 5, ext := true, g := ⟨1, false⟩ }) 3
    ∧ decode 768 [0x00000041, 0x406014C8, 0xC00] = .ok (.vfaddF32 { d := 200, a := 5, b := 6, ext := true, rm := 1, g := ⟨3, false⟩ }) 3
    ∧ decode 768 [0x98245280] = .ok (.ld { d := 9, off := 12, ov := true, bt := 5, la := 2 }) 1
    ∧ decode 768 [0x008100A9, 0x00503000, 0x00600000] = .ok (.red { off := 12, b := 5, ty := 2, ov := true, bt := 6 }) 3
    ∧ decode 768 [0x220030E8] = .ok (.pwrunResume { sa := 16, y := 4 }) 1
    ∧ decode 768 [0x0000C3F8] = .ok (.rep 3 0 3) 1
    ∧ decode 768 [0x00000614] = .ok (.nop {}) 1 ∧ decode 768 [0x00000718] = .illegal 2
    ∧ decode 768 [0x00000601, 0, 0] = .illegal 4 ∧ decode 768 [0x000000FC] = .illegal 1

/-- R2, R107, R30: a fetch reads a word's four bytes, lowest first; a step whose one enabled action is the issue of a
group performs the instruction that its words decode to. -/
def Obligations.StepRunsDecoded : Prop :=
  ∀ (c g : Nat) (s : State), let x : State := { s with core := c, grp := g }
    (∀ pc pa k key u, pc + 4 ≤ x.code.2 → x.translate c x.ctx (x.code.1 + pc) { x := true } = (u, .ok pa k) →
      u.access? (dieOf c) pa { r := true } = .mem key →
      x.fetchWords 1 pc = (u, .words [leNat (u.bytesAt key 4)]))
    ∧ (∀ ws i n u, s.inputs = [] → s.actions = [.issue c g] → s.inTurn (.issue c g) = true → c < numCores →
        let y : State := { s with offered := [] }
        ({ x with offered := [] } : State).fetchAt x.group.issuePc = (u, .words ws) → decode u.regalloc ws = .ok i n →
      step s = thenOn (State.after 0) (thenOn (fun t => t.noteIssue y c g) (exec i (u.fetchReach x.group.issuePc (u.issueWords i n)))))

/-- R19, R30: every instruction and every step of the hardware completes in every state, and a machine all of whose cores
are on the module always takes a step. -/
def Obligations.NothingStops : Prop :=  (∀ i s, ∃ t, exec i s = .next t) ∧ ∀ s, (∀ c ∈ s.cores, c.1 < numCores) → ∃ t, step s = .next t

/-- Every step keeps the canonical form of memory (log 3). -/
def Obligations.MemoryStaysCanonical : Prop := ∀ s t, s.mem.wf = true → step s = .next t → t.mem.wf = true

/-- R2, R467, R489: what reset leaves, as the manual gives it: no grid, empty queues, stage 1, a domain of one. Memory
lists nothing, which the model reads as zero (log 3, a choice of the model). -/
def Obligations.ResetState : Prop :=
  State.reset.mem.wf = true ∧ (∀ a, State.reset.byte a = 0) ∧ State.reset.cores = [] ∧ State.reset.grids = []
    ∧ State.reset.boot.stage = 1 ∧ State.reset.boot.recovery = false ∧ State.reset.domain.module = 0 ∧ State.reset.domain.size = 1
    ∧ State.reset.domain.formed = false ∧ State.reset.sigHead = State.reset.sigTail ∧ State.reset.logHead = State.reset.logTail
    ∧ State.reset.threshold = 16 ∧ ∀ n, (State.reset.chset n).en = false
end

