-- ==== Sys2Proof/Laws/Table.lean ====
section
/-! SUPPORT. Laws of sparse stores: reading after writing, writing twice, and the canonical form. -/
namespace Sys2Proof.Machine
open Sys2Proof

variable {α : Type}

@[simp] theorem tget_nil (d : α) (k : Nat) : tget d [] k = d := rfl

theorem tget_tdel_same (d : α) (t : Tbl α) (k : Nat) : tget d (tdel t k) k = d := by
  induction t with
  | nil => rfl
  | cons p r ih =>
    by_cases h : p.1 = k
    · simpa [tdel, h] using ih
    · simpa [tdel, h, tget] using ih

theorem tget_tdel_ne (d : α) (t : Tbl α) {k k' : Nat} (h : k' ≠ k) : tget d (tdel t k) k' = tget d t k' := by
  induction t with
  | nil => rfl
  | cons p r ih =>
    by_cases hp : p.1 = k
    · have : p.1 ≠ k' := fun e => h (e ▸ hp)
      simpa [tdel, hp, tget, this, Ne.symm h] using ih
    · by_cases hq : p.1 = k'
      · simp [tdel, tget, hq, h]
      · simpa [tdel, hp, tget, hq] using ih

theorem tget_tins_same (d : α) (t : Tbl α) (k : Nat) (v : α) (h : ∀ p ∈ t, p.1 ≠ k) : tget d (tins t k v) k = v := by
  induction t with
  | nil => simp [tins, tget]
  | cons p r ih =>
    obtain ⟨k', w⟩ := p
    have hk : k' ≠ k := h (k', w) (by simp)
    simp only [tins]
    split
    · simp [tget]
    · simpa [tget, hk] using ih (fun q hq => h q (by simp [hq]))

theorem tget_tins_ne (d : α) (t : Tbl α) (k : Nat) (v : α) {k' : Nat} (h : k' ≠ k) : tget d (tins t k v) k' = tget d t k' := by
  induction t with
  | nil => simp [tins, tget, Ne.symm h]
  | cons p r ih =>
    obtain ⟨q, w⟩ := p
    simp only [tins]
    split
    · simp [tget, Ne.symm h]
    · simp only [tget]; split <;> simp [ih]

theorem not_mem_tdel (t : Tbl α) (k : Nat) : ∀ p ∈ tdel t k, p.1 ≠ k := by
  intro p hp; simpa [tdel] using (List.mem_filter.mp hp).2

theorem tdel_tdel (t : Tbl α) (k : Nat) : tdel (tdel t k) k = tdel t k := by simp [tdel]

theorem tdel_tins (t : Tbl α) (k : Nat) (v : α) : tdel (tins t k v) k = tdel t k := by
  induction t with
  | nil => simp [tins, tdel]
  | cons p r ih =>
    obtain ⟨k', w⟩ := p
    simp only [tins]
    split
    · simp [tdel]
    · by_cases hk : k' = k
      · simpa [tdel, hk] using ih
      · simpa [tdel, hk] using ih

variable [DecidableEq α]

/-- A store reads back what was written. -/
@[simp] theorem tget_tput_same (d : α) (t : Tbl α) (k : Nat) (v : α) : tget d (tput d t k v) k = v := by
  unfold tput
  split
  · next h => rw [tget_tdel_same, h]
  · exact tget_tins_same d _ k v (not_mem_tdel t k)

/-- A write leaves every other key alone. -/
theorem tget_tput_ne (d : α) (t : Tbl α) (k : Nat) (v : α) {k' : Nat} (h : k' ≠ k) :
    tget d (tput d t k v) k' = tget d t k' := by
  unfold tput
  split
  · exact tget_tdel_ne d t h
  · rw [tget_tins_ne d _ k v h, tget_tdel_ne d t h]

theorem tget_tput (d : α) (t : Tbl α) (k : Nat) (v : α) (k' : Nat) :
    tget d (tput d t k v) k' = if k' = k then v else tget d t k' := by
  by_cases h : k' = k
  · simp [h]
  · simp [h, tget_tput_ne]

/-- The later of two writes to one key stands. -/
@[simp] theorem tput_tput (d : α) (t : Tbl α) (k : Nat) (v w : α) : tput d (tput d t k v) k w = tput d t k w := by
  have h : tdel (tput d t k v) k = tdel t k := by
    unfold tput
    split
    · exact tdel_tdel t k
    · rw [tdel_tins, tdel_tdel]
  rw [tput, h, ← tput]

@[simp] theorem tputs_nil (d : α) (t : Tbl α) : tputs d t [] = t := rfl
@[simp] theorem tputs_cons (d : α) (t : Tbl α) (w : Nat × α) (ws : List (Nat × α)) :
    tputs d t (w :: ws) = tputs d (tput d t w.1 w.2) ws := rfl

/-- Writing a function over a list of keys. -/
theorem tget_tputs_map (d : α) (ls : List Nat) (f : Nat → α) (t : Tbl α) (k : Nat) :
    tget d (tputs d t (ls.map (fun l => (l, f l)))) k = if k ∈ ls then f k else tget d t k := by
  induction ls generalizing t with
  | nil => simp
  | cons l ls ih =>
    rw [List.map_cons, tputs_cons, ih]
    by_cases hk : k ∈ ls
    · simp [hk]
    · by_cases hl : k = l
      · simp [hl]
      · simp [hk, hl, tget_tput]

/-! ## The canonical form -/

omit [DecidableEq α] in
theorem aboveB_iff (lo : Nat) (t : Tbl α) : aboveB lo t = true ↔ ∀ p ∈ t, lo ≤ p.1 := by
  induction t with
  | nil => simp [aboveB]
  | cons p r ih => obtain ⟨k, v⟩ := p; simp [aboveB, ih]

omit [DecidableEq α] in
theorem mem_tins {t : Tbl α} {k : Nat} {v : α} {p : Nat × α} (h : p ∈ tins t k v) : p = (k, v) ∨ p ∈ t := by
  induction t with
  | nil => simpa [tins] using h
  | cons q r ih =>
    obtain ⟨k', w⟩ := q
    simp only [tins] at h
    split at h
    · simpa using h
    · rcases List.mem_cons.mp h with h | h
      · simp [h]
      · rcases ih h with h | h <;> simp [h]

theorem canon_tdel (d : α) (t : Tbl α) (k : Nat) (h : Canon d t = true) : Canon d (tdel t k) = true := by
  induction t with
  | nil => rfl
  | cons p r ih =>
    obtain ⟨k', v⟩ := p
    simp only [Canon, Bool.and_eq_true, aboveB_iff] at h
    obtain ⟨⟨hv, ha⟩, hr⟩ := h
    by_cases hk : k' = k
    · simpa [tdel, hk] using ih hr
    · have : tdel ((k', v) :: r) k = (k', v) :: tdel r k := by simp [tdel, hk]
      rw [this]
      simp only [Canon, Bool.and_eq_true, aboveB_iff]
      exact ⟨⟨hv, fun p hp => ha p (List.mem_filter.mp hp).1⟩, ih hr⟩

theorem canon_tins (d : α) (t : Tbl α) (k : Nat) (v : α) (hv : v ≠ d) (hk : ∀ p ∈ t, p.1 ≠ k) (h : Canon d t = true) :
    Canon d (tins t k v) = true := by
  induction t with
  | nil => simp [tins, Canon, aboveB, hv]
  | cons p r ih =>
    obtain ⟨k', w⟩ := p
    have h' := h
    simp only [Canon, Bool.and_eq_true, aboveB_iff] at h
    obtain ⟨⟨hw, ha⟩, hr⟩ := h
    simp only [tins]
    split
    · next hlt =>
      have h2 : Canon d ((k, v) :: (k', w) :: r) = (decide (v ≠ d) && aboveB (k + 1) ((k', w) :: r) && Canon d ((k', w) :: r)) := rfl
      rw [h2, h', Bool.and_true, Bool.and_eq_true, aboveB_iff]
      refine ⟨by simpa using hv, fun p hp => ?_⟩
      rcases List.mem_cons.mp hp with rfl | hp
      · exact hlt
      · have := ha p hp; omega
    · next hge =>
      have hne : k' ≠ k := hk (k', w) (by simp)
      simp only [Canon, Bool.and_eq_true, aboveB_iff]
      refine ⟨⟨hw, fun p hp => ?_⟩, ih (fun p hp => hk p (by simp [hp])) hr⟩
      rcases mem_tins hp with rfl | hp
      · show k' + 1 ≤ k; omega
      · exact ha p hp

/-- Every write keeps the canonical form. -/
theorem canon_tput (d : α) (t : Tbl α) (k : Nat) (v : α) (h : Canon d t = true) : Canon d (tput d t k v) = true := by
  unfold tput
  split
  · exact canon_tdel d t k h
  · next hv => exact canon_tins d _ k v hv (not_mem_tdel t k) (canon_tdel d t k h)

theorem canon_tputs (d : α) (ws : List (Nat × α)) (t : Tbl α) (h : Canon d t = true) : Canon d (tputs d t ws) = true := by
  induction ws generalizing t with
  | nil => exact h
  | cons w ws ih => exact ih _ (canon_tput d t w.1 w.2 h)

theorem canon_filter (d : α) (p : Nat × α → Bool) (t : Tbl α) (h : Canon d t = true) : Canon d (t.filter p) = true := by
  induction t with
  | nil => rfl
  | cons q r ih =>
    obtain ⟨k, v⟩ := q
    simp only [Canon, Bool.and_eq_true, aboveB_iff] at h
    obtain ⟨⟨hv, ha⟩, hr⟩ := h
    rw [List.filter_cons]
    split
    · simp only [Canon, Bool.and_eq_true, aboveB_iff]
      exact ⟨⟨hv, fun x hx => ha x (List.mem_filter.mp hx).1⟩, ih hr⟩
    · exact ih hr

end Sys2Proof.Machine
end

