-- ==== Sys2Proof/Laws/Issue.lean ====
section
/-! SUPPORT. What one issue does: the change of its group, and the effect of an instruction that has nothing in its way. -/
namespace Sys2Proof.Machine
open Sys2Proof

/-! ## The issuing group -/

theorem State.coreAt_setCore (s : State) (c : Nat) (x : Core) (k : Nat) :
    (s.setCore c x).coreAt k = if k = c then x else s.coreAt k := tget_tput _ _ _ _ _

@[simp] theorem State.setCore_setCore (s : State) (c : Nat) (x y : Core) : (s.setCore c x).setCore c y = s.setCore c y := by
  simp [State.setCore]

theorem State.modCore_modCore (s : State) (c : Nat) (f g : Core → Core) : (s.modCore c f).modCore c g = s.modCore c (g ∘ f) := by
  simp [State.modCore, State.coreAt_setCore]

theorem Team.group_setGroup (t : Team) (g : Nat) (x : Group) (k : Nat) :
    (t.setGroup g x).group k = if k = g then x else t.group k := tget_tput _ _ _ _ _

theorem State.coreAt_modCore (s : State) (c : Nat) (f : Core → Core) (k : Nat) :
    (s.modCore c f).coreAt k = if k = c then f (s.coreAt c) else s.coreAt k := s.coreAt_setCore c _ k

theorem State.modGroup_svc (s : State) (f : Group → Group) (h : s.grp = 16) :
    s.modGroup f = s.modCore s.core (fun x => { x with svc := f x.svc }) := by
  unfold State.modGroup State.modGroupAt; rw [if_pos h]

theorem State.modGroup_team (s : State) (f : Group → Group) (h : s.grp ≠ 16) :
    s.modGroup f = s.modCore s.core (fun x => { x with team := x.team.map (fun t => t.setGroup s.grp (f (t.group s.grp))) }) := by
  unfold State.modGroup State.modGroupAt State.modTeamAt; rw [if_neg h]

theorem Team.setGroup_setGroup (t : Team) (g : Nat) (x y : Group) : (t.setGroup g x).setGroup g y = t.setGroup g y := by
  simp only [Team.setGroup, tput_tput]

theorem State.modGroup_modGroup (s : State) (f g : Group → Group) : (s.modGroup f).modGroup g = s.modGroup (g ∘ f) := by
  by_cases h : s.grp = 16
  · rw [s.modGroup_svc f h, s.modGroup_svc (g ∘ f) h,
      State.modGroup_svc (s.modCore s.core (fun x => { x with svc := f x.svc })) g h]
    exact State.modCore_modCore _ _ _ _
  · rw [s.modGroup_team f h, s.modGroup_team (g ∘ f) h, State.modGroup_team (s.modCore s.core (fun x =>
      { x with team := x.team.map (fun t => t.setGroup s.grp (f (t.group s.grp))) })) g h]
    refine (State.modCore_modCore _ _ _ _).trans (congrArg _ (funext fun x => ?_))
    show { x with team := Option.map _ (Option.map _ x.team) } = ({ x with team := Option.map _ x.team } : Core)
    rw [Option.map_map]
    congr 1
    congr 1
    funext t
    show (t.setGroup s.grp _).setGroup s.grp (g ((t.setGroup s.grp _).group s.grp)) = _
    rw [Team.setGroup_setGroup, Team.group_setGroup, if_pos rfl]; rfl

theorem State.group_modGroup (s : State) (f : Group → Group) (h : s.present = true) : (s.modGroup f).group = f s.group := by
  by_cases hg : s.grp = 16
  · have hs : s.isSvc = true := by simp [State.isSvc, hg]
    rw [s.modGroup_svc f hg]
    show (if s.isSvc then ((s.modCore s.core _).coreAt s.core).svc else _) = f (if s.isSvc then _ else _)
    rw [if_pos hs, if_pos hs, State.coreAt_modCore, if_pos rfl]
  · have hs : ¬ s.isSvc = true := by simp [State.isSvc, hg]
    obtain ⟨t, ht⟩ : ∃ t, (s.coreAt s.core).team = some t := by
      simpa [State.present, State.isSvc, hg, Option.isSome_iff_exists] using h
    rw [s.modGroup_team f hg]
    show (if s.isSvc then _ else (((s.modCore s.core _).coreAt s.core).team.getD {}).group s.grp) =
      f (if s.isSvc then _ else ((s.coreAt s.core).team.getD {}).group s.grp)
    rw [if_neg hs, if_neg hs, State.coreAt_modCore, if_pos rfl, ht]
    show (t.setGroup s.grp _).group s.grp = _
    rw [Team.group_setGroup, if_pos rfl]; rfl

@[simp] theorem State.modGroup_core (s : State) (f : Group → Group) : (s.modGroup f).core = s.core := by
  unfold State.modGroup State.modGroupAt; split <;> rfl
@[simp] theorem State.modGroup_grp (s : State) (f : Group → Group) : (s.modGroup f).grp = s.grp := by
  unfold State.modGroup State.modGroupAt; split <;> rfl
@[simp] theorem State.modGroup_cycle (s : State) (f : Group → Group) : (s.modGroup f).cycle = s.cycle := by
  unfold State.modGroup State.modGroupAt; split <;> rfl
@[simp] theorem State.modGroup_mem (s : State) (f : Group → Group) : (s.modGroup f).mem = s.mem := by
  unfold State.modGroup State.modGroupAt; split <;> rfl
@[simp] theorem State.modGroup_present (s : State) (f : Group → Group) : (s.modGroup f).present = s.present := by
  by_cases hg : s.grp = 16
  · rw [s.modGroup_svc f hg]
    show (s.isSvc || _) = (s.isSvc || _)
    rw [show s.isSvc = true by simp [State.isSvc, hg]]; rfl
  · rw [s.modGroup_team f hg]
    show (s.isSvc || ((s.modCore s.core _).coreAt s.core).team.isSome) = (s.isSvc || (s.coreAt s.core).team.isSome)
    rw [State.coreAt_modCore, if_pos rfl]
    show (s.isSvc || (Option.map _ (s.coreAt s.core).team).isSome) = _
    rw [Option.isSome_map]

/-! ## Lanes -/

theorem getLsbD_laneBit (l k : Nat) : (laneBit l).getLsbD k = (decide (k = l) && decide (k < 64)) := by
  simp only [laneBit, BitVec.getLsbD_ofNat, Nat.testBit_two_pow]
  by_cases h : l = k <;> simp [h, eq_comm]

theorem getLsbD_maskOf_aux (ls : List Nat) (m : Dword) (k : Nat) :
    (ls.foldl (fun m l => m ||| laneBit l) m).getLsbD k = (m.getLsbD k || (decide (k ∈ ls) && decide (k < 64))) := by
  induction ls generalizing m with
  | nil => simp
  | cons l ls ih =>
    rw [List.foldl_cons, ih]
    simp only [BitVec.getLsbD_or, getLsbD_laneBit, List.mem_cons]
    by_cases h1 : k = l <;> by_cases h2 : k ∈ ls <;> by_cases h3 : k < 64 <;> simp_all

theorem getLsbD_maskOf (ls : List Nat) (k : Nat) : (maskOf ls).getLsbD k = (decide (k ∈ ls) && decide (k < 64)) := by
  simp [maskOf, getLsbD_maskOf_aux]

theorem mem_lanesOf (m : Dword) (l : Nat) : l ∈ lanesOf m ↔ m.getLsbD l = true := by
  simp only [lanesOf, List.mem_filter, List.mem_range, and_iff_right_iff_imp]
  intro h
  by_contra hl
  rw [BitVec.getLsbD_of_ge m l (by omega)] at h
  exact Bool.noConfusion h

@[simp] theorem lanesOf_zero : lanesOf 0 = [] := by decide
@[simp] theorem maskOf_nil : maskOf [] = 0 := rfl

theorem lanesOf_eq_nil (m : Dword) : lanesOf m = [] ↔ m = 0 := by
  constructor
  · intro h
    apply BitVec.eq_of_getLsbD_eq
    intro i _
    have : ¬ m.getLsbD i = true := fun hi => by
      have := (mem_lanesOf m i).mpr hi
      rw [h] at this; exact List.not_mem_nil this
    simpa using this
  · rintro rfl; exact lanesOf_zero

/-! ## An issue with nothing in its way -/

theorem State.quiet_present {i : Instr} {s : State} (h : s.quiet i = true) : s.present = true := by
  simp only [State.quiet, Bool.and_eq_true] at h; exact h.1.1.1

theorem State.quiet_set {i : Instr} {s : State} (h : s.quiet i = true) : s.group.issueSet ≠ 0 := by
  simp only [State.quiet, Bool.and_eq_true, bne_iff_ne] at h; exact h.1.1.2

theorem State.quiet_hits {i : Instr} {s : State} (h : s.quiet i = true) :
    s.group.outstanding.any (Outstanding.hits (namesOf i ++ hiddenOf i)) = false := by
  simp only [State.quiet, Bool.and_eq_true] at h
  have := h.1.2
  rw [List.all_eq_true] at this
  rw [List.any_eq_false]
  intro o ho
  simpa using this o ho

theorem State.quiet_promised {i : Instr} {s : State} (h : s.quiet i = true) (m : Dword) :
    (lanesOf m).filter (s.group.promised (namesOf i)) = [] := by
  simp only [State.quiet, Bool.and_eq_true] at h
  have hp := List.all_eq_true.mp h.2
  rw [List.filter_eq_nil_iff]
  intro l hl
  have : l < 64 := by
    by_contra hge
    rw [mem_lanesOf, BitVec.getLsbD_of_ge m l (by omega)] at hl
    exact Bool.noConfusion hl
  simpa using hp l (List.mem_range.mpr this)

/-- An instruction with nothing in its way breaks no promise. -/
theorem State.quiet_violators {i : Instr} {s : State} (h : s.quiet i = true) (m : Dword) : s.group.violators i m = 0#64 := by
  rw [Group.violators, State.quiet_promised h]; rfl

theorem Raised.mask_none : ({} : Raised).mask = 0 := by decide

theorem State.takeTraps_none (s : State) (pc : Nat) {r : Raised} (h : r.mask = 0) : s.takeTraps pc r = s := by
  unfold State.takeTraps; simp only [h, if_true]

theorem closeIssue_plain {old : Group} {iss : Issue} {tick : Nat} {r : Res} (hstay : r.stay = false) (hr : r.raised = {}) :
    closeIssue old iss 0 tick r = r.s.modGroup (old.finish iss tick r.selfSat 0 r.placed r.moves) := by
  obtain ⟨s, raised, moves, stay, placed, sat, early⟩ := r
  subst hr
  simp only at hstay
  subst hstay
  simp only [closeIssue, lanesOf_zero, Bool.false_eq_true, if_false, List.map_nil, ite_self]
  show State.takeTraps (State.modGroup (old.finish iss tick sat (({} : Raised).mask) placed moves) s) _ ({} : Raised) = _
  rw [State.takeTraps_none _ _ Raised.mask_none, Raised.mask_none]

/-- The issue of an instruction with nothing in its way: its body runs for the threads of P. -/
theorem runIssue_quiet {i : Instr} {perform : State → List Nat → State} {n : Nat} {body : Body} {s : State}
    (hq : s.quiet i = true) :
    runIssue i perform (s.issueOf n) body s =
      closeIssue s.group (s.issueOf n) 0 s.tick (body ((s.issueOf n).by (s.doers i)) s) := by
  have hp : guardSet s.group (s.issueOf n).set (guardOf i) &&& ~~~(0#64) = s.doers i := by
    rw [BitVec.not_zero, BitVec.and_allOnes]; rfl
  have hf : (s.issueOf n).first = false := rfl
  unfold runIssue
  simp only [hf, State.quiet_violators hq, hp, State.quiet_hits hq, and_false, if_false, Bool.false_eq_true]
  rfl

/-! ## How a group finishes -/

/-- Two groups that differ only in program counters, REPCNT, waits, windows and the last issue. -/
structure Group.SameRegs (g h : Group) : Prop extends Group.SameControl g h where
  s : h.s = g.s
  m : h.m = g.m
  it : h.it = g.it
  v : h.v = g.v
  flags : h.flags = g.flags

theorem Group.SameRegs.refl (g : Group) : g.SameRegs g := ⟨⟨rfl, rfl, rfl, rfl, rfl, rfl, rfl⟩, rfl, rfl, rfl, rfl, rfl⟩
theorem Group.SameRegs.trans {f g h : Group} (a : f.SameRegs g) (b : g.SameRegs h) : f.SameRegs h :=
  ⟨⟨b.exited.trans a.exited, b.frame.trans a.frame, b.trapmask.trans a.trapmask, b.retpc.trans a.retpc,
    b.retrep.trans a.retrep, b.trapinfo.trans a.trapinfo, b.outstanding.trans a.outstanding⟩,
   b.s.trans a.s, b.m.trans a.m, b.it.trans a.it, b.v.trans a.v, b.flags.trans a.flags⟩

theorem Group.sameRegs_place (g : Group) (ls : List Nat) (p r : Nat) : g.SameRegs ((g.setPcs ls p).setReps ls r) :=
  ⟨⟨rfl, rfl, rfl, rfl, rfl, rfl, rfl⟩, rfl, rfl, rfl, rfl, rfl⟩

theorem Group.sameRegs_moves (stay : Dword) (moves : List (Dword × Nat)) (g : Group) :
    g.SameRegs (moves.foldl (fun g x => let ls := lanesOf (x.1 &&& ~~~stay); (g.setPcs ls x.2).setReps ls 0) g) := by
  induction moves generalizing g with
  | nil => exact .refl g
  | cons x moves ih => exact (g.sameRegs_place _ _ _).trans (ih _)

theorem Group.sameRegs_advance (iss : Issue) (stay : Dword) (moves : List (Dword × Nat)) (g : Group) :
    g.SameRegs (g.advance iss stay moves) := (g.sameRegs_place _ _ _).trans (Group.sameRegs_moves _ _ _)

theorem Group.sameRegs_finish (old : Group) (iss : Issue) (tick : Nat) (sat : Bool) (t placed : Dword)
    (moves : List (Dword × Nat)) (g : Group) : g.SameRegs (old.finish iss tick sat t placed moves g) := by
  have h1 : g.SameRegs (if sat then g else g.satisfy iss.set) := by
    cases sat
    · exact ⟨⟨rfl, rfl, rfl, rfl, rfl, rfl, rfl⟩, rfl, rfl, rfl, rfl, rfl⟩
    · exact .refl g
  have h2 := h1.trans (Group.sameRegs_advance iss (t ||| placed) moves _)
  exact h2.trans ⟨⟨rfl, rfl, rfl, rfl, rfl, rfl, rfl⟩, rfl, rfl, rfl, rfl, rfl⟩

/-- Where an issue leaves its threads: those that the body moves, the others at the next instruction. -/
theorem Group.finish_went (s : State) (n tick : Nat) (sat : Bool) (p : Dword) (dest : Nat) (moves : List (Dword × Nat))
    (hm : moves = [(p, dest)] ∨ (p = 0 ∧ moves = [])) (hsub : ∀ l, p.getLsbD l = true → s.group.issueSet.getLsbD l = true)
    (g : Group) (hpc : g.pc = s.group.pc) (hrep : g.repcnt = s.group.repcnt) :
    s.group.Went (s.group.finish (s.issueOf n) tick sat 0 0 moves g) n p dest := by
  have hz : ∀ m : Dword, m &&& ~~~(0#64 ||| 0#64) = m := fun m => by
    rw [show (0#64 ||| 0#64) = 0#64 by decide, BitVec.not_zero, BitVec.and_allOnes]
  have hn : ∀ m : Dword, m &&& ~~~0#64 = m := fun m => by rw [BitVec.not_zero, BitVec.and_allOnes]
  have hset : (s.issueOf n).set = s.group.issueSet := rfl
  have hnext : (s.issueOf n).next = s.group.issuePc + 4 * n := rfl
  have hrp : (s.issueOf n).nextRep = 0 := rfl
  have key : ∀ l : Nat, l ∈ lanesOf (s.group.issueSet &&& ~~~p) ↔ (s.group.issueSet.getLsbD l = true ∧ p.getLsbD l = false) := by
    intro l
    rw [mem_lanesOf]
    by_cases hl : l < 64
    · simp [hl]
    · simp [BitVec.getLsbD_of_ge _ l (Nat.le_of_not_lt hl)]
  intro l _
  rcases hm with rfl | ⟨rfl, rfl⟩
  · have e1 : (s.group.finish (s.issueOf n) tick sat 0 0 [(p, dest)] g).pc =
        tputs 0 (tputs 0 g.pc ((lanesOf ((s.issueOf n).set &&& ~~~(0#64 ||| 0#64) &&& ~~~(0#64 ||| p))).map (fun l => (l, (s.issueOf n).next))))
          ((lanesOf (p &&& ~~~(0#64 ||| 0#64))).map (fun l => (l, dest))) := by cases sat <;> rfl
    have e2 : (s.group.finish (s.issueOf n) tick sat 0 0 [(p, dest)] g).repcnt =
        tputs 0 (tputs 0 g.repcnt ((lanesOf ((s.issueOf n).set &&& ~~~(0#64 ||| 0#64) &&& ~~~(0#64 ||| p))).map (fun l => (l, (s.issueOf n).nextRep))))
          ((lanesOf (p &&& ~~~(0#64 ||| 0#64))).map (fun l => (l, 0))) := by cases sat <;> rfl
    rw [hz, hz, BitVec.zero_or, hset] at e1 e2
    rw [e1, e2, tget_tputs_map (f := fun _ => dest), tget_tputs_map (f := fun _ => (s.issueOf n).next),
      tget_tputs_map (f := fun _ => 0), tget_tputs_map (f := fun _ => (s.issueOf n).nextRep)]
    simp only [mem_lanesOf p, key, hnext, hrp, hpc, hrep]
    by_cases h1 : p.getLsbD l = true
    · simp [h1, hsub l h1]
    · simp [h1]
  · have e1 : (s.group.finish (s.issueOf n) tick sat 0 0 [] g).pc =
        tputs 0 g.pc ((lanesOf ((s.issueOf n).set &&& ~~~(0#64 ||| 0#64) &&& ~~~0#64)).map (fun l => (l, (s.issueOf n).next))) := by
      cases sat <;> rfl
    have e2 : (s.group.finish (s.issueOf n) tick sat 0 0 [] g).repcnt =
        tputs 0 g.repcnt ((lanesOf ((s.issueOf n).set &&& ~~~(0#64 ||| 0#64) &&& ~~~0#64)).map (fun l => (l, (s.issueOf n).nextRep))) := by
      cases sat <;> rfl
    rw [hz, hn, hset] at e1 e2
    rw [e1, e2, tget_tputs_map (f := fun _ => (s.issueOf n).next), tget_tputs_map (f := fun _ => (s.issueOf n).nextRep)]
    simp only [mem_lanesOf, hnext, hrp, hpc, hrep]
    simp

theorem State.doers_sub (i : Instr) (s : State) (l : Nat) (h : (s.doers i).getLsbD l = true) :
    s.group.issueSet.getLsbD l = true := by
  unfold State.doers guardSet at h
  split at h
  · exact h
  · rw [BitVec.getLsbD_and, Bool.and_eq_true] at h; exact h.1

/-- The issue of an instruction whose body changes registers of its group, and moves threads of P, and no more. -/
theorem issue_group {i : Instr} {perform : State → List Nat → State} {body : Body} {s : State} {f : Group → Group}
    {p : Dword} {dest : Nat} {moves : List (Dword × Nat)} {sat : Bool} (hq : s.quiet i = true)
    (hb : body ((s.issueOf (wordsOf i)).by (s.doers i)) s = { s := s.modGroup f, moves := moves, selfSat := sat })
    (hc : s.group.SameControl (f s.group)) (hpc : (f s.group).pc = s.group.pc) (hrep : (f s.group).repcnt = s.group.repcnt)
    (hm : moves = [(p, dest)] ∨ (p = 0 ∧ moves = [])) (hsub : ∀ l, p.getLsbD l = true → s.group.issueSet.getLsbD l = true) :
    ∃ t, runIssue i perform (s.issueOf (wordsOf i)) body s = t ∧ IssueFrame i s t p dest ∧ (f s.group).SameRegs t.group := by
  have hp := State.quiet_present hq
  have e : runIssue i perform (s.issueOf (wordsOf i)) body s =
      (s.modGroup f).modGroup (s.group.finish (s.issueOf (wordsOf i)) s.tick sat 0 0 moves) := by
    rw [runIssue_quiet hq, hb]; exact closeIssue_plain rfl rfl
  rw [State.modGroup_modGroup] at e
  have hg : (s.modGroup (s.group.finish (s.issueOf (wordsOf i)) s.tick sat 0 0 moves ∘ f)).group =
      s.group.finish (s.issueOf (wordsOf i)) s.tick sat 0 0 moves (f s.group) := State.group_modGroup s _ hp
  have hs := Group.sameRegs_finish s.group (s.issueOf (wordsOf i)) s.tick sat 0 0 moves (f s.group)
  refine ⟨_, e, ⟨⟨_, rfl⟩, ?_, ?_⟩, ?_⟩
  · rw [hg]
    exact ⟨hs.exited.trans hc.exited, hs.frame.trans hc.frame, hs.trapmask.trans hc.trapmask, hs.retpc.trans hc.retpc,
      hs.retrep.trans hc.retrep, hs.trapinfo.trans hc.trapinfo, hs.outstanding.trans hc.outstanding⟩
  · rw [hg]; exact Group.finish_went s _ _ _ p dest moves hm hsub _ hpc hrep
  · rw [hg]; exact hs

/-- The issue of an instruction that moves threads and changes nothing else. -/
theorem issue_moves {i : Instr} {perform : State → List Nat → State} {body : Body} {s : State} {p : Dword} {dest : Nat}
    {moves : List (Dword × Nat)} (hq : s.quiet i = true)
    (hb : body ((s.issueOf (wordsOf i)).by (s.doers i)) s = { s := s, moves := moves })
    (hm : moves = [(p, dest)] ∨ (p = 0 ∧ moves = [])) (hsub : ∀ l, p.getLsbD l = true → s.group.issueSet.getLsbD l = true) :
    ∃ t, runIssue i perform (s.issueOf (wordsOf i)) body s = t ∧ IssueFrame i s t p dest ∧ s.group.SameRegs t.group := by
  have hp := State.quiet_present hq
  have e : runIssue i perform (s.issueOf (wordsOf i)) body s =
      s.modGroup (s.group.finish (s.issueOf (wordsOf i)) s.tick false 0 0 moves) := by
    rw [runIssue_quiet hq, hb]; exact closeIssue_plain rfl rfl
  have hg : (s.modGroup (s.group.finish (s.issueOf (wordsOf i)) s.tick false 0 0 moves)).group =
      s.group.finish (s.issueOf (wordsOf i)) s.tick false 0 0 moves s.group := State.group_modGroup s _ hp
  have hs := Group.sameRegs_finish s.group (s.issueOf (wordsOf i)) s.tick false 0 0 moves s.group
  refine ⟨_, e, ⟨⟨_, rfl⟩, ?_, ?_⟩, ?_⟩
  · rw [hg]; exact hs.toSameControl
  · rw [hg]; exact Group.finish_went s _ _ _ p dest moves hm hsub _ rfl rfl
  · rw [hg]; exact hs

theorem Group.SameRegs.same {g h : Group} (e : g.SameRegs h) :
    SameS [] g h ∧ SameV [] g h ∧ SameM [] g h ∧ SameIt [] g h :=
  ⟨fun n _ => by unfold Group.sreg; rw [e.s], fun n _ => by unfold Group.vreg; rw [e.v], fun n _ => by rw [e.m],
   fun n _ => by unfold Group.iter; rw [e.it]⟩

end Sys2Proof.Machine
end

