-- ==== Sys2Proof/Laws/PerInstr.lean ====
section
/-! SUPPORT. One lemma for each instruction: an instruction is one to five words long, a step of the hardware has none. -/
namespace Sys2Proof.Laws.Length
open Sys2Proof
set_option Elab.async false

/-- An instruction of the program has one to five words; a step of the hardware has no words (R107, R108). -/
def Statement (i : Instr) : Prop := (encode i).length ≤ 5 ∧ (encode i = [] ↔ i.form = none)

theorem litWords_length (l : Option Dword) : (litWords l).length ≤ 2 := by cases l <;> simp [litWords]
theorem litWordsV_length (l : Option Word) : (litWordsV l).length ≤ 2 := by cases l <;> simp [litWordsV]
theorem xWords_length (b : Bool) (o : VOps) : (o.xWords b).length ≤ 2 := by unfold VOps.xWords; split <;> simp

theorem form_length (f : Form) : f.encode.length ≤ 5 ∧ f.encode ≠ [] := by
  cases f with
  | sc maj min o => have := litWords_length o.lit; simp [Form.encode]; omega
  | br c o => have := litWords_length o.lit; simp only [Form.encode]; split <;> simp <;> omega
  | vec maj min o =>
    have := litWordsV_length o.lit
    have := xWords_length (fmtIOf maj min) o
    simp [Form.encode]; omega
  | sweep itn maj min o =>
    have := litWordsV_length o.lit
    have := xWords_length false o
    simp [Form.encode]; omega
  | mem maj o => have := litWords_length o.lit; simp only [Form.encode]; split <;> simp <;> omega
  | atm maj o => have := litWords_length o.lit; simp [Form.encode]; omega
  | q maj qop o => simp only [Form.encode]; split <;> simp
  | priv qop o => simp [Form.encode]
  | rep c t l => simp [Form.encode]

theorem all (i : Instr) : Statement i := by
  unfold Statement encode
  cases h : i.form with
  | none => simp
  | some f => simpa using form_length f

theorem sadd (o : SOps) : Statement (.sadd o) := all _
theorem ssub (o : SOps) : Statement (.ssub o) := all _
theorem smul (o : SOps) : Statement (.smul o) := all _
theorem smulh (o : SOps) : Statement (.smulh o) := all _
theorem sdiv (o : SOps) : Statement (.sdiv o) := all _
theorem srem (o : SOps) : Statement (.srem o) := all _
theorem smin (o : SOps) : Statement (.smin o) := all _
theorem smax (o : SOps) : Statement (.smax o) := all _
theorem sand (o : SOps) : Statement (.sand o) := all _
theorem sor (o : SOps) : Statement (.sor o) := all _
theorem sxor (o : SOps) : Statement (.sxor o) := all _
theorem sandn (o : SOps) : Statement (.sandn o) := all _
theorem sshl (o : SOps) : Statement (.sshl o) := all _
theorem sshr (o : SOps) : Statement (.sshr o) := all _
theorem ssra (o : SOps) : Statement (.ssra o) := all _
theorem srol (o : SOps) : Statement (.srol o) := all _
theorem smov (o : SOps) : Statement (.smov o) := all _
theorem sli (o : SOps) : Statement (.sli o) := all _
theorem sclz (o : SOps) : Statement (.sclz o) := all _
theorem spop (o : SOps) : Statement (.spop o) := all _
theorem sbfx (o : SOps) : Statement (.sbfx o) := all _
theorem sbfi (o : SOps) : Statement (.sbfi o) := all _
theorem ssel (o : SOps) : Statement (.ssel o) := all _
theorem scmp (cc : Nat) (o : SOps) : Statement (.scmp cc o) := all _
theorem jmp (o : BOps) : Statement (.jmp o) := all _
theorem brz (o : BOps) : Statement (.brz o) := all _
theorem brnz (o : BOps) : Statement (.brnz o) := all _
theorem brLt (o : BOps) : Statement (.brLt o) := all _
theorem brLe (o : BOps) : Statement (.brLe o) := all _
theorem brGt (o : BOps) : Statement (.brGt o) := all _
theorem brGe (o : BOps) : Statement (.brGe o) := all _
theorem call (o : BOps) : Statement (.call o) := all _
theorem brmAny (o : BOps) : Statement (.brmAny o) := all _
theorem brmAll (o : BOps) : Statement (.brmAll o) := all _
theorem brmNone (o : BOps) : Statement (.brmNone o) := all _
theorem jmpr (o : VOps) : Statement (.jmpr o) := all _
theorem callr (o : VOps) : Statement (.callr o) := all _
theorem ret (o : VOps) : Statement (.ret o) := all _
theorem exit (o : VOps) : Statement (.exit o) := all _
theorem yield (o : VOps) : Statement (.yield o) := all _
theorem sleep (o : VOps) : Statement (.sleep o) := all _
theorem nop (o : VOps) : Statement (.nop o) := all _
theorem elect (o : VOps) : Statement (.elect o) := all _
theorem sleepto (o : VOps) : Statement (.sleepto o) := all _
theorem trap (o : VOps) : Statement (.trap o) := all _
theorem tret (o : VOps) : Statement (.tret o) := all _
theorem tretSkip (o : VOps) : Statement (.tretSkip o) := all _
theorem tretPass (o : VOps) : Statement (.tretPass o) := all _
theorem rdsr (o : VOps) : Statement (.rdsr o) := all _
theorem rdsrC (o : VOps) : Statement (.rdsrC o) := all _
theorem rdclk (o : VOps) : Statement (.rdclk o) := all _
theorem vaddI32 (o : VOps) : Statement (.vaddI32 o) := all _
theorem vsubI32 (o : VOps) : Statement (.vsubI32 o) := all _
theorem vmulI32 (o : VOps) : Statement (.vmulI32 o) := all _
theorem vmulhI32 (o : VOps) : Statement (.vmulhI32 o) := all _
theorem vmadI32 (o : VOps) : Statement (.vmadI32 o) := all _
theorem vminI32 (o : VOps) : Statement (.vminI32 o) := all _
theorem vmaxI32 (o : VOps) : Statement (.vmaxI32 o) := all _
theorem vabsI32 (o : VOps) : Statement (.vabsI32 o) := all _
theorem vaddN32 (o : VOps) : Statement (.vaddN32 o) := all _
theorem vsubN32 (o : VOps) : Statement (.vsubN32 o) := all _
theorem vmulN32 (o : VOps) : Statement (.vmulN32 o) := all _
theorem vmulhN32 (o : VOps) : Statement (.vmulhN32 o) := all _
theorem vmadN32 (o : VOps) : Statement (.vmadN32 o) := all _
theorem vminN32 (o : VOps) : Statement (.vminN32 o) := all _
theorem vmaxN32 (o : VOps) : Statement (.vmaxN32 o) := all _
theorem vand (o : VOps) : Statement (.vand o) := all _
theorem vor (o : VOps) : Statement (.vor o) := all _
theorem vxor (o : VOps) : Statement (.vxor o) := all _
theorem vshl (o : VOps) : Statement (.vshl o) := all _
theorem vshr (o : VOps) : Statement (.vshr o) := all _
theorem vsra (o : VOps) : Statement (.vsra o) := all _
theorem vsel (o : VOps) : Statement (.vsel o) := all _
theorem vmov (o : VOps) : Statement (.vmov o) := all _
theorem vcmpI32 (cc : Nat) (o : VOps) : Statement (.vcmpI32 cc o) := all _
theorem vcmpN32 (cc : Nat) (o : VOps) : Statement (.vcmpN32 cc o) := all _
theorem vbcast (o : VOps) : Statement (.vbcast o) := all _
theorem vextr (o : VOps) : Statement (.vextr o) := all _
theorem vlane (o : VOps) : Statement (.vlane o) := all _
theorem vfaddF32 (o : VOps) : Statement (.vfaddF32 o) := all _
theorem vfsubF32 (o : VOps) : Statement (.vfsubF32 o) := all _
theorem vfmulF32 (o : VOps) : Statement (.vfmulF32 o) := all _
theorem vfmaF32 (o : VOps) : Statement (.vfmaF32 o) := all _
theorem vfminF32 (o : VOps) : Statement (.vfminF32 o) := all _
theorem vfmaxF32 (o : VOps) : Statement (.vfmaxF32 o) := all _
theorem vfsgnF32 (o : VOps) : Statement (.vfsgnF32 o) := all _
theorem vfclassF32 (o : VOps) : Statement (.vfclassF32 o) := all _
theorem vfaddBf16 (o : VOps) : Statement (.vfaddBf16 o) := all _
theorem vfsubBf16 (o : VOps) : Statement (.vfsubBf16 o) := all _
theorem vfmulBf16 (o : VOps) : Statement (.vfmulBf16 o) := all _
theorem vfmaBf16 (o : VOps) : Statement (.vfmaBf16 o) := all _
theorem vfminBf16 (o : VOps) : Statement (.vfminBf16 o) := all _
theorem vfmaxBf16 (o : VOps) : Statement (.vfmaxBf16 o) := all _
theorem vfsgnBf16 (o : VOps) : Statement (.vfsgnBf16 o) := all _
theorem vfclassBf16 (o : VOps) : Statement (.vfclassBf16 o) := all _
theorem vfaddF16 (o : VOps) : Statement (.vfaddF16 o) := all _
theorem vfsubF16 (o : VOps) : Statement (.vfsubF16 o) := all _
theorem vfmulF16 (o : VOps) : Statement (.vfmulF16 o) := all _
theorem vfmaF16 (o : VOps) : Statement (.vfmaF16 o) := all _
theorem vfminF16 (o : VOps) : Statement (.vfminF16 o) := all _
theorem vfmaxF16 (o : VOps) : Statement (.vfmaxF16 o) := all _
theorem vfsgnF16 (o : VOps) : Statement (.vfsgnF16 o) := all _
theorem vfclassF16 (o : VOps) : Statement (.vfclassF16 o) := all _
theorem vfcmp (cc : Nat) (o : VOps) : Statement (.vfcmp cc o) := all _
theorem vexp (o : VOps) : Statement (.vexp o) := all _
theorem vexp2 (o : VOps) : Statement (.vexp2 o) := all _
theorem vlog2 (o : VOps) : Statement (.vlog2 o) := all _
theorem vrcp (o : VOps) : Statement (.vrcp o) := all _
theorem vrsqrt (o : VOps) : Statement (.vrsqrt o) := all _
theorem vsqrt (o : VOps) : Statement (.vsqrt o) := all _
theorem vsin (o : VOps) : Statement (.vsin o) := all _
theorem vcos (o : VOps) : Statement (.vcos o) := all _
theorem vtanh (o : VOps) : Statement (.vtanh o) := all _
theorem vsigm (o : VOps) : Statement (.vsigm o) := all _
theorem vgelu (o : VOps) : Statement (.vgelu o) := all _
theorem vcvt (o : VOps) : Statement (.vcvt o) := all _
theorem vtag (o : VOps) : Statement (.vtag o) := all _
theorem vscaleApply (o : VOps) : Statement (.vscaleApply o) := all _
theorem vscaleFind (o : VOps) : Statement (.vscaleFind o) := all _
theorem vzpPack (o : VOps) : Statement (.vzpPack o) := all _
theorem vzpExtr (o : VOps) : Statement (.vzpExtr o) := all _
theorem vxlaneDn (o : VOps) : Statement (.vxlaneDn o) := all _
theorem vxlaneUp (o : VOps) : Statement (.vxlaneUp o) := all _
theorem vxlaneBfly (o : VOps) : Statement (.vxlaneBfly o) := all _
theorem vshuf (o : VOps) : Statement (.vshuf o) := all _
theorem vred (o : VOps) : Statement (.vred o) := all _
theorem vscan (o : VOps) : Statement (.vscan o) := all _
theorem vballot (o : VOps) : Statement (.vballot o) := all _
theorem vtopk (o : VOps) : Statement (.vtopk o) := all _
theorem vstatAcc (o : VOps) : Statement (.vstatAcc o) := all _
theorem vstatRd (o : VOps) : Statement (.vstatRd o) := all _
theorem vstatClr (o : VOps) : Statement (.vstatClr o) := all _
theorem vrmax (o : VOps) : Statement (.vrmax o) := all _
theorem vnorm (o : VOps) : Statement (.vnorm o) := all _
theorem vfuse (o : VOps) : Statement (.vfuse o) := all _
theorem itset (o : VOps) : Statement (.itset o) := all _
theorem itrd (o : VOps) : Statement (.itrd o) := all _
theorem sweep (itn : Nat) (inner : Instr) : Statement (.sweep itn inner) := all _
theorem ld (o : MOps) : Statement (.ld o) := all _
theorem st (o : MOps) : Statement (.st o) := all _
theorem sld (o : MOps) : Statement (.sld o) := all _
theorem sst (o : MOps) : Statement (.sst o) := all _
theorem ldx (o : MOps) : Statement (.ldx o) := all _
theorem stx (o : MOps) : Statement (.stx o) := all _
theorem amo (o : AOps) : Statement (.amo o) := all _
theorem cas (o : AOps) : Statement (.cas o) := all _
theorem red (o : AOps) : Statement (.red o) := all _
theorem fence (o : QOps) : Statement (.fence o) := all _
theorem barinit (o : QOps) : Statement (.barinit o) := all _
theorem bararr (o : QOps) : Statement (.bararr o) := all _
theorem barwait (o : QOps) : Statement (.barwait o) := all _
theorem baraw (o : QOps) : Statement (.baraw o) := all _
theorem barq (o : QOps) : Statement (.barq o) := all _
theorem tqdef (o : QOps) : Statement (.tqdef o) := all _
theorem tqdone (o : QOps) : Statement (.tqdone o) := all _
theorem tqget (o : QOps) : Statement (.tqget o) := all _
theorem rngget (o : QOps) : Statement (.rngget o) := all _
theorem glaunch (o : QOps) : Statement (.glaunch o) := all _
theorem cpy (o : QOps) : Statement (.cpy o) := all _
theorem cpyt (o : QOps) : Statement (.cpyt o) := all _
theorem cpym (o : QOps) : Statement (.cpym o) := all _
theorem gath (o : QOps) : Statement (.gath o) := all _
theorem scat (o : QOps) : Statement (.scat o) := all _
theorem cpyst (o : QOps) : Statement (.cpyst o) := all _
theorem mxzero (o : QOps) : Statement (.mxzero o) := all _
theorem mxmul (o : QOps) : Statement (.mxmul o) := all _
theorem mxmulSp (o : QOps) : Statement (.mxmulSp o) := all _
theorem mxpair (o : QOps) : Statement (.mxpair o) := all _
theorem mxpairSp (o : QOps) : Statement (.mxpairSp o) := all _
theorem mxrd (o : QOps) : Statement (.mxrd o) := all _
theorem mxwr (o : QOps) : Statement (.mxwr o) := all _
theorem mxbeta (o : QOps) : Statement (.mxbeta o) := all _
theorem mxdelta (o : QOps) : Statement (.mxdelta o) := all _
theorem mxsolve (o : QOps) : Statement (.mxsolve o) := all _
theorem pwinit (o : QOps) : Statement (.pwinit o) := all _
theorem pwjoin (o : QOps) : Statement (.pwjoin o) := all _
theorem pwleave (o : QOps) : Statement (.pwleave o) := all _
theorem pwrun (o : QOps) : Statement (.pwrun o) := all _
theorem pwrunResume (o : QOps) : Statement (.pwrunResume o) := all _
theorem pwwait (o : QOps) : Statement (.pwwait o) := all _
theorem pwstat (o : QOps) : Statement (.pwstat o) := all _
theorem btmap (o : QOps) : Statement (.btmap o) := all _
theorem btinv (o : QOps) : Statement (.btinv o) := all _
theorem btcow (o : QOps) : Statement (.btcow o) := all _
theorem kvput (o : QOps) : Statement (.kvput o) := all _
theorem massdec (o : QOps) : Statement (.massdec o) := all _
theorem massmin (o : QOps) : Statement (.massmin o) := all _
theorem mfpr (o : POps) : Statement (.mfpr o) := all _
theorem mtpr (o : POps) : Statement (.mtpr o) := all _
theorem eret (o : POps) : Statement (.eret o) := all _
theorem tlbinv (o : POps) : Statement (.tlbinv o) := all _
theorem bufinv (o : POps) : Statement (.bufinv o) := all _
theorem cachefl (o : POps) : Statement (.cachefl o) := all _
theorem ctxsave (o : POps) : Statement (.ctxsave o) := all _
theorem ctxload (o : POps) : Statement (.ctxload o) := all _
theorem halt (o : POps) : Statement (.halt o) := all _
theorem signal (o : POps) : Statement (.signal o) := all _
theorem rep (cnt str sel : Nat) : Statement (.rep cnt str sel) := all _
theorem groupSwap (core : Nat) : Statement (.groupSwap core) := all _
theorem forcedSwap (core : Nat) : Statement (.forcedSwap core) := all _
theorem swapEnd (core : Nat) : Statement (.swapEnd core) := all _
theorem sleepWake (core grp : Nat) : Statement (.sleepWake core grp) := all _
theorem sleeptoResume (core grp : Nat) : Statement (.sleeptoResume core grp) := all _
theorem loadComplete (core grp : Nat) : Statement (.loadComplete core grp) := all _
theorem storePerform : Statement (.storePerform) := all _
theorem mscAtomicStep : Statement (.mscAtomicStep) := all _
theorem gLineEvict (core line : Nat) : Statement (.gLineEvict core line) := all _
theorem tqgetRearrive (core grp : Nat) : Statement (.tqgetRearrive core grp) := all _
theorem tqgetDeadline (core grp : Nat) : Statement (.tqgetDeadline core grp) := all _
theorem illegalInstruction (sub : Nat) : Statement (.illegalInstruction sub) := all _
theorem codeFetchFault (sub va : Nat) : Statement (.codeFetchFault sub va) := all _
theorem engineOpStart (core serial : Nat) : Statement (.engineOpStart core serial) := all _
theorem engineOpComplete (core serial : Nat) : Statement (.engineOpComplete core serial) := all _
theorem engineOpFault (core serial code sub off : Nat) : Statement (.engineOpFault core serial code sub off) := all _
theorem copyLateExpiry (core serial : Nat) : Statement (.copyLateExpiry core serial) := all _
theorem walkNode (core : Nat) : Statement (.walkNode core) := all _
theorem pageWalk (core ctx va : Nat) : Statement (.pageWalk core ctx va) := all _
theorem faultQueuePost (q : Nat) : Statement (.faultQueuePost q) := all _
theorem serviceFaultPost (core : Nat) : Statement (.serviceFaultPost core) := all _
theorem serviceEntryPreempt (core : Nat) : Statement (.serviceEntryPreempt core) := all _
theorem serviceEntryRestore (core : Nat) : Statement (.serviceEntryRestore core) := all _
theorem serviceEntryRequest (core : Nat) : Statement (.serviceEntryRequest core) := all _
theorem preemptGang (stop : GangStop) : Statement (.preemptGang stop) := all _
theorem gangResume (grid : Nat) : Statement (.gangResume grid) := all _
theorem admissionStep : Statement (.admissionStep) := all _
theorem gridEnd (grid : Nat) : Statement (.gridEnd grid) := all _
theorem scoreboardMismatch (core : Nat) : Statement (.scoreboardMismatch core) := all _
theorem signatureCompare (core : Nat) : Statement (.signatureCompare core) := all _
theorem recallComplete (fold line : Nat) : Statement (.recallComplete fold line) := all _
theorem requestRetry (core : Nat) : Statement (.requestRetry core) := all _
theorem wayReservationExpire (fold set : Nat) : Statement (.wayReservationExpire fold set) := all _
theorem dieInvalidate (die line : Nat) : Statement (.dieInvalidate die line) := all _
theorem ownerForward (die line : Nat) (write : Bool) : Statement (.ownerForward die line write) := all _
theorem writeback (core line : Nat) : Statement (.writeback core line) := all _
theorem dieDirectoryReport (core line : Nat) (st : LineState) : Statement (.dieDirectoryReport core line st) := all _
theorem acknowledgement (id : Nat) : Statement (.acknowledgement id) := all _
theorem messageResend (id : Nat) : Statement (.messageResend id) := all _
theorem foldBridgeTimeout (fold : Nat) : Statement (.foldBridgeTimeout fold) := all _
theorem foldRehashSet (set : Nat) : Statement (.foldRehashSet set) := all _
theorem restripeGranule (n : Nat) : Statement (.restripeGranule n) := all _
theorem bankRefreshDue (ch pc bank : Nat) : Statement (.bankRefreshDue ch pc bank) := all _
theorem allBankRefreshDone (ch pc : Nat) : Statement (.allBankRefreshDone ch pc) := all _
theorem fqResolve (w : Dword) : Statement (.fqResolve w) := all _
theorem doorbell (core : Nat) (lo hi : Dword) : Statement (.doorbell core lo hi) := all _
theorem launchPortPost (port poster : Nat) (store : PortStore) : Statement (.launchPortPost port poster store) := all _
theorem lctlPreempt (ctx gridid : Nat) : Statement (.lctlPreempt ctx gridid) := all _
theorem lctlKill (ctx gridid : Nat) : Statement (.lctlKill ctx gridid) := all _
theorem sapoolWrite (w : Dword) : Statement (.sapoolWrite w) := all _
theorem chsetEnable (n : Nat) : Statement (.chsetEnable n) := all _
theorem chsetDisable (n : Nat) : Statement (.chsetDisable n) := all _
theorem registerWrite (r : HwReg) (w : Dword) : Statement (.registerWrite r w) := all _
theorem shepherdFullBarrier (n : Nat) : Statement (.shepherdFullBarrier n) := all _
theorem uncorrectableError (core grp sub : Nat) (unit : HwUnit) : Statement (.uncorrectableError core grp sub unit) := all _
theorem correctedError (unit : HwUnit) : Statement (.correctedError unit) := all _
theorem errorWindowReset : Statement (.errorWindowReset) := all _
theorem dirRead (core line : Nat) : Statement (.dirRead core line) := all _
theorem dirWrite (core line : Nat) : Statement (.dirWrite core line) := all _
theorem dirRed (core line : Nat) : Statement (.dirRed core line) := all _
theorem flitReceive (fold port vc seq : Nat) (crcOk : Bool) : Statement (.flitReceive fold port vc seq crcOk) := all _
theorem flowStop (fold port : Nat) (sign : FlowSign) : Statement (.flowStop fold port sign) := all _
theorem flowGo (fold port : Nat) (sign : FlowSign) : Statement (.flowGo fold port sign) := all _
theorem linkTrain (fold port lanesUp roundTrip : Nat) : Statement (.linkTrain fold port lanesUp roundTrip) := all _
theorem domformMessage (fold port peer peerFold m : Nat) (ident : Dword) : Statement (.domformMessage fold port peer peerFold m ident) := all _
theorem domformTimeout : Statement (.domformTimeout) := all _
theorem foldDieFailure (fold : Nat) : Statement (.foldDieFailure fold) := all _
theorem foldRebuildComplete : Statement (.foldRebuildComplete) := all _
theorem moduleReset : Statement (.moduleReset) := all _
theorem bootStageVerify (version : Nat) (sig : Signature) (image : Nat) : Statement (.bootStageVerify version sig image) := all _
theorem mgmtStatus : Statement (.mgmtStatus) := all _
theorem mgmtUpdate (stage : Nat) (image : Nat) : Statement (.mgmtUpdate stage image) := all _
theorem mgmtPartset (n : Nat) (w : Dword) : Statement (.mgmtPartset n w) := all _
theorem mgmtModnum (n : Nat) : Statement (.mgmtModnum n) := all _
theorem mgmtErrthr (n : Nat) : Statement (.mgmtErrthr n) := all _
theorem mgmtChset (n k : Nat) (w : Dword) : Statement (.mgmtChset n k w) := all _
theorem mgmtAttest (nonce : BitVec 256) : Statement (.mgmtAttest nonce) := all _
theorem mgmtResync : Statement (.mgmtResync) := all _
theorem mgmtEnroll (key : Nat) (signedByOld fromServer : Bool) : Statement (.mgmtEnroll key signedByOld fromServer) := all _
theorem mgmtDomform (m : Nat) (ident : Dword) : Statement (.mgmtDomform m ident) := all _
theorem outletTempHigh : Statement (.outletTempHigh) := all _
theorem outletTempCritical : Statement (.outletTempCritical) := all _
theorem outletTempFall : Statement (.outletTempFall) := all _

end Sys2Proof.Laws.Length
end

