-- ==== Sys2Proof/Laws/State.lean ====
section
/-! SUPPORT. What each update of the state leaves, field by field; reading memory after writing it; the canonical form. -/
namespace Sys2Proof.Machine
open Sys2Proof
set_option Elab.async false

/-! ## Memory -/

theorem State.byte_setByte (s : State) (k : Nat) (b : Byte) (a : Nat) : (s.setByte k b).byte a = if a = k then b else s.byte a :=
  tget_tput _ _ _ _ _

theorem tget_tputs_seq (d : Byte) (bs : List Byte) (t : Memory) (k a : Nat) :
    tget d (tputs d t (bs.mapIdx (fun i b => (k + i, b)))) a = if k ≤ a ∧ a < k + bs.length then bs.getD (a - k) 0 else tget d t a := by
  induction bs generalizing t k with
  | nil => simp
  | cons b r ih =>
    have e : (b :: r).mapIdx (fun i b => (k + i, b)) = (k, b) :: r.mapIdx (fun i b => (k + 1 + i, b)) := by
      simp [List.mapIdx_cons, Nat.add_assoc, Nat.add_comm 1]
    rw [e, tputs_cons, ih, tget_tput]
    by_cases h : a = k
    · subst h; simp
    · by_cases h1 : k + 1 ≤ a ∧ a < k + 1 + r.length
      · have h2 : k ≤ a ∧ a < k + (b :: r).length := by simp only [List.length_cons]; omega
        rw [if_pos h1, if_pos h2]
        obtain ⟨n, rfl⟩ : ∃ n, a = k + 1 + n := ⟨a - (k + 1), by omega⟩
        rw [show k + 1 + n - (k + 1) = n by omega, show k + 1 + n - k = n + 1 by omega]; rfl
      · have h2 : ¬ (k ≤ a ∧ a < k + (b :: r).length) := by simp only [List.length_cons]; omega
        rw [if_neg h1, if_neg h2, if_neg h]

theorem State.byte_setBytes (s : State) (k : Nat) (bs : List Byte) (a : Nat) :
    (s.setBytes k bs).byte a = if k ≤ a ∧ a < k + bs.length then bs.getD (a - k) 0 else s.byte a := tget_tputs_seq _ _ _ _ _

theorem State.bytesAt_setBytes (s : State) (k : Nat) (bs : List Byte) : (s.setBytes k bs).bytesAt k bs.length = bs := by
  apply List.ext_getElem
  · simp [State.bytesAt]
  · intro i h1 h2
    simp [State.bytesAt, State.byte_setBytes, h2]

theorem leBytes_length (n v : Nat) : (leBytes n v).length = n := by
  induction n generalizing v with
  | zero => rfl
  | succ n ih => simp [leBytes, ih]

/-- Every operation on memory keeps its canonical form. -/
theorem State.wf_setByte {s : State} (k : Nat) (b : Byte) (h : s.mem.wf = true) : (s.setByte k b).mem.wf = true := canon_tput _ _ _ _ h
theorem State.wf_setBytes {s : State} (k : Nat) (bs : List Byte) (h : s.mem.wf = true) : (s.setBytes k bs).mem.wf = true :=
  canon_tputs _ _ _ h
theorem State.wf_writeAcc {s : State} (a : Acc) (bs : List Byte) (h : s.mem.wf = true) : (s.writeAcc a bs).mem.wf = true := by
  cases a <;> first | exact State.wf_setBytes _ _ h | exact h
/-- Posting a message and counting an access leave memory alone. -/
theorem State.mem_modPort (s : State) (k : Nat) (f : Port → Port) : (s.modPort k f).mem = s.mem := rfl
theorem State.mem_transmit (s : State) (m : Msg) : (s.transmit m).1.mem = s.mem := by
  unfold State.transmit
  split
  · rfl
  · split <;> rfl
theorem State.mem_post (s : State) (m : Msg) : (s.post m).mem = s.mem := by
  unfold State.post
  split
  · exact State.mem_transmit s m
  · rfl
theorem State.mem_postAbroad (s : State) (vc flits ptr ln : Nat) : (s.postAbroad vc flits ptr ln).mem = s.mem := by
  unfold State.postAbroad
  split
  · rfl
  · exact State.mem_post _ _
/-- Messages that are forgotten, copies that leave and entries that fall leave memory alone. -/
theorem State.mem_forget (s : State) (ids : List Nat) : (s.forget ids).mem = s.mem := rfl
theorem State.mem_dropX (s : State) (die ln : Nat) : (s.dropX die ln).mem = s.mem := by unfold State.dropX; split <;> rfl
theorem State.mem_takeX (s : State) (c ln : Nat) (x : LineState) : (s.takeX c ln x).mem = s.mem := by
  unfold State.takeX; split
  · rfl
  · split <;> rfl
theorem State.mem_leaveDie (s : State) (die ln : Nat) : (s.leaveDie die ln).mem = s.mem := by
  unfold State.leaveDie
  split
  · rfl
  · dsimp only
    split
    · exact State.mem_dropX s die ln
    · split
      · exact State.mem_dropX s die ln
      · split <;> exact State.mem_dropX s die ln
theorem State.mem_reach (s : State) (die : Nat) (a : Acc) (rd : Bool) : (s.reach die a rd).mem = s.mem := by
  cases a with
  | mem k => rfl
  | peer p => exact State.mem_postAbroad _ _ _ _ _
  | reg p => rfl
  | denied => rfl
  | bad => rfl

theorem State.wf_putAcc {s : State} (die : Nat) (a : Acc) (bs : List Byte) (h : s.mem.wf = true) : (s.putAcc die a bs).mem.wf = true :=
  State.wf_writeAcc _ _ (by rw [State.mem_reach]; exact h)
theorem State.wf_physWrite {s : State} (master pa : Nat) (bs : List Byte) (h : s.mem.wf = true) : (s.physWrite master pa bs).mem.wf = true :=
  State.wf_putAcc _ _ _ h
theorem State.wf_moveSpan {s : State} (a b n : Nat) (h : s.mem.wf = true) : (s.moveSpan a b n).mem.wf = true := by
  unfold State.moveSpan
  split
  · exact h
  · exact canon_tputs _ _ _ (canon_filter _ _ _ h)
theorem State.wf_settlePlaces {s : State} (x : ChSet) (h : s.mem.wf = true) : (s.settlePlaces x).mem.wf = true :=
  canon_tputs _ _ _ (canon_filter _ _ _ h)
theorem State.wf_dropPlaces {s : State} (h : s.mem.wf = true) : s.dropPlaces.mem.wf = true := canon_filter _ _ _ h
theorem State.wf_areaFill {s : State} (pa : Nat) (t : Team) (h : s.mem.wf = true) : (s.areaFill pa t).mem.wf = true :=
  canon_tputs _ _ _ (canon_filter _ _ _ h)
theorem State.wf_reset : State.reset.mem.wf = true := rfl

/-! ## Fields -/

@[simp] theorem State.setByte_tick (s : State) (k : Nat) (b : Byte) : (s.setByte k b).tick = s.tick := rfl
@[simp] theorem State.setByte_inputs (s : State) (k : Nat) (b : Byte) : (s.setByte k b).inputs = s.inputs := rfl
@[simp] theorem State.setByte_core (s : State) (k : Nat) (b : Byte) : (s.setByte k b).core = s.core := rfl
@[simp] theorem State.setByte_grp (s : State) (k : Nat) (b : Byte) : (s.setByte k b).grp = s.grp := rfl
@[simp] theorem State.setByte_reqId (s : State) (k : Nat) (b : Byte) : (s.setByte k b).reqId = s.reqId := rfl
@[simp] theorem State.setByte_offered (s : State) (k : Nat) (b : Byte) : (s.setByte k b).offered = s.offered := rfl
@[simp] theorem State.setByte_lastPost (s : State) (k : Nat) (b : Byte) : (s.setByte k b).lastPost = s.lastPost := rfl
@[simp] theorem State.setByte_lastSig (s : State) (k : Nat) (b : Byte) : (s.setByte k b).lastSig = s.lastSig := rfl
@[simp] theorem State.setByte_recLast (s : State) (k : Nat) (b : Byte) : (s.setByte k b).recLast = s.recLast := rfl
@[simp] theorem State.setByte_recLate (s : State) (k : Nat) (b : Byte) : (s.setByte k b).recLate = s.recLate := rfl
@[simp] theorem State.setByte_stuck (s : State) (k : Nat) (b : Byte) : (s.setByte k b).stuck = s.stuck := rfl
@[simp] theorem State.setByte_cycle (s : State) (k : Nat) (b : Byte) : (s.setByte k b).cycle = s.cycle := rfl
@[simp] theorem State.setByte_poison (s : State) (k : Nat) (b : Byte) : (s.setByte k b).poison = s.poison := rfl
@[simp] theorem State.setByte_peerMem (s : State) (k : Nat) (b : Byte) : (s.setByte k b).peerMem = s.peerMem := rfl
@[simp] theorem State.setByte_stores (s : State) (k : Nat) (b : Byte) : (s.setByte k b).stores = s.stores := rfl
@[simp] theorem State.setByte_regStores (s : State) (k : Nat) (b : Byte) : (s.setByte k b).regStores = s.regStores := rfl
@[simp] theorem State.setByte_dieTlb (s : State) (k : Nat) (b : Byte) : (s.setByte k b).dieTlb = s.dieTlb := rfl
@[simp] theorem State.setByte_dieTabs (s : State) (k : Nat) (b : Byte) : (s.setByte k b).dieTabs = s.dieTabs := rfl
@[simp] theorem State.setByte_walks (s : State) (k : Nat) (b : Byte) : (s.setByte k b).walks = s.walks := rfl
@[simp] theorem State.setByte_descs (s : State) (k : Nat) (b : Byte) : (s.setByte k b).descs = s.descs := rfl
@[simp] theorem State.setByte_cores (s : State) (k : Nat) (b : Byte) : (s.setByte k b).cores = s.cores := rfl
@[simp] theorem State.setByte_grids (s : State) (k : Nat) (b : Byte) : (s.setByte k b).grids = s.grids := rfl
@[simp] theorem State.setByte_nextGrid (s : State) (k : Nat) (b : Byte) : (s.setByte k b).nextGrid = s.nextGrid := rfl
@[simp] theorem State.setByte_admitted (s : State) (k : Nat) (b : Byte) : (s.setByte k b).admitted = s.admitted := rfl
@[simp] theorem State.setByte_lpres (s : State) (k : Nat) (b : Byte) : (s.setByte k b).lpres = s.lpres := rfl
@[simp] theorem State.setByte_sapoolBase (s : State) (k : Nat) (b : Byte) : (s.setByte k b).sapoolBase = s.sapoolBase := rfl
@[simp] theorem State.setByte_sapoolCount (s : State) (k : Nat) (b : Byte) : (s.setByte k b).sapoolCount = s.sapoolCount := rfl
@[simp] theorem State.setByte_saved (s : State) (k : Nat) (b : Byte) : (s.setByte k b).saved = s.saved := rfl
@[simp] theorem State.setByte_sigHead (s : State) (k : Nat) (b : Byte) : (s.setByte k b).sigHead = s.sigHead := rfl
@[simp] theorem State.setByte_sigTail (s : State) (k : Nat) (b : Byte) : (s.setByte k b).sigTail = s.sigTail := rfl
@[simp] theorem State.setByte_fqs (s : State) (k : Nat) (b : Byte) : (s.setByte k b).fqs = s.fqs := rfl
@[simp] theorem State.setByte_unresolved (s : State) (k : Nat) (b : Byte) : (s.setByte k b).unresolved = s.unresolved := rfl
@[simp] theorem State.setByte_logHead (s : State) (k : Nat) (b : Byte) : (s.setByte k b).logHead = s.logHead := rfl
@[simp] theorem State.setByte_logTail (s : State) (k : Nat) (b : Byte) : (s.setByte k b).logTail = s.logTail := rfl
@[simp] theorem State.setByte_logDrop (s : State) (k : Nat) (b : Byte) : (s.setByte k b).logDrop = s.logDrop := rfl
@[simp] theorem State.setByte_parts (s : State) (k : Nat) (b : Byte) : (s.setByte k b).parts = s.parts := rfl
@[simp] theorem State.setByte_chsets (s : State) (k : Nat) (b : Byte) : (s.setByte k b).chsets = s.chsets := rfl
@[simp] theorem State.setByte_access (s : State) (k : Nat) (b : Byte) : (s.setByte k b).access = s.access := rfl
@[simp] theorem State.setByte_foldAccess (s : State) (k : Nat) (b : Byte) : (s.setByte k b).foldAccess = s.foldAccess := rfl
@[simp] theorem State.setByte_counters (s : State) (k : Nat) (b : Byte) : (s.setByte k b).counters = s.counters := rfl
@[simp] theorem State.setByte_refresh (s : State) (k : Nat) (b : Byte) : (s.setByte k b).refresh = s.refresh := rfl
@[simp] theorem State.setByte_allBank (s : State) (k : Nat) (b : Byte) : (s.setByte k b).allBank = s.allBank := rfl
@[simp] theorem State.setByte_retiredCh (s : State) (k : Nat) (b : Byte) : (s.setByte k b).retiredCh = s.retiredCh := rfl
@[simp] theorem State.setByte_errors (s : State) (k : Nat) (b : Byte) : (s.setByte k b).errors = s.errors := rfl
@[simp] theorem State.setByte_threshold (s : State) (k : Nat) (b : Byte) : (s.setByte k b).threshold = s.threshold := rfl
@[simp] theorem State.setByte_erred (s : State) (k : Nat) (b : Byte) : (s.setByte k b).erred = s.erred := rfl
@[simp] theorem State.setByte_window (s : State) (k : Nat) (b : Byte) : (s.setByte k b).window = s.window := rfl
@[simp] theorem State.setByte_retiredUnits (s : State) (k : Nat) (b : Byte) : (s.setByte k b).retiredUnits = s.retiredUnits := rfl
@[simp] theorem State.setByte_folds (s : State) (k : Nat) (b : Byte) : (s.setByte k b).folds = s.folds := rfl
@[simp] theorem State.setByte_xdies (s : State) (k : Nat) (b : Byte) : (s.setByte k b).xdies = s.xdies := rfl
@[simp] theorem State.setByte_dirWaits (s : State) (k : Nat) (b : Byte) : (s.setByte k b).dirWaits = s.dirWaits := rfl
@[simp] theorem State.setByte_retries (s : State) (k : Nat) (b : Byte) : (s.setByte k b).retries = s.retries := rfl
@[simp] theorem State.setByte_msgs (s : State) (k : Nat) (b : Byte) : (s.setByte k b).msgs = s.msgs := rfl
@[simp] theorem State.setByte_ports (s : State) (k : Nat) (b : Byte) : (s.setByte k b).ports = s.ports := rfl
@[simp] theorem State.setByte_domain (s : State) (k : Nat) (b : Byte) : (s.setByte k b).domain = s.domain := rfl
@[simp] theorem State.setByte_boot (s : State) (k : Nat) (b : Byte) : (s.setByte k b).boot = s.boot := rfl

@[simp] theorem State.setBytes_tick (s : State) (k : Nat) (bs : List Byte) : (s.setBytes k bs).tick = s.tick := rfl
@[simp] theorem State.setBytes_inputs (s : State) (k : Nat) (bs : List Byte) : (s.setBytes k bs).inputs = s.inputs := rfl
@[simp] theorem State.setBytes_core (s : State) (k : Nat) (bs : List Byte) : (s.setBytes k bs).core = s.core := rfl
@[simp] theorem State.setBytes_grp (s : State) (k : Nat) (bs : List Byte) : (s.setBytes k bs).grp = s.grp := rfl
@[simp] theorem State.setBytes_reqId (s : State) (k : Nat) (bs : List Byte) : (s.setBytes k bs).reqId = s.reqId := rfl
@[simp] theorem State.setBytes_offered (s : State) (k : Nat) (bs : List Byte) : (s.setBytes k bs).offered = s.offered := rfl
@[simp] theorem State.setBytes_lastPost (s : State) (k : Nat) (bs : List Byte) : (s.setBytes k bs).lastPost = s.lastPost := rfl
@[simp] theorem State.setBytes_lastSig (s : State) (k : Nat) (bs : List Byte) : (s.setBytes k bs).lastSig = s.lastSig := rfl
@[simp] theorem State.setBytes_recLast (s : State) (k : Nat) (bs : List Byte) : (s.setBytes k bs).recLast = s.recLast := rfl
@[simp] theorem State.setBytes_recLate (s : State) (k : Nat) (bs : List Byte) : (s.setBytes k bs).recLate = s.recLate := rfl
@[simp] theorem State.setBytes_stuck (s : State) (k : Nat) (bs : List Byte) : (s.setBytes k bs).stuck = s.stuck := rfl
@[simp] theorem State.setBytes_cycle (s : State) (k : Nat) (bs : List Byte) : (s.setBytes k bs).cycle = s.cycle := rfl
@[simp] theorem State.setBytes_poison (s : State) (k : Nat) (bs : List Byte) : (s.setBytes k bs).poison = s.poison := rfl
@[simp] theorem State.setBytes_peerMem (s : State) (k : Nat) (bs : List Byte) : (s.setBytes k bs).peerMem = s.peerMem := rfl
@[simp] theorem State.setBytes_stores (s : State) (k : Nat) (bs : List Byte) : (s.setBytes k bs).stores = s.stores := rfl
@[simp] theorem State.setBytes_regStores (s : State) (k : Nat) (bs : List Byte) : (s.setBytes k bs).regStores = s.regStores := rfl
@[simp] theorem State.setBytes_dieTlb (s : State) (k : Nat) (bs : List Byte) : (s.setBytes k bs).dieTlb = s.dieTlb := rfl
@[simp] theorem State.setBytes_dieTabs (s : State) (k : Nat) (bs : List Byte) : (s.setBytes k bs).dieTabs = s.dieTabs := rfl
@[simp] theorem State.setBytes_walks (s : State) (k : Nat) (bs : List Byte) : (s.setBytes k bs).walks = s.walks := rfl
@[simp] theorem State.setBytes_descs (s : State) (k : Nat) (bs : List Byte) : (s.setBytes k bs).descs = s.descs := rfl
@[simp] theorem State.setBytes_cores (s : State) (k : Nat) (bs : List Byte) : (s.setBytes k bs).cores = s.cores := rfl
@[simp] theorem State.setBytes_grids (s : State) (k : Nat) (bs : List Byte) : (s.setBytes k bs).grids = s.grids := rfl
@[simp] theorem State.setBytes_nextGrid (s : State) (k : Nat) (bs : List Byte) : (s.setBytes k bs).nextGrid = s.nextGrid := rfl
@[simp] theorem State.setBytes_admitted (s : State) (k : Nat) (bs : List Byte) : (s.setBytes k bs).admitted = s.admitted := rfl
@[simp] theorem State.setBytes_lpres (s : State) (k : Nat) (bs : List Byte) : (s.setBytes k bs).lpres = s.lpres := rfl
@[simp] theorem State.setBytes_sapoolBase (s : State) (k : Nat) (bs : List Byte) : (s.setBytes k bs).sapoolBase = s.sapoolBase := rfl
@[simp] theorem State.setBytes_sapoolCount (s : State) (k : Nat) (bs : List Byte) : (s.setBytes k bs).sapoolCount = s.sapoolCount := rfl
@[simp] theorem State.setBytes_saved (s : State) (k : Nat) (bs : List Byte) : (s.setBytes k bs).saved = s.saved := rfl
@[simp] theorem State.setBytes_sigHead (s : State) (k : Nat) (bs : List Byte) : (s.setBytes k bs).sigHead = s.sigHead := rfl
@[simp] theorem State.setBytes_sigTail (s : State) (k : Nat) (bs : List Byte) : (s.setBytes k bs).sigTail = s.sigTail := rfl
@[simp] theorem State.setBytes_fqs (s : State) (k : Nat) (bs : List Byte) : (s.setBytes k bs).fqs = s.fqs := rfl
@[simp] theorem State.setBytes_unresolved (s : State) (k : Nat) (bs : List Byte) : (s.setBytes k bs).unresolved = s.unresolved := rfl
@[simp] theorem State.setBytes_logHead (s : State) (k : Nat) (bs : List Byte) : (s.setBytes k bs).logHead = s.logHead := rfl
@[simp] theorem State.setBytes_logTail (s : State) (k : Nat) (bs : List Byte) : (s.setBytes k bs).logTail = s.logTail := rfl
@[simp] theorem State.setBytes_logDrop (s : State) (k : Nat) (bs : List Byte) : (s.setBytes k bs).logDrop = s.logDrop := rfl
@[simp] theorem State.setBytes_parts (s : State) (k : Nat) (bs : List Byte) : (s.setBytes k bs).parts = s.parts := rfl
@[simp] theorem State.setBytes_chsets (s : State) (k : Nat) (bs : List Byte) : (s.setBytes k bs).chsets = s.chsets := rfl
@[simp] theorem State.setBytes_access (s : State) (k : Nat) (bs : List Byte) : (s.setBytes k bs).access = s.access := rfl
@[simp] theorem State.setBytes_foldAccess (s : State) (k : Nat) (bs : List Byte) : (s.setBytes k bs).foldAccess = s.foldAccess := rfl
@[simp] theorem State.setBytes_counters (s : State) (k : Nat) (bs : List Byte) : (s.setBytes k bs).counters = s.counters := rfl
@[simp] theorem State.setBytes_refresh (s : State) (k : Nat) (bs : List Byte) : (s.setBytes k bs).refresh = s.refresh := rfl
@[simp] theorem State.setBytes_allBank (s : State) (k : Nat) (bs : List Byte) : (s.setBytes k bs).allBank = s.allBank := rfl
@[simp] theorem State.setBytes_retiredCh (s : State) (k : Nat) (bs : List Byte) : (s.setBytes k bs).retiredCh = s.retiredCh := rfl
@[simp] theorem State.setBytes_errors (s : State) (k : Nat) (bs : List Byte) : (s.setBytes k bs).errors = s.errors := rfl
@[simp] theorem State.setBytes_threshold (s : State) (k : Nat) (bs : List Byte) : (s.setBytes k bs).threshold = s.threshold := rfl
@[simp] theorem State.setBytes_erred (s : State) (k : Nat) (bs : List Byte) : (s.setBytes k bs).erred = s.erred := rfl
@[simp] theorem State.setBytes_window (s : State) (k : Nat) (bs : List Byte) : (s.setBytes k bs).window = s.window := rfl
@[simp] theorem State.setBytes_retiredUnits (s : State) (k : Nat) (bs : List Byte) : (s.setBytes k bs).retiredUnits = s.retiredUnits := rfl
@[simp] theorem State.setBytes_folds (s : State) (k : Nat) (bs : List Byte) : (s.setBytes k bs).folds = s.folds := rfl
@[simp] theorem State.setBytes_xdies (s : State) (k : Nat) (bs : List Byte) : (s.setBytes k bs).xdies = s.xdies := rfl
@[simp] theorem State.setBytes_dirWaits (s : State) (k : Nat) (bs : List Byte) : (s.setBytes k bs).dirWaits = s.dirWaits := rfl
@[simp] theorem State.setBytes_retries (s : State) (k : Nat) (bs : List Byte) : (s.setBytes k bs).retries = s.retries := rfl
@[simp] theorem State.setBytes_msgs (s : State) (k : Nat) (bs : List Byte) : (s.setBytes k bs).msgs = s.msgs := rfl
@[simp] theorem State.setBytes_ports (s : State) (k : Nat) (bs : List Byte) : (s.setBytes k bs).ports = s.ports := rfl
@[simp] theorem State.setBytes_domain (s : State) (k : Nat) (bs : List Byte) : (s.setBytes k bs).domain = s.domain := rfl
@[simp] theorem State.setBytes_boot (s : State) (k : Nat) (bs : List Byte) : (s.setBytes k bs).boot = s.boot := rfl

@[simp] theorem State.setCore_tick (s : State) (c : Nat) (x : Core) : (s.setCore c x).tick = s.tick := rfl
@[simp] theorem State.setCore_inputs (s : State) (c : Nat) (x : Core) : (s.setCore c x).inputs = s.inputs := rfl
@[simp] theorem State.setCore_core (s : State) (c : Nat) (x : Core) : (s.setCore c x).core = s.core := rfl
@[simp] theorem State.setCore_grp (s : State) (c : Nat) (x : Core) : (s.setCore c x).grp = s.grp := rfl
@[simp] theorem State.setCore_reqId (s : State) (c : Nat) (x : Core) : (s.setCore c x).reqId = s.reqId := rfl
@[simp] theorem State.setCore_offered (s : State) (c : Nat) (x : Core) : (s.setCore c x).offered = s.offered := rfl
@[simp] theorem State.setCore_lastPost (s : State) (c : Nat) (x : Core) : (s.setCore c x).lastPost = s.lastPost := rfl
@[simp] theorem State.setCore_lastSig (s : State) (c : Nat) (x : Core) : (s.setCore c x).lastSig = s.lastSig := rfl
@[simp] theorem State.setCore_recLast (s : State) (c : Nat) (x : Core) : (s.setCore c x).recLast = s.recLast := rfl
@[simp] theorem State.setCore_recLate (s : State) (c : Nat) (x : Core) : (s.setCore c x).recLate = s.recLate := rfl
@[simp] theorem State.setCore_stuck (s : State) (c : Nat) (x : Core) : (s.setCore c x).stuck = s.stuck := rfl
@[simp] theorem State.setCore_cycle (s : State) (c : Nat) (x : Core) : (s.setCore c x).cycle = s.cycle := rfl
@[simp] theorem State.setCore_mem (s : State) (c : Nat) (x : Core) : (s.setCore c x).mem = s.mem := rfl
@[simp] theorem State.setCore_poison (s : State) (c : Nat) (x : Core) : (s.setCore c x).poison = s.poison := rfl
@[simp] theorem State.setCore_peerMem (s : State) (c : Nat) (x : Core) : (s.setCore c x).peerMem = s.peerMem := rfl
@[simp] theorem State.setCore_stores (s : State) (c : Nat) (x : Core) : (s.setCore c x).stores = s.stores := rfl
@[simp] theorem State.setCore_regStores (s : State) (c : Nat) (x : Core) : (s.setCore c x).regStores = s.regStores := rfl
@[simp] theorem State.setCore_dieTlb (s : State) (c : Nat) (x : Core) : (s.setCore c x).dieTlb = s.dieTlb := rfl
@[simp] theorem State.setCore_dieTabs (s : State) (c : Nat) (x : Core) : (s.setCore c x).dieTabs = s.dieTabs := rfl
@[simp] theorem State.setCore_walks (s : State) (c : Nat) (x : Core) : (s.setCore c x).walks = s.walks := rfl
@[simp] theorem State.setCore_descs (s : State) (c : Nat) (x : Core) : (s.setCore c x).descs = s.descs := rfl
@[simp] theorem State.setCore_grids (s : State) (c : Nat) (x : Core) : (s.setCore c x).grids = s.grids := rfl
@[simp] theorem State.setCore_nextGrid (s : State) (c : Nat) (x : Core) : (s.setCore c x).nextGrid = s.nextGrid := rfl
@[simp] theorem State.setCore_admitted (s : State) (c : Nat) (x : Core) : (s.setCore c x).admitted = s.admitted := rfl
@[simp] theorem State.setCore_lpres (s : State) (c : Nat) (x : Core) : (s.setCore c x).lpres = s.lpres := rfl
@[simp] theorem State.setCore_sapoolBase (s : State) (c : Nat) (x : Core) : (s.setCore c x).sapoolBase = s.sapoolBase := rfl
@[simp] theorem State.setCore_sapoolCount (s : State) (c : Nat) (x : Core) : (s.setCore c x).sapoolCount = s.sapoolCount := rfl
@[simp] theorem State.setCore_saved (s : State) (c : Nat) (x : Core) : (s.setCore c x).saved = s.saved := rfl
@[simp] theorem State.setCore_sigHead (s : State) (c : Nat) (x : Core) : (s.setCore c x).sigHead = s.sigHead := rfl
@[simp] theorem State.setCore_sigTail (s : State) (c : Nat) (x : Core) : (s.setCore c x).sigTail = s.sigTail := rfl
@[simp] theorem State.setCore_fqs (s : State) (c : Nat) (x : Core) : (s.setCore c x).fqs = s.fqs := rfl
@[simp] theorem State.setCore_unresolved (s : State) (c : Nat) (x : Core) : (s.setCore c x).unresolved = s.unresolved := rfl
@[simp] theorem State.setCore_logHead (s : State) (c : Nat) (x : Core) : (s.setCore c x).logHead = s.logHead := rfl
@[simp] theorem State.setCore_logTail (s : State) (c : Nat) (x : Core) : (s.setCore c x).logTail = s.logTail := rfl
@[simp] theorem State.setCore_logDrop (s : State) (c : Nat) (x : Core) : (s.setCore c x).logDrop = s.logDrop := rfl
@[simp] theorem State.setCore_parts (s : State) (c : Nat) (x : Core) : (s.setCore c x).parts = s.parts := rfl
@[simp] theorem State.setCore_chsets (s : State) (c : Nat) (x : Core) : (s.setCore c x).chsets = s.chsets := rfl
@[simp] theorem State.setCore_access (s : State) (c : Nat) (x : Core) : (s.setCore c x).access = s.access := rfl
@[simp] theorem State.setCore_foldAccess (s : State) (c : Nat) (x : Core) : (s.setCore c x).foldAccess = s.foldAccess := rfl
@[simp] theorem State.setCore_counters (s : State) (c : Nat) (x : Core) : (s.setCore c x).counters = s.counters := rfl
@[simp] theorem State.setCore_refresh (s : State) (c : Nat) (x : Core) : (s.setCore c x).refresh = s.refresh := rfl
@[simp] theorem State.setCore_allBank (s : State) (c : Nat) (x : Core) : (s.setCore c x).allBank = s.allBank := rfl
@[simp] theorem State.setCore_retiredCh (s : State) (c : Nat) (x : Core) : (s.setCore c x).retiredCh = s.retiredCh := rfl
@[simp] theorem State.setCore_errors (s : State) (c : Nat) (x : Core) : (s.setCore c x).errors = s.errors := rfl
@[simp] theorem State.setCore_threshold (s : State) (c : Nat) (x : Core) : (s.setCore c x).threshold = s.threshold := rfl
@[simp] theorem State.setCore_erred (s : State) (c : Nat) (x : Core) : (s.setCore c x).erred = s.erred := rfl
@[simp] theorem State.setCore_window (s : State) (c : Nat) (x : Core) : (s.setCore c x).window = s.window := rfl
@[simp] theorem State.setCore_retiredUnits (s : State) (c : Nat) (x : Core) : (s.setCore c x).retiredUnits = s.retiredUnits := rfl
@[simp] theorem State.setCore_folds (s : State) (c : Nat) (x : Core) : (s.setCore c x).folds = s.folds := rfl
@[simp] theorem State.setCore_xdies (s : State) (c : Nat) (x : Core) : (s.setCore c x).xdies = s.xdies := rfl
@[simp] theorem State.setCore_dirWaits (s : State) (c : Nat) (x : Core) : (s.setCore c x).dirWaits = s.dirWaits := rfl
@[simp] theorem State.setCore_retries (s : State) (c : Nat) (x : Core) : (s.setCore c x).retries = s.retries := rfl
@[simp] theorem State.setCore_msgs (s : State) (c : Nat) (x : Core) : (s.setCore c x).msgs = s.msgs := rfl
@[simp] theorem State.setCore_ports (s : State) (c : Nat) (x : Core) : (s.setCore c x).ports = s.ports := rfl
@[simp] theorem State.setCore_domain (s : State) (c : Nat) (x : Core) : (s.setCore c x).domain = s.domain := rfl
@[simp] theorem State.setCore_boot (s : State) (c : Nat) (x : Core) : (s.setCore c x).boot = s.boot := rfl

@[simp] theorem State.modCore_tick (s : State) (c : Nat) (f : Core → Core) : (s.modCore c f).tick = s.tick := rfl
@[simp] theorem State.modCore_inputs (s : State) (c : Nat) (f : Core → Core) : (s.modCore c f).inputs = s.inputs := rfl
@[simp] theorem State.modCore_core (s : State) (c : Nat) (f : Core → Core) : (s.modCore c f).core = s.core := rfl
@[simp] theorem State.modCore_grp (s : State) (c : Nat) (f : Core → Core) : (s.modCore c f).grp = s.grp := rfl
@[simp] theorem State.modCore_reqId (s : State) (c : Nat) (f : Core → Core) : (s.modCore c f).reqId = s.reqId := rfl
@[simp] theorem State.modCore_offered (s : State) (c : Nat) (f : Core → Core) : (s.modCore c f).offered = s.offered := rfl
@[simp] theorem State.modCore_lastPost (s : State) (c : Nat) (f : Core → Core) : (s.modCore c f).lastPost = s.lastPost := rfl
@[simp] theorem State.modCore_lastSig (s : State) (c : Nat) (f : Core → Core) : (s.modCore c f).lastSig = s.lastSig := rfl
@[simp] theorem State.modCore_recLast (s : State) (c : Nat) (f : Core → Core) : (s.modCore c f).recLast = s.recLast := rfl
@[simp] theorem State.modCore_recLate (s : State) (c : Nat) (f : Core → Core) : (s.modCore c f).recLate = s.recLate := rfl
@[simp] theorem State.modCore_stuck (s : State) (c : Nat) (f : Core → Core) : (s.modCore c f).stuck = s.stuck := rfl
@[simp] theorem State.modCore_cycle (s : State) (c : Nat) (f : Core → Core) : (s.modCore c f).cycle = s.cycle := rfl
@[simp] theorem State.modCore_mem (s : State) (c : Nat) (f : Core → Core) : (s.modCore c f).mem = s.mem := rfl
@[simp] theorem State.modCore_poison (s : State) (c : Nat) (f : Core → Core) : (s.modCore c f).poison = s.poison := rfl
@[simp] theorem State.modCore_peerMem (s : State) (c : Nat) (f : Core → Core) : (s.modCore c f).peerMem = s.peerMem := rfl
@[simp] theorem State.modCore_stores (s : State) (c : Nat) (f : Core → Core) : (s.modCore c f).stores = s.stores := rfl
@[simp] theorem State.modCore_regStores (s : State) (c : Nat) (f : Core → Core) : (s.modCore c f).regStores = s.regStores := rfl
@[simp] theorem State.modCore_dieTlb (s : State) (c : Nat) (f : Core → Core) : (s.modCore c f).dieTlb = s.dieTlb := rfl
@[simp] theorem State.modCore_dieTabs (s : State) (c : Nat) (f : Core → Core) : (s.modCore c f).dieTabs = s.dieTabs := rfl
@[simp] theorem State.modCore_walks (s : State) (c : Nat) (f : Core → Core) : (s.modCore c f).walks = s.walks := rfl
@[simp] theorem State.modCore_descs (s : State) (c : Nat) (f : Core → Core) : (s.modCore c f).descs = s.descs := rfl
@[simp] theorem State.modCore_grids (s : State) (c : Nat) (f : Core → Core) : (s.modCore c f).grids = s.grids := rfl
@[simp] theorem State.modCore_nextGrid (s : State) (c : Nat) (f : Core → Core) : (s.modCore c f).nextGrid = s.nextGrid := rfl
@[simp] theorem State.modCore_admitted (s : State) (c : Nat) (f : Core → Core) : (s.modCore c f).admitted = s.admitted := rfl
@[simp] theorem State.modCore_lpres (s : State) (c : Nat) (f : Core → Core) : (s.modCore c f).lpres = s.lpres := rfl
@[simp] theorem State.modCore_sapoolBase (s : State) (c : Nat) (f : Core → Core) : (s.modCore c f).sapoolBase = s.sapoolBase := rfl
@[simp] theorem State.modCore_sapoolCount (s : State) (c : Nat) (f : Core → Core) : (s.modCore c f).sapoolCount = s.sapoolCount := rfl
@[simp] theorem State.modCore_saved (s : State) (c : Nat) (f : Core → Core) : (s.modCore c f).saved = s.saved := rfl
@[simp] theorem State.modCore_sigHead (s : State) (c : Nat) (f : Core → Core) : (s.modCore c f).sigHead = s.sigHead := rfl
@[simp] theorem State.modCore_sigTail (s : State) (c : Nat) (f : Core → Core) : (s.modCore c f).sigTail = s.sigTail := rfl
@[simp] theorem State.modCore_fqs (s : State) (c : Nat) (f : Core → Core) : (s.modCore c f).fqs = s.fqs := rfl
@[simp] theorem State.modCore_unresolved (s : State) (c : Nat) (f : Core → Core) : (s.modCore c f).unresolved = s.unresolved := rfl
@[simp] theorem State.modCore_logHead (s : State) (c : Nat) (f : Core → Core) : (s.modCore c f).logHead = s.logHead := rfl
@[simp] theorem State.modCore_logTail (s : State) (c : Nat) (f : Core → Core) : (s.modCore c f).logTail = s.logTail := rfl
@[simp] theorem State.modCore_logDrop (s : State) (c : Nat) (f : Core → Core) : (s.modCore c f).logDrop = s.logDrop := rfl
@[simp] theorem State.modCore_parts (s : State) (c : Nat) (f : Core → Core) : (s.modCore c f).parts = s.parts := rfl
@[simp] theorem State.modCore_chsets (s : State) (c : Nat) (f : Core → Core) : (s.modCore c f).chsets = s.chsets := rfl
@[simp] theorem State.modCore_access (s : State) (c : Nat) (f : Core → Core) : (s.modCore c f).access = s.access := rfl
@[simp] theorem State.modCore_foldAccess (s : State) (c : Nat) (f : Core → Core) : (s.modCore c f).foldAccess = s.foldAccess := rfl
@[simp] theorem State.modCore_counters (s : State) (c : Nat) (f : Core → Core) : (s.modCore c f).counters = s.counters := rfl
@[simp] theorem State.modCore_refresh (s : State) (c : Nat) (f : Core → Core) : (s.modCore c f).refresh = s.refresh := rfl
@[simp] theorem State.modCore_allBank (s : State) (c : Nat) (f : Core → Core) : (s.modCore c f).allBank = s.allBank := rfl
@[simp] theorem State.modCore_retiredCh (s : State) (c : Nat) (f : Core → Core) : (s.modCore c f).retiredCh = s.retiredCh := rfl
@[simp] theorem State.modCore_errors (s : State) (c : Nat) (f : Core → Core) : (s.modCore c f).errors = s.errors := rfl
@[simp] theorem State.modCore_threshold (s : State) (c : Nat) (f : Core → Core) : (s.modCore c f).threshold = s.threshold := rfl
@[simp] theorem State.modCore_erred (s : State) (c : Nat) (f : Core → Core) : (s.modCore c f).erred = s.erred := rfl
@[simp] theorem State.modCore_window (s : State) (c : Nat) (f : Core → Core) : (s.modCore c f).window = s.window := rfl
@[simp] theorem State.modCore_retiredUnits (s : State) (c : Nat) (f : Core → Core) : (s.modCore c f).retiredUnits = s.retiredUnits := rfl
@[simp] theorem State.modCore_folds (s : State) (c : Nat) (f : Core → Core) : (s.modCore c f).folds = s.folds := rfl
@[simp] theorem State.modCore_xdies (s : State) (c : Nat) (f : Core → Core) : (s.modCore c f).xdies = s.xdies := rfl
@[simp] theorem State.modCore_dirWaits (s : State) (c : Nat) (f : Core → Core) : (s.modCore c f).dirWaits = s.dirWaits := rfl
@[simp] theorem State.modCore_retries (s : State) (c : Nat) (f : Core → Core) : (s.modCore c f).retries = s.retries := rfl
@[simp] theorem State.modCore_msgs (s : State) (c : Nat) (f : Core → Core) : (s.modCore c f).msgs = s.msgs := rfl
@[simp] theorem State.modCore_ports (s : State) (c : Nat) (f : Core → Core) : (s.modCore c f).ports = s.ports := rfl
@[simp] theorem State.modCore_domain (s : State) (c : Nat) (f : Core → Core) : (s.modCore c f).domain = s.domain := rfl
@[simp] theorem State.modCore_boot (s : State) (c : Nat) (f : Core → Core) : (s.modCore c f).boot = s.boot := rfl

@[simp] theorem State.modTeamAt_tick (s : State) (c : Nat) (f : Team → Team) : (s.modTeamAt c f).tick = s.tick := rfl
@[simp] theorem State.modTeamAt_inputs (s : State) (c : Nat) (f : Team → Team) : (s.modTeamAt c f).inputs = s.inputs := rfl
@[simp] theorem State.modTeamAt_core (s : State) (c : Nat) (f : Team → Team) : (s.modTeamAt c f).core = s.core := rfl
@[simp] theorem State.modTeamAt_grp (s : State) (c : Nat) (f : Team → Team) : (s.modTeamAt c f).grp = s.grp := rfl
@[simp] theorem State.modTeamAt_reqId (s : State) (c : Nat) (f : Team → Team) : (s.modTeamAt c f).reqId = s.reqId := rfl
@[simp] theorem State.modTeamAt_offered (s : State) (c : Nat) (f : Team → Team) : (s.modTeamAt c f).offered = s.offered := rfl
@[simp] theorem State.modTeamAt_lastPost (s : State) (c : Nat) (f : Team → Team) : (s.modTeamAt c f).lastPost = s.lastPost := rfl
@[simp] theorem State.modTeamAt_lastSig (s : State) (c : Nat) (f : Team → Team) : (s.modTeamAt c f).lastSig = s.lastSig := rfl
@[simp] theorem State.modTeamAt_recLast (s : State) (c : Nat) (f : Team → Team) : (s.modTeamAt c f).recLast = s.recLast := rfl
@[simp] theorem State.modTeamAt_recLate (s : State) (c : Nat) (f : Team → Team) : (s.modTeamAt c f).recLate = s.recLate := rfl
@[simp] theorem State.modTeamAt_stuck (s : State) (c : Nat) (f : Team → Team) : (s.modTeamAt c f).stuck = s.stuck := rfl
@[simp] theorem State.modTeamAt_cycle (s : State) (c : Nat) (f : Team → Team) : (s.modTeamAt c f).cycle = s.cycle := rfl
@[simp] theorem State.modTeamAt_mem (s : State) (c : Nat) (f : Team → Team) : (s.modTeamAt c f).mem = s.mem := rfl
@[simp] theorem State.modTeamAt_poison (s : State) (c : Nat) (f : Team → Team) : (s.modTeamAt c f).poison = s.poison := rfl
@[simp] theorem State.modTeamAt_peerMem (s : State) (c : Nat) (f : Team → Team) : (s.modTeamAt c f).peerMem = s.peerMem := rfl
@[simp] theorem State.modTeamAt_stores (s : State) (c : Nat) (f : Team → Team) : (s.modTeamAt c f).stores = s.stores := rfl
@[simp] theorem State.modTeamAt_regStores (s : State) (c : Nat) (f : Team → Team) : (s.modTeamAt c f).regStores = s.regStores := rfl
@[simp] theorem State.modTeamAt_dieTlb (s : State) (c : Nat) (f : Team → Team) : (s.modTeamAt c f).dieTlb = s.dieTlb := rfl
@[simp] theorem State.modTeamAt_dieTabs (s : State) (c : Nat) (f : Team → Team) : (s.modTeamAt c f).dieTabs = s.dieTabs := rfl
@[simp] theorem State.modTeamAt_walks (s : State) (c : Nat) (f : Team → Team) : (s.modTeamAt c f).walks = s.walks := rfl
@[simp] theorem State.modTeamAt_descs (s : State) (c : Nat) (f : Team → Team) : (s.modTeamAt c f).descs = s.descs := rfl
@[simp] theorem State.modTeamAt_grids (s : State) (c : Nat) (f : Team → Team) : (s.modTeamAt c f).grids = s.grids := rfl
@[simp] theorem State.modTeamAt_nextGrid (s : State) (c : Nat) (f : Team → Team) : (s.modTeamAt c f).nextGrid = s.nextGrid := rfl
@[simp] theorem State.modTeamAt_admitted (s : State) (c : Nat) (f : Team → Team) : (s.modTeamAt c f).admitted = s.admitted := rfl
@[simp] theorem State.modTeamAt_lpres (s : State) (c : Nat) (f : Team → Team) : (s.modTeamAt c f).lpres = s.lpres := rfl
@[simp] theorem State.modTeamAt_sapoolBase (s : State) (c : Nat) (f : Team → Team) : (s.modTeamAt c f).sapoolBase = s.sapoolBase := rfl
@[simp] theorem State.modTeamAt_sapoolCount (s : State) (c : Nat) (f : Team → Team) : (s.modTeamAt c f).sapoolCount = s.sapoolCount := rfl
@[simp] theorem State.modTeamAt_saved (s : State) (c : Nat) (f : Team → Team) : (s.modTeamAt c f).saved = s.saved := rfl
@[simp] theorem State.modTeamAt_sigHead (s : State) (c : Nat) (f : Team → Team) : (s.modTeamAt c f).sigHead = s.sigHead := rfl
@[simp] theorem State.modTeamAt_sigTail (s : State) (c : Nat) (f : Team → Team) : (s.modTeamAt c f).sigTail = s.sigTail := rfl
@[simp] theorem State.modTeamAt_fqs (s : State) (c : Nat) (f : Team → Team) : (s.modTeamAt c f).fqs = s.fqs := rfl
@[simp] theorem State.modTeamAt_unresolved (s : State) (c : Nat) (f : Team → Team) : (s.modTeamAt c f).unresolved = s.unresolved := rfl
@[simp] theorem State.modTeamAt_logHead (s : State) (c : Nat) (f : Team → Team) : (s.modTeamAt c f).logHead = s.logHead := rfl
@[simp] theorem State.modTeamAt_logTail (s : State) (c : Nat) (f : Team → Team) : (s.modTeamAt c f).logTail = s.logTail := rfl
@[simp] theorem State.modTeamAt_logDrop (s : State) (c : Nat) (f : Team → Team) : (s.modTeamAt c f).logDrop = s.logDrop := rfl
@[simp] theorem State.modTeamAt_parts (s : State) (c : Nat) (f : Team → Team) : (s.modTeamAt c f).parts = s.parts := rfl
@[simp] theorem State.modTeamAt_chsets (s : State) (c : Nat) (f : Team → Team) : (s.modTeamAt c f).chsets = s.chsets := rfl
@[simp] theorem State.modTeamAt_access (s : State) (c : Nat) (f : Team → Team) : (s.modTeamAt c f).access = s.access := rfl
@[simp] theorem State.modTeamAt_foldAccess (s : State) (c : Nat) (f : Team → Team) : (s.modTeamAt c f).foldAccess = s.foldAccess := rfl
@[simp] theorem State.modTeamAt_counters (s : State) (c : Nat) (f : Team → Team) : (s.modTeamAt c f).counters = s.counters := rfl
@[simp] theorem State.modTeamAt_refresh (s : State) (c : Nat) (f : Team → Team) : (s.modTeamAt c f).refresh = s.refresh := rfl
@[simp] theorem State.modTeamAt_allBank (s : State) (c : Nat) (f : Team → Team) : (s.modTeamAt c f).allBank = s.allBank := rfl
@[simp] theorem State.modTeamAt_retiredCh (s : State) (c : Nat) (f : Team → Team) : (s.modTeamAt c f).retiredCh = s.retiredCh := rfl
@[simp] theorem State.modTeamAt_errors (s : State) (c : Nat) (f : Team → Team) : (s.modTeamAt c f).errors = s.errors := rfl
@[simp] theorem State.modTeamAt_threshold (s : State) (c : Nat) (f : Team → Team) : (s.modTeamAt c f).threshold = s.threshold := rfl
@[simp] theorem State.modTeamAt_erred (s : State) (c : Nat) (f : Team → Team) : (s.modTeamAt c f).erred = s.erred := rfl
@[simp] theorem State.modTeamAt_window (s : State) (c : Nat) (f : Team → Team) : (s.modTeamAt c f).window = s.window := rfl
@[simp] theorem State.modTeamAt_retiredUnits (s : State) (c : Nat) (f : Team → Team) : (s.modTeamAt c f).retiredUnits = s.retiredUnits := rfl
@[simp] theorem State.modTeamAt_folds (s : State) (c : Nat) (f : Team → Team) : (s.modTeamAt c f).folds = s.folds := rfl
@[simp] theorem State.modTeamAt_xdies (s : State) (c : Nat) (f : Team → Team) : (s.modTeamAt c f).xdies = s.xdies := rfl
@[simp] theorem State.modTeamAt_dirWaits (s : State) (c : Nat) (f : Team → Team) : (s.modTeamAt c f).dirWaits = s.dirWaits := rfl
@[simp] theorem State.modTeamAt_retries (s : State) (c : Nat) (f : Team → Team) : (s.modTeamAt c f).retries = s.retries := rfl
@[simp] theorem State.modTeamAt_msgs (s : State) (c : Nat) (f : Team → Team) : (s.modTeamAt c f).msgs = s.msgs := rfl
@[simp] theorem State.modTeamAt_ports (s : State) (c : Nat) (f : Team → Team) : (s.modTeamAt c f).ports = s.ports := rfl
@[simp] theorem State.modTeamAt_domain (s : State) (c : Nat) (f : Team → Team) : (s.modTeamAt c f).domain = s.domain := rfl
@[simp] theorem State.modTeamAt_boot (s : State) (c : Nat) (f : Team → Team) : (s.modTeamAt c f).boot = s.boot := rfl

@[simp] theorem State.modTeam_tick (s : State) (f : Team → Team) : (s.modTeam f).tick = s.tick := rfl
@[simp] theorem State.modTeam_inputs (s : State) (f : Team → Team) : (s.modTeam f).inputs = s.inputs := rfl
@[simp] theorem State.modTeam_core (s : State) (f : Team → Team) : (s.modTeam f).core = s.core := rfl
@[simp] theorem State.modTeam_grp (s : State) (f : Team → Team) : (s.modTeam f).grp = s.grp := rfl
@[simp] theorem State.modTeam_reqId (s : State) (f : Team → Team) : (s.modTeam f).reqId = s.reqId := rfl
@[simp] theorem State.modTeam_offered (s : State) (f : Team → Team) : (s.modTeam f).offered = s.offered := rfl
@[simp] theorem State.modTeam_lastPost (s : State) (f : Team → Team) : (s.modTeam f).lastPost = s.lastPost := rfl
@[simp] theorem State.modTeam_lastSig (s : State) (f : Team → Team) : (s.modTeam f).lastSig = s.lastSig := rfl
@[simp] theorem State.modTeam_recLast (s : State) (f : Team → Team) : (s.modTeam f).recLast = s.recLast := rfl
@[simp] theorem State.modTeam_recLate (s : State) (f : Team → Team) : (s.modTeam f).recLate = s.recLate := rfl
@[simp] theorem State.modTeam_stuck (s : State) (f : Team → Team) : (s.modTeam f).stuck = s.stuck := rfl
@[simp] theorem State.modTeam_cycle (s : State) (f : Team → Team) : (s.modTeam f).cycle = s.cycle := rfl
@[simp] theorem State.modTeam_mem (s : State) (f : Team → Team) : (s.modTeam f).mem = s.mem := rfl
@[simp] theorem State.modTeam_poison (s : State) (f : Team → Team) : (s.modTeam f).poison = s.poison := rfl
@[simp] theorem State.modTeam_peerMem (s : State) (f : Team → Team) : (s.modTeam f).peerMem = s.peerMem := rfl
@[simp] theorem State.modTeam_stores (s : State) (f : Team → Team) : (s.modTeam f).stores = s.stores := rfl
@[simp] theorem State.modTeam_regStores (s : State) (f : Team → Team) : (s.modTeam f).regStores = s.regStores := rfl
@[simp] theorem State.modTeam_dieTlb (s : State) (f : Team → Team) : (s.modTeam f).dieTlb = s.dieTlb := rfl
@[simp] theorem State.modTeam_dieTabs (s : State) (f : Team → Team) : (s.modTeam f).dieTabs = s.dieTabs := rfl
@[simp] theorem State.modTeam_walks (s : State) (f : Team → Team) : (s.modTeam f).walks = s.walks := rfl
@[simp] theorem State.modTeam_descs (s : State) (f : Team → Team) : (s.modTeam f).descs = s.descs := rfl
@[simp] theorem State.modTeam_grids (s : State) (f : Team → Team) : (s.modTeam f).grids = s.grids := rfl
@[simp] theorem State.modTeam_nextGrid (s : State) (f : Team → Team) : (s.modTeam f).nextGrid = s.nextGrid := rfl
@[simp] theorem State.modTeam_admitted (s : State) (f : Team → Team) : (s.modTeam f).admitted = s.admitted := rfl
@[simp] theorem State.modTeam_lpres (s : State) (f : Team → Team) : (s.modTeam f).lpres = s.lpres := rfl
@[simp] theorem State.modTeam_sapoolBase (s : State) (f : Team → Team) : (s.modTeam f).sapoolBase = s.sapoolBase := rfl
@[simp] theorem State.modTeam_sapoolCount (s : State) (f : Team → Team) : (s.modTeam f).sapoolCount = s.sapoolCount := rfl
@[simp] theorem State.modTeam_saved (s : State) (f : Team → Team) : (s.modTeam f).saved = s.saved := rfl
@[simp] theorem State.modTeam_sigHead (s : State) (f : Team → Team) : (s.modTeam f).sigHead = s.sigHead := rfl
@[simp] theorem State.modTeam_sigTail (s : State) (f : Team → Team) : (s.modTeam f).sigTail = s.sigTail := rfl
@[simp] theorem State.modTeam_fqs (s : State) (f : Team → Team) : (s.modTeam f).fqs = s.fqs := rfl
@[simp] theorem State.modTeam_unresolved (s : State) (f : Team → Team) : (s.modTeam f).unresolved = s.unresolved := rfl
@[simp] theorem State.modTeam_logHead (s : State) (f : Team → Team) : (s.modTeam f).logHead = s.logHead := rfl
@[simp] theorem State.modTeam_logTail (s : State) (f : Team → Team) : (s.modTeam f).logTail = s.logTail := rfl
@[simp] theorem State.modTeam_logDrop (s : State) (f : Team → Team) : (s.modTeam f).logDrop = s.logDrop := rfl
@[simp] theorem State.modTeam_parts (s : State) (f : Team → Team) : (s.modTeam f).parts = s.parts := rfl
@[simp] theorem State.modTeam_chsets (s : State) (f : Team → Team) : (s.modTeam f).chsets = s.chsets := rfl
@[simp] theorem State.modTeam_access (s : State) (f : Team → Team) : (s.modTeam f).access = s.access := rfl
@[simp] theorem State.modTeam_foldAccess (s : State) (f : Team → Team) : (s.modTeam f).foldAccess = s.foldAccess := rfl
@[simp] theorem State.modTeam_counters (s : State) (f : Team → Team) : (s.modTeam f).counters = s.counters := rfl
@[simp] theorem State.modTeam_refresh (s : State) (f : Team → Team) : (s.modTeam f).refresh = s.refresh := rfl
@[simp] theorem State.modTeam_allBank (s : State) (f : Team → Team) : (s.modTeam f).allBank = s.allBank := rfl
@[simp] theorem State.modTeam_retiredCh (s : State) (f : Team → Team) : (s.modTeam f).retiredCh = s.retiredCh := rfl
@[simp] theorem State.modTeam_errors (s : State) (f : Team → Team) : (s.modTeam f).errors = s.errors := rfl
@[simp] theorem State.modTeam_threshold (s : State) (f : Team → Team) : (s.modTeam f).threshold = s.threshold := rfl
@[simp] theorem State.modTeam_erred (s : State) (f : Team → Team) : (s.modTeam f).erred = s.erred := rfl
@[simp] theorem State.modTeam_window (s : State) (f : Team → Team) : (s.modTeam f).window = s.window := rfl
@[simp] theorem State.modTeam_retiredUnits (s : State) (f : Team → Team) : (s.modTeam f).retiredUnits = s.retiredUnits := rfl
@[simp] theorem State.modTeam_folds (s : State) (f : Team → Team) : (s.modTeam f).folds = s.folds := rfl
@[simp] theorem State.modTeam_xdies (s : State) (f : Team → Team) : (s.modTeam f).xdies = s.xdies := rfl
@[simp] theorem State.modTeam_dirWaits (s : State) (f : Team → Team) : (s.modTeam f).dirWaits = s.dirWaits := rfl
@[simp] theorem State.modTeam_retries (s : State) (f : Team → Team) : (s.modTeam f).retries = s.retries := rfl
@[simp] theorem State.modTeam_msgs (s : State) (f : Team → Team) : (s.modTeam f).msgs = s.msgs := rfl
@[simp] theorem State.modTeam_ports (s : State) (f : Team → Team) : (s.modTeam f).ports = s.ports := rfl
@[simp] theorem State.modTeam_domain (s : State) (f : Team → Team) : (s.modTeam f).domain = s.domain := rfl
@[simp] theorem State.modTeam_boot (s : State) (f : Team → Team) : (s.modTeam f).boot = s.boot := rfl

@[simp] theorem State.setGrid_tick (s : State) (g : Nat) (x : Grid) : (s.setGrid g x).tick = s.tick := rfl
@[simp] theorem State.setGrid_inputs (s : State) (g : Nat) (x : Grid) : (s.setGrid g x).inputs = s.inputs := rfl
@[simp] theorem State.setGrid_core (s : State) (g : Nat) (x : Grid) : (s.setGrid g x).core = s.core := rfl
@[simp] theorem State.setGrid_grp (s : State) (g : Nat) (x : Grid) : (s.setGrid g x).grp = s.grp := rfl
@[simp] theorem State.setGrid_reqId (s : State) (g : Nat) (x : Grid) : (s.setGrid g x).reqId = s.reqId := rfl
@[simp] theorem State.setGrid_offered (s : State) (g : Nat) (x : Grid) : (s.setGrid g x).offered = s.offered := rfl
@[simp] theorem State.setGrid_lastPost (s : State) (g : Nat) (x : Grid) : (s.setGrid g x).lastPost = s.lastPost := rfl
@[simp] theorem State.setGrid_lastSig (s : State) (g : Nat) (x : Grid) : (s.setGrid g x).lastSig = s.lastSig := rfl
@[simp] theorem State.setGrid_recLast (s : State) (g : Nat) (x : Grid) : (s.setGrid g x).recLast = s.recLast := rfl
@[simp] theorem State.setGrid_recLate (s : State) (g : Nat) (x : Grid) : (s.setGrid g x).recLate = s.recLate := rfl
@[simp] theorem State.setGrid_stuck (s : State) (g : Nat) (x : Grid) : (s.setGrid g x).stuck = s.stuck := rfl
@[simp] theorem State.setGrid_cycle (s : State) (g : Nat) (x : Grid) : (s.setGrid g x).cycle = s.cycle := rfl
@[simp] theorem State.setGrid_mem (s : State) (g : Nat) (x : Grid) : (s.setGrid g x).mem = s.mem := rfl
@[simp] theorem State.setGrid_poison (s : State) (g : Nat) (x : Grid) : (s.setGrid g x).poison = s.poison := rfl
@[simp] theorem State.setGrid_peerMem (s : State) (g : Nat) (x : Grid) : (s.setGrid g x).peerMem = s.peerMem := rfl
@[simp] theorem State.setGrid_stores (s : State) (g : Nat) (x : Grid) : (s.setGrid g x).stores = s.stores := rfl
@[simp] theorem State.setGrid_regStores (s : State) (g : Nat) (x : Grid) : (s.setGrid g x).regStores = s.regStores := rfl
@[simp] theorem State.setGrid_dieTlb (s : State) (g : Nat) (x : Grid) : (s.setGrid g x).dieTlb = s.dieTlb := rfl
@[simp] theorem State.setGrid_dieTabs (s : State) (g : Nat) (x : Grid) : (s.setGrid g x).dieTabs = s.dieTabs := rfl
@[simp] theorem State.setGrid_walks (s : State) (g : Nat) (x : Grid) : (s.setGrid g x).walks = s.walks := rfl
@[simp] theorem State.setGrid_descs (s : State) (g : Nat) (x : Grid) : (s.setGrid g x).descs = s.descs := rfl
@[simp] theorem State.setGrid_cores (s : State) (g : Nat) (x : Grid) : (s.setGrid g x).cores = s.cores := rfl
@[simp] theorem State.setGrid_nextGrid (s : State) (g : Nat) (x : Grid) : (s.setGrid g x).nextGrid = s.nextGrid := rfl
@[simp] theorem State.setGrid_admitted (s : State) (g : Nat) (x : Grid) : (s.setGrid g x).admitted = s.admitted := rfl
@[simp] theorem State.setGrid_lpres (s : State) (g : Nat) (x : Grid) : (s.setGrid g x).lpres = s.lpres := rfl
@[simp] theorem State.setGrid_sapoolBase (s : State) (g : Nat) (x : Grid) : (s.setGrid g x).sapoolBase = s.sapoolBase := rfl
@[simp] theorem State.setGrid_sapoolCount (s : State) (g : Nat) (x : Grid) : (s.setGrid g x).sapoolCount = s.sapoolCount := rfl
@[simp] theorem State.setGrid_saved (s : State) (g : Nat) (x : Grid) : (s.setGrid g x).saved = s.saved := rfl
@[simp] theorem State.setGrid_sigHead (s : State) (g : Nat) (x : Grid) : (s.setGrid g x).sigHead = s.sigHead := rfl
@[simp] theorem State.setGrid_sigTail (s : State) (g : Nat) (x : Grid) : (s.setGrid g x).sigTail = s.sigTail := rfl
@[simp] theorem State.setGrid_fqs (s : State) (g : Nat) (x : Grid) : (s.setGrid g x).fqs = s.fqs := rfl
@[simp] theorem State.setGrid_unresolved (s : State) (g : Nat) (x : Grid) : (s.setGrid g x).unresolved = s.unresolved := rfl
@[simp] theorem State.setGrid_logHead (s : State) (g : Nat) (x : Grid) : (s.setGrid g x).logHead = s.logHead := rfl
@[simp] theorem State.setGrid_logTail (s : State) (g : Nat) (x : Grid) : (s.setGrid g x).logTail = s.logTail := rfl
@[simp] theorem State.setGrid_logDrop (s : State) (g : Nat) (x : Grid) : (s.setGrid g x).logDrop = s.logDrop := rfl
@[simp] theorem State.setGrid_parts (s : State) (g : Nat) (x : Grid) : (s.setGrid g x).parts = s.parts := rfl
@[simp] theorem State.setGrid_chsets (s : State) (g : Nat) (x : Grid) : (s.setGrid g x).chsets = s.chsets := rfl
@[simp] theorem State.setGrid_access (s : State) (g : Nat) (x : Grid) : (s.setGrid g x).access = s.access := rfl
@[simp] theorem State.setGrid_foldAccess (s : State) (g : Nat) (x : Grid) : (s.setGrid g x).foldAccess = s.foldAccess := rfl
@[simp] theorem State.setGrid_counters (s : State) (g : Nat) (x : Grid) : (s.setGrid g x).counters = s.counters := rfl
@[simp] theorem State.setGrid_refresh (s : State) (g : Nat) (x : Grid) : (s.setGrid g x).refresh = s.refresh := rfl
@[simp] theorem State.setGrid_allBank (s : State) (g : Nat) (x : Grid) : (s.setGrid g x).allBank = s.allBank := rfl
@[simp] theorem State.setGrid_retiredCh (s : State) (g : Nat) (x : Grid) : (s.setGrid g x).retiredCh = s.retiredCh := rfl
@[simp] theorem State.setGrid_errors (s : State) (g : Nat) (x : Grid) : (s.setGrid g x).errors = s.errors := rfl
@[simp] theorem State.setGrid_threshold (s : State) (g : Nat) (x : Grid) : (s.setGrid g x).threshold = s.threshold := rfl
@[simp] theorem State.setGrid_erred (s : State) (g : Nat) (x : Grid) : (s.setGrid g x).erred = s.erred := rfl
@[simp] theorem State.setGrid_window (s : State) (g : Nat) (x : Grid) : (s.setGrid g x).window = s.window := rfl
@[simp] theorem State.setGrid_retiredUnits (s : State) (g : Nat) (x : Grid) : (s.setGrid g x).retiredUnits = s.retiredUnits := rfl
@[simp] theorem State.setGrid_folds (s : State) (g : Nat) (x : Grid) : (s.setGrid g x).folds = s.folds := rfl
@[simp] theorem State.setGrid_xdies (s : State) (g : Nat) (x : Grid) : (s.setGrid g x).xdies = s.xdies := rfl
@[simp] theorem State.setGrid_dirWaits (s : State) (g : Nat) (x : Grid) : (s.setGrid g x).dirWaits = s.dirWaits := rfl
@[simp] theorem State.setGrid_retries (s : State) (g : Nat) (x : Grid) : (s.setGrid g x).retries = s.retries := rfl
@[simp] theorem State.setGrid_msgs (s : State) (g : Nat) (x : Grid) : (s.setGrid g x).msgs = s.msgs := rfl
@[simp] theorem State.setGrid_ports (s : State) (g : Nat) (x : Grid) : (s.setGrid g x).ports = s.ports := rfl
@[simp] theorem State.setGrid_domain (s : State) (g : Nat) (x : Grid) : (s.setGrid g x).domain = s.domain := rfl
@[simp] theorem State.setGrid_boot (s : State) (g : Nat) (x : Grid) : (s.setGrid g x).boot = s.boot := rfl

@[simp] theorem State.modGrid_tick (s : State) (g : Nat) (f : Grid → Grid) : (s.modGrid g f).tick = s.tick := rfl
@[simp] theorem State.modGrid_inputs (s : State) (g : Nat) (f : Grid → Grid) : (s.modGrid g f).inputs = s.inputs := rfl
@[simp] theorem State.modGrid_core (s : State) (g : Nat) (f : Grid → Grid) : (s.modGrid g f).core = s.core := rfl
@[simp] theorem State.modGrid_grp (s : State) (g : Nat) (f : Grid → Grid) : (s.modGrid g f).grp = s.grp := rfl
@[simp] theorem State.modGrid_reqId (s : State) (g : Nat) (f : Grid → Grid) : (s.modGrid g f).reqId = s.reqId := rfl
@[simp] theorem State.modGrid_offered (s : State) (g : Nat) (f : Grid → Grid) : (s.modGrid g f).offered = s.offered := rfl
@[simp] theorem State.modGrid_lastPost (s : State) (g : Nat) (f : Grid → Grid) : (s.modGrid g f).lastPost = s.lastPost := rfl
@[simp] theorem State.modGrid_lastSig (s : State) (g : Nat) (f : Grid → Grid) : (s.modGrid g f).lastSig = s.lastSig := rfl
@[simp] theorem State.modGrid_recLast (s : State) (g : Nat) (f : Grid → Grid) : (s.modGrid g f).recLast = s.recLast := rfl
@[simp] theorem State.modGrid_recLate (s : State) (g : Nat) (f : Grid → Grid) : (s.modGrid g f).recLate = s.recLate := rfl
@[simp] theorem State.modGrid_stuck (s : State) (g : Nat) (f : Grid → Grid) : (s.modGrid g f).stuck = s.stuck := rfl
@[simp] theorem State.modGrid_cycle (s : State) (g : Nat) (f : Grid → Grid) : (s.modGrid g f).cycle = s.cycle := rfl
@[simp] theorem State.modGrid_mem (s : State) (g : Nat) (f : Grid → Grid) : (s.modGrid g f).mem = s.mem := rfl
@[simp] theorem State.modGrid_poison (s : State) (g : Nat) (f : Grid → Grid) : (s.modGrid g f).poison = s.poison := rfl
@[simp] theorem State.modGrid_peerMem (s : State) (g : Nat) (f : Grid → Grid) : (s.modGrid g f).peerMem = s.peerMem := rfl
@[simp] theorem State.modGrid_stores (s : State) (g : Nat) (f : Grid → Grid) : (s.modGrid g f).stores = s.stores := rfl
@[simp] theorem State.modGrid_regStores (s : State) (g : Nat) (f : Grid → Grid) : (s.modGrid g f).regStores = s.regStores := rfl
@[simp] theorem State.modGrid_dieTlb (s : State) (g : Nat) (f : Grid → Grid) : (s.modGrid g f).dieTlb = s.dieTlb := rfl
@[simp] theorem State.modGrid_dieTabs (s : State) (g : Nat) (f : Grid → Grid) : (s.modGrid g f).dieTabs = s.dieTabs := rfl
@[simp] theorem State.modGrid_walks (s : State) (g : Nat) (f : Grid → Grid) : (s.modGrid g f).walks = s.walks := rfl
@[simp] theorem State.modGrid_descs (s : State) (g : Nat) (f : Grid → Grid) : (s.modGrid g f).descs = s.descs := rfl
@[simp] theorem State.modGrid_cores (s : State) (g : Nat) (f : Grid → Grid) : (s.modGrid g f).cores = s.cores := rfl
@[simp] theorem State.modGrid_nextGrid (s : State) (g : Nat) (f : Grid → Grid) : (s.modGrid g f).nextGrid = s.nextGrid := rfl
@[simp] theorem State.modGrid_admitted (s : State) (g : Nat) (f : Grid → Grid) : (s.modGrid g f).admitted = s.admitted := rfl
@[simp] theorem State.modGrid_lpres (s : State) (g : Nat) (f : Grid → Grid) : (s.modGrid g f).lpres = s.lpres := rfl
@[simp] theorem State.modGrid_sapoolBase (s : State) (g : Nat) (f : Grid → Grid) : (s.modGrid g f).sapoolBase = s.sapoolBase := rfl
@[simp] theorem State.modGrid_sapoolCount (s : State) (g : Nat) (f : Grid → Grid) : (s.modGrid g f).sapoolCount = s.sapoolCount := rfl
@[simp] theorem State.modGrid_saved (s : State) (g : Nat) (f : Grid → Grid) : (s.modGrid g f).saved = s.saved := rfl
@[simp] theorem State.modGrid_sigHead (s : State) (g : Nat) (f : Grid → Grid) : (s.modGrid g f).sigHead = s.sigHead := rfl
@[simp] theorem State.modGrid_sigTail (s : State) (g : Nat) (f : Grid → Grid) : (s.modGrid g f).sigTail = s.sigTail := rfl
@[simp] theorem State.modGrid_fqs (s : State) (g : Nat) (f : Grid → Grid) : (s.modGrid g f).fqs = s.fqs := rfl
@[simp] theorem State.modGrid_unresolved (s : State) (g : Nat) (f : Grid → Grid) : (s.modGrid g f).unresolved = s.unresolved := rfl
@[simp] theorem State.modGrid_logHead (s : State) (g : Nat) (f : Grid → Grid) : (s.modGrid g f).logHead = s.logHead := rfl
@[simp] theorem State.modGrid_logTail (s : State) (g : Nat) (f : Grid → Grid) : (s.modGrid g f).logTail = s.logTail := rfl
@[simp] theorem State.modGrid_logDrop (s : State) (g : Nat) (f : Grid → Grid) : (s.modGrid g f).logDrop = s.logDrop := rfl
@[simp] theorem State.modGrid_parts (s : State) (g : Nat) (f : Grid → Grid) : (s.modGrid g f).parts = s.parts := rfl
@[simp] theorem State.modGrid_chsets (s : State) (g : Nat) (f : Grid → Grid) : (s.modGrid g f).chsets = s.chsets := rfl
@[simp] theorem State.modGrid_access (s : State) (g : Nat) (f : Grid → Grid) : (s.modGrid g f).access = s.access := rfl
@[simp] theorem State.modGrid_foldAccess (s : State) (g : Nat) (f : Grid → Grid) : (s.modGrid g f).foldAccess = s.foldAccess := rfl
@[simp] theorem State.modGrid_counters (s : State) (g : Nat) (f : Grid → Grid) : (s.modGrid g f).counters = s.counters := rfl
@[simp] theorem State.modGrid_refresh (s : State) (g : Nat) (f : Grid → Grid) : (s.modGrid g f).refresh = s.refresh := rfl
@[simp] theorem State.modGrid_allBank (s : State) (g : Nat) (f : Grid → Grid) : (s.modGrid g f).allBank = s.allBank := rfl
@[simp] theorem State.modGrid_retiredCh (s : State) (g : Nat) (f : Grid → Grid) : (s.modGrid g f).retiredCh = s.retiredCh := rfl
@[simp] theorem State.modGrid_errors (s : State) (g : Nat) (f : Grid → Grid) : (s.modGrid g f).errors = s.errors := rfl
@[simp] theorem State.modGrid_threshold (s : State) (g : Nat) (f : Grid → Grid) : (s.modGrid g f).threshold = s.threshold := rfl
@[simp] theorem State.modGrid_erred (s : State) (g : Nat) (f : Grid → Grid) : (s.modGrid g f).erred = s.erred := rfl
@[simp] theorem State.modGrid_window (s : State) (g : Nat) (f : Grid → Grid) : (s.modGrid g f).window = s.window := rfl
@[simp] theorem State.modGrid_retiredUnits (s : State) (g : Nat) (f : Grid → Grid) : (s.modGrid g f).retiredUnits = s.retiredUnits := rfl
@[simp] theorem State.modGrid_folds (s : State) (g : Nat) (f : Grid → Grid) : (s.modGrid g f).folds = s.folds := rfl
@[simp] theorem State.modGrid_xdies (s : State) (g : Nat) (f : Grid → Grid) : (s.modGrid g f).xdies = s.xdies := rfl
@[simp] theorem State.modGrid_dirWaits (s : State) (g : Nat) (f : Grid → Grid) : (s.modGrid g f).dirWaits = s.dirWaits := rfl
@[simp] theorem State.modGrid_retries (s : State) (g : Nat) (f : Grid → Grid) : (s.modGrid g f).retries = s.retries := rfl
@[simp] theorem State.modGrid_msgs (s : State) (g : Nat) (f : Grid → Grid) : (s.modGrid g f).msgs = s.msgs := rfl
@[simp] theorem State.modGrid_ports (s : State) (g : Nat) (f : Grid → Grid) : (s.modGrid g f).ports = s.ports := rfl
@[simp] theorem State.modGrid_domain (s : State) (g : Nat) (f : Grid → Grid) : (s.modGrid g f).domain = s.domain := rfl
@[simp] theorem State.modGrid_boot (s : State) (g : Nat) (f : Grid → Grid) : (s.modGrid g f).boot = s.boot := rfl

@[simp] theorem State.modFold_tick (s : State) (d : Nat) (f : Fold → Fold) : (s.modFold d f).tick = s.tick := rfl
@[simp] theorem State.modFold_inputs (s : State) (d : Nat) (f : Fold → Fold) : (s.modFold d f).inputs = s.inputs := rfl
@[simp] theorem State.modFold_core (s : State) (d : Nat) (f : Fold → Fold) : (s.modFold d f).core = s.core := rfl
@[simp] theorem State.modFold_grp (s : State) (d : Nat) (f : Fold → Fold) : (s.modFold d f).grp = s.grp := rfl
@[simp] theorem State.modFold_reqId (s : State) (d : Nat) (f : Fold → Fold) : (s.modFold d f).reqId = s.reqId := rfl
@[simp] theorem State.modFold_offered (s : State) (d : Nat) (f : Fold → Fold) : (s.modFold d f).offered = s.offered := rfl
@[simp] theorem State.modFold_lastPost (s : State) (d : Nat) (f : Fold → Fold) : (s.modFold d f).lastPost = s.lastPost := rfl
@[simp] theorem State.modFold_lastSig (s : State) (d : Nat) (f : Fold → Fold) : (s.modFold d f).lastSig = s.lastSig := rfl
@[simp] theorem State.modFold_recLast (s : State) (d : Nat) (f : Fold → Fold) : (s.modFold d f).recLast = s.recLast := rfl
@[simp] theorem State.modFold_recLate (s : State) (d : Nat) (f : Fold → Fold) : (s.modFold d f).recLate = s.recLate := rfl
@[simp] theorem State.modFold_stuck (s : State) (d : Nat) (f : Fold → Fold) : (s.modFold d f).stuck = s.stuck := rfl
@[simp] theorem State.modFold_cycle (s : State) (d : Nat) (f : Fold → Fold) : (s.modFold d f).cycle = s.cycle := rfl
@[simp] theorem State.modFold_mem (s : State) (d : Nat) (f : Fold → Fold) : (s.modFold d f).mem = s.mem := rfl
@[simp] theorem State.modFold_poison (s : State) (d : Nat) (f : Fold → Fold) : (s.modFold d f).poison = s.poison := rfl
@[simp] theorem State.modFold_peerMem (s : State) (d : Nat) (f : Fold → Fold) : (s.modFold d f).peerMem = s.peerMem := rfl
@[simp] theorem State.modFold_stores (s : State) (d : Nat) (f : Fold → Fold) : (s.modFold d f).stores = s.stores := rfl
@[simp] theorem State.modFold_regStores (s : State) (d : Nat) (f : Fold → Fold) : (s.modFold d f).regStores = s.regStores := rfl
@[simp] theorem State.modFold_dieTlb (s : State) (d : Nat) (f : Fold → Fold) : (s.modFold d f).dieTlb = s.dieTlb := rfl
@[simp] theorem State.modFold_dieTabs (s : State) (d : Nat) (f : Fold → Fold) : (s.modFold d f).dieTabs = s.dieTabs := rfl
@[simp] theorem State.modFold_walks (s : State) (d : Nat) (f : Fold → Fold) : (s.modFold d f).walks = s.walks := rfl
@[simp] theorem State.modFold_descs (s : State) (d : Nat) (f : Fold → Fold) : (s.modFold d f).descs = s.descs := rfl
@[simp] theorem State.modFold_cores (s : State) (d : Nat) (f : Fold → Fold) : (s.modFold d f).cores = s.cores := rfl
@[simp] theorem State.modFold_grids (s : State) (d : Nat) (f : Fold → Fold) : (s.modFold d f).grids = s.grids := rfl
@[simp] theorem State.modFold_nextGrid (s : State) (d : Nat) (f : Fold → Fold) : (s.modFold d f).nextGrid = s.nextGrid := rfl
@[simp] theorem State.modFold_admitted (s : State) (d : Nat) (f : Fold → Fold) : (s.modFold d f).admitted = s.admitted := rfl
@[simp] theorem State.modFold_lpres (s : State) (d : Nat) (f : Fold → Fold) : (s.modFold d f).lpres = s.lpres := rfl
@[simp] theorem State.modFold_sapoolBase (s : State) (d : Nat) (f : Fold → Fold) : (s.modFold d f).sapoolBase = s.sapoolBase := rfl
@[simp] theorem State.modFold_sapoolCount (s : State) (d : Nat) (f : Fold → Fold) : (s.modFold d f).sapoolCount = s.sapoolCount := rfl
@[simp] theorem State.modFold_saved (s : State) (d : Nat) (f : Fold → Fold) : (s.modFold d f).saved = s.saved := rfl
@[simp] theorem State.modFold_sigHead (s : State) (d : Nat) (f : Fold → Fold) : (s.modFold d f).sigHead = s.sigHead := rfl
@[simp] theorem State.modFold_sigTail (s : State) (d : Nat) (f : Fold → Fold) : (s.modFold d f).sigTail = s.sigTail := rfl
@[simp] theorem State.modFold_fqs (s : State) (d : Nat) (f : Fold → Fold) : (s.modFold d f).fqs = s.fqs := rfl
@[simp] theorem State.modFold_unresolved (s : State) (d : Nat) (f : Fold → Fold) : (s.modFold d f).unresolved = s.unresolved := rfl
@[simp] theorem State.modFold_logHead (s : State) (d : Nat) (f : Fold → Fold) : (s.modFold d f).logHead = s.logHead := rfl
@[simp] theorem State.modFold_logTail (s : State) (d : Nat) (f : Fold → Fold) : (s.modFold d f).logTail = s.logTail := rfl
@[simp] theorem State.modFold_logDrop (s : State) (d : Nat) (f : Fold → Fold) : (s.modFold d f).logDrop = s.logDrop := rfl
@[simp] theorem State.modFold_parts (s : State) (d : Nat) (f : Fold → Fold) : (s.modFold d f).parts = s.parts := rfl
@[simp] theorem State.modFold_chsets (s : State) (d : Nat) (f : Fold → Fold) : (s.modFold d f).chsets = s.chsets := rfl
@[simp] theorem State.modFold_access (s : State) (d : Nat) (f : Fold → Fold) : (s.modFold d f).access = s.access := rfl
@[simp] theorem State.modFold_foldAccess (s : State) (d : Nat) (f : Fold → Fold) : (s.modFold d f).foldAccess = s.foldAccess := rfl
@[simp] theorem State.modFold_counters (s : State) (d : Nat) (f : Fold → Fold) : (s.modFold d f).counters = s.counters := rfl
@[simp] theorem State.modFold_refresh (s : State) (d : Nat) (f : Fold → Fold) : (s.modFold d f).refresh = s.refresh := rfl
@[simp] theorem State.modFold_allBank (s : State) (d : Nat) (f : Fold → Fold) : (s.modFold d f).allBank = s.allBank := rfl
@[simp] theorem State.modFold_retiredCh (s : State) (d : Nat) (f : Fold → Fold) : (s.modFold d f).retiredCh = s.retiredCh := rfl
@[simp] theorem State.modFold_errors (s : State) (d : Nat) (f : Fold → Fold) : (s.modFold d f).errors = s.errors := rfl
@[simp] theorem State.modFold_threshold (s : State) (d : Nat) (f : Fold → Fold) : (s.modFold d f).threshold = s.threshold := rfl
@[simp] theorem State.modFold_erred (s : State) (d : Nat) (f : Fold → Fold) : (s.modFold d f).erred = s.erred := rfl
@[simp] theorem State.modFold_window (s : State) (d : Nat) (f : Fold → Fold) : (s.modFold d f).window = s.window := rfl
@[simp] theorem State.modFold_retiredUnits (s : State) (d : Nat) (f : Fold → Fold) : (s.modFold d f).retiredUnits = s.retiredUnits := rfl
@[simp] theorem State.modFold_xdies (s : State) (d : Nat) (f : Fold → Fold) : (s.modFold d f).xdies = s.xdies := rfl
@[simp] theorem State.modFold_dirWaits (s : State) (d : Nat) (f : Fold → Fold) : (s.modFold d f).dirWaits = s.dirWaits := rfl
@[simp] theorem State.modFold_retries (s : State) (d : Nat) (f : Fold → Fold) : (s.modFold d f).retries = s.retries := rfl
@[simp] theorem State.modFold_msgs (s : State) (d : Nat) (f : Fold → Fold) : (s.modFold d f).msgs = s.msgs := rfl
@[simp] theorem State.modFold_ports (s : State) (d : Nat) (f : Fold → Fold) : (s.modFold d f).ports = s.ports := rfl
@[simp] theorem State.modFold_domain (s : State) (d : Nat) (f : Fold → Fold) : (s.modFold d f).domain = s.domain := rfl
@[simp] theorem State.modFold_boot (s : State) (d : Nat) (f : Fold → Fold) : (s.modFold d f).boot = s.boot := rfl

@[simp] theorem State.setChset_tick (s : State) (n : Nat) (x : ChSet) : (s.setChset n x).tick = s.tick := rfl
@[simp] theorem State.setChset_inputs (s : State) (n : Nat) (x : ChSet) : (s.setChset n x).inputs = s.inputs := rfl
@[simp] theorem State.setChset_core (s : State) (n : Nat) (x : ChSet) : (s.setChset n x).core = s.core := rfl
@[simp] theorem State.setChset_grp (s : State) (n : Nat) (x : ChSet) : (s.setChset n x).grp = s.grp := rfl
@[simp] theorem State.setChset_reqId (s : State) (n : Nat) (x : ChSet) : (s.setChset n x).reqId = s.reqId := rfl
@[simp] theorem State.setChset_offered (s : State) (n : Nat) (x : ChSet) : (s.setChset n x).offered = s.offered := rfl
@[simp] theorem State.setChset_lastPost (s : State) (n : Nat) (x : ChSet) : (s.setChset n x).lastPost = s.lastPost := rfl
@[simp] theorem State.setChset_lastSig (s : State) (n : Nat) (x : ChSet) : (s.setChset n x).lastSig = s.lastSig := rfl
@[simp] theorem State.setChset_recLast (s : State) (n : Nat) (x : ChSet) : (s.setChset n x).recLast = s.recLast := rfl
@[simp] theorem State.setChset_recLate (s : State) (n : Nat) (x : ChSet) : (s.setChset n x).recLate = s.recLate := rfl
@[simp] theorem State.setChset_stuck (s : State) (n : Nat) (x : ChSet) : (s.setChset n x).stuck = s.stuck := rfl
@[simp] theorem State.setChset_cycle (s : State) (n : Nat) (x : ChSet) : (s.setChset n x).cycle = s.cycle := rfl
@[simp] theorem State.setChset_mem (s : State) (n : Nat) (x : ChSet) : (s.setChset n x).mem = s.mem := rfl
@[simp] theorem State.setChset_poison (s : State) (n : Nat) (x : ChSet) : (s.setChset n x).poison = s.poison := rfl
@[simp] theorem State.setChset_peerMem (s : State) (n : Nat) (x : ChSet) : (s.setChset n x).peerMem = s.peerMem := rfl
@[simp] theorem State.setChset_stores (s : State) (n : Nat) (x : ChSet) : (s.setChset n x).stores = s.stores := rfl
@[simp] theorem State.setChset_regStores (s : State) (n : Nat) (x : ChSet) : (s.setChset n x).regStores = s.regStores := rfl
@[simp] theorem State.setChset_dieTlb (s : State) (n : Nat) (x : ChSet) : (s.setChset n x).dieTlb = s.dieTlb := rfl
@[simp] theorem State.setChset_dieTabs (s : State) (n : Nat) (x : ChSet) : (s.setChset n x).dieTabs = s.dieTabs := rfl
@[simp] theorem State.setChset_walks (s : State) (n : Nat) (x : ChSet) : (s.setChset n x).walks = s.walks := rfl
@[simp] theorem State.setChset_descs (s : State) (n : Nat) (x : ChSet) : (s.setChset n x).descs = s.descs := rfl
@[simp] theorem State.setChset_cores (s : State) (n : Nat) (x : ChSet) : (s.setChset n x).cores = s.cores := rfl
@[simp] theorem State.setChset_grids (s : State) (n : Nat) (x : ChSet) : (s.setChset n x).grids = s.grids := rfl
@[simp] theorem State.setChset_nextGrid (s : State) (n : Nat) (x : ChSet) : (s.setChset n x).nextGrid = s.nextGrid := rfl
@[simp] theorem State.setChset_admitted (s : State) (n : Nat) (x : ChSet) : (s.setChset n x).admitted = s.admitted := rfl
@[simp] theorem State.setChset_lpres (s : State) (n : Nat) (x : ChSet) : (s.setChset n x).lpres = s.lpres := rfl
@[simp] theorem State.setChset_sapoolBase (s : State) (n : Nat) (x : ChSet) : (s.setChset n x).sapoolBase = s.sapoolBase := rfl
@[simp] theorem State.setChset_sapoolCount (s : State) (n : Nat) (x : ChSet) : (s.setChset n x).sapoolCount = s.sapoolCount := rfl
@[simp] theorem State.setChset_saved (s : State) (n : Nat) (x : ChSet) : (s.setChset n x).saved = s.saved := rfl
@[simp] theorem State.setChset_sigHead (s : State) (n : Nat) (x : ChSet) : (s.setChset n x).sigHead = s.sigHead := rfl
@[simp] theorem State.setChset_sigTail (s : State) (n : Nat) (x : ChSet) : (s.setChset n x).sigTail = s.sigTail := rfl
@[simp] theorem State.setChset_fqs (s : State) (n : Nat) (x : ChSet) : (s.setChset n x).fqs = s.fqs := rfl
@[simp] theorem State.setChset_unresolved (s : State) (n : Nat) (x : ChSet) : (s.setChset n x).unresolved = s.unresolved := rfl
@[simp] theorem State.setChset_logHead (s : State) (n : Nat) (x : ChSet) : (s.setChset n x).logHead = s.logHead := rfl
@[simp] theorem State.setChset_logTail (s : State) (n : Nat) (x : ChSet) : (s.setChset n x).logTail = s.logTail := rfl
@[simp] theorem State.setChset_logDrop (s : State) (n : Nat) (x : ChSet) : (s.setChset n x).logDrop = s.logDrop := rfl
@[simp] theorem State.setChset_parts (s : State) (n : Nat) (x : ChSet) : (s.setChset n x).parts = s.parts := rfl
@[simp] theorem State.setChset_access (s : State) (n : Nat) (x : ChSet) : (s.setChset n x).access = s.access := rfl
@[simp] theorem State.setChset_foldAccess (s : State) (n : Nat) (x : ChSet) : (s.setChset n x).foldAccess = s.foldAccess := rfl
@[simp] theorem State.setChset_counters (s : State) (n : Nat) (x : ChSet) : (s.setChset n x).counters = s.counters := rfl
@[simp] theorem State.setChset_refresh (s : State) (n : Nat) (x : ChSet) : (s.setChset n x).refresh = s.refresh := rfl
@[simp] theorem State.setChset_allBank (s : State) (n : Nat) (x : ChSet) : (s.setChset n x).allBank = s.allBank := rfl
@[simp] theorem State.setChset_retiredCh (s : State) (n : Nat) (x : ChSet) : (s.setChset n x).retiredCh = s.retiredCh := rfl
@[simp] theorem State.setChset_errors (s : State) (n : Nat) (x : ChSet) : (s.setChset n x).errors = s.errors := rfl
@[simp] theorem State.setChset_threshold (s : State) (n : Nat) (x : ChSet) : (s.setChset n x).threshold = s.threshold := rfl
@[simp] theorem State.setChset_erred (s : State) (n : Nat) (x : ChSet) : (s.setChset n x).erred = s.erred := rfl
@[simp] theorem State.setChset_window (s : State) (n : Nat) (x : ChSet) : (s.setChset n x).window = s.window := rfl
@[simp] theorem State.setChset_retiredUnits (s : State) (n : Nat) (x : ChSet) : (s.setChset n x).retiredUnits = s.retiredUnits := rfl
@[simp] theorem State.setChset_folds (s : State) (n : Nat) (x : ChSet) : (s.setChset n x).folds = s.folds := rfl
@[simp] theorem State.setChset_xdies (s : State) (n : Nat) (x : ChSet) : (s.setChset n x).xdies = s.xdies := rfl
@[simp] theorem State.setChset_dirWaits (s : State) (n : Nat) (x : ChSet) : (s.setChset n x).dirWaits = s.dirWaits := rfl
@[simp] theorem State.setChset_retries (s : State) (n : Nat) (x : ChSet) : (s.setChset n x).retries = s.retries := rfl
@[simp] theorem State.setChset_msgs (s : State) (n : Nat) (x : ChSet) : (s.setChset n x).msgs = s.msgs := rfl
@[simp] theorem State.setChset_ports (s : State) (n : Nat) (x : ChSet) : (s.setChset n x).ports = s.ports := rfl
@[simp] theorem State.setChset_domain (s : State) (n : Nat) (x : ChSet) : (s.setChset n x).domain = s.domain := rfl
@[simp] theorem State.setChset_boot (s : State) (n : Nat) (x : ChSet) : (s.setChset n x).boot = s.boot := rfl

@[simp] theorem State.modPort_tick (s : State) (k : Nat) (f : Port → Port) : (s.modPort k f).tick = s.tick := rfl
@[simp] theorem State.modPort_inputs (s : State) (k : Nat) (f : Port → Port) : (s.modPort k f).inputs = s.inputs := rfl
@[simp] theorem State.modPort_core (s : State) (k : Nat) (f : Port → Port) : (s.modPort k f).core = s.core := rfl
@[simp] theorem State.modPort_grp (s : State) (k : Nat) (f : Port → Port) : (s.modPort k f).grp = s.grp := rfl
@[simp] theorem State.modPort_reqId (s : State) (k : Nat) (f : Port → Port) : (s.modPort k f).reqId = s.reqId := rfl
@[simp] theorem State.modPort_offered (s : State) (k : Nat) (f : Port → Port) : (s.modPort k f).offered = s.offered := rfl
@[simp] theorem State.modPort_lastPost (s : State) (k : Nat) (f : Port → Port) : (s.modPort k f).lastPost = s.lastPost := rfl
@[simp] theorem State.modPort_lastSig (s : State) (k : Nat) (f : Port → Port) : (s.modPort k f).lastSig = s.lastSig := rfl
@[simp] theorem State.modPort_recLast (s : State) (k : Nat) (f : Port → Port) : (s.modPort k f).recLast = s.recLast := rfl
@[simp] theorem State.modPort_recLate (s : State) (k : Nat) (f : Port → Port) : (s.modPort k f).recLate = s.recLate := rfl
@[simp] theorem State.modPort_stuck (s : State) (k : Nat) (f : Port → Port) : (s.modPort k f).stuck = s.stuck := rfl
@[simp] theorem State.modPort_cycle (s : State) (k : Nat) (f : Port → Port) : (s.modPort k f).cycle = s.cycle := rfl
@[simp] theorem State.modPort_mem (s : State) (k : Nat) (f : Port → Port) : (s.modPort k f).mem = s.mem := rfl
@[simp] theorem State.modPort_poison (s : State) (k : Nat) (f : Port → Port) : (s.modPort k f).poison = s.poison := rfl
@[simp] theorem State.modPort_peerMem (s : State) (k : Nat) (f : Port → Port) : (s.modPort k f).peerMem = s.peerMem := rfl
@[simp] theorem State.modPort_stores (s : State) (k : Nat) (f : Port → Port) : (s.modPort k f).stores = s.stores := rfl
@[simp] theorem State.modPort_regStores (s : State) (k : Nat) (f : Port → Port) : (s.modPort k f).regStores = s.regStores := rfl
@[simp] theorem State.modPort_dieTlb (s : State) (k : Nat) (f : Port → Port) : (s.modPort k f).dieTlb = s.dieTlb := rfl
@[simp] theorem State.modPort_dieTabs (s : State) (k : Nat) (f : Port → Port) : (s.modPort k f).dieTabs = s.dieTabs := rfl
@[simp] theorem State.modPort_walks (s : State) (k : Nat) (f : Port → Port) : (s.modPort k f).walks = s.walks := rfl
@[simp] theorem State.modPort_descs (s : State) (k : Nat) (f : Port → Port) : (s.modPort k f).descs = s.descs := rfl
@[simp] theorem State.modPort_cores (s : State) (k : Nat) (f : Port → Port) : (s.modPort k f).cores = s.cores := rfl
@[simp] theorem State.modPort_grids (s : State) (k : Nat) (f : Port → Port) : (s.modPort k f).grids = s.grids := rfl
@[simp] theorem State.modPort_nextGrid (s : State) (k : Nat) (f : Port → Port) : (s.modPort k f).nextGrid = s.nextGrid := rfl
@[simp] theorem State.modPort_admitted (s : State) (k : Nat) (f : Port → Port) : (s.modPort k f).admitted = s.admitted := rfl
@[simp] theorem State.modPort_lpres (s : State) (k : Nat) (f : Port → Port) : (s.modPort k f).lpres = s.lpres := rfl
@[simp] theorem State.modPort_sapoolBase (s : State) (k : Nat) (f : Port → Port) : (s.modPort k f).sapoolBase = s.sapoolBase := rfl
@[simp] theorem State.modPort_sapoolCount (s : State) (k : Nat) (f : Port → Port) : (s.modPort k f).sapoolCount = s.sapoolCount := rfl
@[simp] theorem State.modPort_saved (s : State) (k : Nat) (f : Port → Port) : (s.modPort k f).saved = s.saved := rfl
@[simp] theorem State.modPort_sigHead (s : State) (k : Nat) (f : Port → Port) : (s.modPort k f).sigHead = s.sigHead := rfl
@[simp] theorem State.modPort_sigTail (s : State) (k : Nat) (f : Port → Port) : (s.modPort k f).sigTail = s.sigTail := rfl
@[simp] theorem State.modPort_fqs (s : State) (k : Nat) (f : Port → Port) : (s.modPort k f).fqs = s.fqs := rfl
@[simp] theorem State.modPort_unresolved (s : State) (k : Nat) (f : Port → Port) : (s.modPort k f).unresolved = s.unresolved := rfl
@[simp] theorem State.modPort_logHead (s : State) (k : Nat) (f : Port → Port) : (s.modPort k f).logHead = s.logHead := rfl
@[simp] theorem State.modPort_logTail (s : State) (k : Nat) (f : Port → Port) : (s.modPort k f).logTail = s.logTail := rfl
@[simp] theorem State.modPort_logDrop (s : State) (k : Nat) (f : Port → Port) : (s.modPort k f).logDrop = s.logDrop := rfl
@[simp] theorem State.modPort_parts (s : State) (k : Nat) (f : Port → Port) : (s.modPort k f).parts = s.parts := rfl
@[simp] theorem State.modPort_chsets (s : State) (k : Nat) (f : Port → Port) : (s.modPort k f).chsets = s.chsets := rfl
@[simp] theorem State.modPort_access (s : State) (k : Nat) (f : Port → Port) : (s.modPort k f).access = s.access := rfl
@[simp] theorem State.modPort_foldAccess (s : State) (k : Nat) (f : Port → Port) : (s.modPort k f).foldAccess = s.foldAccess := rfl
@[simp] theorem State.modPort_counters (s : State) (k : Nat) (f : Port → Port) : (s.modPort k f).counters = s.counters := rfl
@[simp] theorem State.modPort_refresh (s : State) (k : Nat) (f : Port → Port) : (s.modPort k f).refresh = s.refresh := rfl
@[simp] theorem State.modPort_allBank (s : State) (k : Nat) (f : Port → Port) : (s.modPort k f).allBank = s.allBank := rfl
@[simp] theorem State.modPort_retiredCh (s : State) (k : Nat) (f : Port → Port) : (s.modPort k f).retiredCh = s.retiredCh := rfl
@[simp] theorem State.modPort_errors (s : State) (k : Nat) (f : Port → Port) : (s.modPort k f).errors = s.errors := rfl
@[simp] theorem State.modPort_threshold (s : State) (k : Nat) (f : Port → Port) : (s.modPort k f).threshold = s.threshold := rfl
@[simp] theorem State.modPort_erred (s : State) (k : Nat) (f : Port → Port) : (s.modPort k f).erred = s.erred := rfl
@[simp] theorem State.modPort_window (s : State) (k : Nat) (f : Port → Port) : (s.modPort k f).window = s.window := rfl
@[simp] theorem State.modPort_retiredUnits (s : State) (k : Nat) (f : Port → Port) : (s.modPort k f).retiredUnits = s.retiredUnits := rfl
@[simp] theorem State.modPort_folds (s : State) (k : Nat) (f : Port → Port) : (s.modPort k f).folds = s.folds := rfl
@[simp] theorem State.modPort_xdies (s : State) (k : Nat) (f : Port → Port) : (s.modPort k f).xdies = s.xdies := rfl
@[simp] theorem State.modPort_dirWaits (s : State) (k : Nat) (f : Port → Port) : (s.modPort k f).dirWaits = s.dirWaits := rfl
@[simp] theorem State.modPort_retries (s : State) (k : Nat) (f : Port → Port) : (s.modPort k f).retries = s.retries := rfl
@[simp] theorem State.modPort_msgs (s : State) (k : Nat) (f : Port → Port) : (s.modPort k f).msgs = s.msgs := rfl
@[simp] theorem State.modPort_domain (s : State) (k : Nat) (f : Port → Port) : (s.modPort k f).domain = s.domain := rfl
@[simp] theorem State.modPort_boot (s : State) (k : Nat) (f : Port → Port) : (s.modPort k f).boot = s.boot := rfl

@[simp] theorem State.enqueue_tick (s : State) (r : MemReq) : (s.enqueue r).tick = s.tick := rfl
@[simp] theorem State.enqueue_inputs (s : State) (r : MemReq) : (s.enqueue r).inputs = s.inputs := rfl
@[simp] theorem State.enqueue_core (s : State) (r : MemReq) : (s.enqueue r).core = s.core := rfl
@[simp] theorem State.enqueue_grp (s : State) (r : MemReq) : (s.enqueue r).grp = s.grp := rfl
@[simp] theorem State.enqueue_reqId (s : State) (r : MemReq) : (s.enqueue r).reqId = s.reqId := rfl
@[simp] theorem State.enqueue_offered (s : State) (r : MemReq) : (s.enqueue r).offered = s.offered := rfl
@[simp] theorem State.enqueue_lastPost (s : State) (r : MemReq) : (s.enqueue r).lastPost = s.lastPost := rfl
@[simp] theorem State.enqueue_lastSig (s : State) (r : MemReq) : (s.enqueue r).lastSig = s.lastSig := rfl
@[simp] theorem State.enqueue_recLast (s : State) (r : MemReq) : (s.enqueue r).recLast = s.recLast := rfl
@[simp] theorem State.enqueue_recLate (s : State) (r : MemReq) : (s.enqueue r).recLate = s.recLate := rfl
@[simp] theorem State.enqueue_stuck (s : State) (r : MemReq) : (s.enqueue r).stuck = s.stuck := rfl
@[simp] theorem State.enqueue_cycle (s : State) (r : MemReq) : (s.enqueue r).cycle = s.cycle := rfl
@[simp] theorem State.enqueue_mem (s : State) (r : MemReq) : (s.enqueue r).mem = s.mem := rfl
@[simp] theorem State.enqueue_poison (s : State) (r : MemReq) : (s.enqueue r).poison = s.poison := rfl
@[simp] theorem State.enqueue_peerMem (s : State) (r : MemReq) : (s.enqueue r).peerMem = s.peerMem := rfl
@[simp] theorem State.enqueue_regStores (s : State) (r : MemReq) : (s.enqueue r).regStores = s.regStores := rfl
@[simp] theorem State.enqueue_dieTlb (s : State) (r : MemReq) : (s.enqueue r).dieTlb = s.dieTlb := rfl
@[simp] theorem State.enqueue_dieTabs (s : State) (r : MemReq) : (s.enqueue r).dieTabs = s.dieTabs := rfl
@[simp] theorem State.enqueue_walks (s : State) (r : MemReq) : (s.enqueue r).walks = s.walks := rfl
@[simp] theorem State.enqueue_descs (s : State) (r : MemReq) : (s.enqueue r).descs = s.descs := rfl
@[simp] theorem State.enqueue_cores (s : State) (r : MemReq) : (s.enqueue r).cores = s.cores := rfl
@[simp] theorem State.enqueue_grids (s : State) (r : MemReq) : (s.enqueue r).grids = s.grids := rfl
@[simp] theorem State.enqueue_nextGrid (s : State) (r : MemReq) : (s.enqueue r).nextGrid = s.nextGrid := rfl
@[simp] theorem State.enqueue_admitted (s : State) (r : MemReq) : (s.enqueue r).admitted = s.admitted := rfl
@[simp] theorem State.enqueue_lpres (s : State) (r : MemReq) : (s.enqueue r).lpres = s.lpres := rfl
@[simp] theorem State.enqueue_sapoolBase (s : State) (r : MemReq) : (s.enqueue r).sapoolBase = s.sapoolBase := rfl
@[simp] theorem State.enqueue_sapoolCount (s : State) (r : MemReq) : (s.enqueue r).sapoolCount = s.sapoolCount := rfl
@[simp] theorem State.enqueue_saved (s : State) (r : MemReq) : (s.enqueue r).saved = s.saved := rfl
@[simp] theorem State.enqueue_sigHead (s : State) (r : MemReq) : (s.enqueue r).sigHead = s.sigHead := rfl
@[simp] theorem State.enqueue_sigTail (s : State) (r : MemReq) : (s.enqueue r).sigTail = s.sigTail := rfl
@[simp] theorem State.enqueue_fqs (s : State) (r : MemReq) : (s.enqueue r).fqs = s.fqs := rfl
@[simp] theorem State.enqueue_unresolved (s : State) (r : MemReq) : (s.enqueue r).unresolved = s.unresolved := rfl
@[simp] theorem State.enqueue_logHead (s : State) (r : MemReq) : (s.enqueue r).logHead = s.logHead := rfl
@[simp] theorem State.enqueue_logTail (s : State) (r : MemReq) : (s.enqueue r).logTail = s.logTail := rfl
@[simp] theorem State.enqueue_logDrop (s : State) (r : MemReq) : (s.enqueue r).logDrop = s.logDrop := rfl
@[simp] theorem State.enqueue_parts (s : State) (r : MemReq) : (s.enqueue r).parts = s.parts := rfl
@[simp] theorem State.enqueue_chsets (s : State) (r : MemReq) : (s.enqueue r).chsets = s.chsets := rfl
@[simp] theorem State.enqueue_access (s : State) (r : MemReq) : (s.enqueue r).access = s.access := rfl
@[simp] theorem State.enqueue_foldAccess (s : State) (r : MemReq) : (s.enqueue r).foldAccess = s.foldAccess := rfl
@[simp] theorem State.enqueue_counters (s : State) (r : MemReq) : (s.enqueue r).counters = s.counters := rfl
@[simp] theorem State.enqueue_refresh (s : State) (r : MemReq) : (s.enqueue r).refresh = s.refresh := rfl
@[simp] theorem State.enqueue_allBank (s : State) (r : MemReq) : (s.enqueue r).allBank = s.allBank := rfl
@[simp] theorem State.enqueue_retiredCh (s : State) (r : MemReq) : (s.enqueue r).retiredCh = s.retiredCh := rfl
@[simp] theorem State.enqueue_errors (s : State) (r : MemReq) : (s.enqueue r).errors = s.errors := rfl
@[simp] theorem State.enqueue_threshold (s : State) (r : MemReq) : (s.enqueue r).threshold = s.threshold := rfl
@[simp] theorem State.enqueue_erred (s : State) (r : MemReq) : (s.enqueue r).erred = s.erred := rfl
@[simp] theorem State.enqueue_window (s : State) (r : MemReq) : (s.enqueue r).window = s.window := rfl
@[simp] theorem State.enqueue_retiredUnits (s : State) (r : MemReq) : (s.enqueue r).retiredUnits = s.retiredUnits := rfl
@[simp] theorem State.enqueue_folds (s : State) (r : MemReq) : (s.enqueue r).folds = s.folds := rfl
@[simp] theorem State.enqueue_xdies (s : State) (r : MemReq) : (s.enqueue r).xdies = s.xdies := rfl
@[simp] theorem State.enqueue_dirWaits (s : State) (r : MemReq) : (s.enqueue r).dirWaits = s.dirWaits := rfl
@[simp] theorem State.enqueue_retries (s : State) (r : MemReq) : (s.enqueue r).retries = s.retries := rfl
@[simp] theorem State.enqueue_msgs (s : State) (r : MemReq) : (s.enqueue r).msgs = s.msgs := rfl
@[simp] theorem State.enqueue_ports (s : State) (r : MemReq) : (s.enqueue r).ports = s.ports := rfl
@[simp] theorem State.enqueue_domain (s : State) (r : MemReq) : (s.enqueue r).domain = s.domain := rfl
@[simp] theorem State.enqueue_boot (s : State) (r : MemReq) : (s.enqueue r).boot = s.boot := rfl

@[simp] theorem State.setX_tick (s : State) (ln d : Nat) : (s.setX ln d).tick = s.tick := rfl
@[simp] theorem State.setX_inputs (s : State) (ln d : Nat) : (s.setX ln d).inputs = s.inputs := rfl
@[simp] theorem State.setX_core (s : State) (ln d : Nat) : (s.setX ln d).core = s.core := rfl
@[simp] theorem State.setX_grp (s : State) (ln d : Nat) : (s.setX ln d).grp = s.grp := rfl
@[simp] theorem State.setX_reqId (s : State) (ln d : Nat) : (s.setX ln d).reqId = s.reqId := rfl
@[simp] theorem State.setX_offered (s : State) (ln d : Nat) : (s.setX ln d).offered = s.offered := rfl
@[simp] theorem State.setX_lastPost (s : State) (ln d : Nat) : (s.setX ln d).lastPost = s.lastPost := rfl
@[simp] theorem State.setX_lastSig (s : State) (ln d : Nat) : (s.setX ln d).lastSig = s.lastSig := rfl
@[simp] theorem State.setX_recLast (s : State) (ln d : Nat) : (s.setX ln d).recLast = s.recLast := rfl
@[simp] theorem State.setX_recLate (s : State) (ln d : Nat) : (s.setX ln d).recLate = s.recLate := rfl
@[simp] theorem State.setX_stuck (s : State) (ln d : Nat) : (s.setX ln d).stuck = s.stuck := rfl
@[simp] theorem State.setX_cycle (s : State) (ln d : Nat) : (s.setX ln d).cycle = s.cycle := rfl
@[simp] theorem State.setX_mem (s : State) (ln d : Nat) : (s.setX ln d).mem = s.mem := rfl
@[simp] theorem State.setX_poison (s : State) (ln d : Nat) : (s.setX ln d).poison = s.poison := rfl
@[simp] theorem State.setX_peerMem (s : State) (ln d : Nat) : (s.setX ln d).peerMem = s.peerMem := rfl
@[simp] theorem State.setX_stores (s : State) (ln d : Nat) : (s.setX ln d).stores = s.stores := rfl
@[simp] theorem State.setX_regStores (s : State) (ln d : Nat) : (s.setX ln d).regStores = s.regStores := rfl
@[simp] theorem State.setX_dieTlb (s : State) (ln d : Nat) : (s.setX ln d).dieTlb = s.dieTlb := rfl
@[simp] theorem State.setX_dieTabs (s : State) (ln d : Nat) : (s.setX ln d).dieTabs = s.dieTabs := rfl
@[simp] theorem State.setX_walks (s : State) (ln d : Nat) : (s.setX ln d).walks = s.walks := rfl
@[simp] theorem State.setX_descs (s : State) (ln d : Nat) : (s.setX ln d).descs = s.descs := rfl
@[simp] theorem State.setX_cores (s : State) (ln d : Nat) : (s.setX ln d).cores = s.cores := rfl
@[simp] theorem State.setX_grids (s : State) (ln d : Nat) : (s.setX ln d).grids = s.grids := rfl
@[simp] theorem State.setX_nextGrid (s : State) (ln d : Nat) : (s.setX ln d).nextGrid = s.nextGrid := rfl
@[simp] theorem State.setX_admitted (s : State) (ln d : Nat) : (s.setX ln d).admitted = s.admitted := rfl
@[simp] theorem State.setX_lpres (s : State) (ln d : Nat) : (s.setX ln d).lpres = s.lpres := rfl
@[simp] theorem State.setX_sapoolBase (s : State) (ln d : Nat) : (s.setX ln d).sapoolBase = s.sapoolBase := rfl
@[simp] theorem State.setX_sapoolCount (s : State) (ln d : Nat) : (s.setX ln d).sapoolCount = s.sapoolCount := rfl
@[simp] theorem State.setX_saved (s : State) (ln d : Nat) : (s.setX ln d).saved = s.saved := rfl
@[simp] theorem State.setX_sigHead (s : State) (ln d : Nat) : (s.setX ln d).sigHead = s.sigHead := rfl
@[simp] theorem State.setX_sigTail (s : State) (ln d : Nat) : (s.setX ln d).sigTail = s.sigTail := rfl
@[simp] theorem State.setX_fqs (s : State) (ln d : Nat) : (s.setX ln d).fqs = s.fqs := rfl
@[simp] theorem State.setX_unresolved (s : State) (ln d : Nat) : (s.setX ln d).unresolved = s.unresolved := rfl
@[simp] theorem State.setX_logHead (s : State) (ln d : Nat) : (s.setX ln d).logHead = s.logHead := rfl
@[simp] theorem State.setX_logTail (s : State) (ln d : Nat) : (s.setX ln d).logTail = s.logTail := rfl
@[simp] theorem State.setX_logDrop (s : State) (ln d : Nat) : (s.setX ln d).logDrop = s.logDrop := rfl
@[simp] theorem State.setX_parts (s : State) (ln d : Nat) : (s.setX ln d).parts = s.parts := rfl
@[simp] theorem State.setX_chsets (s : State) (ln d : Nat) : (s.setX ln d).chsets = s.chsets := rfl
@[simp] theorem State.setX_access (s : State) (ln d : Nat) : (s.setX ln d).access = s.access := rfl
@[simp] theorem State.setX_foldAccess (s : State) (ln d : Nat) : (s.setX ln d).foldAccess = s.foldAccess := rfl
@[simp] theorem State.setX_counters (s : State) (ln d : Nat) : (s.setX ln d).counters = s.counters := rfl
@[simp] theorem State.setX_refresh (s : State) (ln d : Nat) : (s.setX ln d).refresh = s.refresh := rfl
@[simp] theorem State.setX_allBank (s : State) (ln d : Nat) : (s.setX ln d).allBank = s.allBank := rfl
@[simp] theorem State.setX_retiredCh (s : State) (ln d : Nat) : (s.setX ln d).retiredCh = s.retiredCh := rfl
@[simp] theorem State.setX_errors (s : State) (ln d : Nat) : (s.setX ln d).errors = s.errors := rfl
@[simp] theorem State.setX_threshold (s : State) (ln d : Nat) : (s.setX ln d).threshold = s.threshold := rfl
@[simp] theorem State.setX_erred (s : State) (ln d : Nat) : (s.setX ln d).erred = s.erred := rfl
@[simp] theorem State.setX_window (s : State) (ln d : Nat) : (s.setX ln d).window = s.window := rfl
@[simp] theorem State.setX_retiredUnits (s : State) (ln d : Nat) : (s.setX ln d).retiredUnits = s.retiredUnits := rfl
@[simp] theorem State.setX_folds (s : State) (ln d : Nat) : (s.setX ln d).folds = s.folds := rfl
@[simp] theorem State.setX_dirWaits (s : State) (ln d : Nat) : (s.setX ln d).dirWaits = s.dirWaits := rfl
@[simp] theorem State.setX_retries (s : State) (ln d : Nat) : (s.setX ln d).retries = s.retries := rfl
@[simp] theorem State.setX_msgs (s : State) (ln d : Nat) : (s.setX ln d).msgs = s.msgs := rfl
@[simp] theorem State.setX_ports (s : State) (ln d : Nat) : (s.setX ln d).ports = s.ports := rfl
@[simp] theorem State.setX_domain (s : State) (ln d : Nat) : (s.setX ln d).domain = s.domain := rfl
@[simp] theorem State.setX_boot (s : State) (ln d : Nat) : (s.setX ln d).boot = s.boot := rfl

@[simp] theorem State.setLine_tick (s : State) (c ln : Nat) (x : LineState) : (s.setLine c ln x).tick = s.tick := rfl
@[simp] theorem State.setLine_inputs (s : State) (c ln : Nat) (x : LineState) : (s.setLine c ln x).inputs = s.inputs := rfl
@[simp] theorem State.setLine_core (s : State) (c ln : Nat) (x : LineState) : (s.setLine c ln x).core = s.core := rfl
@[simp] theorem State.setLine_grp (s : State) (c ln : Nat) (x : LineState) : (s.setLine c ln x).grp = s.grp := rfl
@[simp] theorem State.setLine_reqId (s : State) (c ln : Nat) (x : LineState) : (s.setLine c ln x).reqId = s.reqId := rfl
@[simp] theorem State.setLine_offered (s : State) (c ln : Nat) (x : LineState) : (s.setLine c ln x).offered = s.offered := rfl
@[simp] theorem State.setLine_lastPost (s : State) (c ln : Nat) (x : LineState) : (s.setLine c ln x).lastPost = s.lastPost := rfl
@[simp] theorem State.setLine_lastSig (s : State) (c ln : Nat) (x : LineState) : (s.setLine c ln x).lastSig = s.lastSig := rfl
@[simp] theorem State.setLine_recLast (s : State) (c ln : Nat) (x : LineState) : (s.setLine c ln x).recLast = s.recLast := rfl
@[simp] theorem State.setLine_recLate (s : State) (c ln : Nat) (x : LineState) : (s.setLine c ln x).recLate = s.recLate := rfl
@[simp] theorem State.setLine_stuck (s : State) (c ln : Nat) (x : LineState) : (s.setLine c ln x).stuck = s.stuck := rfl
@[simp] theorem State.setLine_cycle (s : State) (c ln : Nat) (x : LineState) : (s.setLine c ln x).cycle = s.cycle := rfl
@[simp] theorem State.setLine_mem (s : State) (c ln : Nat) (x : LineState) : (s.setLine c ln x).mem = s.mem := rfl
@[simp] theorem State.setLine_poison (s : State) (c ln : Nat) (x : LineState) : (s.setLine c ln x).poison = s.poison := rfl
@[simp] theorem State.setLine_peerMem (s : State) (c ln : Nat) (x : LineState) : (s.setLine c ln x).peerMem = s.peerMem := rfl
@[simp] theorem State.setLine_stores (s : State) (c ln : Nat) (x : LineState) : (s.setLine c ln x).stores = s.stores := rfl
@[simp] theorem State.setLine_regStores (s : State) (c ln : Nat) (x : LineState) : (s.setLine c ln x).regStores = s.regStores := rfl
@[simp] theorem State.setLine_dieTlb (s : State) (c ln : Nat) (x : LineState) : (s.setLine c ln x).dieTlb = s.dieTlb := rfl
@[simp] theorem State.setLine_dieTabs (s : State) (c ln : Nat) (x : LineState) : (s.setLine c ln x).dieTabs = s.dieTabs := rfl
@[simp] theorem State.setLine_walks (s : State) (c ln : Nat) (x : LineState) : (s.setLine c ln x).walks = s.walks := rfl
@[simp] theorem State.setLine_descs (s : State) (c ln : Nat) (x : LineState) : (s.setLine c ln x).descs = s.descs := rfl
@[simp] theorem State.setLine_grids (s : State) (c ln : Nat) (x : LineState) : (s.setLine c ln x).grids = s.grids := rfl
@[simp] theorem State.setLine_nextGrid (s : State) (c ln : Nat) (x : LineState) : (s.setLine c ln x).nextGrid = s.nextGrid := rfl
@[simp] theorem State.setLine_admitted (s : State) (c ln : Nat) (x : LineState) : (s.setLine c ln x).admitted = s.admitted := rfl
@[simp] theorem State.setLine_lpres (s : State) (c ln : Nat) (x : LineState) : (s.setLine c ln x).lpres = s.lpres := rfl
@[simp] theorem State.setLine_sapoolBase (s : State) (c ln : Nat) (x : LineState) : (s.setLine c ln x).sapoolBase = s.sapoolBase := rfl
@[simp] theorem State.setLine_sapoolCount (s : State) (c ln : Nat) (x : LineState) : (s.setLine c ln x).sapoolCount = s.sapoolCount := rfl
@[simp] theorem State.setLine_saved (s : State) (c ln : Nat) (x : LineState) : (s.setLine c ln x).saved = s.saved := rfl
@[simp] theorem State.setLine_sigHead (s : State) (c ln : Nat) (x : LineState) : (s.setLine c ln x).sigHead = s.sigHead := rfl
@[simp] theorem State.setLine_sigTail (s : State) (c ln : Nat) (x : LineState) : (s.setLine c ln x).sigTail = s.sigTail := rfl
@[simp] theorem State.setLine_fqs (s : State) (c ln : Nat) (x : LineState) : (s.setLine c ln x).fqs = s.fqs := rfl
@[simp] theorem State.setLine_unresolved (s : State) (c ln : Nat) (x : LineState) : (s.setLine c ln x).unresolved = s.unresolved := rfl
@[simp] theorem State.setLine_logHead (s : State) (c ln : Nat) (x : LineState) : (s.setLine c ln x).logHead = s.logHead := rfl
@[simp] theorem State.setLine_logTail (s : State) (c ln : Nat) (x : LineState) : (s.setLine c ln x).logTail = s.logTail := rfl
@[simp] theorem State.setLine_logDrop (s : State) (c ln : Nat) (x : LineState) : (s.setLine c ln x).logDrop = s.logDrop := rfl
@[simp] theorem State.setLine_parts (s : State) (c ln : Nat) (x : LineState) : (s.setLine c ln x).parts = s.parts := rfl
@[simp] theorem State.setLine_chsets (s : State) (c ln : Nat) (x : LineState) : (s.setLine c ln x).chsets = s.chsets := rfl
@[simp] theorem State.setLine_access (s : State) (c ln : Nat) (x : LineState) : (s.setLine c ln x).access = s.access := rfl
@[simp] theorem State.setLine_foldAccess (s : State) (c ln : Nat) (x : LineState) : (s.setLine c ln x).foldAccess = s.foldAccess := rfl
@[simp] theorem State.setLine_counters (s : State) (c ln : Nat) (x : LineState) : (s.setLine c ln x).counters = s.counters := rfl
@[simp] theorem State.setLine_refresh (s : State) (c ln : Nat) (x : LineState) : (s.setLine c ln x).refresh = s.refresh := rfl
@[simp] theorem State.setLine_allBank (s : State) (c ln : Nat) (x : LineState) : (s.setLine c ln x).allBank = s.allBank := rfl
@[simp] theorem State.setLine_retiredCh (s : State) (c ln : Nat) (x : LineState) : (s.setLine c ln x).retiredCh = s.retiredCh := rfl
@[simp] theorem State.setLine_errors (s : State) (c ln : Nat) (x : LineState) : (s.setLine c ln x).errors = s.errors := rfl
@[simp] theorem State.setLine_threshold (s : State) (c ln : Nat) (x : LineState) : (s.setLine c ln x).threshold = s.threshold := rfl
@[simp] theorem State.setLine_erred (s : State) (c ln : Nat) (x : LineState) : (s.setLine c ln x).erred = s.erred := rfl
@[simp] theorem State.setLine_window (s : State) (c ln : Nat) (x : LineState) : (s.setLine c ln x).window = s.window := rfl
@[simp] theorem State.setLine_retiredUnits (s : State) (c ln : Nat) (x : LineState) : (s.setLine c ln x).retiredUnits = s.retiredUnits := rfl
@[simp] theorem State.setLine_folds (s : State) (c ln : Nat) (x : LineState) : (s.setLine c ln x).folds = s.folds := rfl
@[simp] theorem State.setLine_xdies (s : State) (c ln : Nat) (x : LineState) : (s.setLine c ln x).xdies = s.xdies := rfl
@[simp] theorem State.setLine_dirWaits (s : State) (c ln : Nat) (x : LineState) : (s.setLine c ln x).dirWaits = s.dirWaits := rfl
@[simp] theorem State.setLine_retries (s : State) (c ln : Nat) (x : LineState) : (s.setLine c ln x).retries = s.retries := rfl
@[simp] theorem State.setLine_msgs (s : State) (c ln : Nat) (x : LineState) : (s.setLine c ln x).msgs = s.msgs := rfl
@[simp] theorem State.setLine_ports (s : State) (c ln : Nat) (x : LineState) : (s.setLine c ln x).ports = s.ports := rfl
@[simp] theorem State.setLine_domain (s : State) (c ln : Nat) (x : LineState) : (s.setLine c ln x).domain = s.domain := rfl
@[simp] theorem State.setLine_boot (s : State) (c ln : Nat) (x : LineState) : (s.setLine c ln x).boot = s.boot := rfl

@[simp] theorem State.mapLine_tick (s : State) (ln : Nat) (p : Nat → Bool) (f : LineState → LineState) : (s.mapLine ln p f).tick = s.tick := rfl
@[simp] theorem State.mapLine_inputs (s : State) (ln : Nat) (p : Nat → Bool) (f : LineState → LineState) : (s.mapLine ln p f).inputs = s.inputs := rfl
@[simp] theorem State.mapLine_core (s : State) (ln : Nat) (p : Nat → Bool) (f : LineState → LineState) : (s.mapLine ln p f).core = s.core := rfl
@[simp] theorem State.mapLine_grp (s : State) (ln : Nat) (p : Nat → Bool) (f : LineState → LineState) : (s.mapLine ln p f).grp = s.grp := rfl
@[simp] theorem State.mapLine_reqId (s : State) (ln : Nat) (p : Nat → Bool) (f : LineState → LineState) : (s.mapLine ln p f).reqId = s.reqId := rfl
@[simp] theorem State.mapLine_offered (s : State) (ln : Nat) (p : Nat → Bool) (f : LineState → LineState) : (s.mapLine ln p f).offered = s.offered := rfl
@[simp] theorem State.mapLine_lastPost (s : State) (ln : Nat) (p : Nat → Bool) (f : LineState → LineState) : (s.mapLine ln p f).lastPost = s.lastPost := rfl
@[simp] theorem State.mapLine_lastSig (s : State) (ln : Nat) (p : Nat → Bool) (f : LineState → LineState) : (s.mapLine ln p f).lastSig = s.lastSig := rfl
@[simp] theorem State.mapLine_recLast (s : State) (ln : Nat) (p : Nat → Bool) (f : LineState → LineState) : (s.mapLine ln p f).recLast = s.recLast := rfl
@[simp] theorem State.mapLine_recLate (s : State) (ln : Nat) (p : Nat → Bool) (f : LineState → LineState) : (s.mapLine ln p f).recLate = s.recLate := rfl
@[simp] theorem State.mapLine_stuck (s : State) (ln : Nat) (p : Nat → Bool) (f : LineState → LineState) : (s.mapLine ln p f).stuck = s.stuck := rfl
@[simp] theorem State.mapLine_cycle (s : State) (ln : Nat) (p : Nat → Bool) (f : LineState → LineState) : (s.mapLine ln p f).cycle = s.cycle := rfl
@[simp] theorem State.mapLine_mem (s : State) (ln : Nat) (p : Nat → Bool) (f : LineState → LineState) : (s.mapLine ln p f).mem = s.mem := rfl
@[simp] theorem State.mapLine_poison (s : State) (ln : Nat) (p : Nat → Bool) (f : LineState → LineState) : (s.mapLine ln p f).poison = s.poison := rfl
@[simp] theorem State.mapLine_peerMem (s : State) (ln : Nat) (p : Nat → Bool) (f : LineState → LineState) : (s.mapLine ln p f).peerMem = s.peerMem := rfl
@[simp] theorem State.mapLine_stores (s : State) (ln : Nat) (p : Nat → Bool) (f : LineState → LineState) : (s.mapLine ln p f).stores = s.stores := rfl
@[simp] theorem State.mapLine_regStores (s : State) (ln : Nat) (p : Nat → Bool) (f : LineState → LineState) : (s.mapLine ln p f).regStores = s.regStores := rfl
@[simp] theorem State.mapLine_dieTlb (s : State) (ln : Nat) (p : Nat → Bool) (f : LineState → LineState) : (s.mapLine ln p f).dieTlb = s.dieTlb := rfl
@[simp] theorem State.mapLine_dieTabs (s : State) (ln : Nat) (p : Nat → Bool) (f : LineState → LineState) : (s.mapLine ln p f).dieTabs = s.dieTabs := rfl
@[simp] theorem State.mapLine_walks (s : State) (ln : Nat) (p : Nat → Bool) (f : LineState → LineState) : (s.mapLine ln p f).walks = s.walks := rfl
@[simp] theorem State.mapLine_descs (s : State) (ln : Nat) (p : Nat → Bool) (f : LineState → LineState) : (s.mapLine ln p f).descs = s.descs := rfl
@[simp] theorem State.mapLine_grids (s : State) (ln : Nat) (p : Nat → Bool) (f : LineState → LineState) : (s.mapLine ln p f).grids = s.grids := rfl
@[simp] theorem State.mapLine_nextGrid (s : State) (ln : Nat) (p : Nat → Bool) (f : LineState → LineState) : (s.mapLine ln p f).nextGrid = s.nextGrid := rfl
@[simp] theorem State.mapLine_admitted (s : State) (ln : Nat) (p : Nat → Bool) (f : LineState → LineState) : (s.mapLine ln p f).admitted = s.admitted := rfl
@[simp] theorem State.mapLine_lpres (s : State) (ln : Nat) (p : Nat → Bool) (f : LineState → LineState) : (s.mapLine ln p f).lpres = s.lpres := rfl
@[simp] theorem State.mapLine_sapoolBase (s : State) (ln : Nat) (p : Nat → Bool) (f : LineState → LineState) : (s.mapLine ln p f).sapoolBase = s.sapoolBase := rfl
@[simp] theorem State.mapLine_sapoolCount (s : State) (ln : Nat) (p : Nat → Bool) (f : LineState → LineState) : (s.mapLine ln p f).sapoolCount = s.sapoolCount := rfl
@[simp] theorem State.mapLine_saved (s : State) (ln : Nat) (p : Nat → Bool) (f : LineState → LineState) : (s.mapLine ln p f).saved = s.saved := rfl
@[simp] theorem State.mapLine_sigHead (s : State) (ln : Nat) (p : Nat → Bool) (f : LineState → LineState) : (s.mapLine ln p f).sigHead = s.sigHead := rfl
@[simp] theorem State.mapLine_sigTail (s : State) (ln : Nat) (p : Nat → Bool) (f : LineState → LineState) : (s.mapLine ln p f).sigTail = s.sigTail := rfl
@[simp] theorem State.mapLine_fqs (s : State) (ln : Nat) (p : Nat → Bool) (f : LineState → LineState) : (s.mapLine ln p f).fqs = s.fqs := rfl
@[simp] theorem State.mapLine_unresolved (s : State) (ln : Nat) (p : Nat → Bool) (f : LineState → LineState) : (s.mapLine ln p f).unresolved = s.unresolved := rfl
@[simp] theorem State.mapLine_logHead (s : State) (ln : Nat) (p : Nat → Bool) (f : LineState → LineState) : (s.mapLine ln p f).logHead = s.logHead := rfl
@[simp] theorem State.mapLine_logTail (s : State) (ln : Nat) (p : Nat → Bool) (f : LineState → LineState) : (s.mapLine ln p f).logTail = s.logTail := rfl
@[simp] theorem State.mapLine_logDrop (s : State) (ln : Nat) (p : Nat → Bool) (f : LineState → LineState) : (s.mapLine ln p f).logDrop = s.logDrop := rfl
@[simp] theorem State.mapLine_parts (s : State) (ln : Nat) (p : Nat → Bool) (f : LineState → LineState) : (s.mapLine ln p f).parts = s.parts := rfl
@[simp] theorem State.mapLine_chsets (s : State) (ln : Nat) (p : Nat → Bool) (f : LineState → LineState) : (s.mapLine ln p f).chsets = s.chsets := rfl
@[simp] theorem State.mapLine_access (s : State) (ln : Nat) (p : Nat → Bool) (f : LineState → LineState) : (s.mapLine ln p f).access = s.access := rfl
@[simp] theorem State.mapLine_foldAccess (s : State) (ln : Nat) (p : Nat → Bool) (f : LineState → LineState) : (s.mapLine ln p f).foldAccess = s.foldAccess := rfl
@[simp] theorem State.mapLine_counters (s : State) (ln : Nat) (p : Nat → Bool) (f : LineState → LineState) : (s.mapLine ln p f).counters = s.counters := rfl
@[simp] theorem State.mapLine_refresh (s : State) (ln : Nat) (p : Nat → Bool) (f : LineState → LineState) : (s.mapLine ln p f).refresh = s.refresh := rfl
@[simp] theorem State.mapLine_allBank (s : State) (ln : Nat) (p : Nat → Bool) (f : LineState → LineState) : (s.mapLine ln p f).allBank = s.allBank := rfl
@[simp] theorem State.mapLine_retiredCh (s : State) (ln : Nat) (p : Nat → Bool) (f : LineState → LineState) : (s.mapLine ln p f).retiredCh = s.retiredCh := rfl
@[simp] theorem State.mapLine_errors (s : State) (ln : Nat) (p : Nat → Bool) (f : LineState → LineState) : (s.mapLine ln p f).errors = s.errors := rfl
@[simp] theorem State.mapLine_threshold (s : State) (ln : Nat) (p : Nat → Bool) (f : LineState → LineState) : (s.mapLine ln p f).threshold = s.threshold := rfl
@[simp] theorem State.mapLine_erred (s : State) (ln : Nat) (p : Nat → Bool) (f : LineState → LineState) : (s.mapLine ln p f).erred = s.erred := rfl
@[simp] theorem State.mapLine_window (s : State) (ln : Nat) (p : Nat → Bool) (f : LineState → LineState) : (s.mapLine ln p f).window = s.window := rfl
@[simp] theorem State.mapLine_retiredUnits (s : State) (ln : Nat) (p : Nat → Bool) (f : LineState → LineState) : (s.mapLine ln p f).retiredUnits = s.retiredUnits := rfl
@[simp] theorem State.mapLine_folds (s : State) (ln : Nat) (p : Nat → Bool) (f : LineState → LineState) : (s.mapLine ln p f).folds = s.folds := rfl
@[simp] theorem State.mapLine_xdies (s : State) (ln : Nat) (p : Nat → Bool) (f : LineState → LineState) : (s.mapLine ln p f).xdies = s.xdies := rfl
@[simp] theorem State.mapLine_dirWaits (s : State) (ln : Nat) (p : Nat → Bool) (f : LineState → LineState) : (s.mapLine ln p f).dirWaits = s.dirWaits := rfl
@[simp] theorem State.mapLine_retries (s : State) (ln : Nat) (p : Nat → Bool) (f : LineState → LineState) : (s.mapLine ln p f).retries = s.retries := rfl
@[simp] theorem State.mapLine_msgs (s : State) (ln : Nat) (p : Nat → Bool) (f : LineState → LineState) : (s.mapLine ln p f).msgs = s.msgs := rfl
@[simp] theorem State.mapLine_ports (s : State) (ln : Nat) (p : Nat → Bool) (f : LineState → LineState) : (s.mapLine ln p f).ports = s.ports := rfl
@[simp] theorem State.mapLine_domain (s : State) (ln : Nat) (p : Nat → Bool) (f : LineState → LineState) : (s.mapLine ln p f).domain = s.domain := rfl
@[simp] theorem State.mapLine_boot (s : State) (ln : Nat) (p : Nat → Bool) (f : LineState → LineState) : (s.mapLine ln p f).boot = s.boot := rfl

@[simp] theorem State.unload_tick (s : State) (ids : List Nat) : (s.unload ids).tick = s.tick := rfl
@[simp] theorem State.unload_inputs (s : State) (ids : List Nat) : (s.unload ids).inputs = s.inputs := rfl
@[simp] theorem State.unload_core (s : State) (ids : List Nat) : (s.unload ids).core = s.core := rfl
@[simp] theorem State.unload_grp (s : State) (ids : List Nat) : (s.unload ids).grp = s.grp := rfl
@[simp] theorem State.unload_reqId (s : State) (ids : List Nat) : (s.unload ids).reqId = s.reqId := rfl
@[simp] theorem State.unload_offered (s : State) (ids : List Nat) : (s.unload ids).offered = s.offered := rfl
@[simp] theorem State.unload_lastPost (s : State) (ids : List Nat) : (s.unload ids).lastPost = s.lastPost := rfl
@[simp] theorem State.unload_lastSig (s : State) (ids : List Nat) : (s.unload ids).lastSig = s.lastSig := rfl
@[simp] theorem State.unload_recLast (s : State) (ids : List Nat) : (s.unload ids).recLast = s.recLast := rfl
@[simp] theorem State.unload_recLate (s : State) (ids : List Nat) : (s.unload ids).recLate = s.recLate := rfl
@[simp] theorem State.unload_stuck (s : State) (ids : List Nat) : (s.unload ids).stuck = s.stuck := rfl
@[simp] theorem State.unload_cycle (s : State) (ids : List Nat) : (s.unload ids).cycle = s.cycle := rfl
@[simp] theorem State.unload_mem (s : State) (ids : List Nat) : (s.unload ids).mem = s.mem := rfl
@[simp] theorem State.unload_poison (s : State) (ids : List Nat) : (s.unload ids).poison = s.poison := rfl
@[simp] theorem State.unload_peerMem (s : State) (ids : List Nat) : (s.unload ids).peerMem = s.peerMem := rfl
@[simp] theorem State.unload_stores (s : State) (ids : List Nat) : (s.unload ids).stores = s.stores := rfl
@[simp] theorem State.unload_regStores (s : State) (ids : List Nat) : (s.unload ids).regStores = s.regStores := rfl
@[simp] theorem State.unload_dieTlb (s : State) (ids : List Nat) : (s.unload ids).dieTlb = s.dieTlb := rfl
@[simp] theorem State.unload_dieTabs (s : State) (ids : List Nat) : (s.unload ids).dieTabs = s.dieTabs := rfl
@[simp] theorem State.unload_walks (s : State) (ids : List Nat) : (s.unload ids).walks = s.walks := rfl
@[simp] theorem State.unload_descs (s : State) (ids : List Nat) : (s.unload ids).descs = s.descs := rfl
@[simp] theorem State.unload_cores (s : State) (ids : List Nat) : (s.unload ids).cores = s.cores := rfl
@[simp] theorem State.unload_grids (s : State) (ids : List Nat) : (s.unload ids).grids = s.grids := rfl
@[simp] theorem State.unload_nextGrid (s : State) (ids : List Nat) : (s.unload ids).nextGrid = s.nextGrid := rfl
@[simp] theorem State.unload_admitted (s : State) (ids : List Nat) : (s.unload ids).admitted = s.admitted := rfl
@[simp] theorem State.unload_lpres (s : State) (ids : List Nat) : (s.unload ids).lpres = s.lpres := rfl
@[simp] theorem State.unload_sapoolBase (s : State) (ids : List Nat) : (s.unload ids).sapoolBase = s.sapoolBase := rfl
@[simp] theorem State.unload_sapoolCount (s : State) (ids : List Nat) : (s.unload ids).sapoolCount = s.sapoolCount := rfl
@[simp] theorem State.unload_saved (s : State) (ids : List Nat) : (s.unload ids).saved = s.saved := rfl
@[simp] theorem State.unload_sigHead (s : State) (ids : List Nat) : (s.unload ids).sigHead = s.sigHead := rfl
@[simp] theorem State.unload_sigTail (s : State) (ids : List Nat) : (s.unload ids).sigTail = s.sigTail := rfl
@[simp] theorem State.unload_fqs (s : State) (ids : List Nat) : (s.unload ids).fqs = s.fqs := rfl
@[simp] theorem State.unload_unresolved (s : State) (ids : List Nat) : (s.unload ids).unresolved = s.unresolved := rfl
@[simp] theorem State.unload_logHead (s : State) (ids : List Nat) : (s.unload ids).logHead = s.logHead := rfl
@[simp] theorem State.unload_logTail (s : State) (ids : List Nat) : (s.unload ids).logTail = s.logTail := rfl
@[simp] theorem State.unload_logDrop (s : State) (ids : List Nat) : (s.unload ids).logDrop = s.logDrop := rfl
@[simp] theorem State.unload_parts (s : State) (ids : List Nat) : (s.unload ids).parts = s.parts := rfl
@[simp] theorem State.unload_chsets (s : State) (ids : List Nat) : (s.unload ids).chsets = s.chsets := rfl
@[simp] theorem State.unload_access (s : State) (ids : List Nat) : (s.unload ids).access = s.access := rfl
@[simp] theorem State.unload_foldAccess (s : State) (ids : List Nat) : (s.unload ids).foldAccess = s.foldAccess := rfl
@[simp] theorem State.unload_counters (s : State) (ids : List Nat) : (s.unload ids).counters = s.counters := rfl
@[simp] theorem State.unload_refresh (s : State) (ids : List Nat) : (s.unload ids).refresh = s.refresh := rfl
@[simp] theorem State.unload_allBank (s : State) (ids : List Nat) : (s.unload ids).allBank = s.allBank := rfl
@[simp] theorem State.unload_retiredCh (s : State) (ids : List Nat) : (s.unload ids).retiredCh = s.retiredCh := rfl
@[simp] theorem State.unload_errors (s : State) (ids : List Nat) : (s.unload ids).errors = s.errors := rfl
@[simp] theorem State.unload_threshold (s : State) (ids : List Nat) : (s.unload ids).threshold = s.threshold := rfl
@[simp] theorem State.unload_erred (s : State) (ids : List Nat) : (s.unload ids).erred = s.erred := rfl
@[simp] theorem State.unload_window (s : State) (ids : List Nat) : (s.unload ids).window = s.window := rfl
@[simp] theorem State.unload_retiredUnits (s : State) (ids : List Nat) : (s.unload ids).retiredUnits = s.retiredUnits := rfl
@[simp] theorem State.unload_folds (s : State) (ids : List Nat) : (s.unload ids).folds = s.folds := rfl
@[simp] theorem State.unload_xdies (s : State) (ids : List Nat) : (s.unload ids).xdies = s.xdies := rfl
@[simp] theorem State.unload_dirWaits (s : State) (ids : List Nat) : (s.unload ids).dirWaits = s.dirWaits := rfl
@[simp] theorem State.unload_retries (s : State) (ids : List Nat) : (s.unload ids).retries = s.retries := rfl
@[simp] theorem State.unload_msgs (s : State) (ids : List Nat) : (s.unload ids).msgs = s.msgs := rfl
@[simp] theorem State.unload_domain (s : State) (ids : List Nat) : (s.unload ids).domain = s.domain := rfl
@[simp] theorem State.unload_boot (s : State) (ids : List Nat) : (s.unload ids).boot = s.boot := rfl

@[simp] theorem Group.setIt_s (g : Group) (n : Nat) (r : IterRec) : (g.setIt n r).s = g.s := rfl
@[simp] theorem Group.setIt_m (g : Group) (n : Nat) (r : IterRec) : (g.setIt n r).m = g.m := rfl
@[simp] theorem Group.setIt_v (g : Group) (n : Nat) (r : IterRec) : (g.setIt n r).v = g.v := rfl
@[simp] theorem Group.setIt_pc (g : Group) (n : Nat) (r : IterRec) : (g.setIt n r).pc = g.pc := rfl
@[simp] theorem Group.setIt_repcnt (g : Group) (n : Nat) (r : IterRec) : (g.setIt n r).repcnt = g.repcnt := rfl
@[simp] theorem Group.setIt_exited (g : Group) (n : Nat) (r : IterRec) : (g.setIt n r).exited = g.exited := rfl
@[simp] theorem Group.setIt_waits (g : Group) (n : Nat) (r : IterRec) : (g.setIt n r).waits = g.waits := rfl
@[simp] theorem Group.setIt_windows (g : Group) (n : Nat) (r : IterRec) : (g.setIt n r).windows = g.windows := rfl
@[simp] theorem Group.setIt_outstanding (g : Group) (n : Nat) (r : IterRec) : (g.setIt n r).outstanding = g.outstanding := rfl
@[simp] theorem Group.setIt_flags (g : Group) (n : Nat) (r : IterRec) : (g.setIt n r).flags = g.flags := rfl
@[simp] theorem Group.setIt_frame (g : Group) (n : Nat) (r : IterRec) : (g.setIt n r).frame = g.frame := rfl
@[simp] theorem Group.setIt_trapmask (g : Group) (n : Nat) (r : IterRec) : (g.setIt n r).trapmask = g.trapmask := rfl
@[simp] theorem Group.setIt_retpc (g : Group) (n : Nat) (r : IterRec) : (g.setIt n r).retpc = g.retpc := rfl
@[simp] theorem Group.setIt_retrep (g : Group) (n : Nat) (r : IterRec) : (g.setIt n r).retrep = g.retrep := rfl
@[simp] theorem Group.setIt_trapinfo (g : Group) (n : Nat) (r : IterRec) : (g.setIt n r).trapinfo = g.trapinfo := rfl
@[simp] theorem Group.setIt_lastIssue (g : Group) (n : Nat) (r : IterRec) : (g.setIt n r).lastIssue = g.lastIssue := rfl
@[simp] theorem Group.setIt_copyWait (g : Group) (n : Nat) (r : IterRec) : (g.setIt n r).copyWait = g.copyWait := rfl

@[simp] theorem Group.setPcs_s (g : Group) (ls : List Nat) (p : Nat) : (g.setPcs ls p).s = g.s := rfl
@[simp] theorem Group.setPcs_m (g : Group) (ls : List Nat) (p : Nat) : (g.setPcs ls p).m = g.m := rfl
@[simp] theorem Group.setPcs_it (g : Group) (ls : List Nat) (p : Nat) : (g.setPcs ls p).it = g.it := rfl
@[simp] theorem Group.setPcs_v (g : Group) (ls : List Nat) (p : Nat) : (g.setPcs ls p).v = g.v := rfl
@[simp] theorem Group.setPcs_repcnt (g : Group) (ls : List Nat) (p : Nat) : (g.setPcs ls p).repcnt = g.repcnt := rfl
@[simp] theorem Group.setPcs_exited (g : Group) (ls : List Nat) (p : Nat) : (g.setPcs ls p).exited = g.exited := rfl
@[simp] theorem Group.setPcs_waits (g : Group) (ls : List Nat) (p : Nat) : (g.setPcs ls p).waits = g.waits := rfl
@[simp] theorem Group.setPcs_windows (g : Group) (ls : List Nat) (p : Nat) : (g.setPcs ls p).windows = g.windows := rfl
@[simp] theorem Group.setPcs_outstanding (g : Group) (ls : List Nat) (p : Nat) : (g.setPcs ls p).outstanding = g.outstanding := rfl
@[simp] theorem Group.setPcs_flags (g : Group) (ls : List Nat) (p : Nat) : (g.setPcs ls p).flags = g.flags := rfl
@[simp] theorem Group.setPcs_frame (g : Group) (ls : List Nat) (p : Nat) : (g.setPcs ls p).frame = g.frame := rfl
@[simp] theorem Group.setPcs_trapmask (g : Group) (ls : List Nat) (p : Nat) : (g.setPcs ls p).trapmask = g.trapmask := rfl
@[simp] theorem Group.setPcs_retpc (g : Group) (ls : List Nat) (p : Nat) : (g.setPcs ls p).retpc = g.retpc := rfl
@[simp] theorem Group.setPcs_retrep (g : Group) (ls : List Nat) (p : Nat) : (g.setPcs ls p).retrep = g.retrep := rfl
@[simp] theorem Group.setPcs_trapinfo (g : Group) (ls : List Nat) (p : Nat) : (g.setPcs ls p).trapinfo = g.trapinfo := rfl
@[simp] theorem Group.setPcs_lastIssue (g : Group) (ls : List Nat) (p : Nat) : (g.setPcs ls p).lastIssue = g.lastIssue := rfl
@[simp] theorem Group.setPcs_copyWait (g : Group) (ls : List Nat) (p : Nat) : (g.setPcs ls p).copyWait = g.copyWait := rfl

@[simp] theorem Group.setReps_s (g : Group) (ls : List Nat) (r : Nat) : (g.setReps ls r).s = g.s := rfl
@[simp] theorem Group.setReps_m (g : Group) (ls : List Nat) (r : Nat) : (g.setReps ls r).m = g.m := rfl
@[simp] theorem Group.setReps_it (g : Group) (ls : List Nat) (r : Nat) : (g.setReps ls r).it = g.it := rfl
@[simp] theorem Group.setReps_v (g : Group) (ls : List Nat) (r : Nat) : (g.setReps ls r).v = g.v := rfl
@[simp] theorem Group.setReps_pc (g : Group) (ls : List Nat) (r : Nat) : (g.setReps ls r).pc = g.pc := rfl
@[simp] theorem Group.setReps_exited (g : Group) (ls : List Nat) (r : Nat) : (g.setReps ls r).exited = g.exited := rfl
@[simp] theorem Group.setReps_waits (g : Group) (ls : List Nat) (r : Nat) : (g.setReps ls r).waits = g.waits := rfl
@[simp] theorem Group.setReps_windows (g : Group) (ls : List Nat) (r : Nat) : (g.setReps ls r).windows = g.windows := rfl
@[simp] theorem Group.setReps_outstanding (g : Group) (ls : List Nat) (r : Nat) : (g.setReps ls r).outstanding = g.outstanding := rfl
@[simp] theorem Group.setReps_flags (g : Group) (ls : List Nat) (r : Nat) : (g.setReps ls r).flags = g.flags := rfl
@[simp] theorem Group.setReps_frame (g : Group) (ls : List Nat) (r : Nat) : (g.setReps ls r).frame = g.frame := rfl
@[simp] theorem Group.setReps_trapmask (g : Group) (ls : List Nat) (r : Nat) : (g.setReps ls r).trapmask = g.trapmask := rfl
@[simp] theorem Group.setReps_retpc (g : Group) (ls : List Nat) (r : Nat) : (g.setReps ls r).retpc = g.retpc := rfl
@[simp] theorem Group.setReps_retrep (g : Group) (ls : List Nat) (r : Nat) : (g.setReps ls r).retrep = g.retrep := rfl
@[simp] theorem Group.setReps_trapinfo (g : Group) (ls : List Nat) (r : Nat) : (g.setReps ls r).trapinfo = g.trapinfo := rfl
@[simp] theorem Group.setReps_lastIssue (g : Group) (ls : List Nat) (r : Nat) : (g.setReps ls r).lastIssue = g.lastIssue := rfl
@[simp] theorem Group.setReps_copyWait (g : Group) (ls : List Nat) (r : Nat) : (g.setReps ls r).copyWait = g.copyWait := rfl

@[simp] theorem Group.release_s (g : Group) (p : WaitKind → Bool) : (g.release p).s = g.s := rfl
@[simp] theorem Group.release_m (g : Group) (p : WaitKind → Bool) : (g.release p).m = g.m := rfl
@[simp] theorem Group.release_it (g : Group) (p : WaitKind → Bool) : (g.release p).it = g.it := rfl
@[simp] theorem Group.release_v (g : Group) (p : WaitKind → Bool) : (g.release p).v = g.v := rfl
@[simp] theorem Group.release_pc (g : Group) (p : WaitKind → Bool) : (g.release p).pc = g.pc := rfl
@[simp] theorem Group.release_repcnt (g : Group) (p : WaitKind → Bool) : (g.release p).repcnt = g.repcnt := rfl
@[simp] theorem Group.release_exited (g : Group) (p : WaitKind → Bool) : (g.release p).exited = g.exited := rfl
@[simp] theorem Group.release_windows (g : Group) (p : WaitKind → Bool) : (g.release p).windows = g.windows := rfl
@[simp] theorem Group.release_outstanding (g : Group) (p : WaitKind → Bool) : (g.release p).outstanding = g.outstanding := rfl
@[simp] theorem Group.release_flags (g : Group) (p : WaitKind → Bool) : (g.release p).flags = g.flags := rfl
@[simp] theorem Group.release_frame (g : Group) (p : WaitKind → Bool) : (g.release p).frame = g.frame := rfl
@[simp] theorem Group.release_trapmask (g : Group) (p : WaitKind → Bool) : (g.release p).trapmask = g.trapmask := rfl
@[simp] theorem Group.release_retpc (g : Group) (p : WaitKind → Bool) : (g.release p).retpc = g.retpc := rfl
@[simp] theorem Group.release_retrep (g : Group) (p : WaitKind → Bool) : (g.release p).retrep = g.retrep := rfl
@[simp] theorem Group.release_trapinfo (g : Group) (p : WaitKind → Bool) : (g.release p).trapinfo = g.trapinfo := rfl
@[simp] theorem Group.release_lastIssue (g : Group) (p : WaitKind → Bool) : (g.release p).lastIssue = g.lastIssue := rfl
@[simp] theorem Group.release_copyWait (g : Group) (p : WaitKind → Bool) : (g.release p).copyWait = g.copyWait := rfl

@[simp] theorem Team.setGroup_grid (t : Team) (g : Nat) (x : Group) : (t.setGroup g x).grid = t.grid := rfl
@[simp] theorem Team.setGroup_ctx (t : Team) (g : Nat) (x : Group) : (t.setGroup g x).ctx = t.ctx := rfl
@[simp] theorem Team.setGroup_gridid (t : Team) (g : Nat) (x : Group) : (t.setGroup g x).gridid = t.gridid := rfl
@[simp] theorem Team.setGroup_nteam (t : Team) (g : Nat) (x : Group) : (t.setGroup g x).nteam = t.nteam := rfl
@[simp] theorem Team.setGroup_teamid (t : Team) (g : Nat) (x : Group) : (t.setGroup g x).teamid = t.teamid := rfl
@[simp] theorem Team.setGroup_clid (t : Team) (g : Nat) (x : Group) : (t.setGroup g x).clid = t.clid := rfl
@[simp] theorem Team.setGroup_clrank (t : Team) (g : Nat) (x : Group) : (t.setGroup g x).clrank = t.clrank := rfl
@[simp] theorem Team.setGroup_rows (t : Team) (g : Nat) (x : Group) : (t.setGroup g x).rows = t.rows := rfl
@[simp] theorem Team.setGroup_cols (t : Team) (g : Nat) (x : Group) : (t.setGroup g x).cols = t.cols := rfl
@[simp] theorem Team.setGroup_tr (t : Team) (g : Nat) (x : Group) : (t.setGroup g x).tr = t.tr := rfl
@[simp] theorem Team.setGroup_ngrp (t : Team) (g : Nat) (x : Group) : (t.setGroup g x).ngrp = t.ngrp := rfl
@[simp] theorem Team.setGroup_partw (t : Team) (g : Nat) (x : Group) : (t.setGroup g x).partw = t.partw := rfl
@[simp] theorem Team.setGroup_regalloc (t : Team) (g : Nat) (x : Group) : (t.setGroup g x).regalloc = t.regalloc := rfl
@[simp] theorem Team.setGroup_hEn (t : Team) (g : Nat) (x : Group) : (t.setGroup g x).hEn = t.hEn := rfl
@[simp] theorem Team.setGroup_hAddr (t : Team) (g : Nat) (x : Group) : (t.setGroup g x).hAddr = t.hAddr := rfl
@[simp] theorem Team.setGroup_launch (t : Team) (g : Nat) (x : Group) : (t.setGroup g x).launch = t.launch := rfl
@[simp] theorem Team.setGroup_twin (t : Team) (g : Nat) (x : Group) : (t.setGroup g x).twin = t.twin := rfl
@[simp] theorem Team.setGroup_codeVa (t : Team) (g : Nat) (x : Group) : (t.setGroup g x).codeVa = t.codeVa := rfl
@[simp] theorem Team.setGroup_codeSz (t : Team) (g : Nat) (x : Group) : (t.setGroup g x).codeSz = t.codeSz := rfl
@[simp] theorem Team.setGroup_active (t : Team) (g : Nat) (x : Group) : (t.setGroup g x).active = t.active := rfl
@[simp] theorem Team.setGroup_pending (t : Team) (g : Nat) (x : Group) : (t.setGroup g x).pending = t.pending := rfl
@[simp] theorem Team.setGroup_readySince (t : Team) (g : Nat) (x : Group) : (t.setGroup g x).readySince = t.readySince := rfl
@[simp] theorem Team.setGroup_swap (t : Team) (g : Nat) (x : Group) : (t.setGroup g x).swap = t.swap := rfl
@[simp] theorem Team.setGroup_scratch (t : Team) (g : Nat) (x : Group) : (t.setGroup g x).scratch = t.scratch := rfl
@[simp] theorem Team.setGroup_acc (t : Team) (g : Nat) (x : Group) : (t.setGroup g x).acc = t.acc := rfl
@[simp] theorem Team.setGroup_rowstat (t : Team) (g : Nat) (x : Group) : (t.setGroup g x).rowstat = t.rowstat := rfl
@[simp] theorem Team.setGroup_beta (t : Team) (g : Nat) (x : Group) : (t.setGroup g x).beta = t.beta := rfl
@[simp] theorem Team.setGroup_dbound (t : Team) (g : Nat) (x : Group) : (t.setGroup g x).dbound = t.dbound := rfl
@[simp] theorem Team.setGroup_barriers (t : Team) (g : Nat) (x : Group) : (t.setGroup g x).barriers = t.barriers := rfl
@[simp] theorem Team.setGroup_serial (t : Team) (g : Nat) (x : Group) : (t.setGroup g x).serial = t.serial := rfl
@[simp] theorem Team.setGroup_ops (t : Team) (g : Nat) (x : Group) : (t.setGroup g x).ops = t.ops := rfl
@[simp] theorem Team.setGroup_walk (t : Team) (g : Nat) (x : Group) : (t.setGroup g x).walk = t.walk := rfl
@[simp] theorem Team.setGroup_lastRun (t : Team) (g : Nat) (x : Group) : (t.setGroup g x).lastRun = t.lastRun := rfl
@[simp] theorem Team.setGroup_stoppedAt (t : Team) (g : Nat) (x : Group) : (t.setGroup g x).stoppedAt = t.stoppedAt := rfl
@[simp] theorem Team.setGroup_checkpoint (t : Team) (g : Nat) (x : Group) : (t.setGroup g x).checkpoint = t.checkpoint := rfl
@[simp] theorem Team.setGroup_irrevocable (t : Team) (g : Nat) (x : Group) : (t.setGroup g x).irrevocable = t.irrevocable := rfl
@[simp] theorem Team.setGroup_held (t : Team) (g : Nat) (x : Group) : (t.setGroup g x).held = t.held := rfl
@[simp] theorem Team.setGroup_heldLanes (t : Team) (g : Nat) (x : Group) : (t.setGroup g x).heldLanes = t.heldLanes := rfl
@[simp] theorem Team.setGroup_atPoint (t : Team) (g : Nat) (x : Group) : (t.setGroup g x).atPoint = t.atPoint := rfl
@[simp] theorem Team.setGroup_atCompare (t : Team) (g : Nat) (x : Group) : (t.setGroup g x).atCompare = t.atCompare := rfl
@[simp] theorem Team.setGroup_passed (t : Team) (g : Nat) (x : Group) : (t.setGroup g x).passed = t.passed := rfl
@[simp] theorem Team.setGroup_after (t : Team) (g : Nat) (x : Group) : (t.setGroup g x).after = t.after := rfl
@[simp] theorem Team.setGroup_btFresh (t : Team) (g : Nat) (x : Group) : (t.setGroup g x).btFresh = t.btFresh := rfl
@[simp] theorem Team.setGroup_cpDue (t : Team) (g : Nat) (x : Group) : (t.setGroup g x).cpDue = t.cpDue := rfl
@[simp] theorem Team.setGroup_mismatched (t : Team) (g : Nat) (x : Group) : (t.setGroup g x).mismatched = t.mismatched := rfl

end Sys2Proof.Machine
end

