-- ==== Sys2Proof/Laws/Words.lean ====
section
/-! SUPPORT. What the shared bodies of word instructions do when nothing is in the way: scalar results, vector results,
mask results. -/
namespace Sys2Proof.Machine
open Sys2Proof

/-! ## Register accessors -/

theorem Group.sreg_setS (n : Nat) (v : Dword) (g : Group) (k : Nat) :
    (g.setS n v).sreg k = if k = n ∧ n ≠ 0 then v else g.sreg k := by
  unfold Group.setS Group.sreg
  by_cases hn : n = 0
  · simp [hn]
  · by_cases hk : k = 0
    · simp [hk, hn, eq_comm]
    · simp [hn, hk, tget_tput]

theorem Group.setS_control (n : Nat) (v : Dword) (g : Group) : g.SameControl (g.setS n v) := by
  unfold Group.setS; split <;> exact ⟨rfl, rfl, rfl, rfl, rfl, rfl, rfl⟩
@[simp] theorem Group.setS_pc (n : Nat) (v : Dword) (g : Group) : (g.setS n v).pc = g.pc := by unfold Group.setS; split <;> rfl
@[simp] theorem Group.setS_repcnt (n : Nat) (v : Dword) (g : Group) : (g.setS n v).repcnt = g.repcnt := by
  unfold Group.setS; split <;> rfl
@[simp] theorem Group.setS_v (n : Nat) (v : Dword) (g : Group) : (g.setS n v).v = g.v := by unfold Group.setS; split <;> rfl
@[simp] theorem Group.setS_m (n : Nat) (v : Dword) (g : Group) : (g.setS n v).m = g.m := by unfold Group.setS; split <;> rfl
@[simp] theorem Group.setS_it (n : Nat) (v : Dword) (g : Group) : (g.setS n v).it = g.it := by unfold Group.setS; split <;> rfl
@[simp] theorem Group.setS_flags (n : Nat) (v : Dword) (g : Group) : (g.setS n v).flags = g.flags := by
  unfold Group.setS; split <;> rfl

theorem Group.raise_eq (fl : Nat) (g : Group) : g.raise fl = { g with flags := g.flags ||| BitVec.ofNat 64 fl } := by
  unfold Group.raise
  split
  · next h => subst h; show g = { g with flags := g.flags ||| 0#64 }; rw [BitVec.or_zero]
  · rfl

theorem Group.SameRegs.sreg {g h : Group} (e : g.SameRegs h) (n : Nat) : h.sreg n = g.sreg n := by
  unfold Group.sreg; rw [e.s]
theorem Group.SameRegs.vreg {g h : Group} (e : g.SameRegs h) (n : Nat) : h.vreg n = g.vreg n := by
  unfold Group.vreg; rw [e.v]
theorem Group.SameRegs.lane {g h : Group} (e : g.SameRegs h) (n l : Nat) : h.lane n l = g.lane n l := by
  unfold Group.lane; rw [e.vreg]
theorem Group.SameRegs.tag {g h : Group} (e : g.SameRegs h) (n : Nat) : h.tag n = g.tag n := by
  unfold Group.tag; rw [e.vreg]
theorem Group.SameRegs.iter {g h : Group} (e : g.SameRegs h) (n : Nat) : h.iter n = g.iter n := by
  unfold Group.iter; rw [e.it]

/-! ## Scalar instructions (R137) -/

/-- A scalar instruction with nothing in its way writes its result to sD, discards a write to s0, and changes no other
register. -/
theorem execScalar_quiet {i : Instr} {maj min : Nat} {o : SOps} {s : State} (hq : s.quiet i = true) (hg : guardOf i = {}) :
    ∃ t, execScalar i maj min o s = .next t ∧ Changes i [o.d] [] [] [] s t
      ∧ (let r := scalarFn maj min o.u (s.group.sreg o.d) (opA s.group o) (opB s.group o)
         (∀ n, t.group.sreg n = if n = o.d ∧ o.d ≠ 0 then r.v else s.group.sreg n)
         ∧ RaisedFlags (if r.dz then 2 else 0) s.group t.group) := by
  have hd : s.doers i = s.group.issueSet := by simp [State.doers, hg, guardSet]
  generalize hr : scalarFn maj min o.u (s.group.sreg o.d) (opA s.group o) (opB s.group o) = r
  let f : Group → Group := fun g =>
    let r := scalarFn maj min o.u (g.sreg o.d) (opA g o) (opB g o)
    (g.setS o.d r.v).raise (if r.dz then fDZ else 0)
  have hf : f s.group = (s.group.setS o.d r.v).raise (if r.dz then 2 else 0) := by subst hr; rfl
  have hb : scBody maj min o ((s.issueOf (wordsOf i)).by (s.doers i)) s = Res.group s f := by
    show (if s.doers i = 0 then Res.skip s else Res.group s f) = _
    rw [if_neg (by rw [hd]; exact State.quiet_set hq)]
  have hc := Group.setS_control o.d r.v s.group
  rw [Group.raise_eq] at hf
  obtain ⟨t, ht, hfr, hs⟩ := issue_group (perform := State.performReqs) hq hb
    (by rw [hf]; exact ⟨hc.exited, hc.frame, hc.trapmask, hc.retpc, hc.retrep, hc.trapinfo, hc.outstanding⟩)
    (by rw [hf]; exact s.group.setS_pc _ _ ▸ rfl) (by rw [hf]; exact Group.setS_repcnt _ _ _)
    (.inr ⟨rfl, rfl⟩) (fun l h => by simp at h)
  have hn : ∀ n, t.group.sreg n = if n = o.d ∧ o.d ≠ 0 then r.v else s.group.sreg n := fun n => by
    rw [hs.sreg, hf]; exact Group.sreg_setS o.d r.v s.group n
  refine ⟨t, by rw [← ht]; rfl, ⟨hfr, fun n h => ?_, fun n _ => ?_, fun n _ => ?_, fun n _ => ?_⟩, hn, ?_⟩
  · rw [hn, if_neg]; rintro ⟨h1, -⟩; exact h (by simp [h1])
  · rw [hs.vreg, hf]; show tget {} (s.group.setS o.d r.v).v n = _; rw [Group.setS_v]; rfl
  · rw [hs.m, hf]; show tget 0 (s.group.setS o.d r.v).m n = _; rw [Group.setS_m]
  · rw [hs.iter, hf]; show tget {} (s.group.setS o.d r.v).it n = _; rw [Group.setS_it]; rfl
  · show t.group.flags = _
    rw [hs.flags, hf]; exact congrArg (· ||| _) (Group.setS_flags _ _ _)

/-! ## Vector writes (R54, R169) -/

theorem Group.vreg_setV (d tag : Nat) (vals : List (Nat × Word)) (g : Group) (n : Nat) :
    (g.setV d tag vals).vreg n =
      if n = d ∧ vals ≠ [] then { tag := tag, slots := tputs 0 (g.vreg d).slots vals } else g.vreg n := by
  unfold Group.setV
  cases vals with
  | nil => simp
  | cons a r =>
    show tget {} (tput {} g.v d _) n = _
    rw [tget_tput]
    by_cases h : n = d
    · simp [h]
    · simp [h]; rfl

theorem Group.setV_control (d tag : Nat) (vals : List (Nat × Word)) (g : Group) : g.SameControl (g.setV d tag vals) := by
  unfold Group.setV; split <;> exact ⟨rfl, rfl, rfl, rfl, rfl, rfl, rfl⟩
@[simp] theorem Group.setV_pc (d tag : Nat) (vals : List (Nat × Word)) (g : Group) : (g.setV d tag vals).pc = g.pc := by
  unfold Group.setV; split <;> rfl
@[simp] theorem Group.setV_repcnt (d tag : Nat) (vals : List (Nat × Word)) (g : Group) : (g.setV d tag vals).repcnt = g.repcnt := by
  unfold Group.setV; split <;> rfl
@[simp] theorem Group.setV_s (d tag : Nat) (vals : List (Nat × Word)) (g : Group) : (g.setV d tag vals).s = g.s := by
  unfold Group.setV; split <;> rfl
@[simp] theorem Group.setV_m (d tag : Nat) (vals : List (Nat × Word)) (g : Group) : (g.setV d tag vals).m = g.m := by
  unfold Group.setV; split <;> rfl
@[simp] theorem Group.setV_it (d tag : Nat) (vals : List (Nat × Word)) (g : Group) : (g.setV d tag vals).it = g.it := by
  unfold Group.setV; split <;> rfl
@[simp] theorem Group.setV_flags (d tag : Nat) (vals : List (Nat × Word)) (g : Group) : (g.setV d tag vals).flags = g.flags := by
  unfold Group.setV; split <;> rfl

/-- A write of the lanes of p. -/
theorem Group.wroteV (p : Dword) (d tag : Nat) (f : Nat → Word) (g : Group) :
    WroteV p d tag f g (g.setV d tag ((lanesOf p).map (fun l => (l, f l)))) := by
  unfold WroteV
  by_cases hp : p = 0
  · subst hp; rw [if_pos rfl, lanesOf_zero]; rfl
  · rw [if_neg hp]
    have hne : (lanesOf p).map (fun l => (l, f l)) ≠ [] := by
      rw [Ne, List.map_eq_nil_iff, lanesOf_eq_nil]; exact hp
    have hv : (g.setV d tag ((lanesOf p).map (fun l => (l, f l)))).vreg d =
        { tag := tag, slots := tputs 0 (g.vreg d).slots ((lanesOf p).map (fun l => (l, f l))) } := by
      rw [Group.vreg_setV, if_pos ⟨rfl, hne⟩]
    refine ⟨by unfold Group.tag; rw [hv], fun l _ => ?_⟩
    unfold Group.lane
    rw [hv]
    show tget 0 (tputs 0 (g.vreg d).slots ((lanesOf p).map (fun l => (l, f l)))) l = _
    rw [tget_tputs_map]
    simp only [mem_lanesOf]

theorem WroteV.congr {p : Dword} {n tag : Nat} {f : Nat → Word} {g h k : Group} (w : WroteV p n tag f g h) (e : h.SameRegs k) :
    WroteV p n tag f g k := by
  unfold WroteV at *
  split
  · next hp => rw [if_pos hp] at w; rw [e.vreg, w]
  · next hp =>
    rw [if_neg hp] at w
    exact ⟨by rw [e.tag]; exact w.1, fun l hl => by rw [e.lane]; exact w.2 l hl⟩

/-- An instruction that writes one vector register lane by lane. -/
theorem vecWrite_quiet {i : Instr} {body : Body} {s : State} {d tag : Nat} {f : Group → Nat → LaneRes} (hq : s.quiet i = true)
    (hb : body ((s.issueOf (wordsOf i)).by (s.doers i)) s = vecWrite d tag f ((s.issueOf (wordsOf i)).by (s.doers i)) s) :
    ∃ t, execWord i body s = .next t ∧ Changes i [] [d] [] [] s t
      ∧ WroteV (s.doers i) d tag (fun l => (f s.group l).w) s.group t.group
      ∧ RaisedFlags (flagsOf (s.doers i) (fun l => (f s.group l).fl)) s.group t.group := by
  let vals := (lanesOf (s.doers i)).map (fun l => (l, (f s.group l).w))
  let fl := flagsOf (s.doers i) (fun l => (f s.group l).fl)
  let F : Group → Group := fun g => (g.setV d tag vals).raise fl
  have hb' : body ((s.issueOf (wordsOf i)).by (s.doers i)) s = { s := s.modGroup F } := by
    rw [hb]
    show Res.group s _ = Res.group s F
    have e1 : ((lanesOf (s.doers i)).map (fun l => (l, f s.group l))).map (fun r => (r.1, r.2.w)) = vals := by
      rw [List.map_map]; rfl
    have e2 : orFlags (((lanesOf (s.doers i)).map (fun l => (l, f s.group l))).map Prod.snd) = fl := by
      rw [List.map_map]; show List.foldl _ 0 ((lanesOf (s.doers i)).map _) = _; rw [List.foldl_map]; rfl
    show Res.group s (fun g => (g.setV d tag (((lanesOf (s.doers i)).map (fun l => (l, f s.group l))).map (fun r => (r.1, r.2.w)))).raise
      (orFlags (((lanesOf (s.doers i)).map (fun l => (l, f s.group l))).map Prod.snd))) = _
    rw [e1, e2]
  have hF : F s.group = { s.group.setV d tag vals with flags := s.group.flags ||| BitVec.ofNat 64 fl } := by
    show Group.raise fl _ = _
    rw [Group.raise_eq, Group.setV_flags]
  have hc := Group.setV_control d tag vals s.group
  obtain ⟨t, ht, hfr, hs⟩ := issue_group (perform := State.performReqs) (f := F) (p := 0) (dest := 0) hq hb'
    (by rw [hF]; exact ⟨hc.exited, hc.frame, hc.trapmask, hc.retpc, hc.retrep, hc.trapinfo, hc.outstanding⟩)
    (by rw [hF]; exact Group.setV_pc d tag vals s.group) (by rw [hF]; exact Group.setV_repcnt d tag vals s.group)
    (.inr ⟨rfl, rfl⟩) (fun l h => by simp at h)
  have hv : ∀ n, (F s.group).vreg n = (s.group.setV d tag vals).vreg n := fun n => by rw [hF]; rfl
  refine ⟨t, by rw [← ht]; rfl, ⟨hfr, fun n _ => ?_, fun n h => ?_, fun n _ => ?_, fun n _ => ?_⟩, ?_, ?_⟩
  · rw [hs.sreg, hF]; show Group.sreg { s.group.setV d tag vals with flags := _ } n = _
    unfold Group.sreg; show (if n = 0 then 0 else tget 0 (s.group.setV d tag vals).s n) = _; rw [Group.setV_s]
  · rw [hs.vreg, hv, Group.vreg_setV, if_neg]; rintro ⟨h1, -⟩; exact h (by simp [h1])
  · rw [hs.m, hF]; show tget 0 (s.group.setV d tag vals).m n = _; rw [Group.setV_m]
  · rw [hs.iter, hF]; show tget {} (s.group.setV d tag vals).it n = _; rw [Group.setV_it]; rfl
  · refine WroteV.congr (h := F s.group) ?_ hs
    have := Group.wroteV (s.doers i) d tag (fun l => (f s.group l).w) s.group
    unfold WroteV at *
    split
    · next hp => rw [if_pos hp] at this; rw [hv]; exact this
    · next hp =>
      rw [if_neg hp] at this
      exact ⟨by unfold Group.tag; rw [hv]; exact this.1, fun l hl => by unfold Group.lane; rw [hv]; exact this.2 l hl⟩
  · show t.group.flags = _; rw [hs.flags, hF]

/-- Accepted source tags let the body run (R55). -/
theorem checkTags_ok {ok : Group → Bool} {body : Body} {iss : Issue} {s : State} (h : ok s.group = true) :
    checkTags ok body iss s = body iss s := by
  unfold checkTags; simp [h]

end Sys2Proof.Machine
end

