-- ==== Sys2Proof/Tests/Slice0.lean ====
section
/-! SUPPORT. Tests: words that the manual writes out, ill-formed instructions refused, single steps whose results the
manual gives, and states that meet the hypotheses of the statements. -/
namespace Sys2Proof.Tests
set_option Elab.async false
open Sys2Proof Sys2Proof.Machine

/-! ## Words of the manual decode to its instructions -/

/-- Scalar words (manual, after R143, and the program of R149). -/
theorem test_decode_scalar :
    decode 768 [0x0C142000] = .ok (.sadd { d := 4, a := 5, b := 6 }) 1
      ∧ decode 768 [0x12223C00] = .ok (.sdiv { d := 7, a := 8, b := 9, u := true }) 1
      ∧ decode 768 [0x87102400] = .ok (.sshl { d := 4, a := 4, b := 3, bi := true }) 1
      ∧ decode 768 [0xDA001004] = .ok (.smov { d := 2, b := 45, bi := true }) 1
      ∧ decode 768 [0x00001106, 0, 1] = .ok (.sli { d := 2, lit := some 0x100000000 }) 3
      ∧ decode 768 [0x06082500] = .ok (.srem { d := 4, a := 2, b := 3 }) 1 := by decide +kernel

/-- Branches and control words (after R134, R149 to R158, R166). -/
theorem test_decode_control :
    decode 768 [0x00140011, 0, 0x400] = .ok (.jmp { disp := 5, ext := true, g := ⟨1, false⟩ }) 3
      ∧ decode 768 [0x000C0710] = .ok (.call { disp := 3 }) 1
      ∧ decode 768 [0x00000214] = .ok (.ret {}) 1 ∧ decode 768 [0x00000314] = .ok (.exit {}) 1
      ∧ decode 768 [0x00000414] = .ok (.yield {}) 1 ∧ decode 768 [0x00000514] = .ok (.sleep {}) 1
      ∧ decode 768 [0x00000614] = .ok (.nop {}) 1 ∧ decode 768 [0x00000F14] = .ok (.elect { d := 1 }) 1
      ∧ decode 768 [0x0C142018] = .ok (.sleepto { d := 4, a := 5, b := 6 }) 1
      ∧ decode 768 [0x00102318] = .ok (.rdsr { d := 4, a := 4 }) 1
      ∧ decode 768 [0x02002B18] = .ok (.rdsrC { d := 5, b := 1 }) 1
      ∧ decode 768 [0x00004C18] = .ok (.rdclk { d := 9 }) 1
      ∧ decode 768 [0x0A000118] = .ok (.trap { b := 5 }) 1
      ∧ decode 768 [0x00000218] = .ok (.tret {}) 1 ∧ decode 768 [0x00000A18] = .ok (.tretSkip { d := 1 }) 1
      ∧ decode 768 [0x00001218] = .ok (.tretPass { d := 2 }) 1 := by decide +kernel

/-- Vector words (R175, R180 to R200, after R134). -/
theorem test_decode_vector :
    decode 768 [0x101C1230] = .ok (.vcmpN32 2 { d := 2, a := 7, b := 8 }) 1
      ∧ decode 768 [0x0C142040] = .ok (.vfaddF32 { d := 4, a := 5, b := 6 }) 1
      ∧ decode 768 [0x00000041, 0x406014C8, 0x00000C00] =
          .ok (.vfaddF32 { d := 200, a := 5, b := 6, ext := true, rm := 1, g := ⟨3, false⟩ }) 3
      ∧ decode 768 [0x101C924C] = .ok (.vfcmp 2 { d := 18, a := 7, b := 8 }) 1
      ∧ decode 768 [0x101E924C] = .illegal 5 ∧ decode 768 [0x00102950] = .ok (.vexp2 { d := 5, a := 4 }) 1
      ∧ decode 768 [0x02244958] = .ok (.vtag { d := 9, a := 9, b := 1 }) 1
      ∧ decode 768 [0x00009059, 0x00002004, 0] = .ok (.vcvt { d := 4, a := 8, ext := true, bf := 18 }) 3
      ∧ decode 768 [0x20183260] = .ok (.vxlaneBfly { d := 6, a := 6, b := 16 }) 1
      ∧ decode 768 [0x10081C60] = .ok (.vred { d := 3, a := 2, b := 8 }) 1
      ∧ decode 768 [0x28100064] = .ok (.vstatAcc { a := 4, b := 20 }) 1
      ∧ decode 768 [0x2C100864] = .ok (.vstatRd { d := 1, a := 4, b := 22 }) 1
      ∧ decode 768 [0x00201074] = .ok (.itset { d := 2, a := 8 }) 1
      ∧ decode 768 [0x00082974] = .ok (.itrd { d := 5, a := 2 }) 1
      ∧ decode 768 [0x00082079, 0x12C32064, 0] =
          .ok (.sweep 2 (.vfaddF32 { d := 100, a := 200, b := 300, ext := true })) 3 := by decide +kernel

/-- Memory words (R207 to R227, R276 on). -/
theorem test_decode_memory :
    decode 768 [0x86101084] = .ok (.st { d := 4, off := 3, ov := true, bt := 1 }) 1
      ∧ decode 768 [0x08140088] = .ok (.sld { d := 5, off := 4 }) 1
      ∧ decode 768 [0x0E105082, 0x80, 0] = .ok (.ld { d := 4, off := 7, bt := 5, lit := some 0x80 }) 3
      ∧ decode 768 [0x00005085, 0x00000006, 0x00200200] = .ok (.st { d := 6, bt := 2, ext := true, scope := 5, ord := 2 }) 3
      ∧ decode 768 [0x081C2090] = .ok (.ldx { d := 7, off := 4, bt := 2 }) 1
      ∧ decode 768 [0x98245280] = .ok (.ld { d := 9, off := 12, ov := true, bt := 5, la := 2 }) 1
      ∧ decode 768 [0x000000A1, 0x00900008, 0x00300000] = .ok (.amo { d := 8, b := 9, bt := 3 }) 3
      ∧ decode 768 [0x008100A9, 0x00503000, 0x00600000] = .ok (.red { off := 12, b := 5, ty := 2, ov := true, bt := 6 }) 3
      ∧ decode 768 [0x000A80B0] = .ok (.fence { x := 5, y := 2 }) 1
      ∧ decode 768 [0x000040B0] = .ok (.baraw {}) 1 ∧ decode 768 [0x0071B0B0] = .ok (.barwait { x := 3, sa := 7 }) 1
      ∧ decode 768 [0x012290B4] = .ok (.tqdone { x := 5, sa := 9 }) 1 := by decide +kernel

/-- Engine, walk and privileged words (R252, R262, R345, R371, R393), and REP (R129). -/
theorem test_decode_engines :
    decode 768 [0x014000D0] = .ok (.mxzero { sa := 10 }) 1 ∧ decode 768 [0x220010D0] = .ok (.mxmul { sa := 16, y := 4 }) 1
      ∧ decode 768 [0x620020D0] = .ok (.mxmulSp { sa := 16, y := 12 }) 1
      ∧ decode 768 [0x250030D0] = .ok (.mxpair { sa := 40, y := 4 }) 1
      ∧ decode 768 [0x13C050D0] = .ok (.mxrd { sa := 30, y := 2 }) 1 ∧ decode 768 [0x03C060D0] = .ok (.mxwr { sa := 30 }) 1
      ∧ decode 768 [0x1A8000C0] = .ok (.cpy { sa := 20, y := 3 }) 1 ∧ decode 768 [0x030010C0] = .ok (.cpyt { sa := 24 }) 1
      ∧ decode 768 [0x090020C0] = .ok (.cpym { sa := 8, y := 1 }) 1 ∧ decode 768 [0x030030C0] = .ok (.gath { sa := 24 }) 1
      ∧ decode 768 [0x430040C0] = .ok (.scat { sa := 24, y := 8 }) 1 ∧ decode 768 [0x00C050C0] = .ok (.cpyst { sa := 6 }) 1
      ∧ decode 768 [0x214000E0] = .ok (.mxbeta { sa := 10, y := 4 }) 1
      ∧ decode 768 [0x628020E1, 0, 0x400] = .ok (.mxsolve { sa := 20, y := 12, ext := true, g := ⟨1, false⟩ }) 3
      ∧ decode 768 [0x014000E8] = .ok (.pwinit { sa := 10 }) 1 ∧ decode 768 [0x220030E8] = .ok (.pwrunResume { sa := 16, y := 4 }) 1
      ∧ decode 768 [0x028050E8] = .ok (.pwstat { sa := 20 }) 1 ∧ decode 768 [0x030050EC] = .ok (.massmin { sa := 24 }) 1
      ∧ decode 768 [0x014400F4] = .ok (.mfpr { sd := 4, sa := 5 }) 1 ∧ decode 768 [0x020330F4] = .ok (.tlbinv { sd := 3, sa := 8 }) 1
      ∧ decode 768 [0x000080F4] = .ok (.halt {}) 1 ∧ decode 768 [0x0000C3F8] = .ok (.rep 3 0 3) 1 := by decide +kernel

/-- Words that the manual refuses, with its subcodes (after R134). -/
theorem test_decode_refused :
    decode 768 [0x00000718] = .illegal 2 ∧ decode 768 [0x00000601, 0, 0] = .illegal 4 ∧ decode 768 [0x000000FC] = .illegal 1
      ∧ decode 768 [] = .illegal 7 := by decide +kernel

/-- Encoding gives the same words. -/
theorem test_encode :
    encode (.vfaddF32 { d := 200, a := 5, b := 6, ext := true, rm := 1, g := ⟨3, false⟩ }) = [0x00000041, 0x406014C8, 0x00000C00]
      ∧ encode (.ld { d := 9, off := 12, ov := true, bt := 5, la := 2 }) = [0x98245280]
      ∧ encode (.ctxsave { sd := 5, sa := 2 }) = [0x008560F4] := by decide +kernel

/-- The word as the opcode table numbers its bits, and the table's row of a three-word instruction. -/
theorem test_table_word :
    decodeTableWord 32 0x0C142040 = some (.vfaddF32 { d := 4, a := 5, b := 6 })
      ∧ decodeTableWord 96 (0x00600000 * 2 ^ 64 + 0x00503000 * 2 ^ 32 + 0x008100A9) =
          some (.red { off := 12, b := 5, ty := 2, ov := true, bt := 6 }) := by decide +kernel

/-! ## Ill-formed instructions are refused -/

theorem test_illformed_step : (Instr.storePerform).wellFormed = false := by decide +kernel
theorem test_illformed_name : (Instr.tret { d := 1 }).wellFormed = false := by decide +kernel
theorem test_illformed_condition : (Instr.scmp 6 {}).wellFormed = false := by decide +kernel
theorem test_illformed_scalar_width : (Instr.sadd { d := 64 }).wellFormed = false := by decide +kernel
theorem test_illformed_displacement : (Instr.jmp { disp := 8192 }).wellFormed = false := by decide +kernel
theorem test_illformed_base_register : (Instr.vfaddF32 { d := 128 }).wellFormed = false := by decide +kernel
theorem test_illformed_guard_in_base : (Instr.vfaddF32 { g := ⟨1, false⟩ }).wellFormed = false := by decide +kernel
theorem test_illformed_buffer : (Instr.ld { bt := 64 }).wellFormed = false := by decide +kernel
theorem test_illformed_atomic_width : (Instr.amo { d := 1024 }).wellFormed = false := by decide +kernel
theorem test_illformed_queue_width : (Instr.cpy { sa := 64 }).wellFormed = false := by decide +kernel
theorem test_illformed_privileged : (Instr.mfpr { sd := 64 }).wellFormed = false := by decide +kernel
theorem test_illformed_repeat : (Instr.rep 64 0 0).wellFormed = false := by decide +kernel
/-- SLI needs its literal, SCLZ has none, FENCE needs a kind, VTAG a tag up to 12 (R133, R140, R182, R222). -/
theorem test_illformed_length : (Instr.sli { d := 2 }).wellFormed = false := by decide +kernel
theorem test_illformed_literal : (Instr.sclz { d := 2, lit := some 0 }).wellFormed = false := by decide +kernel
theorem test_illformed_kind : (Instr.fence { x := 2 }).wellFormed = false := by decide +kernel
theorem test_illformed_tag : (Instr.vtag { b := 13 }).wellFormed = false := by decide +kernel
theorem test_wellformed : (Instr.sadd { d := 4, a := 5, b := 6 }).wellFormed = true
    ∧ (Instr.fence { x := 5, y := 2 }).wellFormed = true := by decide +kernel

/-! ## Single steps whose results the manual gives -/

/-- A machine with one team on core 0, whose group 0 issues. -/
def one (g : Group) (t : Team := {}) : State := { cores := [(0, { team := some (t.setGroup 0 g) })] }
/-- What stands after an instruction that completes. -/
def after (i : Instr) (s : State) : State := match exec i s with | .next t => t | _ => s
/-- A vector register of a tag whose first lanes hold some words. -/
def vreg (tag : Nat) (ws : List Nat) : VReg := { tag := tag, slots := tputs 0 [] (ws.mapIdx (fun l w => (l, BitVec.ofNat 32 w))) }

/-- SDIV of −2^63 by −1 gives −2^63 and no flag; over 0 it gives 0 and DZ (R142). -/
theorem test_sdiv : let s := one { s := [(5, 2 ^ 63), (6, BitVec.allOnes 64)] }
    (after (.sdiv { d := 4, a := 5, b := 6 }) s).group.sreg 4 = 2 ^ 63 ∧ (after (.sdiv { d := 4, a := 5, b := 6 }) s).group.flags = 0
      ∧ (after (.sdiv { d := 4, a := 5, b := 7 }) s).group.sreg 4 = 0 ∧ (after (.sdiv { d := 4, a := 5, b := 7 }) s).group.flags = 2 := by
  decide +kernel
/-- The example after R143. -/
theorem test_sbfx : let s := one { s := [(5, 0xABC123)] }
    (after (.sbfx { d := 4, a := 5, lit := some 776 }) s).group.sreg 4 = 0xFFFFFFFFFFFFFBC1
      ∧ (after (.sbfx { d := 4, a := 5, u := true, lit := some 776 }) s).group.sreg 4 = 0xBC1 := by decide +kernel
/-- CALL writes the address after itself to s63 and goes on at its target (the program of R149: DISP 3 at 0x08). -/
theorem test_call : let s := one { pc := (List.range 64).map (fun l => (l, 8)) }
    (after (.call { disp := 3 }) s).group.sreg 63 = 0xC ∧ (after (.call { disp := 3 }) s).group.issuePc = 0x14 := by decide +kernel
/-- ELECT takes the lowest guard-true lane (R154). -/
theorem test_elect : tget 0 (after (.elect { d := 1 }) (one { exited := 7 })).group.m 1 = 8 := by decide +kernel
/-- VABS.I32 of −2^31 wraps, and clamps with SAT, which sets SAT alone (R173). -/
theorem test_vabs : let s := one { v := [(4, vreg 7 [2 ^ 31])] }
    (after (.vabsI32 { d := 5, a := 4 }) s).group.lane 5 0 = 0x80000000
      ∧ (after (.vabsI32 { d := 5, a := 4, ext := true, sat := true }) s).group.lane 5 0 = 0x7FFFFFFF
      ∧ (after (.vabsI32 { d := 5, a := 4, ext := true, sat := true }) s).group.flags = 32 := by decide +kernel
/-- The conversion table after R69: 3.6 to BF16 and to E4M3, −2.5 and 3.0e9 to I32, E4M3 0x7F to F32. -/
theorem test_convert :
    cvtLane 1 2 0 false [0x40666666] 0 = ⟨[0x4066], none, 16⟩ ∧ cvtLane 1 4 0 false [0x40666666] 0 = ⟨[0x46], none, 16⟩
      ∧ cvtLane 1 4 2 false [0x40666666] 0 = ⟨[0x47], none, 16⟩ ∧ cvtLane 1 7 0 false [0xC0200000] 0 = ⟨[0xFFFFFFFE], none, 16⟩
      ∧ cvtLane 1 7 1 false [0x4F32D05E] 0 = ⟨[0x7FFFFFFF], none, 32⟩ ∧ cvtLane 4 1 0 false [0x7F] 0 = ⟨[0x43F00000], none, 0⟩ := by
  decide +kernel
/-- The tree of R189: 16,777,216 + 1 and 1 + 1 first. -/
theorem test_vred : let s := one { exited := BitVec.allOnes 64 - 15, v := [(2, vreg 1 [0x4B800000, 0x3F800000, 0x3F800000, 0x3F800000])] }
    (after (.vred { d := 3, a := 2, b := 8 }) s).group.lane 3 0 = 0x4B800001 := by decide +kernel
/-- The example of R192: k = 4, list 9/12, 7/3, 5/40, −∞; lanes 0 to 2 bring 7/50, 8/51, 1/52. -/
theorem test_vtopk : let s := one { m := [(3, 7)], v := [(10, vreg 1 [0x40E00000, 0x41000000, 0x3F800000]), (11, vreg 8 [50, 51, 52]),
      (40, vreg 1 [0x41100000, 0x40E00000, 0x40A00000, 0xFF800000]), (42, vreg 8 [12, 3, 40, 0xFFFFFFFF])] }
    let t := after (.vtopk { d := 40, a := 10, b := 11, ext := true, c := 42, bf := 3, xf := 3 }) s
    (List.range 4).map (fun l => (t.group.lane 42 l).toNat) = [12, 51, 3, 50] := by decide +kernel
/-- A write of a line that another die shares waits for an invalidation on VC 1, which a request may wait for (R460, R468). -/
theorem test_waits : let s : State := { cores := [(24, { lines := [(0, .s)] })], folds := [(0, { entries := [{ line := 0, fst := 1, ptrs := [1] }] })] }
    let t := after (.dirWrite 0 0) s
    t.msgs.map Msg.vc = [1] ∧ t.dirWaits.map DirWait.line = [0] ∧ t.waitsOk = true ∧ t.line 0 0 = .i := by decide +kernel
/-- A trap with no handler ends the grid FAULTED, and its threads stay (R160). -/
theorem test_trap : let t := after (.trap { b := 5 }) (one {})
    (t.grid 0).phase = .ending ∧ (t.grid 0).status = 2 ∧ t.group.issuePc = 0 := by decide +kernel
/-- Outside the service group a privileged instruction traps, here with no handler (R386). -/
theorem test_privilege : ((after (.mfpr { sd := 4 }) (one { s := [(4, 9)] })).grid 0).status = 2
    ∧ (after (.mfpr { sd := 4 }) (one { s := [(4, 9)] })).group.sreg 4 = 9 := by decide +kernel
/-- The word stands where the next step fetches it. -/
theorem test_fetch : let s := State.reset.withFetchWord 32 0x0C142000
    s.actions = [.issue 0 0] ∧ (({ s with core := 0, grp := 0 } : State).instrAt 0).2 = .ok (.sadd { d := 4, a := 5, b := 6 }) 1 := by
  decide +kernel

/-! ## States that meet the hypotheses of the statements -/

/-- A machine with memory, whose team on core 0 is `t` with group 0 `g`. Its context's TLB maps the first GiB to itself
with every right; buffer 1 covers 64 KiB at 0x200000 with every right, buffer 4095 the same length at 0x400000. -/
def mach (g : Group) (t : Team) : State :=
  { chsets := [(0, { chmask := 1, nlive := 1, state := 1, csize := 24576, en := true })]
    access := [(0, BitVec.ofNat 64 (0xFFFF * 2 ^ 48 + 3 * 2 ^ 44 + 0x7FFF * 2 ^ 15))]
    descs := [(4097, BitVec.ofNat 512 (0x200000 + 2 ^ 80 + 2 ^ 160 + 15 * 2 ^ 168 + 2 ^ 176)),
              (8191, BitVec.ofNat 512 (0x400000 + 2 ^ 80 + 2 ^ 160 + 15 * 2 ^ 168 + 2 ^ 176))]
    grids := [(0, { record := fetchRecord, phase := .resident, place := [0], clSlot := [0] })]
    cores := [(0, { team := some ({ t with ctx := 1, codeVa := 0x100000, codeSz := 256, partw := 1 }.setGroup 0 g)
                    tlb := [⟨1, 2, 0, BitVec.ofNat 64 (8 + 2 ^ 55 + 2 ^ 56 + 2 ^ 57)⟩] })] }
/-- A machine whose core 0 runs its service group, with and without a team. -/
def svcMach (g : Group) (t : Option Team := none) : State :=
  { cores := [(0, { team := t, svc := g, svcRun := true })], grp := 16 }
/-- A group one of whose threads is alive. -/
def lone (g : Group) : Group := { g with exited := BitVec.allOnes 64 - 1 }

theorem quiet_of {s : State} (i : Instr) (hp : s.present = true) (hs : s.group.issueSet ≠ 0)
    (ho : s.group.outstanding = []) (hw : s.group.windows = []) : s.quiet i = true := by
  simpa [State.quiet, hp, ho, Group.promised, hw, tget] using hs

/-- Every statement whose only hypothesis is an issue with nothing in its way: ScalarResults, ScalarCompareAndDivide,
EndsAndYields, the status registers. -/
theorem witness_quiet (i : Instr) : (one {}).quiet i = true :=
  quiet_of i (by decide +kernel) (by decide +kernel) (by decide +kernel) (by decide +kernel)
/-- The same of a service group (ServiceRegistersAndEnds, ServiceMaintenance). -/
theorem witness_quiet_service (i : Instr) : (svcMach {}).quiet i = true ∧ (svcMach {}).isSvc = true :=
  ⟨quiet_of i (by decide +kernel) (by decide +kernel) (by decide +kernel) (by decide +kernel), by decide +kernel⟩
/-- The same of a machine with memory. -/
theorem witness_quiet_memory (i : Instr) : (mach (lone {}) {}).quiet i = true :=
  quiet_of i (by decide +kernel) (by decide +kernel) (by decide +kernel) (by decide +kernel)

theorem witness_compare : (5 : Nat) < 6 ∧ (one {}).quiet (.scmp 5 { d := 1 }) = true := by decide +kernel
/-- Each condition of BranchesAndCalls at the values where it turns. -/
theorem witness_branches : let s := one { s := [(4, BitVec.allOnes 64), (5, 1), (6, 8), (63, 4)], m := [(2, 1)] }
    (∀ i ∈ [Instr.brz {}, .brLt { a := 4 }, .brmAny { a := 2 }, .callr { a := 6 }, .jmpr { a := 6 }, .ret {}], s.quiet i = true)
      ∧ s.group.sreg 0 = 0 ∧ s.group.sreg 5 ≠ 0 ∧ (s.group.sreg 4).toInt < 0 ∧ ¬ (s.group.sreg 0).toInt < 0
      ∧ (s.group.sreg 0).toInt ≤ 0 ∧ ¬ (s.group.sreg 5).toInt ≤ 0
      ∧ s.group.mreg s.group.issueSet 2 &&& s.doers (.brmAny { a := 2 }) ≠ 0
      ∧ s.group.mreg s.group.issueSet 3 &&& s.doers (.brmAny { a := 3 }) = 0
      ∧ s.group.mreg s.group.issueSet 0 &&& s.doers (.brmAll {}) = s.doers (.brmAll {})
      ∧ (s.group.sreg 6).toNat % 4 = 0 ∧ (s.group.sreg 63).toNat % 4 = 0
      ∧ s.doers (.call { g := ⟨1, false⟩ }) = 0 ∧ s.doers (.call {}) ≠ 0 := by decide +kernel
theorem witness_elect : let s := one {}
    s.quiet (.elect { d := 1 }) = true ∧ s.doers (.elect { d := 1 }) ≠ 0
      ∧ s.doers (.elect { d := 1, g := ⟨1, false⟩ }) = 0 ∧ s.quiet (.nop {}) = true := by decide +kernel

/-- Tags of the vector statements: I32 in v4 to v6, raw in v7, F32 in v8 to v10, BF16 in v12 to v14, F16 in v16 to v18. -/
def vecMach : State := one { v := [(4, vreg 7 [5]), (5, vreg 7 [2 ^ 31]), (6, vreg 8 [1]), (7, vreg 0 [9]),
  (8, vreg 1 [0x3F800000]), (9, vreg 1 [0x40000000]), (10, vreg 1 [0x40400000]), (12, vreg 2 [0x3F803F80]), (13, vreg 2 [0x40004000]),
  (14, vreg 2 [0]), (16, vreg 3 [0x3C003C00]), (17, vreg 3 [0]), (18, vreg 3 [0x7C00])], s := [(4, 0), (5, 64), (6, 63)] }
theorem witness_vector_integer :
    let s := vecMach
    let o : VOps := { d := 20, a := 4, b := 5, ext := true, c := 6 }
    s.quiet (.vmadI32 o) = true ∧ intTag (s.group.tag o.a) = true ∧ tagB s.group o intTag = true
      ∧ intTag (s.group.tag (addendReg o)) = true ∧ s.quiet (.vminN32 o) = true ∧ s.quiet (.vcmpN32 5 o) = true
      ∧ s.quiet (.vsel o) = true ∧ s.group.tag o.a ≤ 12 ∧ tagB s.group o anyTag = true := by decide +kernel
theorem witness_lane_data : let s := vecMach
    s.quiet (.vtag { a := 4 }) = true ∧ s.group.tag 4 ≤ 12 ∧ s.quiet (.vextr { d := 1, a := 4, b := 5 }) = true
      ∧ s.doers (.vextr { d := 1, a := 4 }) ≠ 0 ∧ s.doers (.vextr { g := ⟨1, false⟩ }) = 0
      ∧ ¬ (s.group.sreg 5).toNat < 64 ∧ (s.group.sreg 6).toNat < 64 := by decide +kernel

/-- SLEEPTO of an operation that is done, at a deadline that has passed, and before it. -/
theorem witness_sleepto :
    let s : State := { one { s := [(5, 7), (6, 9)] } with cycle := 7 }
    let i := Instr.sleepto { d := 4, a := 5, b := 6 }
    let waiting : State := { s with cycle := 6, cores := [(0, { team := some ({ ops := [{ id := 9, instr := .mxzero {} }] }
      |> fun t : Team => t.setGroup 0 { s := [(5, 7), (6, 9)] }) })] }
    s.quiet i = true ∧ s.doers i ≠ 0 ∧ s.team.isDone 9 = true ∧ s.joinFault 9 (s.doers i) = none
      ∧ (s.group.sreg 5).toNat ≤ s.cycle
      ∧ waiting.quiet i = true ∧ waiting.doers i ≠ 0 ∧ waiting.team.isDone 9 = false ∧ waiting.cycle < (waiting.group.sreg 5).toNat := by
  decide +kernel
theorem witness_record : (3 : Nat) < 4 := by decide

theorem opens_of {s : State} {r : Raised} {b : Nat} (ht : s.isSvc = false ∧ s.group.frame = none ∧ s.team.hEn = true)
    (hl : 8192 ≤ (s.recLength s.team.ctx).2)
    (hb : (List.range ((s.recLength s.team.ctx).2 / 4096 - 1)).find? (fun b => !(s.blocksHeld s.team.ctx).contains b) = some b)
    (hp : ((s.recLength s.team.ctx).1.framePlaces (4096 + 4096 * b)
      ((s.recLength s.team.ctx).1.frameRecords s.group.issuePc r)).2.isSome = true) :
    ∃ ps u, FrameOpens s r b ps u :=
  ⟨_, _, ht.1, ht.2.1, ht.2.2, hl, hb, Prod.ext rfl (Option.some_get hp).symm⟩
/-- A trap of one thread that opens a frame in block 0. -/
theorem witness_trap_entry : let s := mach (lone {}) { hEn := true, hAddr := 64 }
    s.quiet (.trap { b := 5 }) = true ∧ s.doers (.trap { b := 5 }) = 1
      ∧ ∃ ps u, FrameOpens s (ownAll 1 { code := 0x20, sub := 5 }) 0 ps u :=
  ⟨by decide +kernel, by decide +kernel, opens_of (by decide +kernel) (by decide +kernel) (by decide +kernel) (by decide +kernel)⟩
/-- A jump to a target that is no multiple of 4, which opens a frame. -/
theorem witness_misaligned : let s := mach (lone { s := [(4, 6)] }) { hEn := true, hAddr := 64 }
    s.quiet (.jmpr { a := 4 }) = true ∧ s.doers (.jmpr { a := 4 }) ≠ 0 ∧ (s.group.sreg 4).toNat % 4 ≠ 0
      ∧ ∃ ps u, FrameOpens s (together (s.doers (.jmpr { a := 4 })) { code := 5, sub := 1, off := (s.group.sreg 4).toNat }) 0 ps u :=
  ⟨by decide +kernel, by decide +kernel, by decide +kernel,
    opens_of (by decide +kernel) (by decide +kernel) (by decide +kernel) (by decide +kernel)⟩
/-- A trap with no handler. -/
theorem witness_trap_ends : let s := mach {} {}
    s.quiet (.trap {}) = true ∧ s.doers (.trap {}) ≠ 0 ∧ s.isSvc = false ∧ s.group.frame = none ∧ s.team.hEn = false
      ∧ (s.grid s.team.grid).phase = .resident := by decide +kernel

/-- Threads 0 and 1 are in a frame; one or both return; thread 0 passes. -/
def framed : Group :=
  { exited := BitVec.allOnes 64 - 3, frame := some ⟨0, 5, false, 0⟩, trapmask := 3, retpc := [(0, 4), (1, 4)]
    trapinfo := [(0, { code := 0x0B, sub := 2, va := 9 })], m := [(1, 1)] }
theorem witness_return : let s := { mach framed {} with fqs := [(0, { en := true })] }
    let p := s.doers (.tret {})
    s.quiet (.tret {}) = true ∧ p ≠ 0 ∧ p &&& ~~~s.group.trapmask = 0 ∧ s.group.frame ≠ none
      ∧ (let o : VOps := { g := ⟨1, false⟩ }
         let q := bits (s.ctxEntry s.team.ctx) 71 64
         s.quiet (.tretPass o) = true ∧ s.doers (.tretPass o) = laneBit 0 ∧ s.isSvc = false
           ∧ laneBit 0 &&& ~~~s.group.trapmask = 0
           ∧ (tget ({} : TrapInfo) s.group.trapinfo 0).code = 0x0B ∧ (tget ({} : FaultQueue) s.fqs q).en = true ∧ s.tokens.length < 2 ^ 16
           ∧ (tget ({} : FaultQueue) s.fqs q).waiting = [] ∧ (tget ({} : FaultQueue) s.fqs q).full = false) := by decide +kernel
theorem witness_rounding : F32 ∈ [F32, BF16, F16] ∧ (3 : Nat) < 4 ∧ (0 : Nat) < 1 := by decide
theorem witness_float : let s := vecMach
    (∀ x ∈ [(1, 8, 0), (2, 12, 16), (3, 16, 32)], let o : VOps := { d := x.2.2, a := x.2.1, b := x.2.1 + 1, ext := true, c := x.2.1 + 2 }
      s.quiet (.vfmaF32 o) = true ∧ s.group.tag o.a = x.1 ∧ tagB s.group o (fun t => t = x.1) = true ∧ s.group.tag (addendReg o) = x.1
        ∧ s.quiet (.vfclassF16 o) = true ∧ s.quiet (.vfcmp 5 o) = true ∧ o.d / 16 % 4 + 1 = x.1)
      ∧ s.quiet (.vexp { a := 8 }) = true ∧ s.group.tag 8 = ({} : VOps).b % 4 + 1 := by decide +kernel
theorem witness_special_values : (2 : Nat) < 3 ∧ (0 : Nat) < 1 ∧ 1 ≤ (fmtOfTy 0).maxCode ∧ (fmtOfTy 2).infCode ≤ (fmtOfTy 2).infCode
    ∧ ((fmtOfTy 0).val ((fmtOfTy 0).nan)).isNan = true := by decide +kernel

/-- Sources and companions of conversions: F32 in v0 to v7, OB8 in v30, OB4 in v31, a companion in v32, I32 in v33. -/
def cvtMach : State :=
  one { v := (List.range 8).map (fun r => (r, vreg 1 [0x40666666])) ++ [(30, vreg 11 [5]), (31, vreg 12 [5]), (32, vreg 0 [3]), (33, vreg 7 [300])] }
theorem witness_conversions : let s := cvtMach
    (∀ x ∈ [(0x12, 0, 40), (0x16, 0, 40), (0xB7, 30, 40), (0xC8, 31, 40)], let o : VOps := { d := x.2.2, a := x.2.1, ext := true, bf := x.1, c := 32 }
      let dt := o.bf % 16
      let sf := o.bf / 16 % 16
      s.quiet (.vcvt o) = true ∧ dt ≤ 12 ∧ sf ≤ 12 ∧ allTag s.group sf o.a (max (elems sf) (elems dt) / elems sf) = true
        ∧ compTag (s.group.tag o.c) = true ∧ badZero s.group (if isOb sf then sf else dt) o.c (s.doers (.vcvt o)) = [] ∧ o.c ≠ o.d)
      ∧ (let o : VOps := { d := 40, a := 0, ext := true, bf := 0x16, c := 32 }
         s.quiet (.vscaleFind o) = true ∧ s.quiet (.vscaleApply o) = true ∧ allTag s.group 1 o.a (8 / elems 1) = true
           ∧ compTag (s.group.tag o.c) = true)
      ∧ s.quiet (.vzpPack { a := 33, ext := true, bf := 0x7B }) = true ∧ s.group.tag 33 = 0x7B / 16 % 16
      ∧ s.quiet (.vzpExtr { a := 32, ext := true, bf := 0xB8 }) = true ∧ compTag (s.group.tag 32) = true
      ∧ badZero s.group (0xB8 / 16 % 16) 32 (s.doers (.vzpExtr {})) = [] := by decide +kernel

theorem witness_cross_lane : let s := vecMach
    s.quiet (.vxlaneDn { a := 4, b := 16 }) = true ∧ s.group.tag 4 ≤ 12 ∧ s.quiet (.vshuf { a := 4, b := 5 }) = true
      ∧ tagB s.group { a := 4, b := 5 } intTag = true ∧ s.quiet (.vballot { d := 1, a := 4 }) = true
      ∧ (∀ x ∈ [(4, 7 * 8), (6, 8 * 8), (8, 1 * 8 + 3)], s.quiet (.vred { d := 20, a := x.1, b := x.2 }) = true
        ∧ s.quiet (.vscan { d := 20, a := x.1, b := x.2 }) = true ∧ treeTags { d := 20, a := x.1, b := x.2 } s.group = true) := by
  decide +kernel
theorem witness_top_k : let s := one { m := [(3, 7)], v := [(10, vreg 1 [1]), (11, vreg 8 [50]), (40, vreg 1 [2]), (42, vreg 8 [12])] }
    let o : VOps := { d := 40, a := 10, b := 11, ext := true, c := 42, bf := 3, xf := 3 }
    s.quiet (.vtopk o) = true ∧ s.doers (.vtopk o) ≠ 0 ∧ allTag s.group 1 o.d 1 = true ∧ s.group.tag o.a = 1
      ∧ intTag (s.group.tag o.b) = true ∧ (∀ r < 1, intTag (s.group.tag (o.c + r)) = true) ∧ (o.bf % 128 + 1 + 63) / 64 = 1 ∧ o.d + 1 ≤ o.c := by
  decide +kernel
theorem witness_statistics : let s := vecMach
    s.isSvc = false ∧ (s.group.sreg 6).toNat < 128 * s.team.tiles ∧ s.quiet (.vstatAcc { a := 6, b := 8 }) = true
      ∧ s.doers (.vstatAcc { a := 6, b := 8 }) ≠ 0 ∧ tagB s.group { a := 6, b := 8 } (fun t => t = 1) = true
      ∧ s.quiet (.vstatRd { a := 6, b := 22 }) = true
      ∧ (let o : VOps := { d := 20, a := 8, b := 9, ext := true, c := 10, bf := 1, xf := 8 }
         s.quiet (.vrmax o) = true ∧ s.quiet (.vnorm o) = true ∧ s.quiet (.vfuse o) = true ∧ s.group.tag o.a = 1
           ∧ tagB s.group o (fun t => t = 1) = true ∧ s.group.tag o.b = 1 ∧ s.group.tag o.c = 1 ∧ s.group.tag (o.xf % 1024) = o.bf / 8 % 4 + 1
           ∧ bits (s.group.sreg 4).toNat 31 0 < 128 * s.team.tiles) := by decide +kernel

theorem pair_of {α β : Type} {p : α × β} {b : β} (h : p.2 = b) : p = (p.1, b) := Prod.ext rfl h

/-- A sweep of VADD.I32 whose D steps by one register, at its second of three tuples. -/
theorem witness_sweep :
    let r : IterRec := { w0 := 2 ^ 33 + 1, w1 := 1 }
    let s := one { v := [(4, vreg 7 [5]), (5, vreg 7 [6])], it := [(2, r)] } { regalloc := 768 }
    let o : VOps := { d := 20, a := 4, b := 5, ext := true }
    let o' : VOps := { o with d := 21 }
    let i' := Instr.vaddI32 o'
    (Instr.vaddI32 o).vecForm = some (8, 0, o) ∧ s.group.iter 2 = r ∧ sweepLegal r s.regalloc 8 0 o = true
      ∧ stepForm (r.offset o 0) (r.offset o 1) (r.offset o 2) (r.offset o 3) (.vec 8 0 o) = .vec 8 0 o'
      ∧ (vecInstr 8 0 o').getD (.sweep 2 (.vaddI32 o)) = i' ∧ s.quiet i' = true ∧ r.next.2 = false
      ∧ (let res := vecBody 8 0 o' ((s.issueOf 3).by (s.doers i')) s
         res.raised.mask = 0 ∧ res.stay = false) := by decide +kernel
/-- REP over SADD of the manual's word, at its first iteration. -/
def repMach : State := (mach {} {}).setBytes 0x100000 (leBytes 4 0xC3F8 ++ leBytes 4 0x0C142000)
theorem witness_repeat :
    let i0 := Instr.sadd { d := 4, a := 5, b := 6 }
    let f := Form.sc 0 0 { d := 4, a := 5, b := 6 }
    repMach.instrAt 4 = ((repMach.instrAt 4).1, .ok i0 1) ∧ repMach.group.issuePc = 0 ∧ i0.form = some f
      ∧ repLegal repMach.regalloc 3 0 3 f = true ∧ (stepForm 0 0 0 0 f).instr = some i0
      ∧ (repMach.instrAt 4).1.quiet i0 = true ∧ repMach.isRedundant = false
      ∧ (let u := (repMach.instrAt 4).1
         let res := formBody f ((repMach.issueOf 1).by (u.doers i0)) (u.modGroup (Group.count (lanesOf repMach.group.issueSet)))
         res.raised.mask = 0 ∧ res.stay = false) :=
  ⟨pair_of (by decide +kernel), by decide +kernel, by decide +kernel, by decide +kernel, by decide +kernel, by decide +kernel,
    by decide +kernel, by decide +kernel⟩

/-- A load at offset 16 of buffer 1, in vector and in scalar form; scratchpad loads at offset 16 of the own core and of rank 0. -/
theorem witness_loads : let s := mach (lone { s := [(4, 16)] }) {}
    let o : MOps := { d := 9, off := 4, bt := 1 }
    let r := s.bufCheck 1 false 16 16 4 .load
    s.quiet (.ld o) = true ∧ s.doers (.ld o) = laneBit 0 ∧ s.doers (.ld { o with ds := true }) ≠ 0 ∧ offTagOk s.group o.ov o.off = true ∧ effOff s.group o.ov o.off o.lit 0 = 16
      ∧ MemSize o = 4 ∧ bufIndex s.group o.br o.bt = 1 ∧ r = (r.1, .ok 0x200010 0x200010 false)
      ∧ r.1.readCheck 1 16 0x200010 0x200010 { r := true } = none
      ∧ (∃ key, r.1.access? (dieOf s.core) 0x200010 { r := true } = .mem key)
      ∧ s.isRedundant = false ∧ s.stores = [] ∧ (∀ c ∈ s.cores, c.2.partials = [])
      ∧ s.quiet (.ldx o) = true ∧ rankOf o s.group < s.team.rows * s.team.cols
      ∧ 16 + MemSize o ≤ s.team.scratchSize ∧ 16 % MemSize o = 0 := by
  intro s o r
  exact ⟨by decide +kernel, by decide +kernel, by decide +kernel, by decide +kernel, by decide +kernel, by decide +kernel, by decide +kernel,
    pair_of (by decide +kernel), by decide +kernel, ⟨0x200010, by decide +kernel⟩, by decide +kernel, by decide +kernel, by decide +kernel,
    by decide +kernel, by decide +kernel, by decide +kernel, by decide +kernel⟩
/-- Stores of the same kinds: a word, and the high nibble of byte 16 (offset 33 in nibbles). -/
theorem witness_stores : let s := mach (lone { s := [(4, 16), (5, 33)], v := [(9, vreg 8 [77])] }) {}
    let o : MOps := { d := 9, off := 4, bt := 1 }
    let o3 : MOps := { d := 9, off := 5, bt := 1, ext := true, size := 3 }
    s.quiet (.st o) = true ∧ s.doers (.st o) = laneBit 0 ∧ offTagOk s.group o.ov o.off = true ∧ dataTagOk s.group o = true
      ∧ s.isRedundant = false
      ∧ (∃ u, s.bufCheck 1 false 16 16 4 .store = (u, .ok 0x200010 0x200010 false)) ∧ MemSize o = 4
      ∧ (∃ u, s.bufCheck 1 false 33 16 (MemSize o3) .store = (u, .ok 0x200010 0x200010 false)) ∧ effOff s.group false 5 none 0 = 33
      ∧ s.quiet (.stx o) = true ∧ rankOf o s.group < s.team.rows * s.team.cols
      ∧ (s.coreAt (s.rankCore s.team (rankOf o s.group))).team.isSome = true
      ∧ 16 + MemSize o ≤ s.team.scratchSize ∧ 16 % MemSize o = 0 :=
  ⟨by decide +kernel, by decide +kernel, by decide +kernel, by decide +kernel, by decide +kernel, ⟨_, pair_of (by decide +kernel)⟩,
    by decide +kernel, ⟨_, pair_of (by decide +kernel)⟩, by decide +kernel, by decide +kernel, by decide +kernel, by decide +kernel,
    by decide +kernel, by decide +kernel⟩

/-- AMO, CAS and RED at offset 16; RED with the line gathered, with and without a partial. -/
theorem witness_atomics : let s := mach (lone { s := [(4, 16)], v := [(9, vreg 8 [77]), (10, vreg 8 [78])] }) {}
    let o : AOps := { d := 11, off := 4, b := 9, c := 10, ty := 1, bt := 1 }
    s.quiet (.cas o) = true ∧ s.doers (.cas o) = laneBit 0 ∧ offTagOk s.group o.ov o.off = true
      ∧ atomTagOk o.ty (s.group.tag o.b) = true ∧ atomTagOk o.ty (s.group.tag o.c) = true ∧ s.isRedundant = false ∧ o.ord % 2 = 0
      ∧ (∃ u, s.bufCheck 1 false 16 16 4 .atomic = (u, .ok 0x200010 0x200010 false)
          ∧ u.readCheck 1 16 0x200010 0x200010 { r := true, w := true } = none
          ∧ u.access? (dieOf s.core) 0x200010 { w := true } = .mem 0x200010 ∧ u.poisoned 0x200010 = false)
      ∧ (let t := s.modCore 0 (fun c => { c with lines := [(0x200010 / 128, .g)], partials := [(0x200010 / 4, some { op := 0, ty := 1, val := 5 })] })
         t.line t.core (0x200010 / 128) = .g ∧ t.quiet (.red o) = true ∧ t.stores = []
           ∧ (tget none (t.coreAt t.core).partials (0x200010 / 4)).isSome = true) :=
  ⟨by decide +kernel, by decide +kernel, by decide +kernel, by decide +kernel, by decide +kernel, by decide +kernel, by decide +kernel,
    ⟨_, pair_of (by decide +kernel), by decide +kernel, by decide +kernel, by decide +kernel⟩, by decide +kernel⟩
theorem witness_atomic_types : (1 : Nat) < 2 := by decide

/-- Barriers of a core: 0 idle, 1 full with the next arrival, 2 not full; and the cluster's 16. -/
def barMach : State := mach (lone { s := [(5, 1), (6, 3 + 2 ^ 16)] })
  { barriers := [(1, { tcount := 1, init := true, heldArr := 2, phase := 4 }), (2, { tcount := 2, init := true, phase := 3 }),
                 (16, { tcount := 2, tarr := 1, init := true })] }
theorem witness_barriers : let s := barMach
    s.quiet (.fence { x := 2 }) = true ∧ (svcMach {}).svcEnded (svcMach {}).drainGroup = false ∧ s.doers (.fence {}) ≠ 0 ∧ s.isSvc = false ∧ s.isRedundant = false
      ∧ (∀ b ∈ [0, 1, 2, 16], (s.coreAt (s.barrierCore s.core b)).team.isSome = true)
      ∧ (let w := (s.group.sreg 6).toNat
         let x := s.barrier s.core 0
         s.quiet (.barinit { sa := 6 }) = true ∧ 0 < bits w 13 0 + bits w 23 16 ∧ bits w 13 0 ≤ 1024 ∧ bits w 63 24 = 0
           ∧ bits w 15 14 = 0 ∧ x.tarr = 0 ∧ x.earr = 0 ∧ x.heldArr = 0 ∧ s.barrierNamed s.core 0 = false)
      ∧ s.quiet (.barq { x := 2, sa := 4 }) = true
      ∧ (∀ b ∈ [1, 2, 16], let x := s.barrier s.core b
          x.init = true ∧ x.tarr + popMask (s.doers (.bararr { x := b })) ≤ x.tcount)
      ∧ (let x := s.barrier s.core 2
         ¬ (x.tarr + popMask (s.doers (.bararr {})) = x.tcount ∧ x.earr = x.ecount)
           ∧ (x.phase - 2).toNat ∈ Set.Ico 1 (2 ^ 31) ∧ (x.phase - 3).toNat ∉ Set.Ico 1 (2 ^ 31)
           ∧ (x.phase - 2 ^ 31 - 3).toNat ∉ Set.Ico 1 (2 ^ 31)) := by
  simp only [Set.mem_Ico]
  decide +kernel

/-- A grid with a FREE, a WAITING, a READY and a TAKEN slot, and a range; the record of R400 in the scratchpad. -/
def taskMach : State :=
  let s := mach (lone { s := [(4, 5 + 2 ^ 12), (5, 1 + 2 ^ 15), (6, 4), (7, 9)] })
    { launch := true, scratch := tputs 0 [] ((leBytes 64 fetchRecord.toNat).mapIdx (fun i b => (i, b))) }
  { s.setBytes 71 [0x80] with
    cycle := 7, parts := [(0, 0x101)]
    grids := [(0, { record := fetchRecord, phase := .resident, place := [0], clSlot := [0]
                    tq := [(1, { state := .waiting, count := 1 }), (2, { state := .ready, prio := 3 }), (3, { state := .taken })]
                    ranges := [(0, (3, 9))] })] }
theorem witness_tasks : let s := taskMach
    s.quiet (.tqdef { x := 1, sa := 4 }) = true ∧ s.doers (.tqdef {}) ≠ 0 ∧ s.isSvc = false ∧ s.isRedundant = false
      ∧ (let w := (s.group.sreg 4).toNat
         let x := s.slot s.team.grid (bits w 11 0)
         x.state ≠ .waiting ∧ x.state ≠ .ready ∧ bit w 31 = false)
      ∧ (let w := (s.group.sreg 5).toNat
         let x := s.slot s.team.grid (bits w 11 0)
         bits w 63 16 = 0 ∧ bit w 15 = true ∧ bits w 14 12 = 0 ∧ x.count = 1) := by decide +kernel
theorem witness_task_get : let s := taskMach
    let gr := s.grid s.team.grid
    s.quiet (.tqget { x := 1, sa := 6 }) = true ∧ Canon {} gr.tq = true ∧ (2, ({ state := .ready, prio := 3 } : TqSlot)) ∈ gr.tq
      ∧ (∀ p ∈ gr.tq, p.2.state = .ready → p.2.prio < 3 ∨ p.2.prio = 3 ∧ 2 ≤ p.1)
      ∧ (let t := mach (lone { s := [(6, 4), (7, 9)] }) {}
         t.quiet (.tqget { x := 1, sa := 6 }) = true ∧ (t.grid t.team.grid).tq = [] ∧ (t.group.sreg 0).toNat ≤ t.cycle
           ∧ t.cycle < (t.group.sreg 7).toNat) := by decide +kernel
theorem witness_range_and_launch : let s := taskMach
    s.quiet (.rngget { x := 1, sa := 6 }) = true ∧ (s.grid s.team.grid).left s.team.clid 0 ≠ 0
      ∧ s.quiet (.glaunch { x := 1, sa := 0 }) = true ∧ s.doers (.glaunch {}) ≠ 0 ∧ s.team.launch = true
      ∧ (s.group.sreg 0).toNat % 64 = 0 ∧ (s.group.sreg 0).toNat + 64 ≤ s.team.scratchSize
      ∧ BitVec.ofNat 512 (leNat (s.team.scratchBytes 0 64)) = fetchRecord
      ∧ s.drainGroup.postCode fetchRecord (recPrio fetchRecord) (some s.team.ctx) = 0
      ∧ s.drainGroup.postCode 0 0 (some s.team.ctx) ≠ 0 := by decide +kernel

/-- A walk context over buffer 1: one sequence, one node, rows of 32 elements, 1024-byte blocks, a mass table. -/
def walkDesc : BitVec 512 := BitVec.ofNat 512 (1 + 4 * 2 ^ 88 + 2 ^ 92 + 2 ^ 128 + 2 ^ 144 + 2 ^ 160 + 4 * 2 ^ 176 + 128 * 2 ^ 208
  + 2 ^ 224 + 2 ^ 240 + 128 * 2 ^ 288 + 256 * 2 ^ 320 + 264 * 2 ^ 352 + 512 * 2 ^ 384)
/-- A bellwether pair on cores 0 and 1; core 0's team has two tiles and a walk context; operand words from s11 on. -/
def engMach (ws : List Dword) : State :=
  let s := mach {} {}
  let t : Team := { ctx := 1, partw := 1 + 2 ^ 10, walk := some { desc := walkDesc }, barriers := [(0, { init := true, ecount := 1 })] }
  { s with cores := [(0, { s.coreAt 0 with team := some (t.setGroup 0 { s := (ws.mapIdx (fun i w => (11 + i, w))) }) }), (1, { team := some { ctx := 1 } })] }
/-- What EngineStarts asks, as one test. -/
def startable (i : Instr) (e : EngSpec) (ws : List Dword) : Bool :=
  let s := engMach ws
  let r := e.check s (operandWords s.group 10 e.k)
  operandWords s.group 10 e.k = ws && s.quiet i && s.doers i != 0 && !s.isSvc && !s.isRedundant && !s.mustWait (inMatrixOrder i)
    && !e.wait s && r.2.isNone && (r.1.barCheck (e.bar ws)).isNone && (e.late r.1 ws).isNone
/-- Each of the 23 engine instructions can start, with an arrival at barrier 0. -/
theorem witness_engines :
    let o : QOps := { sa := 10, y := 1 }
    let pad : Dword := 2 ^ 62
    let lay : Dword := 2 ^ 19 + 2 ^ 36
    let kv : Dword := 2 ^ 38 + 2 ^ 24
    startable (.cpy o) (copySpec 3 (cpyCheck false) cpyOutside) [pad, pad + 256, 64] = true
      ∧ startable (.cpyt o) (copySpec 4 (cpyCheck true) cpyOutside) [2 ^ 48, pad + 256, 64, 1 + 2 ^ 22 + 2 ^ 46] = true
      ∧ startable (.cpym o) (copySpec 3 cpymCheck cpymOutside) [pad, 256 + 2 ^ 36, 64] = true
      ∧ startable (.gath o) (copySpec 4 (listCheck false false) (fun _ _ => false)) [2 ^ 48, pad + 256, 16, 512 + 2 ^ 32] = true
      ∧ startable (.scat o) (copySpec 4 (listCheck true (2 ≤ dupMode (.scat o))) (fun _ _ => true)) [pad, 2 ^ 48, 16, 512 + 2 ^ 32] = true
      ∧ startable (.mxzero o) zeroSpec [3] = true
      ∧ startable (.mxmul o) (mulSpec false false) [lay, 0, lay, 0, 0] = true
      ∧ startable (.mxmulSp o) (mulSpec false true) [lay + 2 ^ 53, 0, lay, 0, 0] = true
      ∧ startable (.mxpair o) (mulSpec true false) [lay, 0, lay, 0, lay, 0, 0] = true
      ∧ startable (.mxpairSp o) (mulSpec true true) [lay + 2 ^ 53, 0, lay, 0, lay, 0, 0] = true
      ∧ startable (.mxrd o) (winSpec true) [0, 0, 0] = true ∧ startable (.mxwr o) (winSpec false) [0, 0] = true
      ∧ startable (.mxbeta o) betaSpec [2 ^ 32] = true
      ∧ startable (.mxdelta o) (corrSpec false o.y) [kv, kv + 64, 0] = true
      ∧ startable (.mxsolve o) (corrSpec true o.y) [kv, kv + 64, 0, 128] = true
      ∧ startable (.pwrun o) pwrunSpec [0] = true ∧ startable (.pwrunResume o) pwrunSpec [0] = true
      ∧ startable (.btmap o) (kvSpec 2 btmapCheck true) [0, 1] = true ∧ startable (.btinv o) (kvSpec 1 btinvCheck false) [0] = true
      ∧ startable (.btcow o) (kvSpec 2 btcowCheck true) [0, 1] = true ∧ startable (.kvput o) (kvSpec 2 kvputCheck true) [0, 0] = true
      ∧ startable (.massdec o) (kvSpec 2 massdecCheck true) [0, 1] = true ∧ startable (.massmin o) (kvSpec 3 massminCheck false) [0, 1, 0] = true := by
  decide +kernel
/-- A redundant team may issue an MXZERO too, which is no comparison point. -/
theorem witness_engine_redundant : let s : State := { engMach [3] with grids := [(0, { record := 2 ^ 88, phase := .resident, place := [0, 1] })] }
    s.isRedundant = true ∧ s.quiet (.mxzero { sa := 10 }) = true ∧ s.comparesOp { id := 1, instr := .mxzero {} } = false
      ∧ s.comparesOp { id := 1, instr := .cpy {}, outside := true } = true := by
  decide +kernel
/-- A copy of no bytes that may start, and a MASSDEC of no entries. -/
theorem witness_at_once : (∀ x ∈ [(Instr.cpy {}, ([0, 0, 0] : List Dword)), (.massdec {}, [0, 0]), (.mxzero {}, [0]), (.mxbeta {}, [0])],
      ({ id := 1, instr := x.1, words := x.2 } : EngOp).idle = true)
    ∧ ({ id := 1, instr := .cpy {}, words := [0, 0, 64] } : EngOp).idle = false ∧ (engMach []).isLate { id := 1, instr := .cpy {} } = false
    ∧ startable (.cpy { sa := 10 }) (copySpec 3 (cpyCheck false) cpyOutside) [2 ^ 62, 2 ^ 62 + 256, 0] = true
    ∧ (engMach []).team.ops = [] := by decide +kernel

/-- PWINIT of the descriptor at offset 4096; joins, statuses and waits of a walk. -/
theorem witness_walks :
    let s := mach { s := [(11, 4096)] } { scratch := tputs 0 [] ((leBytes 64 walkDesc.toNat).mapIdx (fun i b => (4096 + i, b))) }
    let w : Walk := { desc := BitVec.ofNat 512 (s.team.padNat 4096 64) }
    s.quiet (.pwinit { sa := 10 }) = true ∧ s.doers (.pwinit {}) ≠ 0 ∧ (∃ u, pwinitCheck s (s.group.sreg 11).toNat w = (u, none))
      ∧ (let s := engMach [0]
         s.isSvc = false ∧ s.team.walk = some { desc := walkDesc } ∧ (changeOf true (s.group.sreg 11).toNat).2 = true
           ∧ (changeOf false (s.group.sreg 11).toNat).2 = true ∧ s.quiet (.pwjoin { sa := 10 }) = true
           ∧ s.joinFault (s.group.sreg 11) (s.doers (.cpyst { sa := 10 })) = none ∧ s.team.isDone s.team.lastRun = true
           ∧ ({ s.team with ops := [{ id := 9, instr := .pwrun {} }] } : Team).isDone 9 = false) :=
  ⟨by decide +kernel, by decide +kernel, ⟨_, pair_of (by decide +kernel)⟩, by decide +kernel⟩
/-- Conditions of the service statements: registers, ends, the signal ring, maintenance, save areas. -/
theorem witness_service : let s := svcMach { s := [(4, 7), (5, 0x10000), (6, 6)] }
    (s.privReg (s.group.sreg 4).toNat).isSome = true ∧ (s.group.sreg 6).toNat ≤ 7 ∧ (s.sigTail + 1) % 256 ≠ s.sigHead
      ∧ (({ s with sigTail := 255 } : State).sigTail + 1) % 256 = s.sigHead ∧ bits (s.group.sreg 5).toNat 63 62 ≠ 3
      ∧ (s.coreAt s.core).team = none ∧ (s.group.sreg 5).toNat % 65536 = 0 ∧ ({ s with saved := [(0x10000, some {})] } : State).areaBad 0x10000 ({} : Team).areaSize = false ∧ 7 < (8 : Dword).toNat
      ∧ tget none ({ s with saved := [(0x10000, some {})] } : State).saved 0x10000 = some ({} : Team)
      ∧ s.svcEnded s.drainGroup = false ∧ s.svcEnded s.drainAll = false ∧ s.svcEnded s.drainCore = false ∧ s.svcEnded (s.cacheFlush s.core true) = false
      ∧ (let t : Team := { partw := 0, ngrp := 1, regalloc := 64 }
         let m : State := { (mach {} {}).setBytes 0x200000 t.header with grp := 16 }
         m.headerOk 0x200000 t = true ∧ partLegal t.partw t.ngrp t.regalloc = true) := by decide +kernel
theorem witness_service_team :
    let s := svcMach {} (some {})
    let x : State := { mach {} {} with
      grp := 16, grids := [(0, { record := fetchRecord, phase := .stopping, place := [0] })]
      cores := [(0, { team := some { ctx := 1 }, stopped := true, saved := true, svcRun := true })] }
    (s.coreAt s.core).restoring = false ∧ (s.coreAt s.core).stopped = false ∧ x.isSvc = true ∧ x.quiet (.halt {}) = true
      ∧ (x.coreAt x.core).stopped = true ∧ (x.coreAt x.core).saved = true ∧ (x.grid x.team.grid).phase = .stopping
      ∧ (∀ d ∈ x.cores, d.1 ≠ x.core → ∀ tm, d.2.team = some tm → tm.grid ≠ x.team.grid)
      ∧ x.areaThere 0x10000 ({} : Team).areaSize = true
      ∧ (let y := x.modCore 0 (fun c => { c with restoring := true }); y.quiet (.eret {}) = true ∧ (y.coreAt 0).restoring = true) := by
  refine ⟨by decide +kernel, by decide +kernel, by decide +kernel, by decide +kernel, by decide +kernel, by decide +kernel,
    by decide +kernel, ?_, by decide +kernel, by decide +kernel⟩
  intro d hd hne
  simp only [List.mem_singleton] at hd
  exact absurd (by rw [hd]; decide +kernel) hne

/-- A swap for an ended group, a forced one, and one that ends. -/
theorem witness_swaps :
    let t : Team := { ngrp := 2, active := [0], pending := [1], readySince := [(1, 0)] }
    let s : State := { cycle := 4096, cores := [(0, { team := some (t.setGroup 0 { exited := BitVec.allOnes 64 }) })] }
    s.swapDue 0 = some (0, 1) ∧ ({ s with cores := [(0, { team := some t })] } : State).forcedDue 0 = some (0, 1)
      ∧ ({ t with swap := some ⟨0, 1, 4096⟩ } : Team).swap = some ⟨0, 1, 4096⟩ ∧ 4096 ≤ s.cycle := by decide +kernel

/-- Waits that end, and results that arrive. -/
theorem witness_waits :
    let g : Group := { waits := [⟨1, .sleep 3⟩, ⟨2, .sleepto 4 0 5 9⟩, ⟨4, .tqget 1 5 6 0⟩]
                       outstanding := [{ req := 0, dests := [.s 4], results := [.scalar 4 7] }, { req := 6, dests := [.s 1, .s 2] }] }
    let t := (({} : Team).setGroup 0 g)
    let s : State := { cycle := 5, cores := [(0, { team := some t })] }
    (s.coreAt 0).team = some t ∧ (0 : Nat) < 16 ∧ t.endingWait 0 s.cycle = some ⟨2, .sleepto 4 0 5 9⟩
      ∧ ({ s with core := 0, grp := 0 } : State).joinFault 9 2 = none ∧ (t.group 0).outstanding = [] ++ { req := 0, dests := [.s 4], results := [.scalar 4 7] } :: [{ req := 6, dests := [.s 1, .s 2] }]
      ∧ (s.grid t.grid).record.getLsbD 88 = false ∧ t.twin = false ∧ (t.group 0).tqWait (fun _ => true) = some (⟨4, .tqget 1 5 6 0⟩, 1, 5)
      ∧ (t.group 0).tqWait (fun d => d ≤ s.cycle) = some (⟨4, .tqget 1 5 6 0⟩, 1, 5)
      ∧ (s.grid 0).firstReady = none ∧ (5 : Nat) ≤ s.cycle
      ∧ (s.grid 0).tqTurn s.cycle (waitPlace 0) = true ∧ (({ tqLast := (5, 3) } : Grid).tqTurn 5 (waitPlace 0) = false ∨ (s.grid 0).firstReady = none)
      ∧ (({ s with grids := [(0, { tq := [(3, { state := .ready })] })] } : State).grid 0).firstReady = some (3, { state := .ready }) := by
  decide +kernel

/-- Queued requests at an address of buffer 1. -/
theorem witness_requests : let s := mach (lone { outstanding := [{ req := 1, dests := [.v 4], results := [.vec 4 7 []] }] }) {}
    (∀ k ∈ [ReqKind.store 0x200010 0x200010 [7], .nibble 0x200010 0x200010 true 5, .amo 7 1 0x200010 0x200010 3 0,
        .combine 0x200010 0x200010 0 1 3],
      let t : State := { s with stores := [{ id := 1, core := 0, grp := 0, lane := 0, pc := 0, kind := k }] }
      t.access? (dieOf 0) 0x200010 { r := true, w := true } = .mem 0x200010 ∧ t.access? (dieOf 0) 0x200010 { w := true } = .mem 0x200010
        ∧ t.poisoned 0x200010 = false ∧ (∀ c ∈ t.cores, c.2.partials = []) ∧ t.homeOf 0x200010 = .mem 0x200010 ∧ t.atomicAt 0x200010 = .mem 0x200010
        ∧ (t.team.group 0).outstanding = [{ req := 1, dests := [.v 4], results := [.vec 4 7 []] }] ∧ (t.grid t.team.grid).record.getLsbD 88 = false)
      -- with and without the line in M
      ∧ permits ((s.obtain 0 (0x200010 / 128) 0).line 0 (0x200010 / 128)) 0 = true
      ∧ permits ((({ s with domain := { failed := [0, 1] } } : State).obtain 0 (0x200010 / 128) 0).line 0 (0x200010 / 128)) 0 = false := by decide +kernel

/-- A core whose copy 1 is queued or running, one whose budget has run out, a queued MXZERO, and a walk. -/
def opMach (op : EngOp) (w : Option Walk := none) : State :=
  { (mach {} {}).setBytes 0x200000 [0xFF, 0xFF] with
    cycle := 9
    cores := [(0, { team := some { ctx := 1, partw := 1 + 2 ^ 10, ops := [op], walk := w }
                    tlb := [⟨1, 2, 0, BitVec.ofNat 64 (8 + 2 ^ 55 + 2 ^ 56 + 2 ^ 57)⟩] }), (1, { team := some { ctx := 1 } })] }
def cpOp : EngOp := { id := opId 0x30 1, instr := .cpy { sa := 10 }, words := [2 ^ 62, 2 ^ 62 + 256, 64] }
theorem witness_operations :
    let run := opMach { cpOp with phase := .running }
    (∀ i ∈ [Instr.cpy {}, .mxzero {}], let o : EngOp := { cpOp with instr := i }
       (opMach o).opAt 0 1 = some ((opMach o).team, o) ∧ (opMach o).canStart 0 (opMach o).team o = true ∧ isWalk o.instr = false)
      ∧ run.opAt 0 1 = some (run.team, { cpOp with phase := .running }) ∧ run.canComplete 0 run.team { cpOp with phase := .running } = true
      ∧ ((run.asOp 0 { cpOp with phase := .running }).opEffect { cpOp with phase := .running }).2.1 = none
      ∧ ((run.asOp 0 { cpOp with phase := .running }).opEffect { cpOp with phase := .running }).1.stuck = false
      -- a copy out of a line whose home has failed
      ∧ (let b : EngOp := { cpOp with phase := .running, words := [2 ^ 48, 2 ^ 62, 4] }
         let s : State := { opMach b with domain := { failed := [0, 1] } }
         s.canComplete 0 s.team b = true ∧ ((s.asOp 0 b).opEffect b).1.stuck = true)
      ∧ (run.asOp 0 cpOp).opRollsBack none = false ∧ (run.asOp 0 cpOp).opRollsBack (some { code := 0x30, sub := 6 }) = false
      ∧ (let b : EngOp := { cpOp with phase := .running, words := [2 ^ 48 + 2 ^ 20, 2 ^ 62, 4] }
         (((opMach b).asOp 0 b).opEffect b).2.1.any (fun x => x.code = 8 && x.sub = 1 && x.off = 2 ^ 20) = true
           ∧ (((opMach b).asOp 0 b).opEffect b).1.stuck = false)
      ∧ cpOp.pos = 0 ∧ cpOp.inner = [] ∧ cpOp.idle = false
      ∧ (let z : EngOp := { cpOp with words := [2 ^ 62, 2 ^ 62 + 256, 0] }
         z.idle = true ∧ (opMach z).opAt 0 1 = some ((opMach z).team, z) ∧ (opMach z).canStart 0 (opMach z).team z = true)
      ∧ (run.asOp 0 cpOp).opRollsBack (some ((run.asOp 0 cpOp).outsideFault cpOp 0)) = false
      ∧ (opMach cpOp).isLate { cpOp with budgetEnd := some 8 } = true
      ∧ epKind (wordAt cpOp.words 0) = 1 ∧ epKind (wordAt cpOp.words 1) = 1 ∧ copyLen cpOp.words % 4 = 0
      ∧ epOff (wordAt cpOp.words 0) + copyLen cpOp.words ≤ epOff (wordAt cpOp.words 1)
      ∧ epOff (wordAt cpOp.words 1) + copyLen cpOp.words ≤ run.team.scratchSize := by decide +kernel
/-- PWRUN starts over a tree of one node; its main pass stands at that node, and behind it. -/
theorem witness_walk_steps :
    let op : EngOp := { id := opId 0x3A 1, instr := .pwrun {}, words := [0] }
    let w : Walk := { desc := walkDesc }
    let s := opMach op (some w)
    s.opAt 0 1 = some (s.team, op) ∧ s.canStart 0 s.team op = true ∧ isWalk op.instr = true ∧ s.team.walk = some w
      ∧ (∃ u, (((s.asOp 0 op).startCopy op).1.modTeam (fun t => t.modOp op.id (fun o => { o with til := s.cycle + o.len }))).walkStart op false
          = (u, none) ∧ u.stuck = false)
      ∧ (∀ p ∈ [0, 1], let r : WalkRun := { id := op.id, pos := p }
         let op1 := { op with phase := .running, snap := [0xFFFF] }
         let t := opMach op1 (some { w with run := some r })
         t.team.walkOp = some ({ w with run := some r }, r, op1) ∧ t.walkWaits 0 t.team = false ∧ r.catchUp = false
           ∧ (let o := ({ t with core := 0, grp := op1.grp, stuck := false } : State).mainStep none r op1; o.1.stuck = false ∧ o.2 = none)) :=
  ⟨by decide +kernel, by decide +kernel, by decide +kernel, by decide +kernel, ⟨_, pair_of (by decide +kernel), by decide +kernel⟩, by decide +kernel⟩

/-- A fault queue with an entry that waits and room; a service fault; entries that are due. -/
theorem witness_service_posts :
    let f : FaultQueue := { ring := 0x300, waiting := [(0, 5)] }
    let s : State := { mach {} {} with fqs := [(2, f)] }
    (tget ({} : FaultQueue) s.fqs 2).waiting = (0, 5) :: [] ∧ (tget ({} : FaultQueue) s.fqs 2).full = false
      ∧ s.access? (masterOf 0) (f.ring * 2 ^ 13 + 32 * f.tail) { w := true } = .mem 0x600000 ∧ s.svcClear 0 = true ∧ s.sigFull = false ∧ (191 : Nat) < numCores
      ∧ (let x : Core := { team := some {}, stopped := true, due := 1 }
         x.svcFault = none ∧ x.svcRun = false ∧ x.erets = false ∧ x.due = 1 ∧ x.stopped = true ∧ x.team ≠ none)
      ∧ (let x : Core := { due := 2, bells := [(1, 2)] }
         x.svcFault = none ∧ x.svcRun = false ∧ x.erets = false ∧ x.due = 2 ∧ x.team = none ∧ x.bells = (1, 2) :: []) := by decide +kernel

/-- No TLB holds the page, which a walk finds, or one in flight; a token that a thread holds, on a core and saved. -/
theorem witness_pages : let s := State.reset.placed 32 0
    let t := mach { waits := [⟨1, .pass 5⟩] } {}
    let w : PtWalk := { die := 0, ctx := 1, page := 0, res := some (.leaf 2 (8 + 2 ^ 55 + 2 ^ 56 + 2 ^ 57)) }
    let v : PtWalk := { die := 0, ctx := 1, page := 7 }
    tlbFind (s.coreAt 0).tlb 1 64 = none ∧ tlbFind (tget [] s.dieTlb (dieOf 0)) 1 64 = none ∧ s.walkFor 0 1 64 = none
      ∧ (s.walkRoot (dieOf 0) 1 64).res = .leaf 2 (8 + 2 ^ 55 + 2 ^ 56 + 2 ^ 57) ∧ s.walks = [] ∧ tget [] s.dieTabs (dieOf 0) = []
      ∧ (tlbFind (t.coreAt 0).tlb 1 64).isSome = true ∧ ({ s with walks := [w] } : State).walkFor 0 1 64 = some w
      ∧ (let u : State := { s with walks := [w, v] }
         u.unwalked 0 = some v ∧ u.walks.Nodup ∧ (u.walking 0).length ≤ 64 ∧ u.walkFor 0 1 (7 * 65536) = some v)
      ∧ s.unwalked 0 = none ∧ (s.walking 0).length < 64 ∧ s.boot.recovery = false ∧ t.boot.recovery = false
      ∧ 64 ≤ (({ s with walks := List.replicate 64 w } : State).walking 0).length
      ∧ t.team.holdsToken 1 5 = true ∧ bits (0x101000005 : Dword).toNat 15 0 = 5 ∧ bits (0x101000005 : Dword).toNat 31 24 = 1
      ∧ bit (0x101000005 : Dword).toNat 32 = true ∧ bit (0x1000005 : Dword).toNat 32 = false
      ∧ t.team ∈ t.cores.filterMap (fun c => c.2.team) ++ t.savedTeams ∧ (t.grid t.team.grid).phase = .resident
      ∧ ({ t with grids := [(0, { phase := .preempted })] } : State).grid 0 = { phase := .preempted } := by decide +kernel

/-- A waiting grid alone; a resident one that is wanted out; one whose team is loaded; one whose end is due. -/
theorem witness_gangs :
    let one := fun (x : Grid) => ({ taskMach with cores := [], grids := [(0, { x with record := fetchRecord })] } : State)
    let s := one {}
    s.admits = true ∧ s.waiting = [(0, s.grid 0)] ∧ (s.grid 0).phase = .waiting ∧ s.fitsEmpty fetchRecord = true
      ∧ s.placeOn fetchRecord s.freeCores = some [0] ∧ [0].Nodup ∧ s.boot.hot = false
      ∧ (let p := one { phase := .preempted, slots := [2] }
         p.admits = true ∧ p.waiting = [(0, p.grid 0)] ∧ p.fitsEmpty fetchRecord = true ∧ p.placeOn fetchRecord p.freeCores = some [0])
      ∧ ({ one { phase := .resident, preempt := true, place := [0] } with sapoolCount := 1 } : State).preemptReady 0 = true
      ∧ ({ one { phase := .restoring, place := [0] } with cores := [(0, { team := some {}, restoring := true, erets := true })] } : State).gangLoaded 0 = true
      ∧ (let e := ({ one { phase := .ending, status := 5 } with cores := [(0, { team := some {} })] } : State)
         e.gridDue 0 = true ∧ e.stores = [] ∧ (e.grid 0).status < 256 ∧ (e.logTail + 1) % 4096 ≠ e.logHead
           ∧ (∀ c ∈ e.cores, c.2.partials = [] ∧ ∀ tm ∈ c.2.team, ∀ o ∈ tm.ops, o.undelivered = none ∧ o.phase ≠ .running)
           ∧ (∀ c ∈ e.gridCores 0, (e.coreAt c).retired = false))
      ∧ (let e := ({ one { phase := .resident, place := [0] } with
           cores := [(0, { team := some (({} : Team).setGroup 0 { exited := BitVec.allOnes 64 }) })] } : State)
         e.gridDue 0 = true ∧ (e.grid 0).phase = .resident) := by decide +kernel

/-- The words that shepherd cores write; upkeep of memory. -/
theorem witness_words : let s := mach {} {}
    (7 : Nat) < 8 ∧ Canon {} s.grids = true ∧ recCtx (s.grid 0).record = 1 ∧ s.restoreList = 0
      ∧ s.access? 8 (0x200010 / 8 * 8) { w := true } = .mem 0x200010 ∧ s.base 0 = 0 ∧ (∀ c ∈ s.cores, c.2.partials = []) ∧ (255 : Nat) < 256
      ∧ ({ s with grids := [(0, { phase := .preempted })] } : State).restoreList ≠ 0
      ∧ (let t : State := { chsets := [(255, { chmask := 3 })] }
         (t.chset 255).en = false ∧ (t.chset 255).state = 0 ∧ t.liveOf { t.chset 255 with leaving := [] } ≠ []) := by decide +kernel
theorem witness_upkeep :
    let s : State := { chsets := [(0, { chmask := 3, nlive := 2, state := 2, csize := 1, en := true, leaving := [1] })], retiredCh := [1]
                       refresh := [(5, 8)], allBank := [(0, true)] }
    let x := s.chset 0
    x.state = 2 ∧ x.leaving = 1 :: [] ∧ x.bound < s.moveEnd x ∧ s.mem.wf = true ∧ x.bound + 256 < s.moveEnd x
      ∧ (let last := { x with bound := 0xFF00 }
         s.moveEnd last ≤ last.bound + 256 ∧ last.bound < s.moveEnd last)
      ∧ 8 ≤ tget 0 s.refresh 5 ∧ tget 0 s.refresh 6 ≤ 8 ∧ tget false s.allBank (pcKey 0 0) = true ∧ Canon 0 s.refresh = true := by
  decide +kernel

/-- Line 0 is at home on fold die 0: no entry, shared, owned by another die, busy. -/
theorem witness_directory :
    let s : State := {}
    let e : DirEntry := { line := 0, fst := 3, own := 1, ptrs := [1] }
    let t := fun (e : DirEntry) => ({ folds := [(0, { entries := [e] })] } : State)
    (191 : Nat) < numCores ∧ (s.domain.home 0).1 / 2 = s.domain.module ∧ (s.domain.home 0).2 = false ∧ (s.fold 0).entry 0 = none
      ∧ (s.fold 0).taken (foldSet 0) 0 0 s.cycle < 16 ∧ s.dirWaits = [] ∧ s.roomFor 0 0 = true ∧ s.domain.frozen ≠ some (foldSet 0)
      ∧ ({ domain := { frozen := some 0 } } : State).domain.frozen = some (foldSet 0)
      ∧ s.homeLive 0 = true ∧ ({ domain := { failed := [0] } } : State).homeLive 0 = false ∧ lineModule 0 = s.domain.module
      ∧ ((t { e with fst := 1 }).fold 0).entry 0 = some { e with fst := 1 }
      ∧ ((t e).fold 0).entry 0 = some e ∧ ((t e).namedDies e).filter (fun d => d ≠ 0) = [1]
      ∧ ((t e).namedDies e).filter (fun d => d ≠ 1) = []
      ∧ (let b : State := { dirWaits := [{ line := 0, core := 1, kind := 0, msgs := [4] }] }
         (∃ w ∈ b.dirWaits, w.line = 0) ∧ b.retries = []) := by decide +kernel
/-- A request of a core of module 1, whose module is in the domain, allowed and not; a line at home on another module; one in
safe mode. -/
theorem witness_requests_complete :
    let d : Domain := { size := 2, formed := true, peers := [1], live := [0, 1, 2, 3] }
    let s : State := { mach {} {} with domain := d, foldAccess := [(1, 0x3FF00)] }
    s.domain.peers.contains (192 / numCores - 1) = false ∧ s.domain.peers.contains (384 / numCores - 1) = true ∧ numCores ≤ 384
      ∧ s.foldAllows (s.domain.home 0).1 (384 / numCores - 1) 0 true = true ∧ s.foldAllows (s.domain.home 0).1 (384 / numCores - 1) 0 false = true
      ∧ ({ s with foldAccess := [] } : State).foldAllows 0 1 0 false = false ∧ s.channelAllows 0 true = true ∧ s.channelAllows 0 false = true
      ∧ ({ s with access := [] } : State).channelAllows 0 false = false ∧ s.homeLive 0 = true
      ∧ s.canTell 0 (8 * ((s.domain.home 0).1 / 2)) = true
      ∧ ({ s with ports := [(18, { trained := true, peer := some 1 })] } : State).canTell 0 (8 * ((s.domain.home 2).1 / 2)) = true
      ∧ s.dirOf 0 = 0 ∧ s.dirOf 2 = 2 ∧ (s.fold 2).entry 2 = none ∧ s.roomFor 0 2 = true ∧ ({ line := 2 } : DirEntry).fst ≤ 4
      ∧ ({ d with failed := [0], safeOf := some 0 } : Domain).home 0 = (1, true) := by decide +kernel
theorem witness_copies :
    let s := (mach {} {}).modCore 0 (fun c => { c with lines := [(0x4000, .g)], partials := [(0x80000, some { op := 0, ty := 1, val := 5 })] })
    let m : Msg := { id := 4, dst := 1, line := 0, sent := 0 }
    let inv : List DirWait := [⟨0, 3, 1, [4], 0, false⟩]
    s.line 0 0x4000 = .g ∧ (s.coreAt 0).partials = [(0x80000, some { op := 0, ty := 1, val := 5 })] ∧ 0x80000 / 32 = 0x4000 ∧ s.locate (4 * 0x80000) = .at 0x200000
      ∧ (∀ l ∈ [LineState.m, .o, .e, .i], (({ cores := [(0, { lines := tput .i [] 0 l })] } : State).line 0 0 = l))
      ∧ (let t : State := { cycle := 2 ^ 16, msgs := [m], dirWaits := [⟨0, 3, 1, [4], 0, false⟩], retries := [⟨2, 0, 3, 0, 32⟩] }
         t.pendingAt 0 = true ∧ t.unsent 4 = false ∧ (∃ x ∈ t.msgs, x.line = 0 ∧ t.isInv x = true ∧ t.sent x = true ∧ x.dst = t.diePtr 1) ∧ t.ackHeld 4 = false ∧ t.roomFor 3 0 = true ∧ t.dieHolds 1 0 (fun l => l = .g) = false ∧ t.dirWaits = [⟨0, 3, 1, [4], 0, false⟩]
           ∧ t.msgs.find? (fun m => m.id = 4) = some m ∧ m.sent + 2 ^ 16 ≤ t.cycle ∧ t.retryDue 2 = some ⟨2, 0, 3, 0, 32⟩)
      ∧ ({ msgs := [m], dirWaits := inv, cores := [(24, { lines := [(0, .s)] })] } : State).ackHeld 4 = true
      ∧ ({ msgs := [{ m with dst := 9 }], dirWaits := inv } : State).unsent 4 = true
      ∧ ({ folds := [(0, { entries := [{ line := 0, fst := 5 }, { line := 7 }] })] } : State).fold 0 ≠ {}
      ∧ (({ folds := [(0, { entries := [{ line := 0, fst := 5 }, { line := 7 }] })] } : State).fold 0).entry 7 ≠ none
      ∧ (let t : State := { ports := [(19, { peer := some 3, trained := true })] }
         (24 / 8 : Nat) ≠ t.domain.module ∧ 0 < m.flits ∧ t.portTo 3 = some 19 ∧ (t.port 19).held.contains 1 = false)
      ∧ (let t : State := { folds := [(0, { entries := [{ line := 0, fst := 5 }] })], dirWaits := [⟨0, 3, 2, [], 7, false⟩] }
         (t.fold 0).entry 0 = some { line := 0, fst := 5 } ∧ (t.fold 0).entry 7 = none ∧ t.dirWaits = [⟨0, 3, 2, [], 7, false⟩]) := by decide +kernel

/-- A domain of three that forms: the right peer on a trained port, a wrong one, a stray spare, the time that is over, a report that
comes late; flow control and a replay. -/
theorem witness_links :
    let p : Port := { trained := true, free := [(2, 130)] }
    let s : State := { cycle := 9, ports := [(portKey 1 0, p)], domain := { size := 3, ident := 7, forming := some 9 } }
    s.domain.forming = some 9 ∧ (s.port (portKey 1 0)).trained = true ∧ (s.port (portKey 1 0)).retired = false
      ∧ s.domain.peerOk 1 0 1 3 7 = true ∧ s.domain.peerOk 1 0 1 3 8 = false ∧ (9 : Nat) ≤ s.cycle
      ∧ ([] ++ [1] : List Nat).length + 1 ≠ s.domain.size ∧ ([2] ++ [1] : List Nat).length + 1 = s.domain.size ∧ s.domain.failed = []
      ∧ ({ s with cores := [(0, { lines := [(3, .s)] })] } : State).heldLines = [3]
      ∧ (({ s with cores := [(0, { lines := [(3, .s)] })] } : State).exactEntry 3).fst = 1
      ∧ p.freeFlits 2 < 64 ∧ 64 ≤ p.freeFlits 1
      ∧ (let q : Port := { trained := true, peer := some 2 }
         q.retired = false ∧ q.peer = some 2 ∧ 2 ∉ ([1] : List Nat) ∧ 2 ∈ ([2, 1] : List Nat) ∧ 34 ∈ [16, 34])
      ∧ (let t : State := { s with domain := { size := 3, ident := 7, formed := true, peers := [1, 2] } }
         t.domain.forming = none ∧ t.domain.formed = true ∧ (t.port (portKey 1 0)).peer = none ∧ t.domain.peerOk 1 0 1 3 7 = true ∧ 1 ∈ t.domain.peers
           ∧ (t.logTail + 1) % 4096 ≠ t.logHead)
      ∧ (let q : Port := { p with replayAsked := [(2, 1)] }
         tget 0 q.rxSeq 2 < 1 ∧ tget 0 q.replayAsked 2 = tget 0 q.rxSeq 2 + 1)
      ∧ (∃ x ∈ ({ p with replay := [(2, 5)] } : Port).replay, x.1 = 2) ∧ (∀ x ∈ p.replay, x.1 ≠ 2)
      ∧ (∀ m ∈ ([] : List Msg), m.port ≠ some 3) := by decide +kernel
theorem witness_fold_failures :
    let d : Domain := {}
    let e : Domain := { failed := [0], safeOf := some 0 }
    0 ∈ d.live ∧ d.failed = [] ∧ d.safeOf = none ∧ d.slotOf 0 ≠ none ∧ d.slot (homeSlot 0) = 0 ∧ e.safeOf = some 0 ∧ e.rebuilt = false
      ∧ (d.home 0).1 = 0 ∧ ({ line := 0, core := 3, kind := 0, msgs := [4], want := 0 } : DirWait).kind ≠ 2
      ∧ (let r : Domain := { e with rebuilt := true, frozen := some 0, rest := [1] }
         r.nextSet = some 0 ∧ r.nextSet ≠ some 1 ∧ r.moved < 63 ∧ r.frozen = some 0 ∧ ({ r with frozen := none } : Domain).frozen ≠ some 0
           ∧ r.newHome 0 = 1 ∧ ({ r with moved := 63, frozen := some 63 } : Domain).nextSet = some 63)
      -- the failed die's partner and the new home are two directories, whose sets have room
      ∧ (let s : State := { domain := { e with live := [0, 1, 2, 3], peers := [1], rebuilt := true, rest := [1, 2, 3], rehash := 1, frozen := some 0 }
                            cores := [(0, { lines := [(0, .s)] })], folds := [(1, { entries := [{ line := 0 }], reserves := [⟨0, 3, 0, 9⟩] })] }
         s.foldIx (0 ^^^ 1) ≠ s.foldIx (s.domain.newHome 0) ∧ ((s.fold 1).entries.map DirEntry.line).Nodup
           ∧ ((s.fold 1).entries.filter (fun e => foldSet e.line = 0)).length + ((s.fold 2).entries.filter (fun e => foldSet e.line = 0)).length ≤ 16
           ∧ s.domain.nextSet = some 0 ∧ s.foldIx (0 ^^^ 1) ≠ 2 ∧ s.domain.newHome 0 ∉ s.domain.failed
           ∧ (∀ ln ∈ s.heldLines, (s.fold 1).entry ln ≠ none) ∧ s.heldLines = [0] ∧ foldSet 0 = 0)
      ∧ (let s : State := { domain := e, cores := [(0, { lines := [(0, .s)] })] }
         s.heldLines = [0] ∧ s.boot.recovery = false ∧ s.foldIx (0 ^^^ 1) = 1 ∧ (s.fold 1).entries = [] ∧ s.domain.slot (homeSlot 0) = 0 ∧ (s.exactEntry 0).fst ≠ 0)
      ∧ 0 ^^^ 1 ∉ e.failed := by decide +kernel

/-- Errors: with and without a checkpoint, of a queued store, past the window; copies of a redundant grid that meet. -/
theorem witness_errors :
    let k : Checkpoint := ({} : Team).snapshot
    let t : Team := { checkpoint := some k, atCompare := [0] }
    let r : MemReq := { id := 1, core := 0, grp := 0, lane := 0, pc := 0, kind := .store 0 0 [1] }
    let g : Grid := { record := 2 ^ 88, phase := .resident, place := [0, 1] }
    let s : State := { stores := [r], grids := [(0, g)]
                       cores := [(0, { team := some t }), (1, { team := some { checkpoint := some k, atCompare := [0], twin := true, groups := [] } })] }
    s.windowOver = false ∧ ({ s with cycle := 2 ^ 29 } : State).windowOver = true ∧ (191 : Nat) < numCores ∧ (15 : Nat) < 16
      ∧ (s.coreAt 0).team = some t ∧ t.checkpoint = some k ∧ t.irrevocable = false ∧ s.erred = []
      ∧ (∃ o, ({ t with ops := [{ id := 1, instr := .mxzero {}, phase := .running }] } : Team).ops.find? (fun o => o.phase = .running && o.ran.isNone) = some o
        ∧ isWalk o.instr = false)
      ∧ (let u : Team := {}
         u.checkpoint = none ∧ (u.group 0).issueSet ≠ 0 ∧ (u.group 0).frame = none ∧ u.hEn = false)
      ∧ (s.grid t.grid).phase = .resident ∧ s.stores.find? (fun r => r.core = 0 && r.grp = 0 && r.kind.writeVa.isSome) = some r
      ∧ s.bothCopies 0 = [0, 1] ∧ ({ mismatched := true } : Team).mismatched = true ∧ t.mismatched = false
      ∧ t.after.contains 0 = false ∧ ({ t with after := [0] } : Team).after.contains 0 = true ∧ s.threshold < 17 ∧ s.retiredUnits = []
      ∧ s.compareDue 0 = some (1, t, { checkpoint := some k, atCompare := [0], twin := true, groups := [] }, 0) ∧ t.held = []
      ∧ sameWrites [{ bt := 1, off := 0, data := [1] }] [] = false ∧ ({ t with mismatched := true } : Team).mismatched = true := by
  decide +kernel

/-- Boot and management: the states that their clauses name. -/
theorem witness_boot : let s : State := { grids := [(0, { phase := .resident })] }
    s.boot.recovery = false ∧ s.boot.stage < 4 ∧ (3 : Nat) < 4 ∧ tget 0 s.boot.floor 2 ≤ 0
      ∧ s.base 0 = 0 ∧ ({ mach {} {} with boot := { base := [(0, 0x300000)] } } : State).base 0 ≠ 0
      ∧ ({ mach {} {} with boot := { base := [(0, 0x300000)] } } : State).access? 8 (0x300000 + 64 * 3 + 7) { w := true } = .mem 0x3000C7
      ∧ tget 0 ({ floor := [(2, 5)] } : Boot).floor 2 = 5 ∧ ({ stage := 2 } : Boot).stage + 1 = 3 ∧ (∀ x ∈ s.chsets, x.2.en = false)
      ∧ ({ stage := 3, ownerKey := some 1 } : Boot).ownerKey ≠ none ∧ ({ recovery := true } : Boot).recovery = true ∧ s.stores = []
      ∧ (∀ c ∈ s.cores, c.2.partials = [] ∧ ∀ tm ∈ c.2.team, ∀ o ∈ tm.ops, o.undelivered = none ∧ o.phase ≠ .running) ∧ 0 ∈ s.grids.map Prod.fst ∧ (s.grid 0).phase = .resident := by decide +kernel
theorem witness_management : let s : State := { parts := [(1, 0x301)] }
    ({ recovery := true } : Boot).recovery = true ∧ s.boot.recovery = false ∧ s.boot.enrolled = none
      ∧ ({ enrolled := some 3 } : Boot).enrolled = some 3 ∧ (7 : Nat) < 8 ∧ s.partCode 7 0x101 = 2 ∧ s.partCode 7 0x401 = 0
      ∧ bit (tget 0 s.parts 1).toNat 0 = true ∧ bits (tget 0 s.parts 1).toNat 15 8 &&& bits 0x101 15 8 ≠ 0
      ∧ s.boot.queue = [] ∧ ({ queue := [.status] } : Boot).queue ≠ [] ∧ ({ forming := some 5 } : Domain).forming ≠ none
      ∧ (({ ports := [(3, { trained := true })] } : State).port 3).trained = true ∧ s.heldLines = [] ∧ s.stores = [] ∧ s.domain.failed = []
      ∧ (∃ c < 256, ({ chmask := 1 } : ChSet).chmask.getLsbD c = true ∧ c ∉ s.retiredCh) ∧ ({} : ChSet).state = 0
      ∧ s.domain.formed = false ∧ s.domain.forming = none ∧ (255 : Nat) < 256 ∧ (s.chset 0).en = false
      ∧ (({ chsets := [(0, { en := true })] } : State).chset 0).en = true ∧ (1 : Nat) < 32 ∧ 32 ≤ 32
      ∧ ({ formed := true } : Domain).formed = true
      ∧ (∃ g ∈ ({ grids := [(0, {})] } : State).grids, g.2.phase ≠ .ended) ∧ (∀ g ∈ s.grids, g.2.phase = .ended) := by decide +kernel

/-- What LoadsReturn asks beside its checks: a home that answers, and either no failed fold die or a full log. -/
theorem witness_lines_come : let s := mach (lone { s := [(4, 16)] }) {}
    let r := s.bufCheck 1 false 16 16 4 .load
    (r.1.readable 0x200010).canRead 0x200010 = true ∧ s.domain.failed = []
      ∧ (({ s with logHead := 1 } : State).logTail + 1) % 4096 = ({ s with logHead := 1 } : State).logHead := by decide +kernel

/-- A RED that is to be combined: with its line in G and without, at a live home and with none; and an element of an engine's RED. -/
theorem witness_reds : let s := mach (lone {}) {}
    let dead : State := { s with domain := { failed := [0, 1] }, logHead := 1 }
    (∀ op ∈ [0, 17], let t : State := { s with stores := [{ id := 1, core := 0, grp := 0, lane := 0, pc := 0, kind := .combine 0x200010 0x200010 op 1 3 }] }
      t.access? (dieOf 0) 0x200010 { w := true } = .mem 0x200010)
      ∧ permits ((s.obtain 0 (0x200010 / 128) 1).line 0 (0x200010 / 128)) 1 = true
      ∧ permits ((dead.obtain 0 (0x200010 / 128) 1).line 0 (0x200010 / 128)) 1 = false
      ∧ (s.uncache (0x200010 / 128)).uncached (0x200010 / 128) = true ∧ (dead.uncache (0x200010 / 128)).uncached (0x200010 / 128) = false
      ∧ (dead.logTail + 1) % 4096 = dead.logHead := by decide +kernel

/-- TLBINV and BUFINV with no held write of theirs; an area that may be read. -/
theorem witness_maintenance : let s := svcMach { s := [(5, 0x10000)] }
    let m : State := { (mach {} {}).setBytes 0x200000 [0] with grp := 16 }
    s.drainAll.stores = [] ∧ s.drainAll.heldThrough 0x10000 = false ∧ s.drainAll.heldBy 0x10000 = false
      ∧ m.areaThere 0x200000 ({} : Team).areaSize { r := true } = true := by decide +kernel

/-- A walk over one node, whose block is there (memory lists nothing) and is not (its entry is 0xFFFF); a node that no sequence
takes; the end of the order; a sequence that caught up late. -/
def walkMach (pos : Nat) (catchUp : Bool) (x : Seq) (mem : List Host.Cell) : State :=
  let op : EngOp := { id := opId 0x3A 1, instr := .pwrun {}, words := [0], phase := .running, snap := [0xFFFF] }
  { opMach op (some { desc := walkDesc - 2 ^ 240, run := some { id := op.id, afresh := true, pos := pos, catchUp := catchUp }, seqs := [(0, x)] }) with mem := mem }
theorem witness_walk_nodes :
    let live : Seq := { state := 4, valid := true }
    let bad := [(0x200000, (0xFF : Byte)), (0x200001, 0xFF)]
    let tm := fun (s : State) => (s.coreAt 0).team.getD {}
    let parts := fun (s : State) (p : Walk → WalkRun → EngOp → Bool) =>
      match (tm s).walkOp with | some (w, r, op) => p w r op | none => false
    let fetches := fun (s : State) (late : Bool) (good : Bool) => parts s (fun w _ op =>
      let u : State := { s with core := 0, grp := op.grp, stuck := false }
      let f := (if late then u else u.modTeam (Team.setRun (fun x => { x with pos := x.pos + 1 }))).fetchNode w (Machine.Tree.node op.snap 0)
      f.2.isRight = good && !f.1.stuck && f.1.core = 0 && !s.walkWaits 0 (tm s) && (f.1.coreAt 0).team.isSome && (tm f.1).walk.isSome && !w.massen)
    let main := walkMach 0 false live []
    let late := walkMach 1 true { live with since := 1, late := [0] }
    parts main (fun w r op => !r.catchUp && w.queue.isEmpty && (Machine.Tree.order op.snap)[r.pos]? = some 0 && w.subs r op.snap 0 = [0]) = true
      ∧ fetches main false true = true ∧ fetches (walkMach 0 false live bad) false false = true
      ∧ parts (walkMach 0 false {} []) (fun w r op => (Machine.Tree.order op.snap)[r.pos]? = some 0 && w.subs r op.snap 0 = []) = true
      ∧ parts (walkMach 1 false live []) (fun _ r op => (Machine.Tree.order op.snap)[r.pos]? = none && !r.catchUp) = true
      ∧ parts (late []) (fun w r _ => r.catchUp && w.lateSeqs r = [0] && (w.seq 0).late = [0]) = true
      ∧ fetches (late []) true true = true ∧ fetches (late bad) true false = true := by decide +kernel

/-- A running copy of a redundant grid that is to be compared; a walk that has no node left and one that has. -/
theorem witness_operation_ends : let o : EngOp := { cpOp with phase := .running, outside := true }
    let s : State := { opMach o with grids := [(0, { record := 2 ^ 88, phase := .resident, place := [0, 1] })] }
    s.comparesOp o = true ∧ o.ran = none ∧ isWalk o.instr = false
      ∧ (walkMach 1 true {} []).team.walkOver = true ∧ (walkMach 0 false { state := 4 } []).team.walkOver = false
      ∧ (opMach cpOp).comparesOp cpOp = false := by decide +kernel

/-- A machine in recovery; access tables before and after stage 3 starts; a request that reaches its channel and one that an entry
answers. -/
theorem witness_recovery : let s := mach {} {}
    ({ s with boot := { recovery := true } } : State).boot.recovery = true ∧ s.boot.recovery = false ∧ s.boot.stage < 3
      ∧ 3 ≤ ({ stage := 3 } : Boot).stage ∧ s.accepts 0 = true
      ∧ (({ folds := [(0, { entries := [{ line := 0, fst := 1 }], store := [0] })] } : State).fold 0).inStore 0 = true := by decide +kernel

/-- An invalidation and a forward for a home on another module, and the acknowledgement of a line whose entry is there. -/
theorem witness_abroad : let s : State := { domain := { size := 2, formed := true, peers := [1], live := [0, 1, 2, 3] }, cores := [(0, { lines := [(2, .m)] })] }
    s.dirOf 2 = 2 ∧ s.domain.module ∉ s.domain.peers ∧ s.dieHolds 0 2 (fun l => permits l 3) = true ∧ s.dieHolds 0 2 (fun l => l = .g) = false
      ∧ (∀ m ∈ s.msgs, ¬ (m.line = 2 ∧ s.isInv m = true ∧ s.sent m = true ∧ m.dst = s.diePtr 0)) ∧ s.pendingAt 2 = false
      ∧ (∀ c ∈ s.cores, dieOf c.1 ≠ 0 → tget .i c.2.lines 2 = .i)
      ∧ (let t : State := { dirWaits := [⟨0, 3, 1, [4], 0, false⟩], folds := [(0, { entries := [{ line := 0, fst := 4 }] })] }
         t.ackHeld 4 = false ∧ t.unsent 4 = false ∧ t.roomFor 3 0 = true ∧ (t.fold (t.dirOf 0)).entry 0 ≠ none) := by decide +kernel

/-- The images of the stages that verify: stage 2 by the module's root key, stage 4 by its owner's. -/
theorem witness_signatures (key img : Nat) : let b : Boot := { stage := 1, rootKey := Config.digest (imageBytes key) }
    let o : Boot := { stage := 3, ownerKey := some (Config.digest (imageBytes key)) }
    let sig : Signature := { key := key, digest := imageDigest (b.image 2 img) 0 }
    some b.rootKey = some (Config.digest (imageBytes sig.key)) ∧ sig.digest = imageDigest (b.image 2 img) 0 ∧ tget 0 b.floor 2 ≤ 0
      ∧ o.ownerKey = some (Config.digest (imageBytes key)) ∧ o.stage + 1 = 4 ∧ o.recovery = false :=
  ⟨rfl, rfl, Nat.le_refl 0, rfl, rfl, rfl⟩

/-- A port that formation may use, one whose channel 3 is held; the last points at which copies meet. -/
theorem witness_ports : (portKey 1 0 ≠ portKey 1 17) ∧ (({ ports := [(3, { trained := true, held := [3] })] } : State).port 3).held.contains 3 = true
    ∧ (({ ports := [(3, { trained := true })] } : State).port 3).held.contains 3 = false ∧ (({} : State).port 3).trained = false
    ∧ (({} : State).port 3).retired = false ∧ ({} : State).regStores = [] ∧ (0 : Nat) < 32 := by decide +kernel

/-! ## The whole machine -/

theorem witness_well_formed : (Instr.sadd { d := 63, a := 63, b := 63 }).wellFormed = true
    ∧ scInstr 0 0 { d := 63, a := 63, b := 63 } = some (.sadd { d := 63, a := 63, b := 63 })
    ∧ ({ d := 63, a := 63, b := 63 } : SOps).fits = true ∧ (Instr.sli { d := 2, lit := some (BitVec.allOnes 64) }).wellFormed = true
    ∧ (Instr.jmp { disp := -8192 }).wellFormed = true ∧ (Instr.vfaddF32 { d := 767, ext := true, sat := true, rm := 1 }).wellFormed = true := by
  decide +kernel
theorem witness_fetch : let s := State.reset.placed 32 0x0C142000
    s.inputs = [] ∧ s.actions = [.issue 0 0] ∧ s.inTurn (.issue 0 0) = true ∧ (0 : Nat) < numCores ∧ 0 + 4 ≤ s.code.2
      ∧ (∃ u, s.translate 0 s.ctx (s.code.1 + 0) { x := true } = (u, .ok 0x100000 0)
          ∧ u.access? (dieOf 0) 0x100000 { r := true } = .mem 0x100000)
      ∧ (∃ u, s.fetchAt s.group.issuePc = (u, .words [0x0C142000])
          ∧ decode u.regalloc [0x0C142000] = .ok (.sadd { d := 4, a := 5, b := 6 }) 1) :=
  ⟨by decide +kernel, by decide +kernel, by decide +kernel, by decide +kernel, by decide +kernel,
    ⟨_, pair_of (by decide +kernel), by decide +kernel⟩, ⟨_, pair_of (by decide +kernel), by decide +kernel⟩⟩
/-- Whether an outcome is a next state. -/
def goesOn : Host.Outcome State Fault Refusal → Bool
  | .next _ => true
  | _ => false
theorem next_of {o : Host.Outcome State Fault Refusal} (h : goesOn o = true) : ∃ t, o = .next t := by
  cases o with
  | next t => exact ⟨t, rfl⟩
  | _ => cases h
theorem witness_canonical : State.reset.mem.wf = true ∧ ∃ t, step State.reset = .next t := ⟨by decide, next_of (by decide +kernel)⟩
theorem witness_cores : ∀ c ∈ (mach {} {}).cores, c.1 < numCores := by decide +kernel

end Sys2Proof.Tests
end

section
/-! PROOFS. A fetch and the step that issues a group (O57), and what reset leaves (O60). -/
namespace Sys2Proof.Machine
open Sys2Proof

/-! ## A fetch leaves the issuing group as it was

A fetch may walk page tables: its reads reach memory, over ports or as counted, and leaves are kept in TLBs. None of this
moves the machine to another core or changes the group that issues. -/

/-- The core that the machine acts for and its issuing group. -/
def State.issuer (s : State) : Nat × Group := (s.core, s.group)

theorem State.issuer_transmit (s : State) (m : Msg) : (s.transmit m).1.issuer = s.issuer := by
  unfold State.transmit
  split
  · rfl
  · split <;> rfl

theorem State.issuer_post (s : State) (m : Msg) : (s.post m).issuer = s.issuer := by
  unfold State.post
  split
  · exact s.issuer_transmit m
  · rfl

theorem State.issuer_postAbroad (s : State) (vc flits ptr ln : Nat) :
    (s.postAbroad vc flits ptr ln).issuer = s.issuer := by
  unfold State.postAbroad
  split
  · rfl
  · exact State.issuer_post _ _

theorem State.issuer_reach (s : State) (die : Nat) (a : Acc) (rd : Bool) : (s.reach die a rd).issuer = s.issuer := by
  cases a with
  | peer pa => exact s.issuer_postAbroad _ _ _ _
  | _ => rfl

theorem Walked.issuer_reach (w : Walked) (die : Nat) (s : State) : (w.reach die s).issuer = s.issuer :=
  List.foldlRecOn (motive := fun t : State => t.issuer = s.issuer) w.reads _ rfl
    fun t ht a _ => (t.issuer_reach die a true).trans ht

theorem State.issuer_dieAdd (s : State) (die : Nat) (e : TlbEntry) : (s.dieAdd die e).issuer = s.issuer := by
  unfold State.dieAdd
  exact (apply_ite State.issuer _ _ _).trans (ite_self _)

/-- A change of a core that keeps its team and its service group keeps the issuing group. -/
theorem State.issuer_modCore (s : State) (c : Nat) (f : Core → Core) (ht : ∀ x, (f x).team = x.team)
    (hv : ∀ x, (f x).svc = x.svc) : (s.modCore c f).issuer = s.issuer := by
  have hteam : (s.modCore c f).team = s.team := by
    unfold State.team
    rw [State.coreAt_modCore, State.modCore_core]
    split
    · next e => rw [ht, e]
    · rfl
  have hsvc : ((s.modCore c f).coreAt s.core).svc = (s.coreAt s.core).svc := by
    rw [State.coreAt_modCore]
    split
    · next e => rw [hv, e]
    · rfl
  have hgroup : (s.modCore c f).group = s.group :=
    congrArg₂ (fun g (t : Team) => if s.isSvc then g else t.group s.grp) hsvc hteam
  exact congrArg (Prod.mk s.core) hgroup

theorem State.issuer_tlbAdd (s : State) (core : Nat) (e : TlbEntry) : (s.tlbAdd core e).issuer = s.issuer := by
  unfold State.tlbAdd
  rw [State.issuer_dieAdd]
  refine s.issuer_modCore core _ (fun x => ?_) fun x => ?_
  · exact (apply_ite Core.team _ _ _).trans (ite_self _)
  · exact (apply_ite Core.svc _ _ _).trans (ite_self _)

theorem State.issuer_keepWalk (s : State) (die ctx va : Nat) (r : WalkRes) (tabs : List TabEntry) :
    (s.keepWalk die ctx va r tabs).issuer = s.issuer := by
  cases r with
  | fail n => rfl
  | leaf lv p =>
    unfold State.keepWalk
    dsimp only
    split
    · exact s.issuer_dieAdd _ _
    · exact s.issuer_dieAdd _ _

theorem State.issuer_startWalks (die n : Nat) (s : State) : (State.startWalks die n s).issuer = s.issuer := by
  induction n generalizing s with
  | zero => rfl
  | succ n ih =>
    unfold State.startWalks
    split
    · rfl
    split
    · rfl
    · rw [ih]
      split <;> exact Walked.issuer_reach _ die s

theorem State.issuer_endWalk (s : State) (w : PtWalk) : (s.endWalk w).issuer = s.issuer := by
  unfold State.endWalk
  rw [State.issuer_startWalks]
  split
  · exact State.issuer_keepWalk _ _ _ _ _ _
  · rfl

theorem State.issuer_walkUntil (die : Nat) (p : State → Bool) (n : Nat) (s : State) :
    (State.walkUntil die p n s).issuer = s.issuer := by
  induction n generalizing s with
  | zero => rfl
  | succ n ih =>
    unfold State.walkUntil
    split
    · rfl
    split
    · rw [ih, State.issuer_endWalk]
    · rfl

theorem State.issuer_ownWalk (s : State) (die ctx va : Nat) : (s.ownWalk die ctx va).1.issuer = s.issuer := by
  unfold State.ownWalk
  rw [State.issuer_keepWalk, Walked.issuer_reach, State.issuer_walkUntil]

theorem State.issuer_missWalk (s : State) (core ctx va : Nat) : (s.missWalk core ctx va).1.issuer = s.issuer := by
  unfold State.missWalk
  split
  · exact s.issuer_ownWalk _ _ _
  extract_lets _ t
  have ht : t.issuer = s.issuer := State.issuer_walkUntil _ _ _ _
  split
  · split
    · rw [State.issuer_endWalk, ht]
    · rw [State.issuer_ownWalk, ht]
  · rw [State.issuer_ownWalk, ht]

theorem State.issuer_leafOf (s : State) (core ctx va : Nat) : (s.leafOf core ctx va).1.issuer = s.issuer := by
  have hm := s.issuer_missWalk core ctx va
  unfold State.leafOf
  split
  · rfl
  split
  · exact s.issuer_tlbAdd _ _
  split
  · next e => rw [State.issuer_tlbAdd, ← hm, e]
  · next e => rw [← hm, e]

theorem State.issuer_translate (s : State) (core ctx va : Nat) (need : Need) :
    (s.translate core ctx va need).1.issuer = s.issuer := by
  have hl := s.issuer_leafOf core ctx va
  unfold State.translate
  split
  · next e => rw [← hl, e]
  · next e => split <;> rw [← hl, e]

theorem State.issuer_fetchWords (s : State) (n pc : Nat) : (s.fetchWords n pc).1.issuer = s.issuer := by
  induction n generalizing s pc with
  | zero => rfl
  | succ n ih =>
    have ht := s.issuer_translate s.core s.ctx (s.code.1 + pc) { x := true }
    unfold State.fetchWords
    dsimp only
    split
    · rfl
    split
    · next e => rw [← ht, e]
    · next u pa k e =>
      have hu : u.issuer = s.issuer := by rw [← ht, e]
      have hn := (ih u (pc + 4)).trans hu
      split
      · exact hu
      · split
        · next e => rw [← hn, e]
        · next e => rw [← hn, e]

theorem State.issuer_fetchAt (s : State) (pc : Nat) : (s.fetchAt pc).1.issuer = s.issuer := by
  have h1 := s.issuer_fetchWords 1 pc
  unfold State.fetchAt
  split
  · next e => rw [State.issuer_fetchWords, ← h1, e]
  · exact h1

/-! ## A fetch, and the step that issues a group (R2, R30, R107) -/

/-- A word that the code holds and that memory lets the core execute is its four bytes, lowest first (R2). -/
theorem State.fetchWords_one_mem {s u : State} {pc pa k key : Nat} (hpc : pc + 4 ≤ s.code.2)
    (ht : s.translate s.core s.ctx (s.code.1 + pc) { x := true } = (u, .ok pa k))
    (ha : u.access? (dieOf s.core) pa { r := true } = .mem key) :
    s.fetchWords 1 pc = (u, .words [leNat (u.bytesAt key 4)]) := by
  have hcore : u.core = s.core := by
    have hi := s.issuer_translate s.core s.ctx (s.code.1 + pc) { x := true }
    rw [ht] at hi
    exact congrArg Prod.fst hi
  rw [← hcore] at ha
  simp [State.fetchWords, Nat.not_lt.mpr hpc, ht, ha, Acc.reaches, State.readAcc]

/-- The one enabled action, when its turn has come and nothing comes from outside, is the step's. -/
theorem State.nextAction_of_only {s : State} {a : Action} (hin : s.inputs = []) (ha : s.actions = [a])
    (ht : s.inTurn a = true) : s.nextAction = (a, []) := by
  simp [State.nextAction, State.chosen, hin, ha, ht]

/-- The issue of a group performs the instruction that the words at its issue program counter decode to. -/
theorem State.issueStep_of_fetchAt {s u : State} {c g n pc : Nat} {ws : List Nat} {i : Instr} (hc : c < numCores)
    (hpc : ({ s with core := c, grp := g } : State).group.issuePc = pc)
    (hf : ({ s with core := c, grp := g } : State).fetchAt pc = (u, .words ws)) (hd : decode u.regalloc ws = .ok i n) :
    s.issueStep c g = exec i (u.fetchReach pc (u.issueWords i n)) := by
  have hi : ({ s with core := c, grp := g } : State).instrAt pc = (u, .ok i n) := by simp [State.instrAt, hf, hd]
  have hu : u.group.issuePc = pc := by
    have hs := State.issuer_fetchAt { s with core := c, grp := g } pc
    rw [hf] at hs
    exact (congrArg (fun x => x.2.issuePc) hs).trans hpc
  unfold State.issueStep
  simp [Nat.not_le.mpr hc, hpc, hi, hu]

/-- Settles O57: the fetch reads the word's bytes for the same core (`State.fetchWords_one_mem`), and the one enabled action
issues what the words decode to (`State.issueStep_of_fetchAt`). -/
theorem stepRunsDecoded : Obligations.StepRunsDecoded := by
  unfold Obligations.StepRunsDecoded
  intro c g s x
  constructor
  · intro pc pa k key u hpc ht ha
    exact State.fetchWords_one_mem (s := x) hpc ht ha
  · intro ws i n u hin hact hturn hc y hf hd
    have hstep : step s = thenOn (State.after 0) (y.act (.issue c g)) := by
      unfold step
      rw [State.nextAction_of_only hin hact hturn]
      rfl
    rw [hstep]
    show thenOn _ (thenOn _ (y.issueStep c g)) = _
    rw [State.issueStep_of_fetchAt hc rfl hf hd]
    rfl

/-- Settles O60: reset lists no byte of memory (`State.wf_reset`), and gives every other field its value. -/
theorem resetState : Obligations.ResetState :=
  ⟨State.wf_reset, fun _ => rfl, rfl, rfl, rfl, rfl, rfl, rfl, rfl, rfl, rfl, rfl, fun _ => rfl⟩

end Sys2Proof.Machine
end

section
/-! PROOFS. Every step keeps the canonical form of memory (O59). -/
namespace Sys2Proof.Machine
open Sys2Proof

/-! ## Memory stays canonical (O59, log 3)

The bytes of memory change in few ways: a write of bytes, and the moving and dropping of a channel set's granules. The laws
`State.wf_setBytes`, `State.wf_writeAcc`, `State.wf_putAcc`, `State.wf_physWrite`, `State.wf_areaFill`, `State.wf_moveSpan`,
`State.wf_settlePlaces` and `State.wf_dropPlaces` say that these keep the canonical form. Every other operation changes other
parts of the state, and then its memory is the old one and the hypothesis itself is the proof; or it is made of the former.
So one lemma stands for each operation, in the order of the model: `wf_f` says that what f leaves has canonical memory when
what it was given has, and `lands_f` says so of an f that answers an outcome. A lemma follows the branches of its definition;
an operation that takes another one as an argument has the same of that one as a hypothesis. -/

/-- Memory is in its canonical form (log 3). -/
abbrev State.MemWf (s : State) : Prop := s.mem.wf = true

/-- The next state of an outcome, if it is one, has memory in canonical form. -/
def Lands (o : Host.Outcome State Fault Refusal) : Prop := ∀ t, o = .next t → t.MemWf

/-- A body keeps the canonical form of memory. -/
def Body.MemWf (b : Body) : Prop := ∀ iss s, s.MemWf → (b iss s).s.MemWf

/-- The checks of an engine instruction keep the canonical form of memory. -/
def EngSpec.MemWf (sp : EngSpec) : Prop := ∀ s ws, s.MemWf → (sp.check s ws).1.MemWf

/-! ### Outcomes, branches, folds -/

theorem lands_next {t : State} (h : t.MemWf) : Lands (.next t) := fun _ e => by cases e; exact h
theorem lands_fault {r : Fault} : Lands (.fault r) := fun _ e => by cases e

/-- The state of a pair that a match has taken apart. -/
theorem wf_fst {α : Type} {p : State × α} {t : State} {x : α} (e : p = (t, x)) (h : p.1.MemWf) : t.MemWf := by
  subst e; exact h

theorem wf_of_mem {s t : State} (h : s.MemWf) (e : t.mem = s.mem) : t.MemWf := by
  unfold State.MemWf; rw [e]; exact h

theorem wf_ite {c : Prop} [Decidable c] {a b : State} (ha : a.MemWf) (hb : b.MemWf) : (if c then a else b).MemWf := by
  split
  · exact ha
  · exact hb

theorem Body.wf_ite {c : Prop} [Decidable c] {a b : Body} (ha : a.MemWf) (hb : b.MemWf) :
    Body.MemWf (if c then a else b) := by
  split
  · exact ha
  · exact hb

theorem wf_foldl {α : Type} {l : List α} {f : State → α → State} {s : State} (h : s.MemWf)
    (hf : ∀ t a, t.MemWf → (f t a).MemWf) : (l.foldl f s).MemWf :=
  List.foldlRecOn l f h fun t ht a _ => hf t a ht

/-- The same for a fold that carries more than the state. -/
theorem wf_foldl_fst {α β : Type} {l : List α} {f : State × β → α → State × β} {p : State × β} (h : p.1.MemWf)
    (hf : ∀ q a, q.1.MemWf → (f q a).1.MemWf) : (l.foldl f p).1.MemWf :=
  List.foldlRecOn (motive := fun q => q.1.MemWf) l f h fun q hq a _ => hf q a hq

/-! ### Operations whose memory the laws name -/

theorem State.wf_modGroup {s : State} {f : Group → Group} (h : s.MemWf) : (s.modGroup f).MemWf :=
  wf_of_mem h (s.modGroup_mem f)
theorem State.wf_transmit {s : State} {m : Msg} (h : s.MemWf) : (s.transmit m).1.MemWf := wf_of_mem h (s.mem_transmit m)
theorem State.wf_postAbroad {s : State} {vc flits ptr ln : Nat} (h : s.MemWf) : (s.postAbroad vc flits ptr ln).MemWf :=
  wf_of_mem h (s.mem_postAbroad vc flits ptr ln)
theorem State.wf_dropX {s : State} {die ln : Nat} (h : s.MemWf) : (s.dropX die ln).MemWf :=
  wf_of_mem h (s.mem_dropX die ln)
theorem State.wf_takeX {s : State} {c ln : Nat} {x : LineState} (h : s.MemWf) : (s.takeX c ln x).MemWf :=
  wf_of_mem h (s.mem_takeX c ln x)
theorem State.wf_leaveDie {s : State} {die ln : Nat} (h : s.MemWf) : (s.leaveDie die ln).MemWf :=
  wf_of_mem h (s.mem_leaveDie die ln)
theorem State.wf_reach {s : State} {die : Nat} {a : Acc} {rd : Bool} (h : s.MemWf) : (s.reach die a rd).MemWf :=
  wf_of_mem h (s.mem_reach die a rd)
theorem State.wf_post {s : State} {m : Msg} (h : s.MemWf) : (s.post m).MemWf := wf_of_mem h (s.mem_post m)

/-! ### Machine/Links -/

theorem State.wf_forget {s : State} {ids : List Nat} (h : s.MemWf) : (s.forget ids).MemWf := h
theorem State.wf_postOn {s : State} {k dst : Nat} (h : s.MemWf) : (s.postOn k dst).MemWf := State.wf_post h

/-! ### Machine/Ops -/

theorem State.wf_modCore {s : State} {c : Nat} {f : Core → Core} (h : s.MemWf) : (s.modCore c f).MemWf := h
theorem State.wf_modTeamAt {s : State} {c : Nat} {f : Team → Team} (h : s.MemWf) : (s.modTeamAt c f).MemWf := h
theorem State.wf_modTeam {f : Team → Team} {s : State} (h : s.MemWf) : (State.modTeam f s).MemWf := h
theorem State.wf_setGrid {s : State} {g : Nat} {x : Grid} (h : s.MemWf) : (s.setGrid g x).MemWf := h
theorem State.wf_modGrid {s : State} {g : Nat} {f : Grid → Grid} (h : s.MemWf) : (s.modGrid g f).MemWf := h

theorem State.wf_modGroupAt {s : State} {c g : Nat} {f : Group → Group} (h : s.MemWf) : (s.modGroupAt c g f).MemWf :=
  wf_ite h h

theorem State.wf_physReach {s : State} {master pa : Nat} (h : s.MemWf) : (s.physReach master pa).MemWf :=
  State.wf_reach h

theorem State.wf_ctxReach {s : State} {ctx : Nat} (h : s.MemWf) : (s.ctxReach ctx).MemWf :=
  wf_ite h (State.wf_physReach h)

theorem State.wf_desc {s : State} {die ctx i : Nat} (h : s.MemWf) : (s.desc die ctx i).1.MemWf := by
  unfold State.desc
  split
  · exact h
  · exact wf_ite (State.wf_physReach h) (State.wf_physReach h)

theorem Walked.wf_reach {w : Walked} {die : Nat} {s : State} (h : s.MemWf) : (w.reach die s).MemWf :=
  wf_foldl h (fun _ _ ht => State.wf_reach ht)

theorem State.wf_dieAdd {s : State} {die : Nat} {e : TlbEntry} (h : s.MemWf) : (s.dieAdd die e).MemWf := wf_ite h h

theorem State.wf_tlbAdd {s : State} {core : Nat} {e : TlbEntry} (h : s.MemWf) : (s.tlbAdd core e).MemWf :=
  State.wf_dieAdd h

theorem State.wf_keepWalk {s : State} {die ctx va : Nat} {r : WalkRes} {tabs : List TabEntry} (h : s.MemWf) :
    (s.keepWalk die ctx va r tabs).MemWf := by
  unfold State.keepWalk
  split
  · exact h
  · exact wf_ite (State.wf_dieAdd h) (State.wf_dieAdd h)

theorem State.wf_startWalks {die n : Nat} {s : State} (h : s.MemWf) : (State.startWalks die n s).MemWf := by
  induction n generalizing s with
  | zero => exact h
  | succ n ih =>
    unfold State.startWalks
    split
    · exact h
    split
    · exact h
    · extract_lets _ s1
      have h1 : s1.MemWf := Walked.wf_reach h
      refine ih ?_
      split <;> exact h1

theorem State.wf_endWalk {s : State} {w : PtWalk} (h : s.MemWf) : (s.endWalk w).MemWf := by
  unfold State.endWalk
  extract_lets s1 s2
  have h1 : s1.MemWf := h
  have h2 : s2.MemWf := by
    unfold s2
    split
    · exact State.wf_keepWalk h1
    · exact h1
  exact State.wf_startWalks h2

theorem State.wf_walkUntil {die : Nat} {p : State → Bool} {n : Nat} {s : State} (h : s.MemWf) :
    (State.walkUntil die p n s).MemWf := by
  induction n generalizing s with
  | zero => exact h
  | succ n ih =>
    unfold State.walkUntil
    split
    · exact h
    split
    · exact ih (State.wf_endWalk h)
    · exact h

theorem State.wf_ownWalk {s : State} {die ctx va : Nat} (h : s.MemWf) : (s.ownWalk die ctx va).1.MemWf :=
  State.wf_keepWalk (Walked.wf_reach (State.wf_walkUntil h))

theorem State.wf_missWalk {s : State} {core ctx va : Nat} (h : s.MemWf) : (s.missWalk core ctx va).1.MemWf := by
  unfold State.missWalk
  extract_lets _
  split
  · exact State.wf_ownWalk h
  split
  · split
    · exact State.wf_endWalk (State.wf_walkUntil h)
    · exact State.wf_ownWalk (State.wf_walkUntil h)
  · exact State.wf_ownWalk (State.wf_walkUntil h)

theorem State.wf_leafOf {s : State} {core ctx va : Nat} (h : s.MemWf) : (s.leafOf core ctx va).1.MemWf := by
  unfold State.leafOf
  split
  · exact h
  split
  · exact State.wf_tlbAdd h
  split
  · exact State.wf_tlbAdd (wf_fst ‹_› (State.wf_missWalk h))
  · exact wf_fst ‹_› (State.wf_missWalk h)

theorem State.wf_translate {s : State} {core ctx va : Nat} {need : Need} (h : s.MemWf) :
    (s.translate core ctx va need).1.MemWf := by
  unfold State.translate
  split
  · exact wf_fst ‹_› (State.wf_leafOf h)
  · next s1 _ _ e1 =>
      have h1 : s1.MemWf := wf_fst e1 (State.wf_leafOf h)
      split <;> exact h1

theorem State.wf_logEvent {s : State} {gridid ctx code sub : Nat} {u : HwUnit} {event arg : Nat} (h : s.MemWf) :
    (s.logEvent gridid ctx code sub u event arg).MemWf :=
  wf_ite h (State.wf_physWrite _ _ _ h)

theorem State.wf_noteError {s : State} {unit : Nat} (h : s.MemWf) : (s.noteError unit).MemWf := wf_ite h h
theorem State.wf_endGrid {s : State} {g status : Nat} (h : s.MemWf) : (s.endGrid g status).MemWf := h
theorem State.wf_markDeferred {s : State} {g : Nat} (h : s.MemWf) : (s.markDeferred g).MemWf := h

theorem State.wf_recordAt {s : State} {core ctx off : Nat} (h : s.MemWf) : (s.recordAt core ctx off).1.MemWf := by
  unfold State.recordAt
  split
  rename_i s1 _ e1
  have h1 : s1.MemWf := wf_fst e1 (State.wf_desc h)
  split <;> exact wf_fst ‹_› (State.wf_translate h1)

theorem State.wf_recLength {s : State} {ctx : Nat} (h : s.MemWf) : (s.recLength ctx).1.MemWf := by
  unfold State.recLength
  split
  exact wf_fst ‹_› (State.wf_desc h)

theorem State.wf_addRetired {s : State} {us : List HwUnit} (h : s.MemWf) : (s.addRetired us).MemWf := h

theorem State.wf_noteFault {s : State} {code detail : Nat} (h : s.MemWf) : (s.noteFault code detail).MemWf :=
  wf_ite (State.wf_noteError h) h

theorem State.wf_noteFrame {s : State} {core grp : Nat} (h : s.MemWf) : (s.noteFrame core grp).MemWf := h

/-- A record goes into its slot or is counted lost, and is logged: bytes are written in both (R438, R452). -/
theorem State.wf_terminal {s : State} {core : Nat} {t : Team} {grp lane pc rep kind : Nat} {x : Trap} (h : s.MemWf) :
    (s.terminal core t grp lane pc rep kind x).MemWf := by
  unfold State.terminal
  extract_lets s1 _ s2
  have h1 : s1.MemWf := h
  have h2 : s2.MemWf := State.wf_logEvent h1
  clear_value s1 s2
  split
  rename_i s3 _ e3
  have h3 : s3.MemWf := wf_fst e3 (State.wf_recordAt h2)
  split
  · exact h3
  · extract_lets s4 _ _ lost
    have h4 : s4.MemWf := State.wf_reach h3
    have hlost : ∀ (s : State), s.MemWf → (lost s).MemWf := fun _ ht => State.wf_putAcc _ _ _ ht
    clear_value s4
    split
    · exact hlost _ h4
    split
    rename_i s5 _ e5
    have h5 : s5.MemWf := wf_fst e5 (State.wf_recordAt h4)
    exact wf_ite (hlost _ h5) (State.wf_putAcc _ _ _ (State.wf_putAcc _ _ _ h5))

theorem State.wf_trapEnds {s : State} {pc : Nat} {r : Raised} (h : s.MemWf) : (s.trapEnds pc r).MemWf :=
  State.wf_endGrid (wf_foldl h (fun _ _ ht => State.wf_terminal ht))

theorem State.wf_framePlaces {s : State} {base : Nat} {x : List (Nat × Nat)} (h : s.MemWf) :
    (s.framePlaces base x).1.MemWf := by
  induction x generalizing s with
  | nil => exact h
  | cons p rest ih =>
    unfold State.framePlaces
    split
    rename_i s1 _ e1
    have h1 : s1.MemWf := wf_fst e1 (State.wf_recordAt h)
    split
    · exact h1
    · split <;> exact wf_fst ‹_› (ih h1)

theorem State.wf_serviceFault {s : State} {pc : Nat} {x : Trap} (h : s.MemWf) : (s.serviceFault pc x).MemWf := h

theorem State.wf_noteTraps {s : State} {r : Raised} (h : s.MemWf) : (s.noteTraps r).MemWf :=
  wf_foldl h (fun _ _ ht => wf_ite (State.wf_noteFault ht) ht)

theorem State.wf_takeTraps {s : State} {pc : Nat} {r : Raised} (h : s.MemWf) : (s.takeTraps pc r).MemWf := by
  unfold State.takeTraps
  extract_lets _ s1
  have h1 : s1.MemWf := wf_ite h (State.wf_noteTraps h)
  split
  · exact h1
  split
  · split
    · exact State.wf_serviceFault h1
    · exact h1
  split
  · exact wf_ite (State.wf_modGroup h1) (State.wf_trapEnds h1)
  split
  rename_i s2 _ e2
  have h2 : s2.MemWf := wf_fst e2 (State.wf_recLength h1)
  split
  · exact State.wf_trapEnds h2
  · extract_lets _
    split
    · exact State.wf_modGroup h2
    split
    · exact State.wf_trapEnds (wf_fst ‹_› (State.wf_framePlaces h2))
    · next s3 _ e3 =>
        have h3 : s3.MemWf := wf_fst e3 (State.wf_framePlaces h2)
        exact State.wf_modGroup (State.wf_noteFrame (wf_foldl h3 (fun _ _ ht => State.wf_putAcc _ _ _ ht)))

theorem State.wf_releaseHeld {s : State} {ctx : Nat} (h : s.MemWf) : (s.releaseHeld ctx).MemWf := h

theorem State.wf_leaveFrame {s : State} {ls : Dword} (h : s.MemWf) : (s.leaveFrame ls).MemWf := by
  unfold State.leaveFrame
  extract_lets _ _
  split
  · exact h
  · exact wf_ite h (wf_ite (State.wf_modGroup h) (State.wf_releaseHeld (State.wf_modGroup h)))

theorem State.wf_returnFrom {s : State} {ls : Dword} {pcOf repOf : Nat → Nat} (h : s.MemWf) :
    (s.returnFrom ls pcOf repOf).MemWf :=
  State.wf_leaveFrame (State.wf_modGroup h)

/-! ### Machine/Coherence -/

theorem State.wf_setLine {s : State} {core ln : Nat} {x : LineState} (h : s.MemWf) : (s.setLine core ln x).MemWf := h

theorem State.wf_mapLine {s : State} {ln : Nat} {p : Nat → Bool} {f : LineState → LineState} (h : s.MemWf) :
    (s.mapLine ln p f).MemWf :=
  h

theorem State.wf_deferredFault {s : State} {r : MemReq} {va code sub detail : Nat} (h : s.MemWf) :
    (s.deferredFault r va code sub detail).MemWf := by
  unfold State.deferredFault
  extract_lets s1
  have h1 : s1.MemWf := State.wf_noteFault h
  exact wf_ite (State.wf_modCore h1) (State.wf_markDeferred (State.wf_terminal h1))

theorem State.wf_combineAt {s : State} {r : MemReq} {pa va op ty : Nat} {v : Word} {mixed : Bool} (h : s.MemWf) :
    (s.combineAt r pa va op ty v mixed).MemWf := by
  unfold State.combineAt
  extract_lets _
  split
  · exact State.wf_deferredFault h
  · exact State.wf_putAcc _ _ _ h

theorem State.wf_combinePartial {s : State} {core pa : Nat} {p : Partial} (h : s.MemWf) :
    (s.combinePartial core pa p).MemWf :=
  State.wf_combineAt h

theorem State.wf_sendPartials {s : State} {core ln : Nat} (h : s.MemWf) : (s.sendPartials core ln).MemWf := by
  unfold State.sendPartials
  refine wf_foldl h (fun _ _ ht => ?_)
  extract_lets _
  split
  · exact ht
  · exact State.wf_combinePartial ht

theorem State.wf_endEpoch {s : State} {ln : Nat} (h : s.MemWf) : (s.endEpoch ln).MemWf :=
  State.wf_mapLine (wf_foldl h (fun _ _ ht => State.wf_sendPartials ht))

theorem State.wf_modFold {s : State} {f : Nat} {g : Fold → Fold} (h : s.MemWf) : (s.modFold f g).MemWf := h

theorem State.wf_sendInv {s : State} {dies : List Nat} {ln core kind want : Nat} {safe : Bool} (h : s.MemWf) :
    (s.sendInv dies ln core kind want safe).MemWf :=
  wf_foldl h (fun _ _ ht => State.wf_post ht)

theorem State.wf_lineAccess {s : State} {die ln : Nat} {rd : Bool} (h : s.MemWf) : (s.lineAccess die ln rd).MemWf :=
  State.wf_reach h

theorem State.wf_backFrom {s : State} {die ln : Nat} (h : s.MemWf) : (s.backFrom die ln).MemWf :=
  wf_ite (State.wf_lineAccess h) h

theorem State.wf_setX {s : State} {ln d : Nat} (h : s.MemWf) : (s.setX ln d).MemWf := h

theorem State.wf_writeBack {s : State} {core ln : Nat} (h : s.MemWf) : (s.writeBack core ln).MemWf := by
  unfold State.writeBack
  split
  · extract_lets _ s1
    have h1 : s1.MemWf := State.wf_lineAccess h
    split
    · exact wf_ite (State.wf_modFold h1) h1
    · exact h1
  · exact h

theorem State.wf_giveUp {s : State} {core ln : Nat} (h : s.MemWf) : (s.giveUp core ln).MemWf := by
  unfold State.giveUp
  extract_lets s1
  have h1 : s1.MemWf := State.wf_sendPartials (State.wf_writeBack h)
  exact State.wf_leaveDie (State.wf_setLine h1)

theorem State.wf_makeRoom {s : State} {core ln : Nat} (h : s.MemWf) : (s.makeRoom core ln).MemWf :=
  wf_ite h (State.wf_giveUp h)

theorem State.wf_take {s : State} {core ln : Nat} {x : LineState} (h : s.MemWf) : (s.take core ln x).MemWf := by
  unfold State.take
  extract_lets s1
  have h1 : s1.MemWf := State.wf_takeX h
  exact wf_ite (State.wf_setLine (State.wf_makeRoom h1)) (State.wf_postAbroad (State.wf_setLine h1))

theorem State.wf_grantNow {s : State} {core kind ln : Nat} (h : s.MemWf) : (s.grantNow core kind ln).MemWf :=
  wf_ite (State.wf_take h) (wf_ite (State.wf_take h) h)

theorem State.wf_recall {s : State} {f : Nat} {e : DirEntry} {core want : Nat} (h : s.MemWf) :
    (s.recall f e core want).MemWf :=
  State.wf_sendInv (State.wf_modFold (wf_ite (State.wf_endEpoch h) h))

theorem State.wf_refuse {s : State} {core ln kind : Nat} (h : s.MemWf) : (s.refuse core ln kind).MemWf := by
  unfold State.refuse
  split <;> exact h

theorem State.wf_forward {s : State} {ptr ln : Nat} (h : s.MemWf) : (s.forward ptr ln).MemWf := State.wf_postAbroad h

theorem State.wf_serveRead {s : State} {f core ln : Nat} {e : DirEntry} {safe : Bool} (h : s.MemWf) :
    (s.serveRead f core ln e safe).MemWf := by
  unfold State.serveRead
  extract_lets _ s1 _
  have h1 : s1.MemWf := wf_ite (State.wf_endEpoch h) h
  split
  · exact State.wf_take (State.wf_modFold (State.wf_lineAccess h1))
  split
  · exact State.wf_take (State.wf_modFold (State.wf_setX (State.wf_mapLine (State.wf_forward h1))))
  · exact State.wf_take (State.wf_modFold (wf_ite h1 (wf_ite (State.wf_lineAccess h1) (State.wf_forward h1))))

theorem State.wf_serveOwn {s : State} {f core ln kind : Nat} {e : DirEntry} {asked : List Nat} {safe : Bool}
    (h : s.MemWf) : (s.serveOwn f core ln kind e asked safe).MemWf := by
  unfold State.serveOwn
  extract_lets _ _ s1 s2 _ s3 s4 _ s5
  have h1 : s1.MemWf := wf_ite (State.wf_endEpoch h) h
  have h2 : s2.MemWf := wf_ite (State.wf_lineAccess h1) h1
  have h3 : s3.MemWf := wf_ite (State.wf_backFrom h2) h2
  have h4 : s4.MemWf := wf_ite h3 (State.wf_mapLine h3)
  have h5 : s5.MemWf := State.wf_modFold h4
  exact wf_ite (State.wf_grantNow h5) (State.wf_sendInv h5)

theorem State.wf_serve {s : State} {f core ln kind : Nat} {e : DirEntry} {asked : List Nat} {safe : Bool}
    (h : s.MemWf) : (s.serve f core ln kind e asked safe).MemWf :=
  wf_ite (State.wf_serveRead h) (State.wf_serveOwn h)

theorem State.wf_serveSafe {s : State} {f core ln kind : Nat} (h : s.MemWf) : (s.serveSafe f core ln kind).MemWf := by
  unfold State.serveSafe
  extract_lets s1 s2
  have h1 : s1.MemWf := wf_ite (wf_foldl h (fun _ _ ht => State.wf_forward ht)) h
  have h2 : s2.MemWf := State.wf_endEpoch h1
  exact State.wf_modFold (State.wf_serve h2)

theorem State.wf_askHome {s : State} {ln : Nat} (h : s.MemWf) : (s.askHome ln).MemWf := wf_ite (State.wf_postAbroad h) h

theorem State.wf_dirRequest {s : State} {core ln kind : Nat} (h : s.MemWf) : (s.dirRequest core ln kind).MemWf := by
  unfold State.dirRequest
  extract_lets _ _ _ s1
  have h1 : s1.MemWf := State.wf_askHome h
  split
  · exact State.wf_refuse h1
  split
  · exact State.wf_serveSafe h1
  split
  · exact wf_ite (State.wf_refuse h1) (State.wf_serve h1)
  split
  · split
    · exact State.wf_refuse (State.wf_recall h1)
    · exact State.wf_refuse h1
  · exact State.wf_serve (State.wf_modFold h1)

theorem State.wf_invalidateDie {s : State} {die ln : Nat} (h : s.MemWf) : (s.invalidateDie die ln).MemWf := by
  unfold State.invalidateDie
  extract_lets s1 s2
  have h1 : s1.MemWf := wf_ite (State.wf_endEpoch h) h
  have h2 : s2.MemWf := by
    unfold s2
    split
    · exact wf_ite (State.wf_postAbroad h1) h1
    · exact State.wf_backFrom h1
  exact State.wf_dropX (State.wf_mapLine h2)

theorem State.wf_clearLine {s : State} {ln : Nat} (h : s.MemWf) : (s.clearLine ln).MemWf := by
  unfold State.clearLine
  extract_lets _ _ s1 s2
  have h1 : s1.MemWf := wf_foldl h (fun _ _ ht => wf_ite (State.wf_postAbroad ht) (wf_ite (State.wf_postAbroad ht) ht))
  have h2 : s2.MemWf := wf_foldl (State.wf_endEpoch h1) (fun _ _ ht => State.wf_backFrom ht)
  exact State.wf_modFold (State.wf_setX (State.wf_mapLine h2))

theorem State.wf_enterAt {s : State} {f : Nat} {e : DirEntry} {stored : Bool} (h : s.MemWf) :
    (s.enterAt f e stored).MemWf := by
  unfold State.enterAt
  extract_lets _ put
  have hput : ∀ (s : State), s.MemWf → (put s).MemWf := fun _ ht => ht
  split
  · split <;> exact State.wf_recall (hput _ h)
  · exact hput _ h

theorem State.wf_reenter {s : State} {ln : Nat} (h : s.MemWf) : (s.reenter ln).MemWf := wf_ite h (State.wf_enterAt h)
theorem State.wf_entryFor {s : State} {ln : Nat} (h : s.MemWf) : (s.entryFor ln).MemWf := wf_ite h (State.wf_reenter h)

theorem State.wf_regain {s : State} {ln : Nat} (h : s.MemWf) : (s.regain ln).MemWf :=
  wf_ite h (wf_ite h (State.wf_reenter h))

theorem State.wf_acknowledge {s : State} {id : Nat} (h : s.MemWf) : (s.acknowledge id).MemWf := by
  unfold State.acknowledge
  extract_lets s1 _ _ s2
  have h2 : s2.MemWf := h
  exact wf_foldl h2
    (fun _ _ ht => wf_ite (State.wf_regain (State.wf_grantNow ht)) (State.wf_entryFor (State.wf_grantNow ht)))

theorem State.wf_settle {s : State} {ln : Nat} (h : s.MemWf) : (s.settle ln).MemWf :=
  wf_foldl h (fun _ _ ht => State.wf_acknowledge (State.wf_invalidateDie ht))

theorem State.wf_recallDone {s : State} {f ln : Nat} (h : s.MemWf) : (s.recallDone f ln).MemWf := by
  unfold State.recallDone
  split
  · exact wf_ite h h
  · exact h

theorem State.wf_settleSet {s : State} {f ln : Nat} (h : s.MemWf) : (s.settleSet f ln).MemWf :=
  wf_foldl h (fun _ _ ht => State.wf_recallDone (State.wf_settle ht))

theorem State.wf_of_onDie {s t : State} {core ln kind : Nat} (h : s.MemWf) (e : s.onDie core ln kind = some t) :
    t.MemWf := by
  unfold State.onDie at e
  split at e
  · cases e
    exact State.wf_take (State.wf_mapLine h)
  split at e
  · cases e
    exact State.wf_take (State.wf_mapLine h)
  · cases e

theorem State.wf_dropLine {s : State} {ln : Nat} (h : s.MemWf) : (s.dropLine ln).MemWf := by
  unfold State.dropLine
  extract_lets s1
  have h1 : s1.MemWf := State.wf_settle h
  clear_value s1
  exact wf_ite h1 (State.wf_clearLine h1)

theorem State.wf_rehome {s : State} (h : s.MemWf) : s.rehome.MemWf := wf_foldl h (fun _ _ ht => State.wf_reenter ht)

theorem State.wf_peersReport {s : State} {p : Nat → Bool} (h : s.MemWf) : (s.peersReport p).MemWf :=
  wf_foldl h (fun _ _ ht => wf_ite (State.wf_regain (State.wf_takeX ht)) ht)

theorem State.wf_moveEntries {s : State} {old : Nat} {p : Nat → Bool} (h : s.MemWf) : (s.moveEntries old p).MemWf := by
  unfold State.moveEntries
  extract_lets _ s1 s2 s3 s4
  have h1 : s1.MemWf := h
  have h2 : s2.MemWf := wf_foldl h1 (fun _ _ ht => wf_ite (State.wf_enterAt ht) ht)
  have h3 : s3.MemWf := wf_ite (State.wf_peersReport h2) h2
  have h4 : s4.MemWf := wf_foldl h3 (fun _ _ ht => State.wf_entryFor ht)
  exact wf_foldl h4 (fun _ _ ht => ht)

theorem State.wf_thaw {s : State} (h : s.MemWf) : s.thaw.MemWf := by
  unfold State.thaw
  split
  · exact State.wf_moveEntries h
  · exact h

theorem State.wf_foldStep {s : State} {f n : Nat} (h : s.MemWf) : (s.foldStep f n).MemWf := State.wf_logEvent h

theorem State.wf_beginFailure {s : State} (h : s.MemWf) : s.beginFailure.MemWf := by
  unfold State.beginFailure
  split
  · exact h
  split
  · exact h
  · extract_lets s1
    have h1 : s1.MemWf := State.wf_foldStep (State.wf_foldStep h)
    exact h1

theorem State.wf_rebuild {s : State} {f : Nat} (h : s.MemWf) : (s.rebuild f).MemWf :=
  wf_ite h (State.wf_foldStep (wf_foldl h (fun _ _ ht => State.wf_reenter ht)))

theorem State.wf_slotMoved {s : State} {f i : Nat} (h : s.MemWf) : (s.slotMoved f i).MemWf := by
  unfold State.slotMoved
  extract_lets s1
  exact wf_ite h (State.wf_beginFailure (State.wf_foldStep h))

theorem State.wf_endFailure {s : State} (h : s.MemWf) : s.endFailure.MemWf := by
  unfold State.endFailure
  split
  · exact State.wf_beginFailure h
  split
  · exact h
  · exact State.wf_moveEntries (wf_foldl (State.wf_rebuild h) (fun _ _ ht => State.wf_slotMoved ht))

theorem State.wf_untilLive {ln n : Nat} {s : State} (h : s.MemWf) : (State.untilLive ln n s).MemWf := by
  induction n generalizing s with
  | zero => exact h
  | succ n ih =>
    unfold State.untilLive
    exact wf_ite h (ih (State.wf_endFailure h))

theorem State.wf_serveReserved {s : State} {f ln : Nat} (h : s.MemWf) : (s.serveReserved f ln).MemWf := by
  unfold State.serveReserved
  refine wf_foldl h (fun _ _ ht => ?_)
  split
  · exact State.wf_settle (State.wf_dirRequest ht)
  · exact ht

theorem State.wf_clearWay {s : State} {ln : Nat} (h : s.MemWf) : (s.clearWay ln).MemWf := by
  unfold State.clearWay
  extract_lets s1 s2
  have h1 : s1.MemWf := State.wf_untilLive h
  have h2 : s2.MemWf := wf_ite (State.wf_thaw h1) h1
  exact State.wf_settleSet (State.wf_settle h2)

theorem State.wf_enter {s : State} {core ln kind : Nat} (h : s.MemWf) : (s.enter core ln kind).MemWf := wf_ite h h

theorem State.wf_ask {core ln kind n : Nat} {s : State} (h : s.MemWf) : (State.ask core ln kind n s).MemWf := by
  induction n generalizing s with
  | zero => exact h
  | succ n ih =>
    unfold State.ask
    extract_lets s1
    have h1 : s1.MemWf := State.wf_clearWay h
    split
    · exact State.wf_enter h1
    split
    · exact State.wf_of_onDie h1 ‹_›
    split
    · exact State.wf_enter (State.wf_clearWay (State.wf_dirRequest h1))
    · exact ih (State.wf_serveReserved (State.wf_clearWay (State.wf_dirRequest h1)))

theorem State.wf_obtain {s : State} {core ln kind : Nat} (h : s.MemWf) : (s.obtain core ln kind).MemWf :=
  wf_ite (State.wf_enter h) (State.wf_ask h)

theorem State.wf_uncache {s : State} {ln : Nat} (h : s.MemWf) : (s.uncache ln).MemWf :=
  State.wf_dropLine (State.wf_clearWay (State.wf_askHome h))

/-! ### Machine/Issue -/

/-- After the body of an issue: the group moves on or waits, and the traps are taken. -/
theorem wf_closeIssue {old : Group} {iss : Issue} {viol : Dword} {tick : Nat} {r : Res} (hr : r.s.MemWf) :
    (closeIssue old iss viol tick r).MemWf :=
  wf_ite (State.wf_modGroup hr) (State.wf_takeTraps (State.wf_modGroup hr))

/-- Every instruction of a team runs here: it keeps the form when its body does and so do the requests that are performed first. -/
theorem wf_runIssue {i : Instr} {perform : State → List Nat → State} {iss : Issue} {body : Body} {s : State}
    (hperform : ∀ t n, t.MemWf → (perform t n).MemWf) (hbody : body.MemWf) (h : s.MemWf) :
    (runIssue i perform iss body s).MemWf := by
  unfold runIssue
  extract_lets _ s1 _ _ _ _ _ _ s2
  have h1 : s1.MemWf := wf_ite (State.wf_modGroup h) h
  have h2 : s2.MemWf := wf_ite (State.wf_modGroup (hperform _ _ h1)) h1
  exact wf_closeIssue (hbody _ _ h2)

theorem Res.wf_group {s : State} {f : Group → Group} (h : s.MemWf) : (Res.group s f).s.MemWf := State.wf_modGroup h

/-! ### Machine/Mem -/

theorem State.wf_bufCheck {s : State} {idx : Nat} {br : Bool} {off boff size : Nat} {k : AKind} (h : s.MemWf) :
    (s.bufCheck idx br off boff size k).1.MemWf := by
  unfold State.bufCheck
  split
  · exact h
  split
  rename_i s1 _ e1
  have h1 : s1.MemWf := wf_fst e1 (State.wf_desc h)
  extract_lets _
  split
  · exact h1
  split
  · exact h1
  split
  · exact h1
  · split <;> exact wf_fst ‹_› (State.wf_translate h1)

theorem State.wf_target {s : State} {r : MemReq} {pa va : Nat} (h : s.MemWf) : (s.target r pa va).1.MemWf := by
  unfold State.target
  extract_lets _
  split
  · exact State.wf_deferredFault h
  · exact h

theorem State.wf_modKept {s : State} {c g : Nat} {f : Group → Group} (h : s.MemWf) : (s.modKept c g f).MemWf :=
  wf_ite (State.wf_modGroupAt h) (wf_foldl h (fun _ _ ht => ht))

theorem State.wf_returns {s : State} {r : MemReq} {v : Word} (h : s.MemWf) : (s.returns r v).MemWf := State.wf_modKept h

theorem State.wf_settleReq {s : State} {r : MemReq} (h : s.MemWf) : (s.settleReq r).MemWf :=
  wf_ite h (State.wf_modKept h)

theorem State.wf_storeAt {s : State} {r : MemReq} {pa : Nat} {a : Acc} {bs : List Byte} (h : s.MemWf) :
    (s.storeAt r pa a bs).MemWf := by
  unfold State.storeAt
  split
  · exact h
  · exact wf_ite (State.wf_writeAcc _ _ (State.wf_obtain h)) (State.wf_obtain h)

theorem State.wf_redPartial {s : State} {r : MemReq} {pa va op ty : Nat} {v : Word} (h : s.MemWf) :
    (s.redPartial r pa va op ty v).MemWf :=
  h

theorem State.wf_redAt {s : State} {r : MemReq} {pa va op ty : Nat} {v : Word} (h : s.MemWf) :
    (s.redAt r pa va op ty v).MemWf :=
  wf_ite (State.wf_redPartial (State.wf_obtain h)) (State.wf_obtain h)

theorem State.wf_atMemory {s : State} {r : MemReq} {pa : Nat} {rd : Bool} {a : Acc} {f : State → State} (h : s.MemWf)
    (hf : ∀ t, t.MemWf → (f t).MemWf) : (s.atMemory r pa rd a f).MemWf := by
  unfold State.atMemory
  extract_lets s1
  have h1 : s1.MemWf := State.wf_uncache h
  clear_value s1
  exact wf_ite (hf _ (State.wf_reach h1)) h1

theorem State.wf_performReq {s : State} {r : MemReq} (h : s.MemWf) : (s.performReq r).MemWf := by
  unfold State.performReq
  split
  · split
    · exact State.wf_storeAt (wf_fst ‹_› (State.wf_target h))
    · exact wf_fst ‹_› (State.wf_target h)
  · split
    · exact State.wf_atMemory (wf_fst ‹_› (State.wf_target h)) (fun _ ht => State.wf_writeAcc _ _ ht)
    · exact wf_fst ‹_› (State.wf_target h)
  · exact State.wf_atMemory h (fun _ ht => State.wf_returns (State.wf_writeAcc _ _ ht))
  split
  · next s1 _ e1 =>
      have h1 : s1.MemWf := wf_fst e1 (State.wf_target h)
      exact wf_ite (State.wf_atMemory h1 (fun _ ht => State.wf_combineAt ht)) (State.wf_redAt h1)
  · exact wf_fst ‹_› (State.wf_target h)

theorem State.wf_performHead {s : State} (h : s.MemWf) : s.performHead.MemWf := by
  unfold State.performHead
  split
  · exact h
  · exact State.wf_settleReq (State.wf_performReq h)

theorem State.wf_drain {p : MemReq → Bool} {n : Nat} {s : State} (h : s.MemWf) : (State.drain p n s).MemWf := by
  induction n generalizing s with
  | zero => exact h
  | succ n ih =>
    unfold State.drain
    exact wf_ite (wf_ite (ih (State.wf_performHead h)) (State.wf_performHead h)) h

theorem State.wf_drainIf {s : State} {p : MemReq → Bool} (h : s.MemWf) : (s.drainIf p).MemWf := State.wf_drain h

theorem State.wf_performReqs {s : State} {ids : List Nat} (h : s.MemWf) : (s.performReqs ids).MemWf :=
  wf_ite h (State.wf_drainIf h)

theorem State.wf_drainCore {s : State} (h : s.MemWf) : s.drainCore.MemWf := State.wf_drainIf h
theorem State.wf_drainGroup {s : State} (h : s.MemWf) : s.drainGroup.MemWf := State.wf_drainIf h
theorem State.wf_drainAll {s : State} (h : s.MemWf) : s.drainAll.MemWf := State.wf_drainIf h
theorem State.wf_enqueue {s : State} {r : MemReq} (h : s.MemWf) : (s.enqueue r).MemWf := h
theorem State.wf_fresh {s : State} (h : s.MemWf) : s.fresh.1.MemWf := h

theorem State.wf_holdWrite {s : State} {x : HeldWrite} {lane pc : Nat} (h : s.MemWf) : (s.holdWrite x lane pc).MemWf :=
  wf_ite h (wf_ite (State.wf_endGrid (State.wf_terminal h)) h)

theorem State.wf_drainOwn {s : State} {pa n : Nat} (h : s.MemWf) : (s.drainOwn pa n).MemWf :=
  wf_ite (State.wf_drainIf h) h

theorem State.wf_readable {s : State} {pa : Nat} (h : s.MemWf) : (s.readable pa).MemWf := wf_ite h (State.wf_obtain h)

theorem State.wf_storeBytes {s : State} {pa va : Nat} {bs : List Byte} {lane pc bt off : Nat} (h : s.MemWf) :
    (s.storeBytes pa va bs lane pc bt off).MemWf :=
  wf_ite (State.wf_holdWrite h) h

theorem State.wf_padWrite {s : State} {c off : Nat} {bs : List Byte} (h : s.MemWf) : (s.padWrite c off bs).MemWf := by
  unfold State.padWrite
  extract_lets s1
  have h1 : s1.MemWf := h
  split
  · exact h1
  split
  · exact h
  · exact h1

theorem State.wf_irrevocable {s : State} (h : s.MemWf) : s.irrevocable.MemWf := h

/-! ### Machine/Fetch -/

theorem State.wf_fetchWords {s : State} {n m : Nat} (h : s.MemWf) : (s.fetchWords n m).1.MemWf := by
  induction n generalizing s m with
  | zero => exact h
  | succ n ih =>
    unfold State.fetchWords
    split
    split
    · exact h
    · extract_lets _
      split
      · exact wf_fst ‹_› (State.wf_translate h)
      · next s1 _ _ e1 =>
          have h1 : s1.MemWf := wf_fst e1 (State.wf_translate h)
          extract_lets _
          split
          · exact h1
          · split <;> exact wf_fst ‹_› (ih h1)

theorem State.wf_fetchAt {s : State} {pc : Nat} (h : s.MemWf) : (s.fetchAt pc).1.MemWf := by
  unfold State.fetchAt
  split
  · exact State.wf_fetchWords (wf_fst ‹_› (State.wf_fetchWords h))
  · exact State.wf_fetchWords h

theorem State.wf_fetchReach {s : State} {pc n : Nat} (h : s.MemWf) : (s.fetchReach pc n).MemWf := by
  unfold State.fetchReach
  extract_lets at_ s1 _
  have hat : ∀ t pc, t.MemWf → (at_ t pc).MemWf := by
    intro t pc ht
    unfold at_
    split
    · exact State.wf_reach (wf_fst ‹_› (State.wf_translate ht))
    · exact wf_fst ‹_› (State.wf_translate ht)
  have h1 : s1.MemWf := hat _ _ h
  exact wf_ite h1 (hat _ _ h1)

theorem State.wf_instrAt {s : State} {pc : Nat} (h : s.MemWf) : (s.instrAt pc).1.MemWf := by
  unfold State.instrAt
  split
  · exact wf_fst ‹_› (State.wf_fetchAt h)
  · next s1 _ e1 =>
      have h1 : s1.MemWf := wf_fst e1 (State.wf_fetchAt h)
      split <;> exact h1

theorem State.wf_of_joinFault {s t : State} {id m : Dword} {r : Raised} (h : s.MemWf)
    (e : s.joinFault id m = some (t, r)) : t.MemWf := by
  unfold State.joinFault at e
  split at e
  · split at e
    · cases e
      exact wf_ite h (State.wf_modTeam h)
    · cases e
  · cases e

/-! ### Machine/Operands -/

theorem wf_checkTags {ok : Group → Bool} {body : Body} (hbody : body.MemWf) : (checkTags ok body).MemWf := by
  intro iss s h
  unfold checkTags
  split
  · exact h
  · exact hbody _ _ h

/-! ### Machine/Flags -/

theorem wf_vecWrite {d tag : Nat} {f : Group → Nat → LaneRes} : (vecWrite d tag f).MemWf := fun _ _ h => Res.wf_group h
theorem wf_maskWrite {d : Nat} {f : Group → Nat → Bool × Nat} : (maskWrite d f).MemWf := fun _ _ h => Res.wf_group h

theorem wf_uniform {f : Group → Group} : (uniform f).MemWf := by
  intro iss s h
  unfold uniform
  split
  · exact h
  · exact Res.wf_group h

theorem wf_perIssue {f : Group → Group} : (perIssue f).MemWf := by
  intro iss s h
  unfold perIssue
  split
  · exact h
  · exact Res.wf_group h

/-! ### Machine/Control -/

/-- An instruction lands in canonical memory when its body keeps the form. -/
theorem lands_execWord {i : Instr} {body : Body} {s : State} (hbody : body.MemWf) (h : s.MemWf) :
    Lands (execWord i body s) :=
  lands_next (wf_runIssue (fun _ _ ht => State.wf_performReqs ht) hbody h)

theorem wf_callBody {o : BOps} : (callBody o).MemWf := by
  intro iss s h
  unfold callBody
  split
  · exact h
  · exact State.wf_modGroup h

theorem wf_jumpBody {target : Group → Dword} {link : Bool} : (jumpBody target link).MemWf := by
  intro iss s h
  unfold jumpBody
  extract_lets _
  split
  · exact h
  split
  · exact h
  · exact wf_ite (State.wf_modGroup h) h

theorem wf_exitBody : exitBody.MemWf := fun _ _ h => State.wf_leaveFrame (State.wf_modGroup h)

theorem wf_yieldBody : yieldBody.MemWf :=
  fun _ _ h => wf_ite (State.wf_modGroup h) (State.wf_modGroup (State.wf_modGroup h))

theorem wf_sleepBody : sleepBody.MemWf := fun _ _ h => Res.wf_group h
theorem wf_electBody {o : VOps} : (electBody o).MemWf := fun _ _ h => wf_uniform _ _ h

theorem wf_sleeptoBody {o : VOps} : (sleeptoBody o).MemWf := by
  intro iss s h
  unfold sleeptoBody
  extract_lets
  split
  · exact h
  split
  · split
    · next e =>
      split at e
      · exact absurd e (by simp)
      · exact State.wf_of_joinFault h e
    · exact Res.wf_group h
  · split <;> exact Res.wf_group h

theorem wf_rdsrBody {o : VOps} {clear : Bool} : (rdsrBody o clear).MemWf := fun _ _ h => wf_perIssue _ _ h

theorem wf_tretBody {go : State → Dword → Group → State} (hgo : ∀ t x y, t.MemWf → (go t x y).MemWf) :
    (tretBody go).MemWf :=
  fun _ _ h => wf_ite h (hgo _ _ _ h)

theorem wf_tretGo {s : State} {m : Dword} {g : Group} (h : s.MemWf) : (tretGo s m g).MemWf := State.wf_returnFrom h
theorem wf_skipGo {s : State} {m : Dword} {g : Group} (h : s.MemWf) : (skipGo s m g).MemWf := State.wf_returnFrom h

theorem State.wf_fqPost {s : State} {q : Nat} (h : s.MemWf) : (s.fqPost q).MemWf := by
  unfold State.fqPost
  extract_lets _
  split
  · exact h
  · exact wf_ite h (State.wf_physWrite _ _ _ h)

theorem wf_passOne {s : State} {l : Nat} {g : Group} (h : s.MemWf) : (passOne s l g).MemWf :=
  wf_ite h (State.wf_fqPost (State.wf_modGroup h))

theorem wf_passGo {s : State} {m : Dword} {g : Group} (h : s.MemWf) : (passGo s m g).MemWf :=
  State.wf_returnFrom (wf_foldl h (fun _ _ ht => wf_passOne ht))

theorem wf_tretPassBody : tretPassBody.MemWf := by
  intro iss s h
  unfold tretPassBody
  split
  · exact h
  · exact (wf_tretBody (fun _ _ _ ht => wf_passGo ht)) _ _ h

/-! ### Machine/VectorInt -/

theorem wf_intBody {maj min : Nat} {o : VOps} : (intBody maj min o).MemWf := wf_checkTags wf_vecWrite

theorem wf_logicBody {min : Nat} {o : VOps} : (logicBody min o).MemWf :=
  fun _ _ h => (wf_checkTags (fun _ _ ht => wf_vecWrite _ _ ht)) _ _ h

theorem wf_cmpBody {sgn : Bool} {cc : Nat} {o : VOps} : (cmpBody sgn cc o).MemWf := wf_checkTags wf_maskWrite
theorem wf_bcastBody {o : VOps} : (bcastBody o).MemWf := wf_vecWrite
theorem wf_extrBody {o : VOps} : (extrBody o).MemWf := wf_checkTags wf_uniform
theorem wf_laneBody {o : VOps} : (laneBody o).MemWf := wf_vecWrite
theorem wf_vtagBody {o : VOps} : (vtagBody o).MemWf := wf_checkTags wf_vecWrite

/-! ### Machine/VectorFloat -/

theorem wf_fltBody {tag min : Nat} {o : VOps} : (fltBody tag min o).MemWf := wf_checkTags wf_vecWrite
theorem wf_classBody {tag : Nat} {o : VOps} : (classBody tag o).MemWf := wf_checkTags wf_vecWrite
theorem wf_fcmpBody {cc : Nat} {o : VOps} : (fcmpBody cc o).MemWf := wf_checkTags wf_maskWrite
theorem wf_sfuBody {fn : Nat} {o : VOps} : (sfuBody fn o).MemWf := wf_checkTags wf_vecWrite

/-! ### Machine/Convert -/

theorem wf_convWrite {d dtag comp : Nat} {bad : Group → Dword → List Nat} {f : Group → Nat → ConvRes} :
    (convWrite d dtag comp bad f).MemWf :=
  fun _ _ h => State.wf_modGroup h

theorem wf_cvtBody {o : VOps} : (cvtBody o).MemWf := wf_checkTags wf_convWrite
theorem wf_applyBody {o : VOps} : (applyBody o).MemWf := wf_checkTags wf_convWrite
theorem wf_findBody {o : VOps} : (findBody o).MemWf := wf_checkTags wf_vecWrite
theorem wf_zpPackBody {o : VOps} : (zpPackBody o).MemWf := wf_checkTags wf_vecWrite
theorem wf_zpExtrBody {o : VOps} : (zpExtrBody o).MemWf := wf_checkTags wf_convWrite

/-! ### Machine/CrossLane -/

theorem wf_xlaneBody {kind : Nat} {o : VOps} : (xlaneBody kind o).MemWf := wf_checkTags (fun _ _ h => wf_vecWrite _ _ h)
theorem wf_shufBody {o : VOps} : (shufBody o).MemWf := wf_checkTags (fun _ _ h => wf_vecWrite _ _ h)
theorem wf_treeBody {scan : Bool} {o : VOps} : (treeBody scan o).MemWf := wf_checkTags (fun _ _ h => Res.wf_group h)
theorem wf_ballotBody {o : VOps} : (ballotBody o).MemWf := fun _ _ h => (wf_checkTags wf_perIssue) _ _ h
theorem wf_topkBody {o : VOps} : (topkBody o).MemWf := wf_checkTags (fun _ _ h => wf_uniform _ _ h)

/-! ### Machine/RowStat -/

theorem wf_checkEntry {idx : Group → Nat} {body : Body} (hbody : body.MemWf) : (checkEntry idx body).MemWf := by
  intro iss s h
  unfold checkEntry
  extract_lets _
  split
  · exact h
  split
  · exact h
  · exact hbody _ _ h

theorem wf_statAccBody {o : VOps} : (statAccBody o).MemWf := by
  unfold statAccBody
  extract_lets _
  refine wf_checkTags (wf_checkEntry (fun _ _ h => ?_))
  extract_lets _ _ _
  split <;> exact h

theorem wf_statRdBody {o : VOps} : (statRdBody o).MemWf := wf_checkEntry (fun _ _ h => wf_uniform _ _ h)

theorem wf_statClrBody {o : VOps} : (statClrBody o).MemWf := by
  unfold statClrBody
  refine wf_checkEntry (fun _ _ h => ?_)
  split <;> exact h

theorem wf_rmaxBody {o : VOps} : (rmaxBody o).MemWf := wf_checkTags (fun _ _ h => wf_uniform _ _ h)

theorem wf_normBody {o : VOps} : (normBody o).MemWf := by
  unfold normBody
  extract_lets _
  refine wf_checkTags (wf_checkEntry (fun _ _ h => ?_))
  extract_lets _
  split
  extract_lets _ _
  split
  · exact h
  · exact State.wf_modGroup (wf_vecWrite _ _ h)

theorem wf_fuseWith {act ty : Nat} {o : VOps} : (fuseWith act ty o).MemWf := wf_checkTags wf_vecWrite
theorem wf_fuseBody {o : VOps} : (fuseBody o).MemWf := wf_fuseWith

/-! ### Machine/Memory -/

/-- Lane by lane, from the state that the lanes before have left. -/
theorem wf_runLanes {α : Type} {f : State → Nat → State × (Trap ⊕ α)} {ls : List Nat} {s : State}
    (hf : ∀ t n, t.MemWf → (f t n).1.MemWf) (h : s.MemWf) : (runLanes f ls s).s.MemWf := by
  unfold runLanes
  refine List.foldlRecOn (motive := fun (out : LaneOut α) => out.s.MemWf) ls _ h fun out ho l _ => ?_
  split <;> exact wf_fst ‹_› (hf _ _ ho)

theorem wf_comparePoint {body : Body} (hbody : body.MemWf) : (comparePoint body).MemWf := by
  intro iss s h
  unfold comparePoint
  split
  · exact hbody _ _ h
  split
  · exact h
  · exact State.wf_modTeam (hbody _ _ h)

theorem wf_comparesAfter {body : Body} (hbody : body.MemWf) : (comparesAfter body).MemWf := by
  intro iss s h
  unfold comparesAfter
  extract_lets r
  have hr : r.s.MemWf := hbody _ _ h
  split
  · exact hr
  · exact State.wf_modTeam hr

theorem State.wf_mirror {i : Instr} {s was : State} (h : s.MemWf) : (State.mirror i s was).MemWf := wf_ite h h

/-- So does one that is a comparison point. -/
theorem lands_execCompared {i : Instr} {body : Body} {s : State} (hbody : body.MemWf) (h : s.MemWf) :
    Lands (execCompared i body s) := by
  unfold execCompared
  exact lands_next (State.wf_mirror (wf_runIssue (fun _ _ ht => State.wf_performReqs ht) (wf_comparePoint hbody) h))

theorem wf_loadDone {o : MOps} {p : Dword} {missed : Bool} {out : LaneOut (List Byte)} (hout : out.s.MemWf) :
    (loadDone o p missed out).s.MemWf := by
  unfold loadDone
  extract_lets _ _
  split
  · exact hout
  · exact State.wf_modGroup hout

theorem wf_ldCheck {o : MOps} {g : Group} {s : State} {l : Nat} (h : s.MemWf) : (ldCheck o g s l).1.MemWf := by
  unfold ldCheck
  extract_lets _ _
  split
  · exact wf_fst ‹_› (State.wf_bufCheck h)
  · next s1 _ _ _ e1 =>
      have h1 : s1.MemWf := wf_fst e1 (State.wf_bufCheck h)
      split <;> exact h1

theorem State.wf_loadLanes {s : State} {n : Nat} {ls : List (Nat × Nat × Nat)} (h : s.MemWf) :
    (s.loadLanes n ls).1.MemWf := by
  unfold State.loadLanes
  extract_lets s1 _
  have h1 : s1.MemWf := wf_foldl h (fun _ _ ht => State.wf_drainOwn ht)
  exact wf_foldl_fst h1 (fun _ _ ht => State.wf_readable ht)

theorem wf_ldGo {o : MOps} : (ldGo o).MemWf := by
  intro iss s h
  unfold ldGo
  extract_lets _ out
  have hout : out.s.MemWf := wf_runLanes (fun _ _ ht => wf_ldCheck ht) h
  split
  rename_i s1 _ _ _ e1
  have h1 : s1.MemWf := wf_fst e1 (State.wf_loadLanes hout)
  split
  · exact wf_loadDone h1
  · exact h1

theorem wf_ldBody {o : MOps} : (ldBody o).MemWf := wf_checkTags wf_ldGo

theorem wf_stLane {o : MOps} {pc : Nat} {g : Group} {s : State} {l : Nat} (h : s.MemWf) :
    (stLane o pc g s l).1.MemWf := by
  unfold stLane
  extract_lets _ _ _
  split
  · exact wf_fst ‹_› (State.wf_bufCheck h)
  · next s1 _ _ _ e1 =>
      have h1 : s1.MemWf := wf_fst e1 (State.wf_bufCheck h)
      split
      · exact State.wf_holdWrite h1
      split
      · exact h1
      · exact State.wf_storeBytes h1

theorem wf_stGo {o : MOps} : (stGo o).MemWf := by
  intro iss s h
  unfold stGo
  extract_lets _ out t
  have hout : out.s.MemWf := wf_runLanes (fun _ _ ht => wf_stLane ht) h
  have ht : t.MemWf := wf_ite (State.wf_drainGroup hout) hout
  exact wf_ite ht (State.wf_irrevocable ht)

theorem wf_stBody {o : MOps} : (stBody o).MemWf := wf_checkTags wf_stGo

theorem wf_stForm {o : MOps} : (stForm o).MemWf := by
  unfold stForm
  exact Body.wf_ite (wf_comparePoint wf_stBody) (Body.wf_ite (wf_comparesAfter wf_stBody) wf_stBody)

theorem wf_scratchLane {o : MOps} {x load : Bool} {c : Nat} {g : Group} {s : State} {l : Nat} (h : s.MemWf) :
    (scratchLane o x load c g s l).1.MemWf := by
  unfold scratchLane
  extract_lets _
  split
  · exact h
  split
  · exact h
  · exact State.wf_padWrite h

theorem State.wf_release {s : State} {o : MOps} {load : Bool} (h : s.MemWf) : (s.release o load).MemWf :=
  wf_ite (State.wf_drainGroup h) h

theorem wf_scratchGo {o : MOps} {x load : Bool} : (scratchGo o x load).MemWf := by
  intro iss s h
  unfold scratchGo
  split
  · exact h
  · extract_lets _ s1 out out'
    have h1 : s1.MemWf := wf_ite h (State.wf_release h)
    have hout : out.s.MemWf := wf_runLanes (fun _ _ ht => wf_scratchLane ht) h1
    have hout' : out'.s.MemWf := wf_ite (State.wf_irrevocable hout) hout
    split
    · exact wf_loadDone hout'
    · exact hout'

theorem wf_scratchBody {o : MOps} {x load : Bool} : (scratchBody o x load).MemWf := wf_checkTags wf_scratchGo

theorem lands_execSt {o : MOps} {s : State} (h : s.MemWf) : Lands (execSt o s) := by
  unfold execSt
  split
  · exact lands_execCompared wf_stBody h
  · exact lands_execWord wf_stForm h

theorem lands_execSst {o : MOps} {s : State} (h : s.MemWf) : Lands (execSst o s) := by
  unfold execSst
  split
  · exact lands_execCompared wf_scratchBody h
  · exact lands_execWord wf_scratchBody h

theorem lands_execLdx {o : MOps} {s : State} (h : s.MemWf) : Lands (execLdx o s) := by
  unfold execLdx
  split
  · exact lands_execCompared wf_scratchBody h
  · exact lands_execWord wf_scratchBody h

theorem lands_execStx {o : MOps} {s : State} (h : s.MemWf) : Lands (execStx o s) := by
  unfold execStx
  split
  · exact lands_execCompared wf_scratchBody h
  · exact lands_execWord wf_scratchBody h

/-! ### Machine/Atomic -/

theorem wf_amoLane {o : AOps} {cas : Bool} {id pc : Nat} {g : Group} {s : State} {l : Nat} (h : s.MemWf) :
    (amoLane o cas id pc g s l).1.MemWf := by
  unfold amoLane
  extract_lets _ _
  split
  · exact wf_fst ‹_› (State.wf_bufCheck h)
  · next s1 _ _ _ e1 =>
      have h1 : s1.MemWf := wf_fst e1 (State.wf_bufCheck h)
      split <;> exact h1

theorem wf_amoGo {o : AOps} {cas : Bool} : (amoGo o cas).MemWf := by
  intro iss s h
  unfold amoGo
  extract_lets _
  split
  rename_i s1 _ e1
  have h1 : s1.MemWf := wf_fst e1 (State.wf_fresh h)
  extract_lets out
  have hout : out.s.MemWf := wf_runLanes (fun _ _ ht => wf_amoLane ht) h1
  split
  · exact hout
  split
  · exact State.wf_drainGroup (State.wf_modGroup (State.wf_irrevocable hout))
  · exact State.wf_modGroup (State.wf_irrevocable hout)

theorem wf_amoBody {o : AOps} {cas : Bool} : (amoBody o cas).MemWf := wf_checkTags wf_amoGo

theorem State.wf_performRed {s : State} {r : MemReq} {pa va op ty : Nat} {v : Word} (h : s.MemWf) :
    (s.performRed r pa va op ty v).MemWf := by
  unfold State.performRed
  split
  · next s1 _ e1 =>
      have h1 : s1.MemWf := wf_fst e1 (State.wf_target h)
      extract_lets _ s2
      have h2 : s2.MemWf := State.wf_drainIf h1
      exact wf_ite (State.wf_enqueue h2) (State.wf_redAt h2)
  · exact wf_fst ‹_› (State.wf_target h)

theorem wf_redLane {o : AOps} {pc : Nat} {g : Group} {s : State} {l : Nat} (h : s.MemWf) :
    (redLane o pc g s l).1.MemWf := by
  unfold redLane
  extract_lets _ _
  split
  · exact wf_fst ‹_› (State.wf_bufCheck h)
  · next s1 _ _ _ e1 =>
      have h1 : s1.MemWf := wf_fst e1 (State.wf_bufCheck h)
      split
      · exact State.wf_holdWrite h1
      · exact State.wf_performRed (wf_ite (State.wf_drainGroup h1) h1)

theorem wf_redGo {o : AOps} : (redGo o).MemWf := by
  intro iss s h
  unfold redGo
  extract_lets _ t out
  have ht : t.MemWf := wf_ite (State.wf_drainGroup h) h
  have hout : out.s.MemWf := wf_runLanes (fun _ _ ht => wf_redLane ht) ht
  exact wf_ite hout (State.wf_irrevocable hout)

theorem wf_redBody {o : AOps} : (redBody o).MemWf := wf_checkTags wf_redGo

/-! ### Machine/Sync -/

/-- In the service group a team instruction changes nothing. -/
theorem wf_teamOnly {body : Body} (hbody : body.MemWf) : (teamOnly body).MemWf := by
  intro iss s h
  unfold teamOnly
  split
  · exact h
  · exact hbody _ _ h

theorem wf_fenceBody : fenceBody.MemWf := by
  intro iss s h
  unfold fenceBody
  split
  · exact h
  · exact State.wf_drainGroup h

theorem lands_execFence {o : QOps} {s : State} (h : s.MemWf) : Lands (execFence o s) := by
  unfold execFence
  split
  · exact lands_execCompared wf_fenceBody h
  · exact lands_execWord wf_fenceBody h

theorem State.wf_releaseBarrier {s : State} {c b : Nat} (h : s.MemWf) : (s.releaseBarrier c b).MemWf :=
  wf_foldl h (fun _ _ ht => ht)

theorem State.wf_completeBarrier {s : State} {c b n : Nat} (h : s.MemWf) : (s.completeBarrier c b n).MemWf := by
  induction n generalizing s with
  | zero => exact h
  | succ n ih =>
    unfold State.completeBarrier
    extract_lets _
    split
    · exact h
    · exact ih (wf_ite (State.wf_modTeamAt (State.wf_releaseBarrier h)) (State.wf_releaseBarrier h))

theorem State.wf_arrive {s : State} {c b k : Nat} {by_ : Option (Nat × Dword)} (h : s.MemWf) :
    (s.arrive c b k by_).MemWf :=
  State.wf_completeBarrier h

theorem State.wf_checkpointIf {s : State} {c : Nat} (h : s.MemWf) : (s.checkpointIf c).MemWf := by
  unfold State.checkpointIf
  split
  · exact wf_ite h (wf_ite h h)
  · exact h

theorem State.wf_engineArrive {s : State} {c b : Nat} (h : s.MemWf) : (s.engineArrive c b).MemWf :=
  wf_ite h (State.wf_checkpointIf (State.wf_completeBarrier h))

theorem wf_barinitBody {o : QOps} : (barinitBody o).MemWf := by
  unfold barinitBody
  refine wf_teamOnly fun _ s h => ?_
  extract_lets _ _ _ sub
  split
  · exact h
  · cases sub with
    | some n => exact h
    | none => exact h

theorem State.wf_arriveAll {s : State} {b : Nat} {p : Dword} {aw : Bool} (h : s.MemWf) : (s.arriveAll b p aw).MemWf :=
  State.wf_arrive (wf_ite (State.wf_drainGroup h) (State.wf_irrevocable (State.wf_drainGroup h)))

theorem wf_bararrBody {o : QOps} : (bararrBody o).MemWf := by
  unfold bararrBody
  refine wf_teamOnly (fun _ _ h => ?_)
  extract_lets _
  split
  · exact h
  split
  · exact h
  · exact Res.wf_group (State.wf_arriveAll h)

theorem wf_barawBody {o : QOps} : (barawBody o).MemWf := by
  unfold barawBody
  refine wf_teamOnly fun _ _ h => ?_
  extract_lets _ s1
  have h1 : s1.MemWf := State.wf_arriveAll h
  clear_value s1
  split
  · exact h
  split
  · exact h
  split
  · exact h1
  · exact Res.wf_group h1

theorem wf_barwaitBody {o : QOps} : (barwaitBody o).MemWf := by
  unfold barwaitBody
  refine wf_teamOnly (fun _ _ h => ?_)
  extract_lets _ _
  split
  · exact h
  split
  · exact h
  split
  · exact h
  · exact Res.wf_group h

theorem wf_barqBody {o : QOps} : (barqBody o).MemWf := wf_teamOnly (fun _ _ h => wf_uniform _ _ h)

theorem lands_execArrival {i : Instr} {b : Nat} {body : Body} {s : State} (hbody : body.MemWf) (h : s.MemWf) :
    Lands (execArrival i b body s) := by
  unfold execArrival
  have hx : Lands (if b < 16 then execWord i body s else execCompared i body s) := by
    split
    · exact lands_execWord hbody h
    · exact lands_execCompared hbody h
  split
  · next e => exact lands_next (State.wf_checkpointIf (hx _ e))
  · exact hx

/-! ### Machine/Engine -/

theorem State.wf_startOp {s : State} {i : Instr} {o : QOps} {maj lane pc : Nat} {sp : EngSpec} {ws : List Dword}
    (h : s.MemWf) : (s.startOp i o maj lane pc sp ws).MemWf := by
  unfold State.startOp
  extract_lets _ _ s1 s2 _ _ s3
  have h1 : s1.MemWf := State.wf_drainGroup h
  have h2 : s2.MemWf := wf_ite (State.wf_irrevocable h1) h1
  have h3 : s3.MemWf := State.wf_modTeam h2
  exact State.wf_modGroup h3

theorem wf_engineGo {i : Instr} {o : QOps} {maj : Nat} {sp : EngSpec} (hsp : sp.MemWf) :
    (engineGo i o maj sp).MemWf := by
  intro iss s h
  unfold engineGo
  extract_lets _
  split
  · exact wf_fst ‹_› (hsp _ _ h)
  · next s1 e1 =>
      have h1 : s1.MemWf := wf_fst e1 (hsp _ _ h)
      split
      · exact h1
      · exact State.wf_startOp h1

/-- An engine instruction checks, then starts its operation (R242, R245). -/
theorem wf_engineBody {i : Instr} {o : QOps} {maj : Nat} {sp : EngSpec} (hsp : sp.MemWf) :
    (engineBody i o maj sp).MemWf := by
  unfold engineBody
  refine wf_teamOnly (fun _ _ h => ?_)
  split
  · exact h
  split
  · exact h
  · exact (wf_engineGo hsp) _ _ h

theorem State.wf_finishOp {s : State} {c : Nat} {id : Dword} {f : Option OpFault} {done : Nat} (h : s.MemWf) :
    (s.finishOp c id f done).MemWf := by
  unfold State.finishOp
  split
  · split
    · extract_lets s1
      have h1 : s1.MemWf := h
      split
      · exact wf_ite (State.wf_engineArrive h1) (wf_ite h (State.wf_engineArrive h))
      · exact h1
    · exact h
  · exact h

theorem State.wf_ranOr {s : State} {c : Nat} {op : EngOp} {f : Option OpFault} {done : Nat}
    {fin : Option OpFault → State → State} (h : s.MemWf) (hfin : ∀ x t, t.MemWf → (fin x t).MemWf) :
    (s.ranOr c op f done fin).MemWf :=
  wf_ite h (hfin _ _ h)

theorem State.wf_ranOp {s : State} {c : Nat} {op : EngOp} {f : Option OpFault} {done : Nat} (h : s.MemWf) :
    (s.ranOp c op f done).MemWf :=
  State.wf_ranOr h (fun _ _ ht => State.wf_finishOp ht)

theorem State.wf_atOnce {was s : State} {idle : EngOp → Bool} {fin : EngOp → State → State} (h : s.MemWf)
    (hfin : ∀ x t, t.MemWf → (fin x t).MemWf) : (was.atOnce s idle fin).MemWf := by
  unfold State.atOnce
  split
  · exact h
  split
  · exact wf_ite (hfin _ _ h) h
  · exact h

theorem lands_execAtOnce {i : Instr} {idle : EngOp → Bool} {fin : EngOp → State → State} {body : Body} {s : State}
    (hfin : ∀ x t, t.MemWf → (fin x t).MemWf) (hbody : body.MemWf) (h : s.MemWf) :
    Lands (execAtOnce i idle fin body s) := by
  unfold execAtOnce
  exact lands_next
    (State.wf_atOnce (wf_runIssue (fun _ _ ht => State.wf_performReqs ht) hbody h) (fun _ _ ht => hfin _ _ ht))

theorem State.wf_opCheck {s : State} {idx off size : Nat} {k : AKind} (h : s.MemWf) :
    (s.opCheck idx off size k).1.MemWf := by
  unfold State.opCheck
  split
  rename_i s1 _ e1
  have h1 : s1.MemWf := wf_fst e1 (State.wf_desc h)
  extract_lets _ _
  split
  · exact h1
  split
  · exact h1
  split
  · exact wf_fst ‹_› (State.wf_translate h1)
  · next s2 _ _ e2 =>
      have h2 : s2.MemWf := wf_fst e2 (State.wf_translate h1)
      repeat' split
      all_goals exact h2

theorem State.wf_needs {ok : Bool} {s : State} (h : s.MemWf) : (State.needs ok s).MemWf := wf_ite h h

theorem State.wf_opRead {s : State} {pa va n : Nat} (h : s.MemWf) : (s.opRead pa va n).1.MemWf :=
  State.wf_needs (State.wf_readable h)

theorem State.wf_atHome {s : State} {pa : Nat} {rd : Bool} (h : s.MemWf) : (s.atHome pa rd).MemWf :=
  State.wf_reach (State.wf_needs (State.wf_uncache h))

theorem State.wf_unlessQueued {s t : State} (ht : t.MemWf) : (s.unlessQueued t).MemWf := State.wf_needs ht

theorem State.wf_opWrite {s : State} {op : EngOp} {idx off pa va : Nat} {bs : List Byte} (h : s.MemWf) :
    (s.opWrite op idx off pa va bs).MemWf :=
  wf_ite h (wf_ite (State.wf_writeAcc _ _ h) (State.wf_unlessQueued (State.wf_storeAt h)))

theorem State.wf_opRed {s : State} {op : EngOp} {idx off pa va code ty : Nat} {v : Word} (h : s.MemWf) :
    (s.opRed op idx off pa va code ty v).MemWf :=
  wf_ite h (State.wf_unlessQueued (State.wf_redAt h))

theorem State.wf_opAtomic {s : State} {op : EngOp} {idx off pa va code : Nat} (h : s.MemWf) :
    (s.opAtomic op idx off pa va code).MemWf :=
  wf_ite h (State.wf_writeAcc _ _ (State.wf_atHome h))

/-- Unit by unit of an operation, until one faults. -/
theorem wf_runUnits {f : State → List Nat → Nat → State × Option OpFault × List Nat} {x : List Nat} {y : OpOut}
    (hf : ∀ t x y, t.MemWf → (f t x y).1.MemWf) (hy : y.s.MemWf) : (runUnits f x y).s.MemWf := by
  induction x generalizing y with
  | nil => exact hy
  | cons u rest ih =>
    unfold runUnits
    split
    · exact wf_fst ‹_› (hf _ _ _ hy)
    · exact ih (wf_fst ‹_› (hf _ _ _ hy))

theorem wf_cpystBody {o : QOps} : (cpystBody o).MemWf := by
  unfold cpystBody
  refine wf_teamOnly (fun _ _ h => ?_)
  extract_lets _
  split
  · exact h
  split
  · exact State.wf_of_joinFault h ‹_›
  · exact Res.wf_group h

/-! ### Machine/Matrix -/

theorem wf_finishIdle {f : EngOp → Team → TeamOut} {op : EngOp} {s : State} (h : s.MemWf) : (finishIdle f op s).MemWf :=
  State.wf_ranOp h

/-! ### Machine/Copy -/

theorem State.wf_epBuf {s : State} {e : EpUse} (h : s.MemWf) : (s.epBuf e).1.MemWf := by
  unfold State.epBuf
  split
  · exact h
  · extract_lets _
    split
    rename_i s1 _ e1
    have h1 : s1.MemWf := wf_fst e1 (State.wf_desc h)
    repeat' split
    all_goals exact h1

theorem wf_copyChecks {legal : Bool} {eps : List EpUse} {fours : List Nat} {more : Team → List (Option Trap)}
    {s : State} (h : s.MemWf) : (copyChecks legal eps fours more s).1.MemWf := by
  unfold copyChecks
  extract_lets _
  split
  · exact h
  split
  next s1 _ e1 =>
  have h1 : s1.MemWf := by
    refine wf_fst e1 (wf_foldl_fst h fun _ _ ht => ?_)
    split
    · exact ht
    · exact State.wf_epBuf ht
  split <;> exact h1

theorem wf_cpyCheck {tile : Bool} {s : State} {ws : List Dword} (h : s.MemWf) : (cpyCheck tile s ws).1.MemWf :=
  wf_copyChecks h

theorem wf_cpymCheck {s : State} {ws : List Dword} (h : s.MemWf) : (cpymCheck s ws).1.MemWf := wf_copyChecks h

theorem wf_listCheck {scat add : Bool} {s : State} {ws : List Dword} (h : s.MemWf) :
    (listCheck scat add s ws).1.MemWf :=
  wf_copyChecks h

theorem wf_copySpec {k : Nat} {check : State → List Dword → State × Option Trap} {outside : State → List Dword → Bool}
    (hcheck : ∀ t x, t.MemWf → (check t x).1.MemWf) : (copySpec k check outside).MemWf :=
  fun _ _ h => hcheck _ _ h

theorem State.wf_readPlace {s : State} {p : Place} (h : s.MemWf) : (s.readPlace p).1.MemWf := by
  unfold State.readPlace
  split
  · exact h
  · split <;> exact h
  split
  · exact wf_fst ‹_› (State.wf_opCheck h)
  · exact State.wf_needs (State.wf_readable (wf_fst ‹_› (State.wf_opCheck h)))

theorem State.wf_padPut {s : State} {op : EngOp} {c off : Nat} {bs : List Byte} (h : s.MemWf) :
    (s.padPut op c off bs).MemWf :=
  wf_ite h (State.wf_padWrite h)

theorem State.wf_writePlace {s : State} {op : EngOp} {p : Place} {add : Option Nat} {bs : List Byte} (h : s.MemWf) :
    (s.writePlace op p add bs).1.MemWf := by
  unfold State.writePlace
  split
  · exact h
  · exact State.wf_padPut h
  split
  · exact wf_fst ‹_› (State.wf_opCheck h)
  · next s1 _ _ e1 =>
      have h1 : s1.MemWf := wf_fst e1 (State.wf_opCheck h)
      split
      · exact State.wf_opRed h1
      · exact State.wf_opWrite h1

theorem State.wf_move {s0 s : State} {op : EngOp} {kept : Option (List Byte)} {m : Move} (h : s.MemWf) :
    (s0.move s op kept m).1.MemWf := by
  unfold State.move
  split
  · exact wf_fst ‹_› (State.wf_readPlace h)
  · next s1 _ e1 =>
      have h1 : s1.MemWf := wf_fst e1 (State.wf_readPlace h)
      extract_lets _
      refine wf_foldl_fst h1 (fun _ _ ht => ?_)
      split
      · exact ht
      · exact State.wf_writePlace ht

theorem CopyOut.wf_moves {o : CopyOut} {n : Nat} {x : List Move} {s : State} (h : s.MemWf) :
    (o.moves n x s).1.MemWf := by
  induction x generalizing n s with
  | nil => exact h
  | cons m rest ih =>
    unfold CopyOut.moves
    split
    · exact wf_fst ‹_› (State.wf_move h)
    · exact ih (wf_fst ‹_› (State.wf_move h))

theorem CopyOut.wf_step {o : CopyOut} {n : Nat} {ms : List Move} (ho : o.s.MemWf) : (o.step n ms).s.MemWf := by
  unfold CopyOut.step
  extract_lets _
  split
  · split
    · split
      · exact wf_fst ‹_› (CopyOut.wf_moves ho)
      · exact ho
    · exact ho
  split
  · exact wf_fst ‹_› (CopyOut.wf_moves ho)
  · exact ho

theorem CopyOut.wf_run {o : CopyOut} {ms : List Move} {lo hi : Nat} (ho : o.s.MemWf) : (o.run ms lo hi).s.MemWf :=
  List.foldlRecOn (motive := fun o : CopyOut => o.s.MemWf) _ _ ho fun _ ho _ _ => CopyOut.wf_step ho

theorem State.wf_scramble {s : State} {op : EngOp} {p : Place} {i : Nat} (h : s.MemWf) : (s.scramble op p i).MemWf := by
  unfold State.scramble
  extract_lets _
  split
  · exact h
  · exact State.wf_padPut h
  split
  · exact State.wf_opWrite (wf_fst ‹_› (State.wf_opCheck h))
  · exact wf_fst ‹_› (State.wf_opCheck h)

theorem State.wf_overlaps {s : State} {op : EngOp} {rows : List (List Move)} {wrote : List Place} (h : s.MemWf) :
    (s.overlaps op rows wrote).MemWf :=
  wf_foldl h (fun _ _ ht => wf_foldl ht (fun _ _ hu => wf_ite (State.wf_scramble hu) hu))

theorem State.wf_copyOp {s : State} {upTo : Option Nat} {op : EngOp} (h : s.MemWf) : (s.copyOp upTo op).s.MemWf :=
  wf_ite (CopyOut.wf_run h) (State.wf_overlaps (CopyOut.wf_run h))

theorem State.wf_copyLate {s : State} {op : EngOp} (h : s.MemWf) : (s.copyLate op).1.MemWf := by
  unfold State.copyLate
  split
  · exact h
  · exact State.wf_overlaps (CopyOut.wf_run (CopyOut.wf_run h))

theorem State.wf_copyArrivals {s : State} {op : EngOp} (h : s.MemWf) : (s.copyArrivals op).MemWf := by
  unfold State.copyArrivals
  split
  · exact wf_foldl h (fun _ _ ht => State.wf_engineArrive ht)
  · exact h

theorem State.wf_zeroCopy {s : State} {op : EngOp} (h : s.MemWf) : (s.zeroCopy op).MemWf :=
  State.wf_ranOr (State.wf_copyOp h) (fun _ _ ht => State.wf_finishOp (State.wf_copyArrivals ht))

theorem lands_execCpy {o : QOps} {s : State} (h : s.MemWf) : Lands (execCpy o s) := by
  unfold execCpy
  exact lands_execAtOnce (fun _ _ ht => State.wf_zeroCopy ht)
    (wf_engineBody (wf_copySpec (fun _ _ ht => wf_cpyCheck ht))) h

theorem lands_execCpyt {o : QOps} {s : State} (h : s.MemWf) : Lands (execCpyt o s) := by
  unfold execCpyt
  exact lands_execAtOnce (fun _ _ ht => State.wf_zeroCopy ht)
    (wf_engineBody (wf_copySpec (fun _ _ ht => wf_cpyCheck ht))) h

theorem lands_execCpym {o : QOps} {s : State} (h : s.MemWf) : Lands (execCpym o s) := by
  unfold execCpym
  exact lands_execAtOnce (fun _ _ ht => State.wf_zeroCopy ht)
    (wf_engineBody (wf_copySpec (fun _ _ ht => wf_cpymCheck ht))) h

theorem lands_execGath {o : QOps} {s : State} (h : s.MemWf) : Lands (execGath o s) := by
  unfold execGath
  exact lands_execAtOnce (fun _ _ ht => State.wf_zeroCopy ht)
    (wf_engineBody (wf_copySpec (fun _ _ ht => wf_listCheck ht))) h

theorem lands_execScat {o : QOps} {s : State} (h : s.MemWf) : Lands (execScat o s) := by
  unfold execScat
  exact lands_execAtOnce (fun _ _ ht => State.wf_zeroCopy ht)
    (wf_engineBody (wf_copySpec (fun _ _ ht => wf_listCheck ht))) h

/-! ### Machine/Rollback -/

theorem State.wf_rollCopies {s : State} {c : Nat} {f : Team → Team} (h : s.MemWf) : (s.rollCopies c f).MemWf := by
  unfold State.rollCopies
  split
  · extract_lets s1
    have h1 : s1.MemWf := wf_foldl h (fun _ _ ht => ht)
    exact State.wf_releaseHeld (wf_foldl h1 (fun _ _ ht => State.wf_releaseBarrier ht))
  · exact h

theorem State.wf_rollTeam {s : State} {c sub unit : Nat} (h : s.MemWf) : (s.rollTeam c sub unit).MemWf := by
  unfold State.rollTeam
  split
  · exact State.wf_logEvent (State.wf_rollCopies (State.wf_noteError h))
  · exact h

/-! ### Machine/Walk -/

theorem State.wf_opBytes {s : State} {idx : Nat} {k : AKind} {piece n m : Nat} (h : s.MemWf) :
    (s.opBytes idx k piece n m).1.MemWf := by
  induction n generalizing s m with
  | zero => exact h
  | succ n ih =>
    unfold State.opBytes
    split
    · exact wf_fst ‹_› (State.wf_opCheck h)
    · next s1 _ _ e1 =>
        have h1 : s1.MemWf := wf_fst e1 (State.wf_opCheck h)
        split
        rename_i s2 _ e2
        have h2 : s2.MemWf := wf_fst e2 (State.wf_opRead h1)
        split
        · exact wf_fst ‹_› (ih h2)
        · exact ih h2

theorem State.wf_blockOf {s : State} {fresh : Bool} {w : Walk} {tbl lblk : Nat} (h : s.MemWf) :
    (s.blockOf fresh w tbl lblk).1.MemWf := by
  unfold State.blockOf
  extract_lets _
  split
  · exact h
  split
  · exact wf_fst ‹_› (State.wf_opBytes h)
  · exact State.wf_modCore (wf_fst ‹_› (State.wf_opBytes h))

theorem State.wf_blockRows {s : State} {w : Walk} {base len piece n : Nat} (h : s.MemWf) :
    (s.blockRows w base len piece n).1.MemWf := by
  unfold State.blockRows
  refine wf_foldl_fst h (fun _ _ ht => ?_)
  split
  · exact ht
  · split <;> exact wf_fst ‹_› (State.wf_opBytes ht)

theorem State.wf_fetchFails {s : State} {f : OpFault} (h : s.MemWf) : (s.fetchFails f).1.MemWf := State.wf_noteFault h

theorem State.wf_fetchNode {s : State} {w : Walk} {x : Node} (h : s.MemWf) : (s.fetchNode w x).1.MemWf := by
  unfold State.fetchNode
  split
  · exact State.wf_fetchFails (wf_fst ‹_› (State.wf_blockOf h))
  · next s1 _ e1 =>
      have h1 : s1.MemWf := wf_fst e1 (State.wf_blockOf h)
      split
      · exact h1
      split
      rename_i s2 _ e2
      have h2 : s2.MemWf := wf_fst e2 (State.wf_desc h1)
      split
      · exact h2
      split
      · exact h2
      · extract_lets _ _
        split
        · exact State.wf_fetchFails (wf_fst ‹_› (State.wf_blockRows h2))
        · next s3 _ e3 =>
            have h3 : s3.MemWf := wf_fst e3 (State.wf_blockRows h2)
            split
            · exact State.wf_fetchFails (wf_fst ‹_› (State.wf_blockRows h3))
            · next s4 _ e4 =>
                have h4 : s4.MemWf := wf_fst e4 (State.wf_blockRows h3)
                split
                · exact State.wf_fetchFails (wf_fst ‹_› (State.wf_blockRows h4))
                · next s5 _ e5 =>
                    have h5 : s5.MemWf := wf_fst e5 (State.wf_blockRows h4)
                    split
                    · exact State.wf_fetchFails (wf_fst ‹_› (State.wf_blockRows h5))
                    · exact wf_fst ‹_› (State.wf_blockRows h5)

theorem State.wf_massStep {s : State} {w : Walk} {op : EngOp} {e code : Nat} (h : s.MemWf) :
    (s.massStep w op e code).1.MemWf := by
  unfold State.massStep
  split
  · exact wf_fst ‹_› (State.wf_opCheck h)
  · exact State.wf_opAtomic (wf_fst ‹_› (State.wf_opCheck h))

theorem State.wf_massRed {s : State} {w : Walk} {e x : Nat} (h : s.MemWf) : (s.massRed w e x).1.MemWf := by
  unfold State.massRed
  split
  · exact wf_fst ‹_› (State.wf_opCheck h)
  · exact State.wf_opRed (wf_fst ‹_› (State.wf_opCheck h))

theorem State.wf_visit {s : State} {w : Walk} {bad : Option Nat} {id : Dword} {n : Nat} {x : Node} {qs : List Nat}
    {late : Bool} (h : s.MemWf) : (s.visit w bad id n x qs late).1.MemWf := by
  unfold State.visit
  split
  next s1 _ e1 =>
    refine State.wf_modTeam (wf_fst e1 ?_)
    split
    · exact State.wf_fetchFails h
    · exact State.wf_fetchNode h
  next s1 _ e1 =>
    have h1 : s1.MemWf := by
      refine wf_fst e1 ?_
      split
      · exact State.wf_fetchFails h
      · exact State.wf_fetchNode h
    extract_lets _ s2
    have h2 : s2.MemWf := State.wf_modTeam h1
    split
    · exact h2
    · split
      exact wf_fst ‹_› (State.wf_massRed h2)

theorem State.wf_readTree {s : State} {w : Walk} (h : s.MemWf) : (s.readTree w).1.MemWf := by
  unfold State.readTree
  refine wf_foldl_fst h (fun _ _ ht => ?_)
  split
  · exact ht
  · split <;> exact wf_fst ‹_› (State.wf_opBytes ht)

theorem State.wf_walkStart {s : State} {op : EngOp} {resume : Bool} (h : s.MemWf) :
    (s.walkStart op resume).1.MemWf := by
  unfold State.walkStart
  split
  · exact h
  split
  · exact wf_fst ‹_› (State.wf_readTree h)
  · next s1 _ e1 =>
      have h1 : s1.MemWf := wf_fst e1 (State.wf_readTree h)
      split <;> exact h1

theorem State.wf_mainStep {s : State} {bad : Option Nat} {r : WalkRun} {op : EngOp} (h : s.MemWf) :
    (s.mainStep bad r op).1.MemWf := by
  unfold State.mainStep
  extract_lets _ s1
  have h1 : s1.MemWf := wf_ite h h
  split
  · exact State.wf_modTeam h1
  split
  · exact h1
  · extract_lets _
    split
    · exact State.wf_modTeam h1
    split
    rename_i s2 _ _ e2
    have h2 : s2.MemWf := wf_fst e2 (State.wf_visit (State.wf_modTeam h1))
    exact wf_ite h2 h2

theorem State.wf_lateStep {s : State} {bad : Option Nat} {r : WalkRun} {op : EngOp} (h : s.MemWf) :
    (s.lateStep bad r op).1.MemWf := by
  unfold State.lateStep
  split
  · exact h
  split
  · exact h
  · extract_lets _
    split
    exact wf_ite (wf_fst ‹_› (State.wf_visit h)) (State.wf_modTeam (wf_fst ‹_› (State.wf_visit h)))

theorem State.wf_walkEnd {s : State} {f : Option OpFault} (h : s.MemWf) : (s.walkEnd f).1.MemWf := by
  unfold State.walkEnd
  split <;> exact h

theorem State.wf_walkStep {s : State} {c : Nat} {bad : Option Nat} (h : s.MemWf) : (s.walkStep c bad).MemWf := by
  unfold State.walkStep
  extract_lets s1
  have h1 : s1.MemWf := h
  clear_value s1
  split
  · exact h1
  · extract_lets s2 s3
    have h2 : s2.MemWf := h1
    have h3 : s3.1.MemWf := by
      unfold s3
      split
      · exact State.wf_lateStep h2
      · exact State.wf_mainStep h2
    clear_value s2 s3
    split
    · exact h2
    split
    · exact h3
    split
    · exact State.wf_rollTeam h3
    · refine State.wf_ranOp ?_
      split
      · exact h3
      · exact State.wf_modTeam h3

theorem lands_execWalkNode {core : Nat} {s : State} (h : s.MemWf) : Lands (execWalkNode core s) :=
  lands_next (wf_ite h (State.wf_walkStep h))

theorem State.wf_bufOk {s : State} {idx : Nat} {k : AKind} {off len : Nat} (h : s.MemWf) :
    (s.bufOk idx k off len).1.MemWf := by
  unfold State.bufOk
  split
  rename_i s1 _ e1
  have h1 : s1.MemWf := wf_fst e1 (State.wf_desc h)
  split <;> exact h1

theorem State.wf_bufsOk {s : State} {xs : List (Nat × AKind × Nat × Nat)} (h : s.MemWf) : (s.bufsOk xs).1.MemWf := by
  unfold State.bufsOk
  refine wf_foldl_fst h (fun _ _ ht => ?_)
  split
  · exact ht
  · exact State.wf_bufOk ht

theorem wf_pwinitCheck {s : State} {off : Nat} {w : Walk} (h : s.MemWf) : (pwinitCheck s off w).1.MemWf := by
  unfold pwinitCheck
  extract_lets _
  split
  · exact h
  · exact State.wf_bufsOk h

theorem wf_pwinitBody {o : QOps} : (pwinitBody o).MemWf := by
  unfold pwinitBody
  refine wf_teamOnly (fun _ _ h => ?_)
  split
  · exact h
  · extract_lets _ _
    split
    · exact wf_fst ‹_› (wf_pwinitCheck h)
    · exact Res.wf_group (State.wf_modCore (State.wf_modTeam (wf_fst ‹_› (wf_pwinitCheck h))))

theorem wf_changeBody {join : Bool} {o : QOps} : (changeBody join o).MemWf := by
  unfold changeBody
  refine wf_teamOnly (fun _ _ h => ?_)
  split
  · exact h
  split
  split
  · exact h
  split
  · exact h
  · extract_lets _ s1 s2
    have h1 : s1.MemWf := State.wf_irrevocable (State.wf_drainGroup h)
    have h2 : s2.MemWf := wf_ite (State.wf_modTeam h1) h1
    exact Res.wf_group h2

theorem wf_pwrunCheck {s : State} {ws : List Dword} (h : s.MemWf) : (pwrunCheck s ws).1.MemWf := h
theorem wf_pwrunSpec : pwrunSpec.MemWf := fun _ _ h => wf_pwrunCheck h

theorem wf_pwrunBody {i : Instr} {o : QOps} : (pwrunBody i o).MemWf := by
  intro iss s h
  unfold pwrunBody
  extract_lets r
  have hr : r.s.MemWf := (wf_engineBody wf_pwrunSpec) _ _ h
  split
  · exact hr
  · exact State.wf_modTeam (State.wf_irrevocable hr)

theorem wf_pwwaitBody {o : QOps} : (pwwaitBody o).MemWf := by
  unfold pwwaitBody
  refine wf_teamOnly (fun _ _ h => ?_)
  extract_lets _ _
  split
  · exact h
  split
  · split
    · exact State.wf_of_joinFault h ‹_›
    · exact Res.wf_group h
  · exact Res.wf_group h

theorem wf_pwstatBody {o : QOps} : (pwstatBody o).MemWf := wf_teamOnly (fun _ _ h => wf_uniform _ _ h)

/-! ### Machine/KvTab -/

theorem wf_kvChecks {legal : Bool} {lblk : Option Nat} {needMass : Bool} {bufs : Walk → List (Nat × AKind)}
    {more : Walk → List (Option Trap)} {pool : Option Nat} {s : State} (h : s.MemWf) :
    (kvChecks legal lblk needMass bufs more pool s).1.MemWf := by
  unfold kvChecks
  split
  · exact h
  split
  · exact h
  · split <;> exact wf_fst ‹_› (State.wf_bufsOk h)

theorem wf_btmapCheck {s : State} {ws : List Dword} (h : s.MemWf) : (btmapCheck s ws).1.MemWf := wf_kvChecks h

theorem wf_btinvCheck {s : State} {ws : List Dword} (h : s.MemWf) : (btinvCheck s ws).1.MemWf := by
  unfold btinvCheck
  extract_lets _
  split <;> exact h

theorem wf_btcowCheck {s : State} {ws : List Dword} (h : s.MemWf) : (btcowCheck s ws).1.MemWf := wf_kvChecks h
theorem wf_kvputCheck {s : State} {ws : List Dword} (h : s.MemWf) : (kvputCheck s ws).1.MemWf := wf_kvChecks h
theorem wf_massdecCheck {s : State} {ws : List Dword} (h : s.MemWf) : (massdecCheck s ws).1.MemWf := wf_kvChecks h
theorem wf_massminCheck {s : State} {ws : List Dword} (h : s.MemWf) : (massminCheck s ws).1.MemWf := wf_kvChecks h

theorem State.wf_massReach {s : State} {w : Walk} {es : List Nat} (h : s.MemWf) : (s.massReach w es).1.MemWf := by
  unfold State.massReach
  refine wf_foldl_fst h (fun _ _ ht => ?_)
  split
  · exact ht
  · split <;> exact wf_fst ‹_› (State.wf_opCheck ht)

theorem State.wf_mapChecks {s : State} {w : Walk} {tbl lblk new : Nat} (h : s.MemWf) :
    (s.mapChecks w tbl lblk new).1.MemWf := by
  unfold State.mapChecks
  split
  · exact wf_fst ‹_› (State.wf_opCheck h)
  next s1 _ _ e1 =>
  have h1 : s1.MemWf := wf_fst e1 (State.wf_opCheck h)
  extract_lets s2 _
  have h2 : s2.MemWf := State.wf_atHome h1
  split
  all_goals
    refine wf_fst ‹_› ?_
    split
    · exact State.wf_massReach h2
    · exact h2

theorem State.wf_putEntry {s : State} {w : Walk} {op : EngOp} {tbl lblk new pa va : Nat} (h : s.MemWf) :
    (s.putEntry w op tbl lblk new pa va).MemWf :=
  wf_ite h (State.wf_writeAcc _ _ (State.wf_needs (State.wf_dropLine h)))

theorem State.wf_mapUnit {w : Walk} {op : EngOp} {tbl lblk new : Nat} {s : State} {held : List Nat} {u : Nat}
    (h : s.MemWf) : (State.mapUnit w op tbl lblk new s held u).1.MemWf := by
  unfold State.mapUnit
  split
  · split
    · exact wf_fst ‹_› (State.wf_mapChecks h)
    · exact State.wf_putEntry (wf_fst ‹_› (State.wf_mapChecks h))
  · extract_lets _
    split
    · exact h
    · split
      exact wf_fst ‹_› (State.wf_massStep h)

theorem State.wf_poolCheck {s : State} {w : Walk} {k : AKind} {beyond : Nat → Bool} (h : s.MemWf) :
    (s.poolCheck w k beyond).1.MemWf := by
  unfold State.poolCheck
  split
  rename_i s1 _ e1
  have h1 : s1.MemWf := wf_fst e1 (State.wf_desc h)
  split <;> exact h1

theorem State.wf_cowCheck {s : State} {w : Walk} {tbl lblk new : Nat} (h : s.MemWf) :
    (s.cowCheck w tbl lblk new).1.MemWf := by
  unfold State.cowCheck
  split
  · exact wf_fst ‹_› (State.wf_blockOf h)
  · next s1 _ e1 =>
      have h1 : s1.MemWf := wf_fst e1 (State.wf_blockOf h)
      split
      · exact h1
      split
      · exact h1
      split
      · exact wf_fst ‹_› (State.wf_poolCheck h1)
      · next s2 e2 =>
          have h2 : s2.MemWf := wf_fst e2 (State.wf_poolCheck h1)
          split <;> exact wf_fst ‹_› (State.wf_mapChecks h2)

theorem State.wf_copyPiece {s : State} {w : Walk} {op : EngOp} {src dst : Nat} (h : s.MemWf) :
    (s.copyPiece w op src dst).1.MemWf := by
  unfold State.copyPiece
  split
  · exact wf_fst ‹_› (State.wf_opBytes h)
  · next s1 _ e1 =>
      have h1 : s1.MemWf := wf_fst e1 (State.wf_opBytes h)
      split
      · exact wf_fst ‹_› (State.wf_opCheck h1)
      · exact State.wf_opWrite (wf_fst ‹_› (State.wf_opCheck h1))

theorem State.wf_cowUnit {w : Walk} {op : EngOp} {tbl lblk new : Nat} {s : State} {held : List Nat} {u : Nat}
    (h : s.MemWf) : (State.cowUnit w op tbl lblk new s held u).1.MemWf := by
  unfold State.cowUnit
  extract_lets n r
  split
  · exact State.wf_mapUnit h
  · have hr : r.1.MemWf := by
      unfold r
      split
      · exact State.wf_cowCheck h
      · exact h
    cases hv : r.2 with
    | inl f => rw [show r = (r.1, .inl f) from Prod.ext rfl hv]; exact hr
    | inr old => rw [show r = (r.1, .inr old) from Prod.ext rfl hv]; exact State.wf_copyPiece hr

theorem State.wf_massLoad {s : State} {w : Walk} {e : Nat} (h : s.MemWf) : (s.massLoad w e).1.MemWf := by
  unfold State.massLoad
  split
  · exact wf_fst ‹_› (State.wf_opCheck h)
  · exact State.wf_atHome (wf_fst ‹_› (State.wf_opCheck h))

theorem State.wf_putCheck {s : State} {w : Walk} {tbl lblk pos : Nat} (h : s.MemWf) :
    (s.putCheck w tbl lblk pos).1.MemWf := by
  unfold State.putCheck
  split
  · exact wf_fst ‹_› (State.wf_blockOf h)
  next s1 _ e1 =>
  have h1 : s1.MemWf := wf_fst e1 (State.wf_blockOf h)
  split
  · exact h1
  split
  · exact wf_fst ‹_› (State.wf_poolCheck h1)
  next s2 e2 =>
  have h2 : s2.MemWf := wf_fst e2 (State.wf_poolCheck h1)
  split
  all_goals
    refine wf_fst ‹_› ?_
    split
    · exact State.wf_massLoad h2
    · exact h2

theorem State.wf_putUnit {w : Walk} {op : EngOp} {tbl lblk pos src : Nat} {s : State} {held : List Nat} {u : Nat}
    (h : s.MemWf) : (State.putUnit w op tbl lblk pos src s held u).1.MemWf := by
  unfold State.putUnit
  extract_lets s1
  have h1 : s1.1.MemWf := by
    unfold s1
    split
    · exact State.wf_putCheck h
    · exact h
  split
  · exact wf_fst ‹_› h1
  · exact wf_fst ‹_› h1
  · next s2 _ _ _ e2 _ =>
      have h2 : s2.MemWf := wf_fst e2 h1
      split
      · exact wf_fst ‹_› (State.wf_opCheck h2)
      · exact State.wf_opWrite (wf_fst ‹_› (State.wf_opCheck h2))

theorem State.wf_halveUnit {w : Walk} {op : EngOp} {first : Nat} {s : State} {held : List Nat} {u : Nat} (h : s.MemWf) :
    (State.halveUnit w op first s held u).1.MemWf := by
  unfold State.halveUnit
  split
  exact wf_fst ‹_› (State.wf_massStep h)

theorem State.wf_scanUnit {w : Walk} {first : Nat} {s : State} {held : List Nat} {u : Nat} (h : s.MemWf) :
    (State.scanUnit w first s held u).1.MemWf := by
  unfold State.scanUnit
  split <;> exact wf_fst ‹_› (State.wf_massLoad h)

theorem State.wf_massMin {s : State} {ws : List Dword} {held : List Nat} (h : s.MemWf) : (s.massMin ws held).1.MemWf :=
  h

theorem State.wf_kvOp {s : State} {upTo : Option Nat} {op : EngOp} (h : s.MemWf) : (s.kvOp upTo op).s.MemWf := by
  unfold State.kvOp
  split
  · exact h
  extract_lets ws k run whole one _ scanned
  have hrun : ∀ f, (∀ t x y, t.MemWf → (f t x y).1.MemWf) → (run f).s.MemWf := fun f hf => wf_runUnits hf h
  have hone : ∀ o, o.s.MemWf → (one o).s.MemWf := fun o ho => by
    unfold one
    split <;> exact ho
  have hscan : scanned.s.MemWf := hrun _ fun _ _ _ ht => State.wf_scanUnit ht
  split
  · exact hone _ (hrun _ fun _ _ _ ht => State.wf_mapUnit ht)
  · exact hone _ (hrun _ fun _ _ _ ht => State.wf_cowUnit ht)
  · exact hone _ h
  · exact hone _ (hrun _ fun _ _ _ ht => State.wf_putUnit ht)
  · exact hrun _ fun _ _ _ ht => State.wf_halveUnit ht
  · split
    · exact State.wf_massMin hscan
    · exact hscan
  · exact h

theorem State.wf_kvOver {s : State} {op : EngOp} {f : Option OpFault} (h : s.MemWf) : (s.kvOver op f).MemWf := by
  unfold State.kvOver
  extract_lets _
  split <;> exact h

theorem wf_kvSpec {k : Nat} {check : State → List Dword → State × Option Trap} {writes : Bool}
    (hcheck : ∀ t x, t.MemWf → (check t x).1.MemWf) : (kvSpec k check writes).MemWf :=
  fun _ _ h => hcheck _ _ h

theorem wf_kvBody {i : Instr} {o : QOps} {sp : EngSpec} (hsp : sp.MemWf) : (kvBody i o sp).MemWf := by
  intro iss s h
  unfold kvBody
  extract_lets r
  have hr : r.s.MemWf := (wf_engineBody hsp) _ _ h
  split
  · exact hr
  · exact State.wf_irrevocable hr

theorem lands_execBtmap {o : QOps} {s : State} (h : s.MemWf) : Lands (execBtmap o s) := by
  unfold execBtmap
  exact lands_execAtOnce (fun _ _ ht => State.wf_ranOp ht) (wf_kvBody (wf_kvSpec (fun _ _ ht => wf_btmapCheck ht))) h

theorem lands_execBtinv {o : QOps} {s : State} (h : s.MemWf) : Lands (execBtinv o s) := by
  unfold execBtinv
  exact lands_execAtOnce (fun _ _ ht => State.wf_ranOp ht) (wf_kvBody (wf_kvSpec (fun _ _ ht => wf_btinvCheck ht))) h

theorem lands_execBtcow {o : QOps} {s : State} (h : s.MemWf) : Lands (execBtcow o s) := by
  unfold execBtcow
  exact lands_execAtOnce (fun _ _ ht => State.wf_ranOp ht) (wf_kvBody (wf_kvSpec (fun _ _ ht => wf_btcowCheck ht))) h

theorem lands_execKvput {o : QOps} {s : State} (h : s.MemWf) : Lands (execKvput o s) := by
  unfold execKvput
  exact lands_execAtOnce (fun _ _ ht => State.wf_ranOp ht) (wf_kvBody (wf_kvSpec (fun _ _ ht => wf_kvputCheck ht))) h

theorem lands_execMassdec {o : QOps} {s : State} (h : s.MemWf) : Lands (execMassdec o s) := by
  unfold execMassdec
  exact lands_execAtOnce (fun _ _ ht => State.wf_ranOp ht) (wf_kvBody (wf_kvSpec (fun _ _ ht => wf_massdecCheck ht))) h

theorem lands_execMassmin {o : QOps} {s : State} (h : s.MemWf) : Lands (execMassmin o s) := by
  unfold execMassmin
  exact lands_execAtOnce (fun _ _ ht => State.wf_ranOp ht) (wf_kvBody (wf_kvSpec (fun _ _ ht => wf_massminCheck ht))) h

/-! ### Machine/EngineEvents -/

theorem State.wf_opOver {s : State} {c : Nat} {op : EngOp} {f : Option OpFault} {done : Nat} (h : s.MemWf) :
    (s.opOver c op f done).MemWf :=
  State.wf_finishOp (State.wf_kvOver (State.wf_copyArrivals h))

theorem State.wf_endOp {s : State} {c : Nat} {op : EngOp} {f : Option OpFault} {done : Nat} (h : s.MemWf) :
    (s.endOp c op f done).MemWf := by
  unfold State.endOp
  extract_lets s1
  have h1 : s1.MemWf := by
    unfold s1
    split
    · exact State.wf_noteFault h
    · exact h
  exact State.wf_ranOr h1 (fun _ _ ht => State.wf_opOver ht)

theorem State.wf_walkFaults {s : State} {c : Nat} {op : EngOp} {f : OpFault} (h : s.MemWf) :
    (s.walkFaults c op f).MemWf := by
  unfold State.walkFaults
  split
  · exact State.wf_rollTeam h
  · refine State.wf_endOp ?_
    split <;> exact h

/-- What an operation does when it runs, by its instruction. -/
theorem State.wf_opRun {s : State} {upTo : Option Nat} {op : EngOp} (h : s.MemWf) : (s.opRun upTo op).s.MemWf := by
  unfold State.opRun
  extract_lets _
  split
  · exact h
  · exact h
  · exact h
  · exact h
  · exact h
  · exact h
  · exact h
  · exact h
  · exact h
  · exact h
  · exact State.wf_walkEnd h
  · exact State.wf_walkEnd h
  · exact State.wf_copyOp h
  · exact State.wf_copyOp h
  · exact State.wf_copyOp h
  · exact State.wf_copyOp h
  · exact State.wf_copyOp h
  · exact State.wf_kvOp h

theorem State.wf_opEnds {s : State} {c : Nat} {op : EngOp} {o : OpOut} (h : s.MemWf) (ho : o.s.MemWf) :
    (s.opEnds c op o).MemWf :=
  wf_ite h (wf_ite (State.wf_rollTeam h) (State.wf_endOp ho))

theorem State.wf_beginOp {s : State} {c : Nat} {op : EngOp} (h : s.MemWf) : (s.beginOp c op).MemWf := by
  unfold State.beginOp
  extract_lets s1 t out
  have h1 : s1.MemWf := h
  split
  · exact wf_ite (State.wf_zeroCopy h1) (State.wf_opEnds h1 (State.wf_opRun h1))
  have ht : t.MemWf := h1
  split
  · have hout : out.1.MemWf := State.wf_walkStart ht
    split
    · exact h1
    · cases hv : out.2 with
      | none => rw [show out = (out.1, none) from Prod.ext rfl hv]; exact hout
      | some f => rw [show out = (out.1, some f) from Prod.ext rfl hv]; exact State.wf_walkFaults hout
  · exact ht

theorem lands_execEngineOpStart {core serial : Nat} {s : State} (h : s.MemWf) :
    Lands (execEngineOpStart core serial s) := by
  unfold execEngineOpStart
  refine lands_next ?_
  split
  · exact wf_ite (State.wf_beginOp h) h
  · exact h

theorem lands_execEngineOpComplete {core serial : Nat} {s : State} (h : s.MemWf) :
    Lands (execEngineOpComplete core serial s) := by
  unfold execEngineOpComplete
  refine lands_next ?_
  split
  · exact wf_ite (State.wf_opEnds h (State.wf_opRun h)) h
  · exact h

theorem State.wf_stopOp {s : State} {c : Nat} {op : EngOp} {x : Nat} (h : s.MemWf) : (s.stopOp c op x).MemWf := by
  unfold State.stopOp
  extract_lets s1
  have h1 : s1.MemWf := h
  split
  · exact State.wf_opEnds h1 (State.wf_opRun h1)
  split
  · exact h1
  · extract_lets o o'
    have ho : o.s.MemWf := State.wf_opRun h1
    have ho' : o'.s.MemWf := by
      unfold o'
      split
      · exact h1
      · exact ho
    exact wf_ite (State.wf_opEnds h1 ho') (State.wf_modTeam ho')

theorem State.wf_stopOps {s : State} {c : Nat} (h : s.MemWf) : (s.stopOps c).MemWf := by
  unfold State.stopOps
  split
  · exact wf_foldl h (fun _ _ ht => State.wf_stopOp ht)
  · exact h

theorem State.wf_badData {s : State} {c : Nat} {op : EngOp} {f : OpFault} (h : s.MemWf) : (s.badData c op f).MemWf :=
  wf_ite (wf_ite (State.wf_walkFaults h) (wf_ite h (State.wf_walkStep h))) (State.wf_opEnds h h)

theorem lands_execEngineOpFault {core serial code sub off : Nat} {s : State} (h : s.MemWf) :
    Lands (execEngineOpFault core serial code sub off s) := by
  unfold execEngineOpFault
  refine lands_next ?_
  split
  · exact wf_ite h (wf_ite (State.wf_opEnds h (State.wf_opRun h)) (wf_ite h (State.wf_badData h)))
  · exact h

theorem lands_execCopyLateExpiry {core serial : Nat} {s : State} (h : s.MemWf) :
    Lands (execCopyLateExpiry core serial s) := by
  unfold execCopyLateExpiry
  refine lands_next ?_
  split
  · split
    · extract_lets s1 s2 s3
      have h1 : s1.MemWf := h
      have h2 : s2.1.MemWf := State.wf_copyLate h1
      have h3 : s3.1.MemWf := by
        unfold s3
        split
        · exact h1
        · exact h2
      exact State.wf_endOp h3
    · exact h
  · exact h

/-! ### Machine/Post -/

theorem State.wf_postRecord {s : State} {r : Rec} {p : Nat} {own : Option Nat} (h : s.MemWf) :
    (s.postRecord r p own).1.MemWf := by
  unfold State.postRecord
  extract_lets _ s1
  have h1 : s1.MemWf := State.wf_ctxReach h
  clear_value s1
  split <;> exact h1

/-! ### Machine/Priv -/

/-- A privileged instruction performs what it needs first, then its effect (R393). -/
theorem wf_privBody {eff : Issue → State → Res} {first : State → State} (heff : ∀ x t, t.MemWf → (eff x t).s.MemWf)
    (hfirst : ∀ t, t.MemWf → (first t).MemWf) : (privBody eff first).MemWf := by
  intro iss s h
  unfold privBody
  split
  · exact h
  split
  · exact h
  · extract_lets s1
    have h1 : s1.MemWf := hfirst _ h
    split
    · exact h1
    · exact heff _ _ h1

theorem wf_numberBody {num : Group → Nat} {body : Body} (hbody : body.MemWf) : (numberBody num body).MemWf := by
  intro iss s h
  unfold numberBody
  split
  · exact h
  · exact hbody _ _ h

theorem wf_mfprBody {o : POps} : (mfprBody o).MemWf :=
  wf_numberBody (wf_privBody (fun _ _ h => Res.wf_group h) (fun _ h => h))

theorem wf_mtprBody {o : POps} : (mtprBody o).MemWf := by
  unfold mtprBody
  refine wf_numberBody (wf_privBody (fun _ _ h => ?_) (fun _ h => h))
  extract_lets _ _
  split <;> exact Res.wf_group h

theorem State.wf_stopDone {s : State} {g : Nat} (h : s.MemWf) : (s.stopDone g).MemWf := wf_ite h h

theorem State.wf_logRetired {s : State} {c : Nat} (h : s.MemWf) : (s.logRetired c).MemWf :=
  wf_ite (State.wf_logEvent h) h

theorem wf_endBody {f : Nat → Core → Core} : (endBody f).MemWf :=
  wf_privBody (fun _ _ h => wf_ite (State.wf_logRetired (State.wf_stopDone h)) (State.wf_stopDone h))
    (fun _ h => State.wf_drainGroup h)

theorem State.wf_resumeWalks {s : State} (h : s.MemWf) : s.resumeWalks.MemWf :=
  wf_foldl h (fun _ _ ht => State.wf_startWalks ht)

theorem wf_tlbinvBody {o : POps} : (tlbinvBody o).MemWf := by
  unfold tlbinvBody
  refine wf_privBody (fun _ _ h => ?_) (fun _ h => wf_ite h (State.wf_drainAll h))
  extract_lets _
  split
  · exact Res.wf_group h
  split
  · exact h
  · exact Res.wf_group (State.wf_resumeWalks h)

theorem wf_bufinvBody {o : POps} : (bufinvBody o).MemWf := by
  unfold bufinvBody
  refine wf_privBody (fun _ _ h => ?_) (fun _ h => State.wf_drainAll h)
  split
  · exact h
  · exact Res.wf_group h

theorem State.wf_cacheFlush {s : State} {core : Nat} {drop : Bool} (h : s.MemWf) : (s.cacheFlush core drop).MemWf := by
  unfold State.cacheFlush
  exact wf_foldl h (fun _ _ ht => wf_ite (State.wf_giveUp ht) (State.wf_sendPartials (State.wf_writeBack ht)))

theorem wf_cacheflBody {o : POps} : (cacheflBody o).MemWf := by
  unfold cacheflBody
  refine wf_privBody (fun _ _ h => ?_) (fun _ h => h)
  extract_lets _
  split
  · exact Res.wf_group (State.wf_cacheFlush h)
  · exact Res.wf_group h

theorem State.wf_areaReach {s : State} {pa n : Nat} {rd : Bool} (h : s.MemWf) : (s.areaReach pa n rd).MemWf := by
  unfold State.areaReach
  refine wf_foldl h (fun _ _ ht => ?_)
  split
  · exact ht
  · exact wf_foldl ht (fun _ _ hu => State.wf_reach hu)
  · exact ht

theorem State.wf_ctxSave {s : State} {pa : Nat} (h : s.MemWf) : (s.ctxSave pa).1.MemWf := by
  unfold State.ctxSave
  extract_lets c s1
  have h1 : s1.MemWf := State.wf_drainCore h
  clear_value s1
  split
  · exact h
  split
  · exact h
  split
  · exact h
  split
  · exact h
  · exact State.wf_writeAcc _ _ (State.wf_areaReach (State.wf_areaFill _ _ h1))

theorem State.wf_coreLost {s : State} {core : Nat} (h : s.MemWf) : (s.coreLost core).MemWf := by
  unfold State.coreLost
  split
  · exact State.wf_endGrid (State.wf_modCore (State.wf_addRetired (State.wf_logEvent h)))
  · exact h

theorem State.wf_restoreFails {s : State} {g code : Nat} (h : s.MemWf) : (s.restoreFails g code).MemWf :=
  State.wf_endGrid (State.wf_logEvent h)

theorem State.wf_ctxLoad {s : State} {pa : Nat} (h : s.MemWf) : (s.ctxLoad pa).1.MemWf := by
  unfold State.ctxLoad
  extract_lets _
  split
  · exact h
  split
  · exact h
  split
  · exact State.wf_areaReach h
  split
  · exact State.wf_areaReach h
  split
  · exact State.wf_areaReach h
  split
  · exact State.wf_areaReach h
  · exact State.wf_modCore (State.wf_ctxReach (State.wf_areaReach h))

theorem wf_ctxsaveBody {o : POps} : (ctxsaveBody o).MemWf :=
  wf_privBody (fun _ _ h => Res.wf_group (wf_ite (State.wf_coreLost (State.wf_ctxSave h)) (State.wf_ctxSave h)))
    (fun _ h => h)

theorem wf_ctxloadBody {o : POps} : (ctxloadBody o).MemWf := by
  unfold ctxloadBody
  refine wf_privBody (fun _ _ h => Res.wf_group ?_) (fun _ h => h)
  split
  · exact State.wf_restoreFails (State.wf_ctxLoad h)
  · exact State.wf_ctxLoad h

theorem State.wf_sigPost {s : State} {core pc : Nat} {arg : Dword} (h : s.MemWf) : (s.sigPost core pc arg).MemWf :=
  State.wf_physWrite _ _ _ h

theorem wf_signalBody {o : POps} : (signalBody o).MemWf := by
  unfold signalBody
  refine wf_privBody (fun _ _ h => ?_) (fun _ h => State.wf_drainGroup h)
  split
  · exact Res.wf_group h
  · exact Res.wf_group (State.wf_sigPost h)

/-! ### Machine/Service -/

theorem lands_execServiceEntryPreempt {core : Nat} {s : State} (h : s.MemWf) : Lands (execServiceEntryPreempt core s) :=
  lands_next h

theorem lands_execServiceEntryRestore {core : Nat} {s : State} (h : s.MemWf) : Lands (execServiceEntryRestore core s) :=
  lands_next h

theorem lands_execServiceEntryRequest {core : Nat} {s : State} (h : s.MemWf) : Lands (execServiceEntryRequest core s) :=
  lands_next h

theorem lands_execDoorbell {core : Nat} {lo hi : Dword} {s : State} (h : s.MemWf) : Lands (execDoorbell core lo hi s) :=
  lands_next (wf_ite h h)

theorem lands_execServiceFaultPost {core : Nat} {s : State} (h : s.MemWf) : Lands (execServiceFaultPost core s) := by
  unfold execServiceFaultPost
  refine lands_next ?_
  split
  · exact wf_ite h (State.wf_modCore (State.wf_sigPost h))
  · exact h

theorem lands_execFaultQueuePost {q : Nat} {s : State} (h : s.MemWf) : Lands (execFaultQueuePost q s) :=
  lands_next (State.wf_fqPost h)

theorem lands_execFqResolve {w : Dword} {s : State} (h : s.MemWf) : Lands (execFqResolve w s) := by
  unfold execFqResolve
  extract_lets _ _ s1
  have h1 : s1.MemWf := h
  split
  · exact lands_next h
  split
  · refine lands_next ?_
    split
    · exact wf_ite h h
    · exact h1
  · exact lands_next h

theorem lands_execPageWalk {core ctx va : Nat} {s : State} (h : s.MemWf) : Lands (execPageWalk core ctx va s) := by
  unfold execPageWalk
  refine lands_next ?_
  split
  · exact h
  split
  · exact wf_ite (State.wf_endWalk h) h
  · exact wf_ite h (State.wf_startWalks h)

/-! ### Machine/TaskQueue -/

theorem wf_tqResult {o : QOps} {p : Dword} {n : Nat} {ws : List Dword} {s : State} (h : s.MemWf) :
    (tqResult o p n ws s).s.MemWf :=
  Res.wf_group h

theorem wf_tqdefBody {o : QOps} : (tqdefBody o).MemWf := by
  unfold tqdefBody
  refine wf_teamOnly (fun _ _ h => ?_)
  extract_lets _ _ _ _
  split
  · exact h
  split
  · exact h
  · exact wf_tqResult h

theorem State.wf_tqDone {s : State} {g w : Nat} {x : List Nat} (h : s.MemWf) : (s.tqDone g w x).1.MemWf := by
  induction x generalizing s with
  | nil => exact h
  | cons j rest ih =>
    unfold State.tqDone
    split
    · exact ih h
    · extract_lets _ _
      split
      · exact h
      · exact ih h

theorem wf_tqdoneBody {o : QOps} : (tqdoneBody o).MemWf := by
  unfold tqdoneBody
  refine wf_teamOnly (fun _ _ h => ?_)
  extract_lets _
  split
  · exact h
  split
  · exact h
  split
  · exact wf_fst ‹_› (State.wf_tqDone (State.wf_irrevocable (State.wf_drainGroup h)))
  · exact wf_tqResult (wf_fst ‹_› (State.wf_tqDone (State.wf_irrevocable (State.wf_drainGroup h))))

theorem wf_tqgetBody {o : QOps} : (tqgetBody o).MemWf := by
  unfold tqgetBody
  refine wf_teamOnly (fun _ _ h => ?_)
  extract_lets _ _
  split
  · exact h
  split
  · exact wf_tqResult h
  split
  · exact wf_tqResult h
  · exact Res.wf_group h

theorem wf_rnggetBody {o : QOps} : (rnggetBody o).MemWf := by
  unfold rnggetBody
  refine wf_teamOnly (fun _ _ h => ?_)
  extract_lets _
  split
  · exact h
  · exact wf_tqResult h

theorem wf_glaunchBody {o : QOps} : (glaunchBody o).MemWf := by
  unfold glaunchBody
  refine wf_teamOnly fun _ _ h => ?_
  extract_lets t off r
  split
  · exact h
  split
  · exact h
  · exact wf_tqResult (State.wf_postRecord (State.wf_irrevocable (State.wf_drainGroup h)))

/-! ### Machine/Admission -/

theorem State.wf_statusCheck {s : State} {ctx idx off : Nat} (h : s.MemWf) : (s.statusCheck ctx idx off).1.MemWf := by
  unfold State.statusCheck
  split
  rename_i s1 _ e1
  have h1 : s1.MemWf := wf_fst e1 (State.wf_desc h)
  split
  · exact h1
  split
  · exact h1
  split
  · exact h1
  extract_lets va walk s2
  have h2 : s2.MemWf := Walked.wf_reach h1
  clear_value s2
  split
  · exact h2
  split
  · exact h2
  extract_lets k pa
  have hu : (s2.uncache (pa / 128)).MemWf := State.wf_uncache h2
  split
  · exact h2
  · exact h2
  · split
    · exact h2
    · dsimp only
      exact hu
  · exact h2

theorem State.wf_statusStore {s : State} {g : Grid} (h : s.MemWf) : (s.statusStore g).MemWf := by
  unfold State.statusStore
  extract_lets _ _
  split
  rename_i s1 _ e1
  have h1 : s1.MemWf := wf_fst e1 (State.wf_statusCheck h)
  split
  · exact State.wf_logEvent (State.wf_putAcc _ _ _ h1)
  · exact State.wf_logEvent h1

theorem State.wf_drainGrid {s : State} {cs : List Nat} (h : s.MemWf) : (s.drainGrid cs).MemWf := by
  unfold State.drainGrid
  extract_lets s1 _ s2
  have h1 : s1.MemWf := State.wf_drainIf h
  have h2 : s2.MemWf := wf_foldl h1 (fun _ _ ht => wf_foldl ht (fun _ _ hu => State.wf_sendPartials hu))
  exact wf_foldl h2 (fun _ _ ht => State.wf_endEpoch ht)

theorem State.wf_leftFaults {s : State} {c : Nat} (h : s.MemWf) : (s.leftFaults c).MemWf := by
  unfold State.leftFaults
  split
  · extract_lets _ s1
    have h1 : s1.MemWf := by
      unfold s1
      refine wf_foldl h (fun _ _ ht => ?_)
      split
      · exact State.wf_markDeferred (State.wf_terminal ht)
      · exact ht
    exact wf_ite h1 (State.wf_modTeamAt h1)
  · exact h

theorem State.wf_noteEnded {s : State} (h : s.MemWf) : s.noteEnded.MemWf :=
  wf_foldl h (fun _ _ ht => State.wf_leftFaults ht)

theorem State.wf_finishGrid {s : State} {g : Nat} (h : s.MemWf) : (s.finishGrid g).MemWf := by
  unfold State.finishGrid
  extract_lets _ s1 s2 s3 s4 s5 s6 s7
  have h1 : s1.MemWf := wf_ite h (wf_foldl h (fun _ _ ht => State.wf_stopOps ht))
  have h2 : s2.MemWf := wf_foldl h1 (fun _ _ ht => ht)
  have h3 : s3.MemWf := wf_foldl (State.wf_drainGrid h2) (fun _ _ ht => State.wf_leftFaults ht)
  have h4 : s4.MemWf := State.wf_modGrid h3
  have h5 : s5.MemWf := State.wf_statusStore h4
  have h6 : s6.MemWf := wf_foldl h5 (fun _ _ ht => wf_ite (State.wf_logRetired ht) ht)
  have h7 : s7.MemWf := h6
  exact State.wf_releaseHeld (State.wf_modGrid h7)

theorem lands_execGridEnd {grid : Nat} {s : State} (h : s.MemWf) : Lands (execGridEnd grid s) := by
  unfold execGridEnd
  extract_lets _
  exact lands_next (wf_ite h (wf_ite (State.wf_drainIf (wf_foldl h (fun _ _ ht => ht))) (State.wf_finishGrid h)))

theorem State.wf_admitNew {s : State} {g : Nat} {place : List Nat} (h : s.MemWf) : (s.admitNew g place).MemWf :=
  State.wf_setGrid (State.wf_ctxReach (wf_foldl h (fun _ _ ht => ht)))

theorem State.wf_admitAgain {s : State} {g : Nat} {place : List Nat} (h : s.MemWf) : (s.admitAgain g place).MemWf :=
  State.wf_setGrid (wf_foldl h (fun _ _ ht => ht))

theorem State.wf_admitGrid {s : State} {g : Nat} {place : List Nat} (h : s.MemWf) : (s.admitGrid g place).MemWf :=
  wf_ite (State.wf_admitNew h) (State.wf_admitAgain h)

theorem State.wf_endUnfit {s : State} (h : s.MemWf) : s.endUnfit.MemWf := wf_foldl h (fun _ _ ht => wf_ite ht ht)
theorem State.wf_unbump {s : State} {p : Grid → Bool} (h : s.MemWf) : (s.unbump p).MemWf := wf_ite h h
theorem State.wf_noteBumps {s : State} (h : s.MemWf) : s.noteBumps.MemWf := State.wf_unbump h

theorem State.wf_admission {s : State} (h : s.MemWf) : s.admission.MemWf := by
  unfold State.admission
  extract_lets s1
  have h1 : s1.MemWf := State.wf_unbump (State.wf_endUnfit h)
  split
  · exact h1
  · extract_lets s2
    have h2 : s2.MemWf := h1
    split
    · exact State.wf_admitGrid h2
    split
    · split
      · exact State.wf_modGrid (State.wf_admitGrid (wf_foldl h2 (fun _ _ ht => ht)))
      · exact wf_foldl h2 (fun _ _ ht => ht)
    · exact wf_foldl h2 (fun _ _ ht => ht)

theorem lands_execAdmissionStep {s : State} (h : s.MemWf) : Lands (execAdmissionStep s) :=
  lands_next (wf_ite (State.wf_admission h) h)

theorem lands_execPreemptGang {stop : GangStop} {s : State} (h : s.MemWf) : Lands (execPreemptGang stop s) := by
  unfold execPreemptGang
  extract_lets _ _ stopped slots cut
  have hstopped : stopped.MemWf := wf_foldl h fun _ _ ht => State.wf_stopOps ht
  have hcut : cut.MemWf := wf_foldl hstopped fun _ _ ht => ht
  exact lands_next (wf_ite (wf_foldl (State.wf_setGrid hcut) fun _ _ ht => State.wf_coreLost ht) h)

theorem lands_execGangResume {grid : Nat} {s : State} (h : s.MemWf) : Lands (execGangResume grid s) := by
  unfold execGangResume
  extract_lets s1 s2
  have h1 : s1.MemWf := wf_foldl h fun _ _ ht => ht
  have h2 : s2.MemWf := State.wf_modGrid h1
  exact lands_next (wf_ite (wf_ite (State.wf_endGrid h2) h2) h)

theorem lands_execLaunchPortPost {port poster : Nat} {store : PortStore} {s : State} (h : s.MemWf) :
    Lands (execLaunchPortPost port poster store s) := by
  unfold execLaunchPortPost
  split
  · exact lands_next h
  · extract_lets s1 s2
    have h1 : s1.1.MemWf := by
      unfold s1
      split
      · exact State.wf_postRecord h
      · exact h
    exact lands_next (wf_ite h1 h1)

theorem lands_execLctlPreempt {ctx gridid : Nat} {s : State} (h : s.MemWf) : Lands (execLctlPreempt ctx gridid s) :=
  lands_next (wf_ite h (wf_foldl h (fun _ _ ht => ht)))

theorem lands_execLctlKill {ctx gridid : Nat} {s : State} (h : s.MemWf) : Lands (execLctlKill ctx gridid s) :=
  lands_next (wf_ite h (wf_foldl h (fun _ _ ht => wf_ite ht ht)))

theorem lands_execSapoolWrite {w : Dword} {s : State} (h : s.MemWf) : Lands (execSapoolWrite w s) :=
  lands_next (wf_ite h h)

/-! ### Machine/MainMemory -/

theorem State.wf_setChset {s : State} {n : Nat} {x : ChSet} (h : s.MemWf) : (s.setChset n x).MemWf := h

theorem State.wf_placeEntry0 {s : State} (h : s.MemWf) : s.placeEntry0.MemWf := by
  unfold State.placeEntry0
  split
  · exact h
  split
  · exact State.wf_setBytes _ _ h
  · exact h

theorem State.wf_enableSet {s : State} {n : Nat} (h : s.MemWf) : (s.enableSet n).MemWf :=
  wf_ite h (wf_ite (State.wf_placeEntry0 h) h)

theorem State.wf_disableSet {s : State} {n : Nat} (h : s.MemWf) : (s.disableSet n).MemWf := by
  unfold State.disableSet
  extract_lets s1 s2
  have h1 : s1.MemWf := wf_ite (State.wf_drainAll h) h
  have h2 : s2.MemWf := wf_ite (State.wf_dropPlaces h1) h1
  exact State.wf_setChset h2

theorem lands_execChsetEnable {n : Nat} {s : State} (h : s.MemWf) : Lands (execChsetEnable n s) :=
  lands_next (wf_ite (State.wf_enableSet h) h)

theorem lands_execChsetDisable {n : Nat} {s : State} (h : s.MemWf) : Lands (execChsetDisable n s) :=
  lands_next (wf_ite (State.wf_disableSet h) h)

theorem State.wf_writeSet {s : State} {n k w : Nat} (h : s.MemWf) : (s.writeSet n k w).MemWf := wf_ite h h

theorem State.wf_setWord {s : State} {n k w : Nat} (h : s.MemWf) : (s.setWord n k w).MemWf := by
  unfold State.setWord
  extract_lets s1
  have h1 : s1.MemWf := State.wf_writeSet h
  exact wf_ite h1 (wf_ite (State.wf_enableSet h1) (State.wf_disableSet h1))

theorem State.wf_startRestripes {s : State} (h : s.MemWf) : s.startRestripes.MemWf := by
  unfold State.startRestripes
  refine wf_foldl h (fun _ _ ht => ?_)
  extract_lets _
  split
  · exact ht
  split
  · exact ht
  · exact wf_ite (State.wf_logEvent (State.wf_setChset (State.wf_drainAll ht))) ht

theorem State.wf_retireChannel {s : State} {c : Nat} (h : s.MemWf) : (s.retireChannel c).MemWf :=
  wf_ite h (State.wf_startRestripes h)

theorem State.wf_trainChannels {s : State} (h : s.MemWf) : s.trainChannels.MemWf :=
  wf_ite (wf_foldl h (fun _ _ ht => State.wf_retireChannel ht)) h

theorem State.wf_restripeDone {s : State} {n : Nat} (h : s.MemWf) : (s.restripeDone n).MemWf :=
  State.wf_startRestripes (State.wf_logEvent (State.wf_setChset (State.wf_settlePlaces _ h)))

theorem State.wf_restripeOne {s : State} {n : Nat} (h : s.MemWf) : (s.restripeOne n).MemWf := by
  unfold State.restripeOne
  extract_lets _
  split
  · exact h
  split
  · exact State.wf_restripeDone (wf_ite (State.wf_setChset (State.wf_moveSpan _ _ _ h)) h)
  · exact wf_ite (State.wf_setChset (State.wf_moveSpan _ _ _ h)) h

theorem lands_execRestripeGranule {n : Nat} {s : State} (h : s.MemWf) : Lands (execRestripeGranule n s) :=
  lands_next (State.wf_restripeOne h)

theorem State.wf_shepherdStore {s : State} {pa : Nat} {bs : List Byte} (h : s.MemWf) : (s.shepherdStore pa bs).MemWf :=
  State.wf_physWrite _ _ _ (State.wf_uncache h)

theorem State.wf_writeReg {s : State} {r : HwReg} {w : Dword} (h : s.MemWf) : (s.writeReg r w).MemWf := by
  unfold State.writeReg
  extract_lets _
  split
  · exact h
  · exact h
  · exact h
  · exact h
  · exact wf_ite h h
  · exact wf_ite h h
  · exact State.wf_setWord h
  · exact wf_ite h (State.wf_shepherdStore h)

theorem lands_execRegisterWrite {r : HwReg} {w : Dword} {s : State} (h : s.MemWf) : Lands (execRegisterWrite r w s) :=
  lands_next (wf_ite h (State.wf_writeReg h))

theorem lands_execShepherdFullBarrier {n : Nat} {s : State} (h : s.MemWf) : Lands (execShepherdFullBarrier n s) :=
  lands_next (wf_ite h h)

theorem lands_execBankRefreshDue {ch pc bank : Nat} {s : State} (h : s.MemWf) :
    Lands (execBankRefreshDue ch pc bank s) :=
  lands_next (wf_ite h h)

theorem lands_execAllBankRefreshDone {ch pc : Nat} {s : State} (h : s.MemWf) : Lands (execAllBankRefreshDone ch pc s) :=
  lands_next (wf_ite h h)

/-! ### Machine/Domain -/

theorem State.wf_request {s : State} {core ln kind : Nat} (h : s.MemWf) : (s.request core ln kind).MemWf :=
  wf_ite h (wf_ite (State.wf_dirRequest h) (wf_ite (State.wf_dirRequest h) h))

theorem lands_execDirRead {core line : Nat} {s : State} (h : s.MemWf) : Lands (execDirRead core line s) :=
  lands_next (State.wf_request h)

theorem lands_execDirWrite {core line : Nat} {s : State} (h : s.MemWf) : Lands (execDirWrite core line s) :=
  lands_next (State.wf_request h)

theorem lands_execDirRed {core line : Nat} {s : State} (h : s.MemWf) : Lands (execDirRed core line s) :=
  lands_next (State.wf_request h)

theorem lands_execRequestRetry {core : Nat} {s : State} (h : s.MemWf) : Lands (execRequestRetry core s) := by
  unfold execRequestRetry
  refine lands_next ?_
  split
  · exact State.wf_request h
  · exact h

theorem lands_execRecallComplete {fold line : Nat} {s : State} (h : s.MemWf) : Lands (execRecallComplete fold line s) :=
  lands_next (State.wf_recallDone h)

theorem lands_execWayReservationExpire {fold set : Nat} {s : State} (h : s.MemWf) :
    Lands (execWayReservationExpire fold set s) :=
  lands_next h

theorem lands_execDieInvalidate {die line : Nat} {s : State} (h : s.MemWf) : Lands (execDieInvalidate die line s) := by
  unfold execDieInvalidate
  exact lands_next
    (wf_ite (State.wf_invalidateDie h) (wf_ite (State.wf_postAbroad (State.wf_leaveDie (State.wf_invalidateDie h))) h))

theorem State.wf_sharedFrom {s : State} {die ln : Nat} {dirty : Bool} (h : s.MemWf) :
    (s.sharedFrom die ln dirty).MemWf := by
  unfold State.sharedFrom
  split
  · exact wf_ite h h
  · exact h

theorem lands_execOwnerForward {die line : Nat} {write : Bool} {s : State} (h : s.MemWf) :
    Lands (execOwnerForward die line write s) := by
  unfold execOwnerForward
  extract_lets _ s1 s2 _
  have h1 : s1.MemWf := State.wf_dropX h
  have h2 : s2.MemWf := wf_ite (State.wf_leaveDie h1) (State.wf_sharedFrom h1)
  exact lands_next (wf_ite (State.wf_postAbroad h2) h2)

theorem lands_execWriteback {core line : Nat} {s : State} (h : s.MemWf) : Lands (execWriteback core line s) :=
  lands_next (State.wf_writeBack h)

theorem lands_execDieDirectoryReport {core line : Nat} {st : LineState} {s : State} (h : s.MemWf) :
    Lands (execDieDirectoryReport core line st s) := by
  unfold execDieDirectoryReport
  exact lands_next (wf_ite (wf_ite h (State.wf_giveUp h)) (wf_ite (wf_ite h h) (wf_ite (State.wf_writeBack h) h)))

theorem lands_execAcknowledgement {id : Nat} {s : State} (h : s.MemWf) : Lands (execAcknowledgement id s) :=
  lands_next (wf_ite h (State.wf_acknowledge h))

theorem State.wf_sendAgain {s : State} {m : Msg} (h : s.MemWf) : (s.sendAgain m).MemWf := by
  unfold State.sendAgain
  split
  · dsimp only
    exact State.wf_transmit h
  · exact h

theorem lands_execMessageResend {id : Nat} {s : State} (h : s.MemWf) : Lands (execMessageResend id s) := by
  unfold execMessageResend
  refine lands_next ?_
  split
  · exact h
  · exact wf_ite h (State.wf_sendAgain h)

theorem State.wf_retirePort {s : State} {k : Nat} (h : s.MemWf) : (s.retirePort k).MemWf :=
  wf_foldl h (fun _ _ ht => State.wf_sendAgain ht)

theorem State.wf_portFails {s : State} {k : Nat} (h : s.MemWf) : (s.portFails k).MemWf :=
  State.wf_addRetired (State.wf_retirePort h)

theorem lands_execLinkTrain {fold port lanesUp roundTrip : Nat} {s : State} (h : s.MemWf) :
    Lands (execLinkTrain fold port lanesUp roundTrip s) :=
  lands_next (wf_ite h (wf_ite h (State.wf_portFails h)))

theorem lands_execFlowStop {fold port : Nat} {sign : FlowSign} {s : State} (h : s.MemWf) :
    Lands (execFlowStop fold port sign s) :=
  lands_next (wf_ite h h)

theorem State.wf_formAnswer {s : State} {code : Nat} (h : s.MemWf) : (s.formAnswer code).MemWf := h

theorem State.wf_formFails {s : State} {k : Nat} (h : s.MemWf) : (s.formFails k).MemWf :=
  State.wf_formAnswer (State.wf_logEvent h)

theorem State.wf_formedIf {s : State} (h : s.MemWf) : s.formedIf.MemWf := by
  unfold State.formedIf
  extract_lets _
  split
  · split
    · exact State.wf_formFails h
    · exact State.wf_formAnswer (State.wf_rehome (wf_foldl h (fun _ _ ht => State.wf_endFailure ht)))
  · exact h

theorem State.wf_formStart {s : State} {m : Nat} {ident : Dword} (h : s.MemWf) : (s.formStart m ident).MemWf :=
  State.wf_formedIf (wf_foldl h (fun _ _ ht => State.wf_postOn ht))

theorem lands_execDomformMessage {fold port peer peerFold m : Nat} {ident : Dword} {s : State} (h : s.MemWf) :
    Lands (execDomformMessage fold port peer peerFold m ident s) := by
  unfold execDomformMessage
  extract_lets _ _ _
  exact lands_next
    (wf_ite h
    (wf_ite (wf_ite (State.wf_formFails h) (State.wf_formedIf h)) (wf_ite h (wf_ite h (State.wf_logEvent h)))))

theorem lands_execDomformTimeout {s : State} (h : s.MemWf) : Lands (execDomformTimeout s) :=
  lands_next (wf_ite (State.wf_formFails h) h)

theorem State.wf_isolate {s : State} (h : s.MemWf) : s.isolate.MemWf := wf_foldl h (fun _ _ ht => ht)

theorem State.wf_loseModule {s : State} {m f : Nat} (h : s.MemWf) : (s.loseModule m f).MemWf := by
  unfold State.loseModule
  extract_lets _ _ _ _ _ s1 s2 s3 s4
  have h1 : s1.MemWf := wf_foldl h (fun _ _ ht => State.wf_foldStep ht)
  have h2 : s2.MemWf := State.wf_forget h1
  have h4 : s4.MemWf := h2
  exact wf_foldl (wf_foldl (wf_foldl h4 (fun _ _ ht => State.wf_leaveDie ht)) (fun _ _ ht => State.wf_regain ht))
    (fun _ _ ht => State.wf_acknowledge ht)

theorem State.wf_foldGone {s : State} {f : Nat} (h : s.MemWf) : (s.foldGone f).MemWf := h

theorem State.wf_foldFails {s : State} {f : Nat} (h : s.MemWf) : (s.foldFails f).MemWf := by
  unfold State.foldFails
  extract_lets d s1 s2 src s3 s4
  have h1 : s1.MemWf := wf_ite (State.wf_drainAll h) h
  have h2 : s2.MemWf := State.wf_foldGone h1
  clear_value s2
  have h3 : s3.MemWf := h2
  have h4 : s4.MemWf := wf_ite (State.wf_foldStep (wf_ite (State.wf_isolate h3) (State.wf_loseModule h3))) h3
  clear_value s4
  split
  · exact h
  split
  · exact wf_ite h h
  · exact State.wf_beginFailure h4

theorem lands_execFoldDieFailure {fold : Nat} {s : State} (h : s.MemWf) : Lands (execFoldDieFailure fold s) :=
  lands_next (State.wf_foldFails h)

theorem lands_execFoldBridgeTimeout {fold : Nat} {s : State} (h : s.MemWf) : Lands (execFoldBridgeTimeout fold s) :=
  lands_next (State.wf_foldFails h)

theorem lands_execFoldRebuildComplete {s : State} (h : s.MemWf) : Lands (execFoldRebuildComplete s) := by
  unfold execFoldRebuildComplete
  refine lands_next ?_
  split
  · exact h
  · exact wf_ite h (State.wf_rebuild h)

theorem lands_execFoldRehashSet {set : Nat} {s : State} (h : s.MemWf) : Lands (execFoldRehashSet set s) := by
  unfold execFoldRehashSet
  exact lands_next (wf_ite h (wf_ite (wf_ite (State.wf_thaw h) (State.wf_slotMoved (State.wf_thaw h))) h))

/-! ### Machine/Scalar -/

theorem wf_scalarBody {o : SOps} {f : Group → SRes} : (scalarBody o f).MemWf := wf_uniform
theorem wf_scBody {maj min : Nat} {o : SOps} : (scBody maj min o).MemWf := wf_scalarBody

theorem lands_execScalar {i : Instr} {maj min : Nat} {o : SOps} {s : State} (h : s.MemWf) :
    Lands (execScalar i maj min o s) :=
  lands_next (wf_runIssue (fun _ _ ht => State.wf_performReqs ht) wf_scBody h)

/-! ### Machine/Iter -/

theorem wf_laneDataBody {min : Nat} {o : VOps} : (laneDataBody min o).MemWf := by
  unfold laneDataBody
  exact Body.wf_ite wf_bcastBody (Body.wf_ite wf_extrBody wf_laneBody)

theorem wf_moveBody {min : Nat} {o : VOps} : (moveBody min o).MemWf :=
  Body.wf_ite wf_cvtBody
    (Body.wf_ite wf_vtagBody
    (Body.wf_ite (Body.wf_ite wf_findBody wf_applyBody) (Body.wf_ite wf_zpPackBody wf_zpExtrBody)))

theorem wf_crossBody {min : Nat} {o : VOps} : (crossBody min o).MemWf := by
  unfold crossBody
  exact Body.wf_ite wf_xlaneBody
    (Body.wf_ite wf_shufBody (Body.wf_ite wf_treeBody (Body.wf_ite wf_ballotBody wf_topkBody)))

theorem wf_statBody {min : Nat} {o : VOps} : (statBody min o).MemWf := by
  unfold statBody
  exact Body.wf_ite wf_rmaxBody
    (Body.wf_ite wf_normBody (Body.wf_ite wf_statAccBody (Body.wf_ite wf_statRdBody wf_statClrBody)))

theorem wf_itsetBody {o : VOps} : (itsetBody o).MemWf := wf_uniform
theorem wf_itrdBody {o : VOps} : (itrdBody o).MemWf := wf_perIssue

theorem wf_vecBody {maj min : Nat} {o : VOps} : (vecBody maj min o).MemWf := by
  unfold vecBody
  exact Body.wf_ite wf_intBody
    (Body.wf_ite wf_logicBody
    (Body.wf_ite wf_cmpBody
    (Body.wf_ite wf_laneDataBody
    (Body.wf_ite (Body.wf_ite wf_classBody wf_fltBody)
    (Body.wf_ite wf_fcmpBody
    (Body.wf_ite wf_sfuBody
    (Body.wf_ite wf_moveBody
    (Body.wf_ite wf_crossBody
    (Body.wf_ite wf_statBody (Body.wf_ite wf_fuseBody (Body.wf_ite wf_itsetBody wf_itrdBody)))))))))))

theorem wf_memBody {maj : Nat} {o : MOps} : (memBody maj o).MemWf := by
  unfold memBody
  split
  · exact wf_ldBody
  split
  · exact wf_stForm
  split
  · exact wf_scratchBody
  split
  · exact Body.wf_ite (wf_comparePoint wf_scratchBody) wf_scratchBody
  · refine fun _ _ h => ?_
    dsimp only
    split
    · exact (wf_comparePoint wf_scratchBody) _ _ h
    · exact wf_scratchBody _ _ h

theorem wf_atmBody {maj : Nat} {o : AOps} : (atmBody maj o).MemWf := by
  unfold atmBody
  exact Body.wf_ite (wf_comparesAfter wf_redBody) (wf_comparePoint wf_amoBody)

/-- The forms that a repeat may perform. -/
theorem wf_formBody {x : Form} : (formBody x).MemWf := by
  unfold formBody
  split
  · exact wf_scBody
  · exact wf_vecBody
  · exact wf_memBody
  · exact wf_atmBody
  · exact fun _ _ h => h

theorem wf_repRun {cnt str sel : Nat} {f : Form} {n : Nat} {s : State} (h : s.MemWf) :
    (repRun cnt str sel f n s).MemWf := by
  unfold repRun
  extract_lets _ _ _
  split
  · exact wf_runIssue (fun _ _ ht => State.wf_performReqs ht) wf_formBody h
  · exact h

theorem wf_repStop {cnt str sel recPc : Nat} {x : Trap} {s : State} (h : s.MemWf) :
    (repStop cnt str sel recPc x s).MemWf :=
  wf_runIssue (fun _ _ ht => State.wf_performReqs ht) (fun _ _ ht => ht) h

theorem wf_repStep {cnt str sel : Nat} {s : State} (h : s.MemWf) : (repStep cnt str sel s).MemWf := by
  unfold repStep
  extract_lets _
  split
  · exact wf_repStop (wf_fst ‹_› (State.wf_instrAt h))
  · exact wf_repStop (wf_fst ‹_› (State.wf_instrAt h))
  · next s1 _ _ e1 =>
      have h1 : s1.MemWf := wf_fst e1 (State.wf_instrAt h)
      split
      · exact wf_ite (wf_repRun h1) (wf_repStop h1)
      · exact wf_repStop h1

theorem wf_sweepBody {itn : Nat} {gd : Guard} {inner : Body} (hinner : inner.MemWf) :
    (sweepBody itn gd inner).MemWf := by
  intro iss s h
  unfold sweepBody
  extract_lets _ r
  have hr : r.s.MemWf := hinner _ _ h
  split
  · exact hr
  split
  · exact hr
  · exact State.wf_modGroup hr

theorem wf_sweepStep {itn : Nat} {inner : Instr} {s : State} (h : s.MemWf) : (sweepStep itn inner s).MemWf := by
  unfold sweepStep
  extract_lets _ _
  split
  · split
    · exact wf_runIssue (fun _ _ ht => State.wf_performReqs ht) (wf_sweepBody (Body.wf_ite wf_fuseWith wf_vecBody)) h
    · exact wf_runIssue (fun _ _ ht => State.wf_performReqs ht) (fun _ _ ht => ht) h
  · exact h

theorem lands_execRep {cnt str sel : Nat} {s : State} (h : s.MemWf) : Lands (execRep cnt str sel s) :=
  lands_next (State.wf_mirror (wf_repStep h))

theorem lands_execSweep {itn : Nat} {inner : Instr} {s : State} (h : s.MemWf) : Lands (execSweep itn inner s) :=
  lands_next (wf_sweepStep h)

/-! ### Machine/Events -/

theorem lands_execGroupSwap {core : Nat} {s : State} (h : s.MemWf) : Lands (execGroupSwap core s) := by
  unfold execGroupSwap
  refine lands_next ?_
  split <;> exact h

theorem lands_execForcedSwap {core : Nat} {s : State} (h : s.MemWf) : Lands (execForcedSwap core s) := by
  unfold execForcedSwap
  refine lands_next ?_
  split <;> exact h

theorem lands_execSwapEnd {core : Nat} {s : State} (h : s.MemWf) : Lands (execSwapEnd core s) := lands_next (wf_ite h h)
theorem State.wf_noteReady {s : State} (h : s.MemWf) : s.noteReady.MemWf := wf_ite h h
theorem State.wf_noteWaits {s : State} (h : s.MemWf) : s.noteWaits.MemWf := wf_ite h h

theorem lands_execSleepWake {core grp : Nat} {s : State} (h : s.MemWf) : Lands (execSleepWake core grp s) :=
  lands_next (State.wf_modGroupAt h)

theorem State.wf_endWait {s : State} {w : Wait} (h : s.MemWf) : (s.endWait w).MemWf := by
  unfold State.endWait
  extract_lets t s1 id fault
  have h1 : s1.MemWf := State.wf_modGroup h
  cases hf : fault with
  | none => exact State.wf_modGroup h1
  | some p =>
    obtain ⟨s2, r⟩ := p
    have h2 : s2.MemWf := by
      unfold fault at hf
      split at hf
      · exact State.wf_of_joinFault h1 hf
      · exact absurd hf (by simp)
    exact State.wf_takeTraps (State.wf_modGroup h2)

theorem lands_execSleeptoResume {core grp : Nat} {s : State} (h : s.MemWf) : Lands (execSleeptoResume core grp s) := by
  unfold execSleeptoResume
  refine lands_next ?_
  split
  · exact State.wf_endWait h
  · exact h

theorem lands_execLoadComplete {core grp : Nat} {s : State} (h : s.MemWf) : Lands (execLoadComplete core grp s) :=
  lands_next (State.wf_modGroupAt h)

theorem lands_execStorePerform {s : State} (h : s.MemWf) : Lands (execStorePerform s) :=
  lands_next (wf_ite (State.wf_performHead h) h)

theorem lands_execMscAtomicStep {s : State} (h : s.MemWf) : Lands (execMscAtomicStep s) :=
  lands_next (wf_ite h (State.wf_performHead h))

theorem lands_execGLineEvict {core line : Nat} {s : State} (h : s.MemWf) : Lands (execGLineEvict core line s) :=
  lands_next (wf_ite (State.wf_giveUp h) h)

theorem State.wf_tqReturn {s : State} {c grp : Nat} {w : Wait} {sd : Nat} {a b : Dword} (h : s.MemWf) :
    (s.tqReturn c grp w sd a b).MemWf :=
  State.wf_modKept h

theorem lands_execTqgetRearrive {core grp : Nat} {s : State} (h : s.MemWf) : Lands (execTqgetRearrive core grp s) := by
  unfold execTqgetRearrive
  refine lands_next ?_
  split
  · split
    · exact State.wf_tqReturn h
    · exact h
  · exact h

theorem lands_execTqgetDeadline {core grp : Nat} {s : State} (h : s.MemWf) : Lands (execTqgetDeadline core grp s) := by
  unfold execTqgetDeadline
  refine lands_next ?_
  split
  · exact wf_ite (State.wf_tqReturn h) h
  · exact h

theorem State.wf_issueNone {s : State} {i : Instr} {x : Trap} (h : s.MemWf) : (s.issueNone i x).MemWf :=
  wf_runIssue (fun _ _ ht => State.wf_performReqs ht) (fun _ _ ht => ht) h

theorem lands_execIllegalInstruction {sub : Nat} {s : State} (h : s.MemWf) : Lands (execIllegalInstruction sub s) :=
  lands_next (State.wf_issueNone h)

theorem lands_execCodeFetchFault {sub va : Nat} {s : State} (h : s.MemWf) : Lands (execCodeFetchFault sub va s) :=
  lands_next (State.wf_issueNone h)

/-! ### Machine/Errors -/

theorem State.wf_retireCore {s : State} {c : Nat} (h : s.MemWf) : (s.retireCore c).MemWf :=
  wf_ite h (wf_ite h (State.wf_logRetired h))

theorem State.wf_retireUnit {s : State} {u : HwUnit} (h : s.MemWf) : (s.retireUnit u).MemWf := by
  unfold State.retireUnit
  split
  · exact h
  · extract_lets s1 gone
    have h1 : s1.MemWf := h
    have hgone : ∀ (s : State), s.MemWf → (gone s).MemWf := fun _ ht => State.wf_logEvent ht
    split
    · exact wf_ite (State.wf_retireCore h1) h1
    split
    · exact wf_ite (hgone _ (State.wf_retireCore h1)) h1
    split
    · exact hgone _ (State.wf_retireChannel h1)
    split
    · exact State.wf_retireChannel h1
    · exact wf_ite (hgone _ (State.wf_retirePort h1)) (wf_ite (hgone _ (State.wf_foldFails h1)) h1)

theorem State.wf_corrected {s : State} {u : HwUnit} (h : s.MemWf) : (s.corrected u).MemWf :=
  wf_ite (State.wf_retireUnit (State.wf_logEvent (wf_ite h h))) (State.wf_logEvent (wf_ite h h))

theorem lands_execCorrectedError {unit : HwUnit} {s : State} (h : s.MemWf) : Lands (execCorrectedError unit s) :=
  lands_next (State.wf_corrected h)

theorem lands_execErrorWindowReset {s : State} (h : s.MemWf) : Lands (execErrorWindowReset s) := lands_next (wf_ite h h)

theorem lands_execScoreboardMismatch {core : Nat} {s : State} (h : s.MemWf) : Lands (execScoreboardMismatch core s) :=
  lands_next (wf_ite (State.wf_corrected h) h)

theorem lands_execFlitReceive {fold port vc seq : Nat} {crcOk : Bool} {s : State} (h : s.MemWf) :
    Lands (execFlitReceive fold port vc seq crcOk s) :=
  lands_next (wf_ite h (wf_ite h (wf_ite (State.wf_corrected h) h)))

theorem lands_execFlowGo {fold port : Nat} {sign : FlowSign} {s : State} (h : s.MemWf) :
    Lands (execFlowGo fold port sign s) := by
  unfold execFlowGo
  extract_lets _ _
  exact lands_next
    (wf_ite h (wf_ite (wf_ite (State.wf_corrected h) h) (wf_ite (wf_foldl h (fun _ _ ht => State.wf_sendAgain ht)) h)))

theorem State.wf_errorRead {s : State} {u : HwUnit} (h : s.MemWf) : (s.errorRead u).MemWf := by
  unfold State.errorRead
  split
  · extract_lets _ _ _ _
    split
    · split
      · exact State.wf_takeTraps (wf_fst ‹_› (State.wf_bufCheck h))
      · exact wf_fst ‹_› (State.wf_bufCheck h)
    · exact h
  · exact h

theorem State.wf_errorTraps {s : State} {sub : Nat} {u : HwUnit} (h : s.MemWf) : (s.errorTraps sub u).MemWf :=
  State.wf_takeTraps h

theorem State.wf_errorStore {s : State} {c grp : Nat} {u : HwUnit} (h : s.MemWf) : (s.errorStore c grp u).MemWf := by
  unfold State.errorStore
  split
  · exact State.wf_settleReq (State.wf_deferredFault h)
  · exact h

theorem State.wf_errorOp {s : State} {c : Nat} {t : Team} {u : HwUnit} (h : s.MemWf) : (s.errorOp c t u).MemWf := by
  unfold State.errorOp
  split
  · exact State.wf_badData h
  · exact h

theorem State.wf_uncorrectable {s : State} {c grp sub : Nat} {u : HwUnit} (h : s.MemWf) :
    (s.uncorrectable c grp sub u).MemWf := by
  unfold State.uncorrectable
  extract_lets s1
  have h1 : s1.MemWf := h
  split
  · split
    · split
      · exact State.wf_noteError h
      · exact h
    · exact h
  split
  · exact State.wf_errorRead h1
  split
  · exact State.wf_errorStore h
  · exact wf_ite (State.wf_errorOp h) (wf_ite (wf_ite (State.wf_rollTeam h) (State.wf_errorTraps h1)) h)

theorem lands_execUncorrectableError {core grp sub : Nat} {unit : HwUnit} {s : State} (h : s.MemWf) :
    Lands (execUncorrectableError core grp sub unit s) :=
  lands_next (wf_ite (State.wf_uncorrectable h) h)

theorem State.wf_performNow {s : State} {r : MemReq} (h : s.MemWf) : (s.performNow r).MemWf := State.wf_drainIf h

theorem State.wf_performHeld {s : State} {c : Nat} {x : HeldWrite} (h : s.MemWf) : (s.performHeld c x).MemWf := by
  unfold State.performHeld
  extract_lets _
  split
  · exact wf_foldl h (fun _ _ ht => ht)
  · exact wf_ite (State.wf_performNow h) (State.wf_performRed h)
  · exact State.wf_performNow h
  · exact State.wf_performNow h

theorem State.wf_finishPoint {s : State} {c g : Nat} (h : s.MemWf) : (s.finishPoint c g).MemWf := by
  unfold State.finishPoint
  split
  · exact State.wf_opOver h
  · exact h

theorem State.wf_compare {s : State} {c : Nat} (h : s.MemWf) : (s.compare c).MemWf := by
  unfold State.compare
  split
  · exact h
  split
  · extract_lets s1 s2
    have h1 : s1.MemWf := State.wf_finishPoint (wf_foldl h (fun _ _ ht => State.wf_performHeld ht))
    have h2 : s2.MemWf := State.wf_finishPoint h1
    exact State.wf_modTeamAt (State.wf_modTeamAt h2)
  · exact wf_ite (State.wf_endGrid (State.wf_terminal h)) (State.wf_logEvent (State.wf_rollCopies h))

theorem lands_execSignatureCompare {core : Nat} {s : State} (h : s.MemWf) : Lands (execSignatureCompare core s) :=
  lands_next (State.wf_compare h)

/-! ### Machine/Management -/

theorem State.wf_invalidateContexts {s : State} (h : s.MemWf) : s.invalidateContexts.MemWf :=
  wf_ite h (wf_foldl h (fun _ _ ht => State.wf_physWrite _ _ _ ht))

theorem lands_execModuleReset {s : State} (h : s.MemWf) : Lands (execModuleReset s) :=
  lands_next (State.wf_invalidateContexts h)

theorem State.wf_toRecovery {s : State} (h : s.MemWf) : s.toRecovery.MemWf := h

theorem State.wf_trainPorts {s : State} (h : s.MemWf) : s.trainPorts.MemWf :=
  wf_foldl h (fun _ _ ht => wf_ite ht (State.wf_portFails ht))

theorem State.wf_bootTables {s : State} (h : s.MemWf) : s.bootTables.MemWf := by
  have h1 : s.trainChannels.trainPorts.MemWf := State.wf_trainPorts (State.wf_trainChannels h)
  unfold State.bootTables
  generalize s.trainChannels.trainPorts = t at h1 ⊢
  exact State.wf_placeEntry0 h1

theorem lands_execBootStageVerify {version : Nat} {sig : Signature} {image : Nat} {s : State} (h : s.MemWf) :
    Lands (execBootStageVerify version sig image s) :=
  lands_next (wf_ite h (wf_ite h (wf_ite (State.wf_bootTables h) h)))

theorem State.wf_answer {s : State} {code : Nat} {reply : List Nat} (h : s.MemWf) : (s.answer code reply).MemWf := h

theorem State.wf_partset {s : State} {n : Nat} {w : Dword} (h : s.MemWf) : (s.partset n w).MemWf :=
  wf_ite h (wf_ite h h)

theorem State.wf_modnum {s : State} {n : Nat} (h : s.MemWf) : (s.modnum n).MemWf :=
  wf_ite h (State.wf_answer (wf_foldl (State.wf_drainAll h) (fun _ _ ht => State.wf_dropLine ht)))

theorem State.wf_mgmtSet {s : State} {n k : Nat} {w : Dword} (h : s.MemWf) : (s.mgmtSet n k w).MemWf :=
  wf_ite h (State.wf_answer (State.wf_setWord h))

theorem State.wf_enroll {s : State} {key : Nat} {signedByOld fromServer : Bool} (h : s.MemWf) :
    (s.enroll key signedByOld fromServer).MemWf :=
  wf_ite (wf_ite h h) (wf_ite h h)

theorem State.wf_domform {s : State} {m : Nat} {ident : Dword} (h : s.MemWf) : (s.domform m ident).MemWf :=
  wf_ite h (wf_ite h (wf_ite h (State.wf_formStart h)))

theorem State.wf_command {s : State} {x : MgmtCmd} (h : s.MemWf) : (s.command x).MemWf := by
  unfold State.command
  split
  · exact h
  · exact h
  · exact State.wf_enroll h
  · exact wf_ite h (State.wf_partset h)
  · exact wf_ite h (State.wf_modnum h)
  · exact wf_ite h (wf_ite h (wf_ite h h))
  · exact wf_ite h (State.wf_mgmtSet h)
  · exact wf_ite h h
  · exact wf_ite h h
  · exact wf_ite h (State.wf_domform h)

theorem State.wf_arrives {s : State} {i : MgmtCmd} (h : s.MemWf) : (s.arrives i).MemWf :=
  wf_ite (State.wf_command h) (wf_ite h h)

theorem State.wf_nextCommand {s : State} (h : s.MemWf) : s.nextCommand.MemWf := by
  unfold State.nextCommand
  split
  · exact wf_ite (State.wf_command h) h
  · exact h

theorem lands_execMgmtStatus {s : State} (h : s.MemWf) : Lands (execMgmtStatus s) := lands_next (State.wf_arrives h)

theorem lands_execMgmtUpdate {stage image : Nat} {s : State} (h : s.MemWf) : Lands (execMgmtUpdate stage image s) :=
  lands_next (State.wf_arrives h)

theorem lands_execMgmtPartset {n : Nat} {w : Dword} {s : State} (h : s.MemWf) : Lands (execMgmtPartset n w s) :=
  lands_next (State.wf_arrives h)

theorem lands_execMgmtModnum {n : Nat} {s : State} (h : s.MemWf) : Lands (execMgmtModnum n s) :=
  lands_next (State.wf_arrives h)

theorem lands_execMgmtErrthr {n : Nat} {s : State} (h : s.MemWf) : Lands (execMgmtErrthr n s) :=
  lands_next (State.wf_arrives h)

theorem lands_execMgmtChset {n k : Nat} {w : Dword} {s : State} (h : s.MemWf) : Lands (execMgmtChset n k w s) :=
  lands_next (State.wf_arrives h)

theorem lands_execMgmtAttest {nonce : BitVec 256} {s : State} (h : s.MemWf) : Lands (execMgmtAttest nonce s) :=
  lands_next (State.wf_arrives h)

theorem lands_execMgmtResync {s : State} (h : s.MemWf) : Lands (execMgmtResync s) := lands_next (State.wf_arrives h)

theorem lands_execMgmtEnroll {key : Nat} {signedByOld fromServer : Bool} {s : State} (h : s.MemWf) :
    Lands (execMgmtEnroll key signedByOld fromServer s) :=
  lands_next (State.wf_arrives h)

theorem lands_execMgmtDomform {m : Nat} {ident : Dword} {s : State} (h : s.MemWf) : Lands (execMgmtDomform m ident s) :=
  lands_next (State.wf_arrives h)

theorem lands_execOutletTempHigh {s : State} (h : s.MemWf) : Lands (execOutletTempHigh s) := lands_next h
theorem lands_execOutletTempFall {s : State} (h : s.MemWf) : Lands (execOutletTempFall s) := lands_next h

/-! ### Machine/Spaces -/

/-- A store to a control space is at most one step of the hardware. -/
theorem State.lands_spaceStore {s : State} {poster sp off n v : Nat} (h : s.MemWf) :
    Lands (s.spaceStore poster sp off n v) := by
  unfold State.spaceStore
  extract_lets _ _ _ _ _
  split
  · split
    · exact lands_execLaunchPortPost h
    split
    · exact lands_execLctlPreempt h
    split
    · exact lands_execLctlKill h
    split
    · exact lands_execSapoolWrite h
    · exact lands_next h
  split
  · split
    · exact lands_execFqResolve h
    split
    · exact lands_next h
    · exact lands_execRegisterWrite h
  split
  · exact lands_execRegisterWrite h
  split
  · split
    · exact lands_execDoorbell h
    · exact lands_next h
  split
  · exact lands_execRegisterWrite h
  split
  · exact lands_execRegisterWrite h
  split
  · exact lands_execRegisterWrite h
  split
  · exact lands_execRegisterWrite h
  · exact lands_next h

theorem State.lands_regArrives {s : State} (h : s.MemWf) : Lands s.regArrives := by
  unfold State.regArrives
  split
  · exact lands_next h
  · extract_lets s1
    have h1 : s1.MemWf := h
    split
    · exact State.lands_spaceStore h1
    · exact lands_next h1

theorem State.wf_regsArrive {n : Nat} {s : State} (h : s.MemWf) : (State.regsArrive n s).MemWf := by
  induction n generalizing s with
  | zero => exact h
  | succ n ih =>
    unfold State.regsArrive
    split
    · exact h
    split
    · exact ih (State.lands_regArrives h _ ‹_›)
    · exact h

theorem State.wf_settleGrids {s : State} (h : s.MemWf) : s.settleGrids.MemWf := by
  unfold State.settleGrids
  extract_lets _ _ s1 s2
  have h1 : s1.MemWf := wf_foldl h (fun _ _ ht => wf_foldl ht (fun _ _ hu => hu))
  have h2 : s2.MemWf := State.wf_drainIf h1
  exact State.wf_regsArrive h2

theorem State.wf_killGrids {s : State} (h : s.MemWf) : s.killGrids.MemWf := wf_foldl h (fun _ _ ht => ht)

theorem lands_execOutletTempCritical {s : State} (h : s.MemWf) : Lands (execOutletTempCritical s) := by
  unfold execOutletTempCritical
  extract_lets s1 s2 s3
  have h1 : s1.MemWf := State.wf_killGrids (State.wf_settleGrids (State.wf_killGrids h))
  have h2 : s2.MemWf := wf_foldl h1 (fun _ _ ht => State.wf_finishGrid ht)
  have h3 : s3.MemWf := State.wf_toRecovery (State.wf_regsArrive h2)
  clear_value s1 s2 s3
  exact lands_next h3

/-! ### Machine/Dispatch -/

/-- Every instruction and every step of the hardware keeps the canonical form: one case for each. -/
theorem lands_exec {i : Instr} {s : State} (h : s.MemWf) : Lands (exec i s) := by
  cases i with
  | sadd _ | ssub _ | smul _ | smulh _ | sdiv _ | srem _ | smin _ | smax _ | sand _ | sor _ | sxor _ | sandn _
  | sshl _ | sshr _ | ssra _ | srol _ | smov _ | sli _ | sclz _ | spop _ | sbfx _ | sbfi _ | ssel _ | scmp _ _ =>
    exact lands_execScalar h
  | jmp _ | brz _ | brnz _ | brLt _ | brLe _ | brGt _ | brGe _ => exact lands_execWord (fun _ _ ht => ht) h
  | call _ => exact lands_execWord wf_callBody h
  | brmAny _ | brmAll _ | brmNone _ => exact lands_execWord (fun _ _ ht => ht) h
  | jmpr _ | callr _ | ret _ => exact lands_execWord wf_jumpBody h
  | exit _ => exact lands_execWord wf_exitBody h
  | yield _ => exact lands_execWord wf_yieldBody h
  | sleep _ => exact lands_execWord wf_sleepBody h
  | nop _ => exact lands_execWord (fun _ _ ht => ht) h
  | elect _ => exact lands_execWord wf_electBody h
  | sleepto _ => exact lands_execWord wf_sleeptoBody h
  | trap _ => exact lands_execWord (fun _ _ ht => ht) h
  | tret _ => exact lands_execWord (wf_tretBody (fun _ _ _ ht => wf_tretGo ht)) h
  | tretSkip _ => exact lands_execWord (wf_tretBody (fun _ _ _ ht => wf_skipGo ht)) h
  | tretPass _ => exact lands_execWord wf_tretPassBody h
  | rdsr _ | rdsrC _ => exact lands_execWord wf_rdsrBody h
  | rdclk _ => exact lands_execWord (fun _ _ ht => wf_perIssue _ _ ht) h
  | vaddI32 _ | vsubI32 _ | vmulI32 _ | vmulhI32 _ | vmadI32 _ | vminI32 _ | vmaxI32 _ | vabsI32 _ | vaddN32 _
  | vsubN32 _ | vmulN32 _ | vmulhN32 _ | vmadN32 _ | vminN32 _ | vmaxN32 _ => exact lands_execWord wf_intBody h
  | vand _ | vor _ | vxor _ | vshl _ | vshr _ | vsra _ | vsel _ | vmov _ => exact lands_execWord wf_logicBody h
  | vcmpI32 _ _ | vcmpN32 _ _ => exact lands_execWord wf_cmpBody h
  | vbcast _ => exact lands_execWord wf_bcastBody h
  | vextr _ => exact lands_execWord wf_extrBody h
  | vlane _ => exact lands_execWord wf_laneBody h
  | vfaddF32 _ | vfsubF32 _ | vfmulF32 _ | vfmaF32 _ | vfminF32 _ | vfmaxF32 _ | vfsgnF32 _ =>
    exact lands_execWord wf_fltBody h
  | vfclassF32 _ => exact lands_execWord wf_classBody h
  | vfaddBf16 _ | vfsubBf16 _ | vfmulBf16 _ | vfmaBf16 _ | vfminBf16 _ | vfmaxBf16 _ | vfsgnBf16 _ =>
    exact lands_execWord wf_fltBody h
  | vfclassBf16 _ => exact lands_execWord wf_classBody h
  | vfaddF16 _ | vfsubF16 _ | vfmulF16 _ | vfmaF16 _ | vfminF16 _ | vfmaxF16 _ | vfsgnF16 _ =>
    exact lands_execWord wf_fltBody h
  | vfclassF16 _ => exact lands_execWord wf_classBody h
  | vfcmp _ _ => exact lands_execWord wf_fcmpBody h
  | vexp _ | vexp2 _ | vlog2 _ | vrcp _ | vrsqrt _ | vsqrt _ | vsin _ | vcos _ | vtanh _ | vsigm _ | vgelu _ =>
    exact lands_execWord wf_sfuBody h
  | vcvt _ => exact lands_execWord wf_cvtBody h
  | vtag _ => exact lands_execWord wf_vtagBody h
  | vscaleApply _ => exact lands_execWord wf_applyBody h
  | vscaleFind _ => exact lands_execWord wf_findBody h
  | vzpPack _ => exact lands_execWord wf_zpPackBody h
  | vzpExtr _ => exact lands_execWord wf_zpExtrBody h
  | vxlaneDn _ | vxlaneUp _ | vxlaneBfly _ => exact lands_execWord wf_xlaneBody h
  | vshuf _ => exact lands_execWord wf_shufBody h
  | vred _ | vscan _ => exact lands_execWord wf_treeBody h
  | vballot _ => exact lands_execWord wf_ballotBody h
  | vtopk _ => exact lands_execWord wf_topkBody h
  | vstatAcc _ => exact lands_execWord wf_statAccBody h
  | vstatRd _ => exact lands_execWord wf_statRdBody h
  | vstatClr _ => exact lands_execWord wf_statClrBody h
  | vrmax _ => exact lands_execWord wf_rmaxBody h
  | vnorm _ => exact lands_execWord wf_normBody h
  | vfuse _ => exact lands_execWord wf_fuseBody h
  | itset _ => exact lands_execWord wf_itsetBody h
  | itrd _ => exact lands_execWord wf_itrdBody h
  | sweep _ _ => exact lands_execSweep h
  | ld _ => exact lands_execWord wf_ldBody h
  | st _ => exact lands_execSt h
  | sld _ => exact lands_execWord wf_scratchBody h
  | sst _ => exact lands_execSst h
  | ldx _ => exact lands_execLdx h
  | stx _ => exact lands_execStx h
  | amo _ | cas _ => exact lands_execCompared wf_amoBody h
  | red _ => exact lands_execWord (wf_comparesAfter wf_redBody) h
  | fence _ => exact lands_execFence h
  | barinit _ => exact lands_execWord wf_barinitBody h
  | bararr _ => exact lands_execArrival wf_bararrBody h
  | barwait _ => exact lands_execWord wf_barwaitBody h
  | baraw _ => exact lands_execArrival wf_barawBody h
  | barq _ => exact lands_execWord wf_barqBody h
  | tqdef _ => exact lands_execCompared wf_tqdefBody h
  | tqdone _ => exact lands_execCompared wf_tqdoneBody h
  | tqget _ => exact lands_execCompared wf_tqgetBody h
  | rngget _ => exact lands_execCompared wf_rnggetBody h
  | glaunch _ => exact lands_execCompared wf_glaunchBody h
  | cpy _ => exact lands_execCpy h
  | cpyt _ => exact lands_execCpyt h
  | cpym _ => exact lands_execCpym h
  | gath _ => exact lands_execGath h
  | scat _ => exact lands_execScat h
  | cpyst _ => exact lands_execWord wf_cpystBody h
  | mxzero _ => exact lands_execAtOnce (fun _ _ ht => wf_finishIdle ht) (wf_engineBody (fun _ _ ht => ht)) h
  | mxmul _ | mxmulSp _ | mxpair _ | mxpairSp _ | mxrd _ | mxwr _ =>
    exact lands_execWord (wf_engineBody (fun _ _ ht => ht)) h
  | mxbeta _ => exact lands_execAtOnce (fun _ _ ht => wf_finishIdle ht) (wf_engineBody (fun _ _ ht => ht)) h
  | mxdelta _ | mxsolve _ => exact lands_execWord (wf_engineBody (fun _ _ ht => ht)) h
  | pwinit _ => exact lands_execWord wf_pwinitBody h
  | pwjoin _ | pwleave _ => exact lands_execWord wf_changeBody h
  | pwrun _ | pwrunResume _ => exact lands_execWord wf_pwrunBody h
  | pwwait _ => exact lands_execWord wf_pwwaitBody h
  | pwstat _ => exact lands_execWord wf_pwstatBody h
  | btmap _ => exact lands_execBtmap h
  | btinv _ => exact lands_execBtinv h
  | btcow _ => exact lands_execBtcow h
  | kvput _ => exact lands_execKvput h
  | massdec _ => exact lands_execMassdec h
  | massmin _ => exact lands_execMassmin h
  | mfpr _ => exact lands_execWord wf_mfprBody h
  | mtpr _ => exact lands_execWord wf_mtprBody h
  | eret _ => exact lands_execWord wf_endBody h
  | tlbinv _ => exact lands_execWord wf_tlbinvBody h
  | bufinv _ => exact lands_execWord wf_bufinvBody h
  | cachefl _ => exact lands_execWord wf_cacheflBody h
  | ctxsave _ => exact lands_execWord wf_ctxsaveBody h
  | ctxload _ => exact lands_execWord wf_ctxloadBody h
  | halt _ => exact lands_execWord wf_endBody h
  | signal _ => exact lands_execWord wf_signalBody h
  | rep _ _ _ => exact lands_execRep h
  | groupSwap _ => exact lands_execGroupSwap h
  | forcedSwap _ => exact lands_execForcedSwap h
  | swapEnd _ => exact lands_execSwapEnd h
  | sleepWake _ _ => exact lands_execSleepWake h
  | sleeptoResume _ _ => exact lands_execSleeptoResume h
  | loadComplete _ _ => exact lands_execLoadComplete h
  | storePerform => exact lands_execStorePerform h
  | mscAtomicStep => exact lands_execMscAtomicStep h
  | gLineEvict _ _ => exact lands_execGLineEvict h
  | tqgetRearrive _ _ => exact lands_execTqgetRearrive h
  | tqgetDeadline _ _ => exact lands_execTqgetDeadline h
  | illegalInstruction _ => exact lands_execIllegalInstruction h
  | codeFetchFault _ _ => exact lands_execCodeFetchFault h
  | engineOpStart _ _ => exact lands_execEngineOpStart h
  | engineOpComplete _ _ => exact lands_execEngineOpComplete h
  | engineOpFault _ _ _ _ _ => exact lands_execEngineOpFault h
  | copyLateExpiry _ _ => exact lands_execCopyLateExpiry h
  | walkNode _ => exact lands_execWalkNode h
  | pageWalk _ _ _ => exact lands_execPageWalk h
  | faultQueuePost _ => exact lands_execFaultQueuePost h
  | serviceFaultPost _ => exact lands_execServiceFaultPost h
  | serviceEntryPreempt _ => exact lands_execServiceEntryPreempt h
  | serviceEntryRestore _ => exact lands_execServiceEntryRestore h
  | serviceEntryRequest _ => exact lands_execServiceEntryRequest h
  | preemptGang _ => exact lands_execPreemptGang h
  | gangResume _ => exact lands_execGangResume h
  | admissionStep => exact lands_execAdmissionStep h
  | gridEnd _ => exact lands_execGridEnd h
  | scoreboardMismatch _ => exact lands_execScoreboardMismatch h
  | signatureCompare _ => exact lands_execSignatureCompare h
  | recallComplete _ _ => exact lands_execRecallComplete h
  | requestRetry _ => exact lands_execRequestRetry h
  | wayReservationExpire _ _ => exact lands_execWayReservationExpire h
  | dieInvalidate _ _ => exact lands_execDieInvalidate h
  | ownerForward _ _ _ => exact lands_execOwnerForward h
  | writeback _ _ => exact lands_execWriteback h
  | dieDirectoryReport _ _ _ => exact lands_execDieDirectoryReport h
  | acknowledgement _ => exact lands_execAcknowledgement h
  | messageResend _ => exact lands_execMessageResend h
  | foldBridgeTimeout _ => exact lands_execFoldBridgeTimeout h
  | foldRehashSet _ => exact lands_execFoldRehashSet h
  | restripeGranule _ => exact lands_execRestripeGranule h
  | bankRefreshDue _ _ _ => exact lands_execBankRefreshDue h
  | allBankRefreshDone _ _ => exact lands_execAllBankRefreshDone h
  | fqResolve _ => exact lands_execFqResolve h
  | doorbell _ _ _ => exact lands_execDoorbell h
  | launchPortPost _ _ _ => exact lands_execLaunchPortPost h
  | lctlPreempt _ _ => exact lands_execLctlPreempt h
  | lctlKill _ _ => exact lands_execLctlKill h
  | sapoolWrite _ => exact lands_execSapoolWrite h
  | chsetEnable _ => exact lands_execChsetEnable h
  | chsetDisable _ => exact lands_execChsetDisable h
  | registerWrite _ _ => exact lands_execRegisterWrite h
  | shepherdFullBarrier _ => exact lands_execShepherdFullBarrier h
  | uncorrectableError _ _ _ _ => exact lands_execUncorrectableError h
  | correctedError _ => exact lands_execCorrectedError h
  | errorWindowReset => exact lands_execErrorWindowReset h
  | dirRead _ _ => exact lands_execDirRead h
  | dirWrite _ _ => exact lands_execDirWrite h
  | dirRed _ _ => exact lands_execDirRed h
  | flitReceive _ _ _ _ _ => exact lands_execFlitReceive h
  | flowStop _ _ _ => exact lands_execFlowStop h
  | flowGo _ _ _ => exact lands_execFlowGo h
  | linkTrain _ _ _ _ => exact lands_execLinkTrain h
  | domformMessage _ _ _ _ _ _ => exact lands_execDomformMessage h
  | domformTimeout => exact lands_execDomformTimeout h
  | foldDieFailure _ => exact lands_execFoldDieFailure h
  | foldRebuildComplete => exact lands_execFoldRebuildComplete h
  | moduleReset => exact lands_execModuleReset h
  | bootStageVerify _ _ _ => exact lands_execBootStageVerify h
  | mgmtStatus => exact lands_execMgmtStatus h
  | mgmtUpdate _ _ => exact lands_execMgmtUpdate h
  | mgmtPartset _ _ => exact lands_execMgmtPartset h
  | mgmtModnum _ => exact lands_execMgmtModnum h
  | mgmtErrthr _ => exact lands_execMgmtErrthr h
  | mgmtChset _ _ _ => exact lands_execMgmtChset h
  | mgmtAttest _ => exact lands_execMgmtAttest h
  | mgmtResync => exact lands_execMgmtResync h
  | mgmtEnroll _ _ _ => exact lands_execMgmtEnroll h
  | mgmtDomform _ _ => exact lands_execMgmtDomform h
  | outletTempHigh => exact lands_execOutletTempHigh h
  | outletTempCritical => exact lands_execOutletTempCritical h
  | outletTempFall => exact lands_execOutletTempFall h

/-! ### Machine/Schedule -/

theorem State.wf_noteIssue {s was : State} {c g : Nat} (h : s.MemWf) : (s.noteIssue was c g).MemWf := by
  unfold State.noteIssue
  extract_lets s1 s2
  have h2 : s2.MemWf := h
  split
  · split
    · exact h2
    split
    · exact h
    split
    · exact h
    · exact h
    · exact h2
  · exact h2

/-- An issue performs an instruction, or what stands for one that cannot be had. -/
theorem State.lands_issueStep {s : State} {c g : Nat} (h : s.MemWf) : Lands (s.issueStep c g) := by
  unfold State.issueStep
  split
  · exact lands_fault
  · extract_lets s1
    have h1 : s1.MemWf := h
    split
    · exact lands_exec (State.wf_fetchReach (wf_fst ‹_› (State.wf_instrAt h1)))
    · next s2 _ _ e2 =>
        have h2 : s2.MemWf := wf_fst e2 (State.wf_instrAt h1)
        extract_lets s3
        have h3 : s3.MemWf := State.wf_fetchReach h2
        split
        · split
          · exact lands_next (wf_repStop h3)
          · exact lands_exec h3
        · exact lands_exec h3
    · exact lands_exec (wf_fst ‹_› (State.wf_instrAt h1))

theorem lands_thenOn {f : State → State} {x : Host.Outcome State Fault Refusal} (hf : ∀ t, t.MemWf → (f t).MemWf)
    (hx : Lands x) : Lands (thenOn f x) := by
  unfold thenOn
  split
  · exact lands_next (hf _ (hx _ rfl))
  · exact hx

/-- The action of a step. -/
theorem State.lands_act {s : State} {x : Action} (h : s.MemWf) : Lands (s.act x) := by
  unfold State.act
  split
  · exact lands_thenOn (fun _ ht => State.wf_noteIssue ht) (State.lands_issueStep h)
  · exact lands_exec h
  · extract_lets s1
    have h1 : s1.MemWf := h
    split
    · exact lands_exec h1
    · exact lands_next h1
  · exact lands_execFlowGo h
  · exact lands_execDomformTimeout h
  · exact lands_execErrorWindowReset h
  · exact lands_execFoldRebuildComplete h
  · exact State.lands_regArrives h
  · exact lands_next (State.wf_nextCommand h)
  · exact lands_next h

theorem State.wf_flushRegs {n : Nat} {s : State} (h : s.MemWf) : (State.flushRegs n s).MemWf := by
  induction n generalizing s with
  | zero => exact h
  | succ n ih =>
    unfold State.flushRegs
    split
    · split
      · exact ih (State.lands_regArrives h _ ‹_›)
      · exact h
    · exact h

/-- What every step does besides its action. -/
theorem State.wf_after {least : Nat} {s : State} (h : s.MemWf) : (State.after least s).MemWf := by
  unfold State.after
  extract_lets s1 s2
  have h1 : s1.MemWf := State.wf_noteBumps (State.wf_noteEnded (State.wf_flushRegs h))
  have h2 : s2.MemWf := h1
  exact State.wf_noteWaits (State.wf_noteReady h2)

/-! ### Machine/Step -/

theorem lands_step {s : State} (h : s.MemWf) : Lands (step s) :=
  lands_thenOn (fun _ ht => State.wf_after ht) (State.lands_act h)

/-- Settles O59: the action of a step keeps the canonical form (`State.lands_act`), and so does the passing of time
(`State.wf_after`). -/
theorem memoryStaysCanonical : Obligations.MemoryStaysCanonical :=
  fun _ _ h e => lands_step h _ e

end Sys2Proof.Machine
end

section
/-! PROOFS. Nothing stops the machine (O58): every arm of `exec` answers a next state, and the only action that can stop a step
is the issue of a core that is not on the module, which no state offers whose cores all are. -/
namespace Sys2Proof.Machine
open Sys2Proof

/-! ## Outcomes -/

/-- An outcome is a next state: no fault of the machine and no refusal. -/
abbrev Continues (o : Host.Outcome State Fault Refusal) : Prop := ∃ t, o = .next t

theorem continues_next (s : State) : Continues (.next s) := ⟨s, rfl⟩

theorem continues_ite {c : Prop} [Decidable c] {a b : Host.Outcome State Fault Refusal} (ha : Continues a) (hb : Continues b) :
    Continues (if c then a else b) := by
  split
  · exact ha
  · exact hb

theorem continues_thenOn {o : Host.Outcome State Fault Refusal} (f : State → State) (h : Continues o) : Continues (thenOn f o) := by
  obtain ⟨t, rfl⟩ := h
  exact continues_next (f t)

/-! ## Instructions and steps of the hardware (R19, R30)

A body answers an effect for its threads and never an outcome, so an issue answers a next state whatever its body does. -/

theorem continues_execWord (i : Instr) (body : Body) (s : State) : Continues (execWord i body s) := continues_next _

theorem continues_execCompared (i : Instr) (body : Body) (s : State) : Continues (execCompared i body s) := continues_next _

theorem continues_execArrival (i : Instr) (b : Nat) (body : Body) (s : State) : Continues (execArrival i b body s) := by
  obtain ⟨t, ht⟩ : Continues (if b < 16 then execWord i body s else execCompared i body s) :=
    continues_ite (continues_execWord i body s) (continues_execCompared i body s)
  unfold execArrival
  rw [ht]
  exact continues_next _

theorem continues_execFqResolve (w : Dword) (s : State) : Continues (execFqResolve w s) :=
  continues_ite (continues_next _) (continues_ite (continues_next _) (continues_next _))

theorem continues_execLaunchPortPost (port poster : Nat) (store : PortStore) (s : State) :
    Continues (execLaunchPortPost port poster store s) :=
  continues_ite (continues_next _) (continues_next _)

/-- The arms named choose between outcomes: how to issue, or whether a word to the device counts. Each other arm is `.next` of
one state, whatever its instruction finds there. -/
theorem continues_exec (i : Instr) (s : State) : Continues (exec i s) := by
  cases i with
  | st | sst | ldx | stx | fence =>
    exact continues_ite (continues_execCompared _ _ s) (continues_execWord _ _ s)
  | bararr | baraw => exact continues_execArrival _ _ _ s
  | fqResolve w => exact continues_execFqResolve w s
  | launchPortPost port poster store => exact continues_execLaunchPortPost port poster store s
  | _ => exact continues_next _

/-! ## Stores to control spaces -/

/-- A store to a control space is one step of the hardware, or changes nothing. -/
theorem State.continues_spaceStore (s : State) (poster sp off n v : Nat) : Continues (s.spaceStore poster sp off n v) := by
  unfold State.spaceStore
  extract_lets o8 old sh c w
  have reg (r : HwReg) : Continues (execRegisterWrite r w s) := continues_next _
  split
  · exact continues_ite (continues_execLaunchPortPost _ _ _ s)
      (continues_ite (continues_next _) (continues_ite (continues_next _) (continues_ite (continues_next _) (continues_next s))))
  split
  · exact continues_ite (continues_execFqResolve w s) (continues_ite (continues_next s) (reg _))
  split
  · exact reg _
  split
  · exact continues_ite (continues_next _) (continues_next s)
  · exact continues_ite (reg _) (continues_ite (reg _) (continues_ite (reg _) (continues_ite (reg _) (continues_next s))))

theorem State.continues_regArrives (s : State) : Continues s.regArrives := by
  unfold State.regArrives
  split
  · exact continues_next s
  · extract_lets t
    split
    · exact State.continues_spaceStore t _ _ _ _ _
    · exact continues_next t

/-! ## One action -/

/-- The issue of a core on the module performs an instruction, or stops its threads where there is none. -/
theorem State.continues_issueStep {c : Nat} (hc : c < numCores) (s : State) (g : Nat) : Continues (s.issueStep c g) := by
  unfold State.issueStep
  rw [if_neg (Nat.not_le.mpr hc)]
  extract_lets t
  split
  · exact continues_exec _ _
  · extract_lets u
    split
    · exact continues_ite (continues_next _) (continues_exec _ u)
    · exact continues_exec _ u
  · exact continues_exec _ _

/-- An action is no issue but that of a core on the module. -/
def Action.OnModule (a : Action) : Prop := ∀ c g, a = .issue c g → c < numCores

theorem State.continues_act (s : State) {a : Action} (h : a.OnModule) : Continues (s.act a) := by
  cases a with
  | issue c g => exact continues_thenOn _ (State.continues_issueStep (h c g rfl) s g)
  | hw i => exact continues_exec i s
  | input i => exact continues_ite (continues_exec i _) (continues_next _)
  | regArrives => exact s.continues_regArrives
  | goes | formLate | windowOver | rebuilt | nextCommand | pass => exact continues_next _

/-! ## Issues among the enabled actions

Of the lists that `State.actions` joins, that of the cores' issues alone holds issues; every other list is made of steps of the
hardware. -/

theorem issue_mem_offer {c g : Nat} {p : Bool} {a : Action} : .issue c g ∈ offer p a ↔ p = true ∧ .issue c g = a := by
  cases p <;> simp [offer]

theorem State.issue_not_mem_tqDue (s : State) (d : Nat) (t : Team) (c g : Nat) : .issue c g ∉ s.tqDue d t := by
  unfold State.tqDue
  split
  · split <;> simp
  · simp

theorem State.issue_not_mem_coreDue (s : State) (d : Nat) (x : Core) (c g : Nat) : .issue c g ∉ s.coreDue d x := by
  unfold State.coreDue
  split
  · split <;> simp [issue_mem_offer, State.issue_not_mem_tqDue]
  · simp [issue_mem_offer]

theorem State.issue_not_mem_dueActions (s : State) (c g : Nat) : .issue c g ∉ s.dueActions := by
  simp [State.dueActions, issue_mem_offer, State.issue_not_mem_coreDue]

theorem State.issue_not_mem_teamActions (s : State) (d : Nat) (t : Team) (c g : Nat) : .issue c g ∉ s.teamActions d t := by
  simp [State.teamActions, State.opActions, issue_mem_offer]

theorem State.issue_not_mem_coreActions (s : State) (d : Nat) (x : Core) (c g : Nat) : .issue c g ∉ s.coreActions d x := by
  unfold State.coreActions
  split
  · split <;> simp [issue_mem_offer, State.issue_not_mem_teamActions]
  · simp [issue_mem_offer]

theorem State.issue_not_mem_gridActions (s : State) (c g : Nat) : .issue c g ∉ s.gridActions := by
  simp [State.gridActions, issue_mem_offer]

theorem State.issue_not_mem_cohActions (s : State) (c g : Nat) : .issue c g ∉ s.cohActions := by
  simp [State.cohActions, ite_eq_iff]

theorem State.issue_not_mem_foldActions (s : State) (c g : Nat) : .issue c g ∉ s.foldActions := by
  unfold State.foldActions
  split
  · simp
  · split <;> simp [issue_mem_offer]

theorem State.issue_not_mem_memActions (s : State) (c g : Nat) : .issue c g ∉ s.memActions := by
  unfold State.memActions
  split
  · simp [issue_mem_offer]
  · split <;> simp [issue_mem_offer]

theorem State.issue_mem_issueActions {s : State} {d c g : Nat} {x : Core} (h : .issue c g ∈ s.issueActions d x) : c = d := by
  simp only [State.issueActions, Option.mem_toList, Option.map_eq_some_iff, Action.issue.injEq] at h
  obtain ⟨_, -, hd, -⟩ := h
  exact hd.symm

/-- An enabled issue is that of one of the machine's cores. -/
theorem State.core_of_issue_mem_actions {s : State} {c g : Nat} (h : .issue c g ∈ s.actions) : ∃ x, (c, x) ∈ s.cores := by
  have hmem : .issue c g ∈ s.cores.flatMap (fun y => s.issueActions y.1 y.2) := by
    simpa [State.actions, issue_mem_offer, State.issue_not_mem_dueActions, State.issue_not_mem_coreActions,
      State.issue_not_mem_gridActions, State.issue_not_mem_memActions, State.issue_not_mem_cohActions,
      State.issue_not_mem_foldActions] using h
  obtain ⟨⟨d, x⟩, hx, hi⟩ := List.mem_flatMap.mp hmem
  exact ⟨x, State.issue_mem_issueActions hi ▸ hx⟩

/-! ## The action that a step takes -/

theorem act_mem_of_mem_offersOf {old : List Offer} {acts : List Action} {now : Nat} {o : Offer} (h : o ∈ offersOf old acts now) :
    o.act ∈ acts := by
  rcases List.mem_append.mp h with hold | hnew
  · exact List.contains_iff_mem.mp (List.mem_filter.mp hold).2
  · obtain ⟨a, ha, rfl⟩ := List.mem_map.mp hnew
    exact (List.mem_filter.mp ha).1

/-- A choice among offers is one of them, or that time passes. -/
theorem State.pick_cases (s : State) (os : List Offer) : s.pick os = .pass ∨ ∃ o ∈ os, s.pick os = o.act := by
  unfold State.pick
  split
  · next o ho => exact .inr ⟨o, List.mem_of_find?_eq_some ho, rfl⟩
  · extract_lets l
    rw [List.getD_eq_getElem?_getD]
    cases hn : l[s.choice 0 % l.length]? with
    | none => exact .inl rfl
    | some o => exact .inr ⟨o, (List.mem_filter.mp (List.mem_of_getElem? hn)).1, rfl⟩

theorem State.chosen_cases (s : State) : s.chosen.1 = .pass ∨ s.chosen.1 ∈ s.actions := by
  unfold State.chosen
  split
  · exact .inl rfl
  · next a ha =>
    split
    · exact .inr (by simp [ha])
    · exact .inl rfl
  · extract_lets os a
    rcases s.pick_cases os with hp | ⟨o, ho, hp⟩
    · exact .inl hp
    · have ha : a = o.act := hp
      exact .inr (ha ▸ act_mem_of_mem_offersOf ho)

/-- A step takes an input, lets time pass, or takes an enabled action. -/
theorem State.nextAction_cases (s : State) :
    (∃ i, s.nextAction.1 = .input i) ∨ s.nextAction.1 = .pass ∨ s.nextAction.1 ∈ s.actions := by
  unfold State.nextAction
  split
  · next i _ _ =>
    split
    · exact .inl ⟨i, rfl⟩
    · exact .inr s.chosen_cases
  · exact .inr s.chosen_cases

theorem State.onModule_nextAction {s : State} (hs : ∀ c ∈ s.cores, c.1 < numCores) : s.nextAction.1.OnModule := by
  intro c g e
  rcases s.nextAction_cases with ⟨i, hi⟩ | hp | ha
  · cases hi.symm.trans e
  · cases hp.symm.trans e
  · obtain ⟨x, hx⟩ := State.core_of_issue_mem_actions (e ▸ ha)
    exact hs (c, x) hx

theorem continues_step {s : State} (hs : ∀ c ∈ s.cores, c.1 < numCores) : Continues (step s) :=
  continues_thenOn _ (State.continues_act _ (State.onModule_nextAction hs))

/-- Settles O58: every arm of `exec` answers a next state (`continues_exec`; log 37 for a step of the hardware that is not
enabled, log 11 for a team's instruction in the service group), and a step issues no core but one of the machine's
(`State.onModule_nextAction`). -/
theorem nothingStops : Obligations.NothingStops :=
  ⟨continues_exec, fun _ hs => continues_step hs⟩

end Sys2Proof.Machine
end

section
/-! PROOFS. Group swaps (O34). -/
namespace Sys2Proof.Machine
open Sys2Proof

/-! ## Group swaps (R36 to R38) -/

/-- A change of the team on a core that has one. -/
theorem State.modTeamAt_of_team {s : State} {c : Nat} {t : Team} (h : (s.coreAt c).team = some t) (f : Team → Team) :
    s.modTeamAt c f = s.setCore c { s.coreAt c with team := some (f t) } := by
  simp [State.modTeamAt, State.modCore, h]

/-- Settles O34: a swap that is due, forced or not, is `State.startSwap` on the core's team, and one whose time is over makes
the group that comes in active (R36 to R38). -/
theorem groupSwaps : Obligations.GroupSwaps := by
  unfold Obligations.GroupSwaps
  intro c s tm htm
  constructor
  · intro forced out inn i hdue
    have hstart : exec i s = .next (s.startSwap c out inn) := by
      cases forced with
      | true => show Host.Outcome.next _ = _; rw [show s.forcedDue c = some (out, inn) from hdue]
      | false => show Host.Outcome.next _ = _; rw [show s.swapDue c = some (out, inn) from hdue]
    refine ⟨_, _, hstart, State.modTeamAt_of_team htm _, rfl, rfl, by simp, fun g hg => by simp [hg], fun g => ?_⟩
    cases (tm.group out).ended <;> simp
  · intro w hw htil
    have hover : s.swapOver c = true := by simp [State.swapOver, htm, hw, htil]
    refine ⟨_, rfl, ?_⟩
    rw [if_pos hover, State.modTeamAt_of_team htm, hw]

end Sys2Proof.Machine
end

section
/-! PROOFS. The end of an issue, waits, and the leaving of a frame; EXIT, YIELD and SLEEP (O8). -/
namespace Sys2Proof.Machine
open Sys2Proof

/-! ## The end of an issue that neither traps nor waits -/

@[simp] theorem State.modGroup_grids (s : State) (f : Group → Group) : (s.modGroup f).grids = s.grids := by
  unfold State.modGroup State.modGroupAt; split <;> rfl
@[simp] theorem State.modGroup_nextGrid (s : State) (f : Group → Group) : (s.modGroup f).nextGrid = s.nextGrid := by
  unfold State.modGroup State.modGroupAt; split <;> rfl

theorem State.modCore_congr (s : State) {c : Nat} {f g : Core → Core} (h : f (s.coreAt c) = g (s.coreAt c)) :
    s.modCore c f = s.modCore c g := congrArg (s.setCore c) h

/-- What a change of the issuing group does is its effect on that group. -/
theorem State.modGroup_congr (s : State) {f g : Group → Group} (h : f s.group = g s.group) : s.modGroup f = s.modGroup g := by
  by_cases hg : s.grp = 16
  · have hs : s.group = (s.coreAt s.core).svc := if_pos (by simp [State.isSvc, hg])
    rw [s.modGroup_svc f hg, s.modGroup_svc g hg]
    exact s.modCore_congr (by rw [← hs, h])
  · rw [s.modGroup_team f hg, s.modGroup_team g hg]
    refine s.modCore_congr ?_
    cases ht : (s.coreAt s.core).team with
    | none => rfl
    | some t =>
      have hs : s.group = t.group s.grp := by simp [State.group, State.isSvc, hg, State.team, ht]
      rw [Option.map_some, Option.map_some, ← hs, h]

/-- What an issue of n words in s makes of u, the state that its body leaves: its threads stand at the next instruction. -/
def State.wentOn (s : State) (n : Nat) (sat : Bool) (u : State) : State :=
  u.modGroup (s.group.finish (s.issueOf n) s.tick sat 0 0 [])

/-- An instruction with nothing in its way, whose body neither traps nor waits nor moves threads, leaves what its body leaves,
its threads at the next instruction. -/
theorem runIssue_wentOn {i : Instr} {perform : State → List Nat → State} {n : Nat} {body : Body} {s u : State} {sat : Bool}
    (hq : s.quiet i = true) (hb : body ((s.issueOf n).by (s.doers i)) s = { s := u, selfSat := sat }) :
    runIssue i perform (s.issueOf n) body s = s.wentOn n sat u := by
  rw [runIssue_quiet hq, hb]
  exact closeIssue_plain rfl rfl

theorem State.wentOn_group (s : State) (n : Nat) (sat : Bool) {u : State} (hu : u.present = true) :
    (s.wentOn n sat u).group = s.group.finish (s.issueOf n) s.tick sat 0 0 [] u.group := u.group_modGroup _ hu

@[simp] theorem State.wentOn_mem (s : State) (n : Nat) (sat : Bool) (u : State) : (s.wentOn n sat u).mem = u.mem :=
  u.modGroup_mem _
@[simp] theorem State.wentOn_grids (s : State) (n : Nat) (sat : Bool) (u : State) : (s.wentOn n sat u).grids = u.grids :=
  u.modGroup_grids _
@[simp] theorem State.wentOn_nextGrid (s : State) (n : Nat) (sat : Bool) (u : State) :
    (s.wentOn n sat u).nextGrid = u.nextGrid := u.modGroup_nextGrid _

/-- The end of an issue keeps the registers that its body leaves. -/
theorem State.wentOn_sameRegs (s : State) (n : Nat) (sat : Bool) {u : State} (hu : u.present = true) :
    u.group.SameRegs (s.wentOn n sat u).group := by
  rw [s.wentOn_group n sat hu]; exact Group.sameRegs_finish _ _ _ _ _ _ _ _

/-- The threads of the issue go on to the next instruction, when the body has moved none. -/
theorem State.wentOn_went (s : State) (n : Nat) (sat : Bool) {u : State} (hu : u.present = true)
    (hpc : u.group.pc = s.group.pc) (hrep : u.group.repcnt = s.group.repcnt) :
    s.group.Went (s.wentOn n sat u).group n 0 0 := by
  rw [s.wentOn_group n sat hu]
  exact Group.finish_went s n _ sat 0 0 [] (.inr ⟨rfl, rfl⟩) (fun l hl => by simp at hl) _ hpc hrep

/-- The waits after an issue: those that its body leaves, but for YIELD's holds that it satisfies (R33). -/
theorem State.wentOn_waits (s : State) (n : Nat) (sat : Bool) {u : State} (hu : u.present = true) :
    (s.wentOn n sat u).group.waits = (if sat then u.group else u.group.satisfy s.group.issueSet).waits := by
  rw [s.wentOn_group n sat hu]; cases sat <;> rfl

/-! ## Waits of a group (R29, R33) -/

theorem Group.hold_sameRegs (m : Dword) (k : WaitKind) (g : Group) : g.SameRegs (g.hold m k) := by
  unfold Group.hold
  split
  · exact .refl g
  · exact ⟨⟨rfl, rfl, rfl, rfl, rfl, rfl, rfl⟩, rfl, rfl, rfl, rfl, rfl⟩

theorem Group.satisfy_sameRegs (m : Dword) (g : Group) : g.SameRegs (g.satisfy m) :=
  ⟨⟨rfl, rfl, rfl, rfl, rfl, rfl, rfl⟩, rfl, rfl, rfl, rfl, rfl⟩

@[simp] theorem Group.hold_pc (m : Dword) (k : WaitKind) (g : Group) : (g.hold m k).pc = g.pc := by
  unfold Group.hold; split <;> rfl
@[simp] theorem Group.hold_repcnt (m : Dword) (k : WaitKind) (g : Group) : (g.hold m k).repcnt = g.repcnt := by
  unfold Group.hold; split <;> rfl
theorem Group.hold_waits (m : Dword) (k : WaitKind) (g : Group) :
    (g.hold m k).waits = g.waits ++ if m = 0 then [] else [⟨m, k⟩] := by
  unfold Group.hold; split <;> simp

/-- Only YIELD's holds are satisfied: any other wait stays as it is. -/
theorem Group.mem_satisfy_waits (m : Dword) (g : Group) {w : Wait} (hw : ∀ x, w.kind ≠ .yield x) :
    w ∈ (g.satisfy m).waits ↔ w ∈ g.waits := by
  unfold Group.satisfy
  simp only [List.mem_filterMap]
  constructor
  · rintro ⟨v, hv, e⟩
    split at e
    · split at e
      · cases e
      · cases e; exact absurd rfl (hw _)
    · cases e; exact hv
  · intro h
    refine ⟨w, h, ?_⟩
    split
    · next hk => exact absurd hk (hw _)
    · rfl

theorem getLsbD_waits_foldl (ws : List Wait) (m : Dword) (l : Nat) :
    (ws.foldl (fun m w => m ||| w.mask) m).getLsbD l = (m.getLsbD l || ws.any (fun w => w.mask.getLsbD l)) := by
  induction ws generalizing m with
  | nil => simp
  | cons w ws ih => rw [List.foldl_cons, ih]; simp [Bool.or_assoc]

/-- An eligible thread has not ended. -/
theorem Group.not_exited_of_eligible {g : Group} {l : Nat} (h : g.eligible.getLsbD l = true) : g.exited.getLsbD l = false := by
  simp [Group.eligible] at h; exact h.1.2

/-- An eligible thread is in no wait. -/
theorem Group.not_waits_of_eligible {g : Group} {l : Nat} (h : g.eligible.getLsbD l = true) {w : Wait} (hw : w ∈ g.waits) :
    w.mask.getLsbD l = false := by
  simp [Group.eligible, Group.waiting, getLsbD_waits_foldl] at h; exact h.2.2 w hw

theorem Group.eligible_and_of_mem_waits {g : Group} {w : Wait} (hw : w ∈ g.waits) : g.eligible &&& w.mask = 0 := by
  apply BitVec.eq_of_getLsbD_eq
  intro l _
  rw [BitVec.getLsbD_and]
  cases h : g.eligible.getLsbD l with
  | false => simp
  | true => simp [Group.not_waits_of_eligible h hw]

/-! ## Threads that leave the open frame (R163, R164) -/

/-- What a view sees of an entry is unchanged by a map over the entries of a store that the view does not see. -/
theorem tget_map_view {α β γ : Type} {d : α} {e : β} {v : α → γ} {w : β → γ} {f : Nat × α → Nat × β}
    (hk : ∀ c, (f c).1 = c.1) (hv : ∀ c, w (f c).2 = v c.2) (hd : w e = v d) (t : Tbl α) (k : Nat) :
    w (tget e (t.map f) k) = v (tget d t k) := by
  induction t with
  | nil => exact hd
  | cons p r ih =>
    by_cases h : p.1 = k
    · simp [tget, hk, h, hv]
    · simp [tget, hk, h, ih]

/-- A function over the entries of a store, which takes its default value to that of the new one. -/
theorem tget_map {α β : Type} {d : α} {e : β} {f : α → β} (hd : f d = e) (t : Tbl α) (k : Nat) :
    tget e (t.map (fun c => (c.1, f c.2))) k = f (tget d t k) :=
  tget_map_view (v := f) (w := id) (fun _ => rfl) (fun _ => rfl) hd.symm t k

/-- A group when the threads held at a trap are released: one with an open frame keeps them (R164, R437). -/
def Group.released (g : Group) : Group := if g.frame.isSome then g else g.release (fun k => k = .held)
/-- The same for a team of context ctx. -/
def Team.released (ctx : Nat) (t : Team) : Team :=
  if t.ctx = ctx then { t with groups := t.groups.map (fun g => (g.1, g.2.released)) } else t
/-- The same for the team on a core. -/
def Core.released (ctx : Nat) (c : Core) : Core := { c with team := c.team.map (Team.released ctx) }

theorem State.coreAt_releaseHeld (s : State) (ctx k : Nat) : (s.releaseHeld ctx).coreAt k = (s.coreAt k).released ctx := by
  have h : Core.released ctx {} = {} := rfl
  exact tget_map h s.cores k

theorem Team.group_released (t : Team) (ctx g : Nat) :
    (t.released ctx).group g = if t.ctx = ctx then (t.group g).released else t.group g := by
  unfold Team.released
  split
  · exact tget_map (d := {}) (f := Group.released) rfl t.groups g
  · rfl

theorem Group.release_none (g : Group) : g.release (fun _ => false) = g := by simp [Group.release]

/-- A group without an open frame loses at most some of its waits when held threads are released. -/
theorem State.releaseHeld_group (s : State) (ctx : Nat) (hf : s.group.frame = none) :
    ∃ q, (s.releaseHeld ctx).group = s.group.release q := by
  unfold State.group at hf ⊢
  rw [show (s.releaseHeld ctx).isSvc = s.isSvc from rfl]
  split
  · exact ⟨fun _ => false, by rw [State.coreAt_releaseHeld, Group.release_none]; rfl⟩
  · next hs =>
    rw [if_neg hs] at hf
    have hteam : (s.releaseHeld ctx).team = ((s.coreAt s.core).team.map (Team.released ctx)).getD {} :=
      congrArg (fun c : Core => c.team.getD {}) (s.coreAt_releaseHeld ctx s.core)
    rw [hteam, show (s.releaseHeld ctx).grp = s.grp from rfl]
    unfold State.team at hf ⊢
    cases h : (s.coreAt s.core).team with
    | none => exact ⟨fun _ => false, (Group.release_none _).symm⟩
    | some t =>
      have hft : (t.group s.grp).frame = none := by simpa [h] using hf
      rw [Option.map_some, Option.getD_some, Option.getD_some, Team.group_released]
      split
      · exact ⟨fun k => k = .held, by simp [Group.released, hft]⟩
      · exact ⟨fun _ => false, (Group.release_none _).symm⟩

theorem State.releaseHeld_present (s : State) (ctx : Nat) : (s.releaseHeld ctx).present = s.present := by
  show (s.isSvc || ((s.releaseHeld ctx).coreAt s.core).team.isSome) = (s.isSvc || (s.coreAt s.core).team.isSome)
  rw [State.coreAt_releaseHeld]
  simp [Core.released]

/-- The open frame f closes: s1 has its value from before the frame again (R163). -/
def Group.closeFrame (f : Frame) (g : Group) : Group :=
  { (g.setS 1 f.savedS1).dropS1.loseTq with frame := none, trapmask := 0 }

/-- What becomes of the issuing group when threads leave its frame: nothing, when none of them stands in one; the frame loses
them; or it closes with the last (R163, R164). -/
theorem State.leaveFrame_cases (s : State) (ls : Dword) (hp : s.present = true) :
    ((s.group.frame = none ∨ s.group.trapmask &&& ls = 0) ∧ s.leaveFrame ls = s)
    ∨ (s.group.frame ≠ none ∧ s.group.trapmask &&& ls ≠ 0 ∧ s.group.trapmask &&& ~~~ls ≠ 0
        ∧ s.leaveFrame ls = s.modGroup (fun g => { g with trapmask := s.group.trapmask &&& ~~~ls }))
    ∨ ∃ f q, s.group.frame = some f ∧ s.group.trapmask &&& ls ≠ 0 ∧ s.group.trapmask &&& ~~~ls = 0
        ∧ s.leaveFrame ls = (s.modGroup (Group.closeFrame f)).releaseHeld s.team.ctx
        ∧ (s.leaveFrame ls).group = (s.group.closeFrame f).release q := by
  unfold State.leaveFrame
  dsimp only
  cases hf : s.group.frame with
  | none => exact .inl ⟨.inl rfl, rfl⟩
  | some f =>
    by_cases h0 : s.group.trapmask &&& ls = 0
    · exact .inl ⟨.inr h0, if_pos h0⟩
    simp only [if_neg h0]
    by_cases h1 : s.group.trapmask &&& ~~~ls = 0
    · have hg : (s.modGroup (Group.closeFrame f)).group = s.group.closeFrame f := s.group_modGroup _ hp
      obtain ⟨q, hq⟩ := (s.modGroup (Group.closeFrame f)).releaseHeld_group s.team.ctx (by rw [hg]; rfl)
      rw [if_neg (not_not.mpr h1)]
      exact .inr (.inr ⟨f, q, rfl, h0, h1, rfl, hq.trans (by rw [hg])⟩)
    · exact .inr (.inl ⟨by simp, h0, h1, if_pos h1⟩)

theorem State.leaveFrame_mem (s : State) (ls : Dword) : (s.leaveFrame ls).mem = s.mem := by
  unfold State.leaveFrame
  dsimp only
  split
  · rfl
  split
  · rfl
  split
  · exact s.modGroup_mem _
  · exact s.modGroup_mem _

theorem State.leaveFrame_present (s : State) (ls : Dword) (hp : s.present = true) : (s.leaveFrame ls).present = true := by
  rcases s.leaveFrame_cases ls hp with ⟨_, e⟩ | ⟨_, _, _, e⟩ | ⟨f, q, _, _, _, e, _⟩
  · rw [e, hp]
  · rw [e, State.modGroup_present, hp]
  · rw [e, State.releaseHeld_present, State.modGroup_present, hp]

/-- Two groups that agree in everything but their frame, s1, waits and pending results. -/
structure Group.SameOutsideFrame (g h : Group) : Prop where
  v : h.v = g.v
  m : h.m = g.m
  it : h.it = g.it
  flags : h.flags = g.flags
  exited : h.exited = g.exited

theorem Group.SameOutsideFrame.same {g h : Group} (e : g.SameOutsideFrame h) : SameV [] g h ∧ SameM [] g h ∧ SameIt [] g h :=
  ⟨fun n _ => by unfold Group.vreg; rw [e.v], fun n _ => by rw [e.m], fun n _ => by unfold Group.iter; rw [e.it]⟩
theorem Group.SameRegs.sameOutsideFrame {g h : Group} (e : g.SameRegs h) : g.SameOutsideFrame h :=
  ⟨e.v, e.m, e.it, e.flags, e.exited⟩
theorem Group.SameOutsideFrame.trans {f g h : Group} (a : f.SameOutsideFrame g) (b : g.SameOutsideFrame h) :
    f.SameOutsideFrame h :=
  ⟨b.v.trans a.v, b.m.trans a.m, b.it.trans a.it, b.flags.trans a.flags, b.exited.trans a.exited⟩

theorem Group.closeFrame_sameOutsideFrame (f : Frame) (q : WaitKind → Bool) (g : Group) :
    g.SameOutsideFrame ((g.closeFrame f).release q) := ⟨rfl, rfl, rfl, rfl, rfl⟩

theorem Group.closeFrame_sreg (f : Frame) (g : Group) (n : Nat) :
    (g.closeFrame f).sreg n = if n = 1 then f.savedS1 else g.sreg n := by
  rw [show (g.closeFrame f).sreg n = (g.setS 1 f.savedS1).sreg n from rfl, Group.sreg_setS]
  simp

theorem State.leaveFrame_sameOutsideFrame (s : State) (ls : Dword) (hp : s.present = true) :
    s.group.SameOutsideFrame (s.leaveFrame ls).group := by
  rcases s.leaveFrame_cases ls hp with ⟨_, e⟩ | ⟨_, _, _, e⟩ | ⟨f, q, _, _, _, _, e⟩
  · rw [e]; exact ⟨rfl, rfl, rfl, rfl, rfl⟩
  · rw [e, s.group_modGroup _ hp]; exact ⟨rfl, rfl, rfl, rfl, rfl⟩
  · rw [e]; exact s.group.closeFrame_sameOutsideFrame f q

/-- Threads leave the open frame, and the last one closes it. -/
theorem State.leaveFrame_leftFrame (s : State) (ls : Dword) (hp : s.present = true) :
    s.group.LeftFrame (s.leaveFrame ls).group ls := by
  have hsame : ∀ {g h : Group}, h.s = g.s → SameS [] g h := fun e n _ => by unfold Group.sreg; rw [e]
  rcases s.leaveFrame_cases ls hp with ⟨h0, e⟩ | ⟨hf, h0, h1, e⟩ | ⟨f, q, hf, h0, h1, _, e⟩
  · rw [e]
    refine ⟨fun _ => ⟨rfl, rfl, hsame rfl⟩, fun hf hm _ => ?_, fun f hf hm _ => ?_⟩
    · exact absurd h0 (not_or.mpr ⟨hf, hm⟩)
    · exact absurd h0 (not_or.mpr ⟨by simp [hf], hm⟩)
  · rw [e, s.group_modGroup _ hp]
    exact ⟨fun h => absurd h (not_or.mpr ⟨hf, h0⟩), fun _ _ _ => ⟨rfl, rfl, hsame rfl⟩, fun _ _ _ h => absurd h h1⟩
  · rw [e]
    refine ⟨fun h => absurd h (not_or.mpr ⟨by simp [hf], h0⟩), fun _ _ h => absurd h1 h, fun f' hf' _ _ => ?_⟩
    obtain rfl : f = f' := Option.some.inj (hf.symm.trans hf')
    refine ⟨rfl, rfl, (s.group.closeFrame_sreg f 1).trans (if_pos rfl), fun n hn => ?_⟩
    exact (s.group.closeFrame_sreg f n).trans (if_neg (by simpa using hn))

theorem Group.LeftFrame.congr {g h k : Group} {ls : Dword} (l : g.LeftFrame h ls) (e : h.SameRegs k) : g.LeftFrame k ls := by
  have hs : ∀ but, SameS but g h → SameS but g k := fun _ w n hn => (e.sreg n).trans (w n hn)
  refine ⟨fun h0 => ?_, fun h0 h1 h2 => ?_, fun f h0 h1 h2 => ?_⟩
  · obtain ⟨hf, hm, hr⟩ := l.stays h0
    exact ⟨e.frame.trans hf, e.trapmask.trans hm, hs _ hr⟩
  · obtain ⟨hf, hm, hr⟩ := l.some h0 h1 h2
    exact ⟨e.frame.trans hf, e.trapmask.trans hm, hs _ hr⟩
  · obtain ⟨hf, hm, h1, hr⟩ := l.last f h0 h1 h2
    exact ⟨e.frame.trans hf, e.trapmask.trans hm, (e.sreg 1).trans h1, hs _ hr⟩

/-! ## EXIT, YIELD, SLEEP (R33, R150 to R152) -/

/-- What EXIT leaves before its group moves on: the threads of P have ended and left the open frame (R150, R163). -/
def State.exits (s : State) (p : Dword) : State := (s.modGroup (fun g => { g with exited := g.exited ||| p })).leaveFrame p

theorem exec_exit {o : VOps} {s : State} (hq : s.quiet (.exit o) = true) :
    exec (.exit o) s = .next (s.wentOn (wordsOf (.exit o)) false (s.exits (s.doers (.exit o)))) :=
  congrArg Host.Outcome.next (runIssue_wentOn hq rfl)

/-- EXIT ends the guard-true threads, which leave an open frame; no thread that has ended is eligible (R150, R163). -/
theorem exit_ends {o : VOps} {s : State} (hq : s.quiet (.exit o) = true) :
    ∃ t, exec (.exit o) s = .next t ∧ t.group.exited = s.group.exited ||| s.doers (.exit o)
      ∧ s.group.LeftFrame t.group (s.doers (.exit o)) ∧ (s.group.frame = none → OnlyGroup s t) ∧ t.mem = s.mem
      ∧ SameV [] s.group t.group ∧ SameM [] s.group t.group ∧ SameIt [] s.group t.group ∧ t.group.flags = s.group.flags
      ∧ ∀ l < 64, t.group.eligible.getLsbD l = true → (s.doers (.exit o)).getLsbD l = false := by
  have hp := State.quiet_present hq
  refine ⟨_, exec_exit hq, ?_⟩
  generalize s.doers (.exit o) = p
  generalize wordsOf (.exit o) = n
  have hu : (s.modGroup (fun g => { g with exited := g.exited ||| p })).present = true := by rw [State.modGroup_present, hp]
  have hug : (s.modGroup (fun g => { g with exited := g.exited ||| p })).group = { s.group with exited := s.group.exited ||| p } :=
    s.group_modGroup _ hp
  have hregs := s.wentOn_sameRegs n false (State.leaveFrame_present _ p hu)
  have hleft := (State.leaveFrame_leftFrame _ p hu).congr hregs
  have hout := (State.leaveFrame_sameOutsideFrame _ p hu).trans hregs.sameOutsideFrame
  rw [hug] at hleft hout
  have hex : (s.wentOn n false (s.exits p)).group.exited = s.group.exited ||| p := hout.exited
  obtain ⟨hv, hm, hit⟩ := hout.same
  refine ⟨hex, ⟨hleft.stays, hleft.some, hleft.last⟩, fun hf => ?_, ?_, hv, hm, hit, hout.flags, fun l _ hl => ?_⟩
  · have e : s.exits p = s.modGroup (fun g => { g with exited := g.exited ||| p }) := by
      unfold State.exits State.leaveFrame
      rw [hug]
      simp only [hf]
    rw [e, State.wentOn, State.modGroup_modGroup]
    exact ⟨_, rfl⟩
  · rw [State.wentOn_mem]; exact (State.leaveFrame_mem _ p).trans (s.modGroup_mem _)
  · have h := Group.not_exited_of_eligible hl
    rw [hex] at h
    simp at h; exact h.2

/-- What YIELD does to its group: its issue satisfies the holds of others, and the threads of P wait for every other eligible
thread (R33). -/
def Group.yields (set p : Dword) (g : Group) : Group :=
  let g := g.satisfy set
  if p = 0 ∨ g.eligible &&& ~~~p = 0 then g else g.hold p (.yield (g.eligible &&& ~~~p))

theorem Group.yields_waits (set p : Dword) (g : Group) :
    (g.yields set p).waits = (g.satisfy set).waits ++
      (if p = 0 ∨ (g.satisfy set).eligible &&& ~~~p = 0 then [] else [⟨p, .yield ((g.satisfy set).eligible &&& ~~~p)⟩]) := by
  unfold Group.yields
  dsimp only
  split
  · simp
  · next h => rw [Group.hold_waits, if_neg (not_or.mp h).1]

theorem Group.yields_sameRegs (set p : Dword) (g : Group) : g.SameRegs (g.yields set p) := by
  unfold Group.yields
  dsimp only
  split
  · exact g.satisfy_sameRegs set
  · exact (g.satisfy_sameRegs set).trans (Group.hold_sameRegs _ _ _)

@[simp] theorem Group.yields_pc (set p : Dword) (g : Group) : (g.yields set p).pc = g.pc := by
  unfold Group.yields; dsimp only; split <;> simp [Group.satisfy]
@[simp] theorem Group.yields_repcnt (set p : Dword) (g : Group) : (g.yields set p).repcnt = g.repcnt := by
  unfold Group.yields; dsimp only; split <;> simp [Group.satisfy]

/-- An instruction that changes nothing of its group but waits, windows and program counters changes no register. -/
theorem changes_of_sameRegs {i : Instr} {s : State} {f : Group → Group} {sat : Bool} (hp : s.present = true)
    (hf : s.group.SameRegs (f s.group)) (hpc : (f s.group).pc = s.group.pc) (hrep : (f s.group).repcnt = s.group.repcnt) :
    Changes i [] [] [] [] s (s.wentOn (wordsOf i) sat (s.modGroup f))
      ∧ (s.wentOn (wordsOf i) sat (s.modGroup f)).group.flags = s.group.flags := by
  have hu : (s.modGroup f).present = true := by rw [State.modGroup_present, hp]
  have hg : (s.modGroup f).group = f s.group := s.group_modGroup f hp
  have hregs := s.wentOn_sameRegs (wordsOf i) sat hu
  have hwent := s.wentOn_went (wordsOf i) sat hu (by rw [hg, hpc]) (by rw [hg, hrep])
  rw [hg] at hregs
  obtain ⟨hs, hv, hm, hit⟩ := (hf.trans hregs).same
  refine ⟨⟨⟨⟨_, State.modGroup_modGroup _ _ _⟩, (hf.trans hregs).toSameControl, hwent⟩, hs, hv, hm, hit⟩, (hf.trans hregs).flags⟩

theorem yieldBody_eq {s : State} (hp : s.present = true) (iss : Issue) :
    yieldBody iss s = { s := s.modGroup (Group.yields iss.set iss.p), selfSat := true } := by
  unfold yieldBody
  dsimp only
  rw [s.group_modGroup _ hp, State.modGroup_modGroup]
  by_cases h : iss.p = 0 ∨ (s.group.satisfy iss.set).eligible &&& ~~~iss.p = 0
  · rw [if_pos h]
    exact congrArg (fun u => ({ s := u, selfSat := true } : Res)) (s.modGroup_congr (if_pos h).symm)
  · rw [if_neg h]
    exact congrArg (fun u => ({ s := u, selfSat := true } : Res)) (s.modGroup_congr (if_neg h).symm)

theorem exec_yield {o : VOps} {s : State} (hq : s.quiet (.yield o) = true) :
    exec (.yield o) s =
      .next (s.wentOn (wordsOf (.yield o)) true (s.modGroup (Group.yields s.group.issueSet (s.doers (.yield o))))) := by
  exact congrArg Host.Outcome.next (runIssue_wentOn hq (yieldBody_eq (State.quiet_present hq) _))

theorem exec_sleep {o : VOps} {s : State} (hq : s.quiet (.sleep o) = true) :
    exec (.sleep o) s =
      .next (s.wentOn (wordsOf (.sleep o)) false (s.modGroup (Group.hold (s.doers (.sleep o)) (.sleep (s.cycle + 32))))) :=
  congrArg Host.Outcome.next (runIssue_wentOn hq rfl)

/-- YIELD holds its threads until every other eligible thread has issued (R33). -/
theorem yield_holds {o : VOps} {s : State} (hq : s.quiet (.yield o) = true) :
    ∃ t, exec (.yield o) s = .next t ∧ Changes (.yield o) [] [] [] [] s t ∧ t.group.flags = s.group.flags
      ∧ (let g := s.group.satisfy s.group.issueSet
         let p := s.doers (.yield o)
         t.group.waits = g.waits ++ (if p = 0 ∨ g.eligible &&& ~~~p = 0 then [] else [⟨p, .yield (g.eligible &&& ~~~p)⟩])) := by
  have hp := State.quiet_present hq
  obtain ⟨hchanges, hflags⟩ := changes_of_sameRegs (i := .yield o) (sat := true) hp
    (s.group.yields_sameRegs s.group.issueSet (s.doers (.yield o))) (by simp) (by simp)
  refine ⟨_, exec_yield hq, hchanges, hflags, ?_⟩
  rw [State.wentOn_waits _ _ _ (by rw [State.modGroup_present, hp]), if_pos rfl, s.group_modGroup _ hp]
  exact Group.yields_waits _ _ _

/-- SLEEP holds its threads for 32 cycles (R152). -/
theorem sleep_holds {o : VOps} {s : State} (hq : s.quiet (.sleep o) = true) :
    ∃ t, exec (.sleep o) s = .next t ∧ Changes (.sleep o) [] [] [] [] s t ∧ t.group.flags = s.group.flags
      ∧ t.group.eligible &&& s.doers (.sleep o) = 0
      ∧ ∀ w, (∀ x, w.kind ≠ .yield x) → (w ∈ t.group.waits ↔
          w ∈ s.group.waits ∨ (w = ⟨s.doers (.sleep o), .sleep (s.cycle + 32)⟩ ∧ s.doers (.sleep o) ≠ 0)) := by
  have hp := State.quiet_present hq
  obtain ⟨hchanges, hflags⟩ := changes_of_sameRegs (i := .sleep o) (sat := false) hp
    (s.group.hold_sameRegs (s.doers (.sleep o)) (.sleep (s.cycle + 32))) (by simp) (by simp)
  refine ⟨_, exec_sleep hq, hchanges, hflags, ?_⟩
  generalize hp' : s.doers (.sleep o) = p
  have hwaits : ∀ w : Wait, (∀ x, w.kind ≠ .yield x) →
      (w ∈ (s.wentOn (wordsOf (.sleep o)) false (s.modGroup (Group.hold p (.sleep (s.cycle + 32))))).group.waits ↔
        w ∈ s.group.waits ∨ (w = ⟨p, .sleep (s.cycle + 32)⟩ ∧ p ≠ 0)) := by
    intro w hw
    rw [State.wentOn_waits _ _ _ (by rw [State.modGroup_present, hp]), if_neg (by simp), s.group_modGroup _ hp,
      Group.mem_satisfy_waits _ _ hw, Group.hold_waits]
    by_cases h0 : p = 0
    · simp [h0]
    · rw [if_neg h0]
      rw [List.mem_append, List.mem_singleton, and_iff_left h0]
  refine ⟨?_, hwaits⟩
  by_cases h0 : p = 0
  · rw [h0]; exact BitVec.and_zero
  · exact Group.eligible_and_of_mem_waits ((hwaits ⟨p, .sleep (s.cycle + 32)⟩ (fun _ => WaitKind.noConfusion)).mpr (.inr ⟨rfl, h0⟩))

/-- Settles O8: EXIT's threads leave the open frame as `State.leaveFrame_leftFrame` says, and YIELD and SLEEP add a wait to a group
whose registers stay (`changes_of_sameRegs`). -/
theorem endsAndYields : Obligations.EndsAndYields :=
  ⟨fun _ _ hq => exit_ends hq, fun _ _ => ⟨fun hq => yield_holds hq, fun hq => sleep_holds hq⟩⟩

end Sys2Proof.Machine
end

section
/-! PROOFS. What the requests of the store queue leave alone when they are performed. -/
namespace Sys2Proof.Machine
open Sys2Proof

/-! ## Performing queued requests leaves the threads as they stand

A request that is performed reads and writes memory, moves lines and directory entries, and may log a late fault or mark its
grid. It moves no thread and writes no register: at most it adds the value of an atomic step to a pending result. So each
operation on the way keeps what `State.standing` sees; `kept_f` says so of f, in the order of the model. -/

/-- A group but for its pending results. -/
def Group.still (g : Group) : Group := { g with outstanding := [] }
/-- A team but for the pending results of its groups and its checkpoint. -/
def Team.still (t : Team) : Team × (Nat → Group) :=
  ({ t with groups := [], checkpoint := none }, fun g => (t.group g).still)

/-- Where the machine stands: its step, cycle, issuer and next grid, and the teams on its cores but for pending results. -/
def State.standing (s : State) : (Nat × Nat × Nat × Nat × Nat) × (Nat → Option (Team × (Nat → Group))) :=
  ((s.tick, s.cycle, s.core, s.grp, s.nextGrid), fun c => (s.coreAt c).team.map Team.still)

/-- State s stands where s₀ did. -/
abbrev State.Kept (s₀ s : State) : Prop := s.standing = s₀.standing

variable {s₀ s : State}

/-! ### Branches, pairs, folds -/

/-- The state of a pair that a match has taken apart. -/
theorem kept_fst {α : Type} {p : State × α} {t : State} {x : α} (e : p = (t, x)) (h : s₀.Kept p.1) : s₀.Kept t := by
  subst e; exact h

theorem kept_ite {c : Prop} [Decidable c] {a b : State} (ha : s₀.Kept a) (hb : s₀.Kept b) :
    s₀.Kept (if c then a else b) := by
  split
  · exact ha
  · exact hb

theorem kept_foldl {α : Type} {l : List α} {f : State → α → State} (h : s₀.Kept s)
    (hf : ∀ t a, s₀.Kept t → s₀.Kept (f t a)) : s₀.Kept (l.foldl f s) :=
  List.foldlRecOn l f h fun t ht a _ => hf t a ht

/-! ### Changes of cores -/

theorem State.kept_of_teams {t : State} (h : s₀.Kept s) (he : (t.tick, t.cycle, t.core, t.grp, t.nextGrid) =
    (s.tick, s.cycle, s.core, s.grp, s.nextGrid)) (ht : ∀ c, (t.coreAt c).team.map Team.still = (s.coreAt c).team.map Team.still) :
    s₀.Kept t := (congrArg₂ Prod.mk he (funext ht)).trans h

theorem State.kept_modCore {c : Nat} {f : Core → Core} (hf : ∀ x, (f x).team.map Team.still = x.team.map Team.still)
    (h : s₀.Kept s) : s₀.Kept (s.modCore c f) := by
  refine State.kept_of_teams h rfl fun k => ?_
  rw [State.coreAt_modCore]
  split
  · next e => rw [hf, e]
  · rfl

theorem State.kept_setLine {core ln : Nat} {x : LineState} (h : s₀.Kept s) : s₀.Kept (s.setLine core ln x) :=
  State.kept_modCore (fun _ => rfl) h

theorem State.kept_mapLine {ln : Nat} {p : Nat → Bool} {f : LineState → LineState} (h : s₀.Kept s) :
    s₀.Kept (s.mapLine ln p f) := by
  refine State.kept_of_teams h rfl fun k => congrArg (Option.map Team.still) ?_
  refine tget_map_view (v := Core.team) (w := Core.team) (fun c => ?_) (fun c => ?_) rfl s.cores k <;> split <;> rfl

/-- A change of the pending results of a group, also in the checkpoint of its team. -/
theorem Team.still_modKept {f : Group → Group} (hf : ∀ g, (f g).still = g.still) (g : Nat) (t : Team) : (t.modKept g f).still = t.still := by
  refine Prod.ext rfl (funext fun k => ?_)
  show ((t.setGroup g (f (t.group g))).group k).still = (t.group k).still
  rw [Team.group_setGroup]
  split
  · next e => rw [hf, e]
  · rfl

theorem State.kept_modTeamAt {c : Nat} {f : Team → Team} (hf : ∀ t, (f t).still = t.still) (h : s₀.Kept s) :
    s₀.Kept (s.modTeamAt c f) := by
  refine State.kept_modCore (fun x => ?_) h
  rw [Option.map_map]
  exact congrArg (Option.map · x.team) (funext hf)

theorem State.kept_modKept {c g : Nat} {f : Group → Group} (hf : ∀ g, (f g).still = g.still) (h : s₀.Kept s) : s₀.Kept (s.modKept c g f) := by
  unfold State.modKept
  split
  · next e =>
    unfold State.modGroupAt
    rw [if_pos e]
    exact State.kept_modCore (fun _ => rfl) h
  · exact kept_foldl h fun _ _ ht => State.kept_modTeamAt (Team.still_modKept hf g) ht

/-! ### Links, memory -/

theorem State.kept_transmit {m : Msg} (h : s₀.Kept s) : s₀.Kept (s.transmit m).1 := by
  unfold State.transmit
  split
  · exact h
  · split <;> exact h

theorem State.kept_post {m : Msg} (h : s₀.Kept s) : s₀.Kept (s.post m) := by
  unfold State.post
  split
  · exact State.kept_transmit h
  · exact h

theorem State.kept_postAbroad {vc flits ptr ln : Nat} (h : s₀.Kept s) : s₀.Kept (s.postAbroad vc flits ptr ln) := by
  unfold State.postAbroad
  split
  · exact h
  · exact State.kept_post h

theorem State.kept_reach {die : Nat} {a : Acc} {rd : Bool} (h : s₀.Kept s) : s₀.Kept (s.reach die a rd) := by
  cases a with
  | peer pa => exact State.kept_postAbroad h
  | _ => exact h

theorem State.kept_writeAcc {a : Acc} {bs : List Byte} (h : s₀.Kept s) : s₀.Kept (s.writeAcc a bs) := by
  cases a <;> exact h

theorem State.kept_putAcc {die : Nat} {a : Acc} {bs : List Byte} (h : s₀.Kept s) : s₀.Kept (s.putAcc die a bs) :=
  State.kept_writeAcc (State.kept_reach h)
theorem State.kept_physWrite {master pa : Nat} {bs : List Byte} (h : s₀.Kept s) : s₀.Kept (s.physWrite master pa bs) :=
  State.kept_putAcc h

theorem State.kept_physReach {master pa : Nat} (h : s₀.Kept s) : s₀.Kept (s.physReach master pa) :=
  State.kept_reach h
theorem State.kept_ctxReach {ctx : Nat} (h : s₀.Kept s) : s₀.Kept (s.ctxReach ctx) :=
  kept_ite h (State.kept_physReach h)

/-! ### Translation -/

theorem Walked.kept_reach {w : Walked} {die : Nat} (h : s₀.Kept s) : s₀.Kept (w.reach die s) :=
  kept_foldl h (fun _ _ ht => State.kept_reach ht)

theorem State.kept_desc {die ctx i : Nat} (h : s₀.Kept s) : s₀.Kept (s.desc die ctx i).1 := by
  unfold State.desc
  split
  · exact h
  · exact kept_ite (State.kept_physReach h) (State.kept_physReach h)

theorem State.kept_dieAdd {die : Nat} {e : TlbEntry} (h : s₀.Kept s) : s₀.Kept (s.dieAdd die e) := kept_ite h h

theorem State.kept_tlbAdd {core : Nat} {e : TlbEntry} (h : s₀.Kept s) : s₀.Kept (s.tlbAdd core e) :=
  State.kept_dieAdd (State.kept_modCore (fun x => congrArg (Option.map Team.still) (by split <;> rfl)) h)

theorem State.kept_keepWalk {die ctx va : Nat} {r : WalkRes} {tabs : List TabEntry} (h : s₀.Kept s) :
    s₀.Kept (s.keepWalk die ctx va r tabs) := by
  unfold State.keepWalk
  split
  · exact h
  · exact kept_ite (State.kept_dieAdd h) (State.kept_dieAdd h)

theorem State.kept_startWalks {die n : Nat} (h : s₀.Kept s) : s₀.Kept (State.startWalks die n s) := by
  induction n generalizing s with
  | zero => exact h
  | succ n ih =>
    unfold State.startWalks
    split
    · exact h
    split
    · exact h
    · extract_lets _ s1
      have h1 : s₀.Kept s1 := Walked.kept_reach h
      refine ih ?_
      split <;> exact h1

theorem State.kept_endWalk {w : PtWalk} (h : s₀.Kept s) : s₀.Kept (s.endWalk w) := by
  unfold State.endWalk
  extract_lets s1 s2
  have h1 : s₀.Kept s1 := h
  have h2 : s₀.Kept s2 := by
    unfold s2
    split
    · exact State.kept_keepWalk h1
    · exact h1
  exact State.kept_startWalks h2

theorem State.kept_walkUntil {die : Nat} {p : State → Bool} {n : Nat} (h : s₀.Kept s) :
    s₀.Kept (State.walkUntil die p n s) := by
  induction n generalizing s with
  | zero => exact h
  | succ n ih =>
    unfold State.walkUntil
    split
    · exact h
    split
    · exact ih (State.kept_endWalk h)
    · exact h

theorem State.kept_ownWalk {die ctx va : Nat} (h : s₀.Kept s) : s₀.Kept (s.ownWalk die ctx va).1 :=
  State.kept_keepWalk (Walked.kept_reach (State.kept_walkUntil h))

theorem State.kept_missWalk {core ctx va : Nat} (h : s₀.Kept s) : s₀.Kept (s.missWalk core ctx va).1 := by
  unfold State.missWalk
  extract_lets _
  split
  · exact State.kept_ownWalk h
  split
  · split
    · exact State.kept_endWalk (State.kept_walkUntil h)
    · exact State.kept_ownWalk (State.kept_walkUntil h)
  · exact State.kept_ownWalk (State.kept_walkUntil h)

theorem State.kept_leafOf {core ctx va : Nat} (h : s₀.Kept s) : s₀.Kept (s.leafOf core ctx va).1 := by
  unfold State.leafOf
  split
  · exact h
  split
  · exact State.kept_tlbAdd h
  split
  · exact State.kept_tlbAdd (kept_fst ‹_› (State.kept_missWalk h))
  · exact kept_fst ‹_› (State.kept_missWalk h)

theorem State.kept_translate {core ctx va : Nat} {need : Need} (h : s₀.Kept s) :
    s₀.Kept (s.translate core ctx va need).1 := by
  unfold State.translate
  split
  · exact kept_fst ‹_› (State.kept_leafOf h)
  · next s1 _ _ e1 =>
      have h1 : s₀.Kept s1 := kept_fst e1 (State.kept_leafOf h)
      split <;> exact h1

theorem State.kept_logEvent {gridid ctx code sub : Nat} {u : HwUnit} {event arg : Nat} (h : s₀.Kept s) :
    s₀.Kept (s.logEvent gridid ctx code sub u event arg) :=
  kept_ite h (State.kept_physWrite h)

theorem State.kept_noteError {unit : Nat} (h : s₀.Kept s) : s₀.Kept (s.noteError unit) := kept_ite h h

theorem State.kept_markDeferred {g : Nat} (h : s₀.Kept s) : s₀.Kept (s.markDeferred g) := h

theorem State.kept_recordAt {core ctx off : Nat} (h : s₀.Kept s) : s₀.Kept (s.recordAt core ctx off).1 := by
  unfold State.recordAt
  split
  rename_i s1 _ e1
  have h1 : s₀.Kept s1 := kept_fst e1 (State.kept_desc h)
  split <;> exact kept_fst ‹_› (State.kept_translate h1)

theorem State.kept_noteFault {code detail : Nat} (h : s₀.Kept s) : s₀.Kept (s.noteFault code detail) :=
  kept_ite (State.kept_noteError h) h

theorem State.kept_terminal {core : Nat} {t : Team} {grp lane pc rep kind : Nat} {x : Trap} (h : s₀.Kept s) :
    s₀.Kept (s.terminal core t grp lane pc rep kind x) := by
  unfold State.terminal
  extract_lets s1 _ s2
  have h1 : s₀.Kept s1 := h
  have h2 : s₀.Kept s2 := State.kept_logEvent h1
  clear_value s1 s2
  split
  rename_i s3 _ e3
  have h3 : s₀.Kept s3 := kept_fst e3 (State.kept_recordAt h2)
  split
  · exact h3
  · extract_lets s4 _ _ lost
    have h4 : s₀.Kept s4 := State.kept_reach h3
    have hlost : ∀ (s : State), s₀.Kept s → s₀.Kept (lost s) := fun _ ht => State.kept_putAcc ht
    clear_value s4
    split
    · exact hlost _ h4
    split
    rename_i s5 _ e5
    have h5 : s₀.Kept s5 := kept_fst e5 (State.kept_recordAt h4)
    exact kept_ite (hlost _ h5) (State.kept_putAcc (State.kept_putAcc h5))

/-! ### Lines and directories -/

theorem State.kept_dropX {die ln : Nat} (h : s₀.Kept s) : s₀.Kept (s.dropX die ln) := kept_ite h h
theorem State.kept_takeX {core ln : Nat} {x : LineState} (h : s₀.Kept s) : s₀.Kept (s.takeX core ln x) :=
  kept_ite h (kept_ite h h)
theorem State.kept_setX {ln d : Nat} (h : s₀.Kept s) : s₀.Kept (s.setX ln d) := h
theorem State.kept_modFold {f : Nat} {g : Fold → Fold} (h : s₀.Kept s) : s₀.Kept (s.modFold f g) := h

theorem State.kept_leaveDie {die ln : Nat} (h : s₀.Kept s) : s₀.Kept (s.leaveDie die ln) := by
  unfold State.leaveDie
  extract_lets s1 _
  have h1 : s₀.Kept s1 := State.kept_dropX h
  split
  · exact h
  split
  · exact h1
  · exact kept_ite h1 (kept_ite h1 h1)

theorem State.kept_deferredFault {r : MemReq} {va code sub detail : Nat} (h : s₀.Kept s) :
    s₀.Kept (s.deferredFault r va code sub detail) := by
  unfold State.deferredFault
  extract_lets s1
  have h1 : s₀.Kept s1 := State.kept_noteFault h
  exact kept_ite (State.kept_modCore (fun _ => rfl) h1) (State.kept_markDeferred (State.kept_terminal h1))

theorem State.kept_combineAt {r : MemReq} {pa va op ty : Nat} {v : Word} {mixed : Bool} (h : s₀.Kept s) :
    s₀.Kept (s.combineAt r pa va op ty v mixed) := by
  unfold State.combineAt
  extract_lets _
  split
  · exact State.kept_deferredFault h
  · exact State.kept_putAcc h

theorem State.kept_combinePartial {core pa : Nat} {p : Partial} (h : s₀.Kept s) :
    s₀.Kept (s.combinePartial core pa p) :=
  State.kept_combineAt h

theorem State.kept_sendPartials {core ln : Nat} (h : s₀.Kept s) : s₀.Kept (s.sendPartials core ln) := by
  unfold State.sendPartials
  refine kept_foldl h (fun _ _ ht => ?_)
  extract_lets _
  split
  · exact ht
  · exact State.kept_combinePartial (State.kept_modCore (fun _ => rfl) ht)

theorem State.kept_endEpoch {ln : Nat} (h : s₀.Kept s) : s₀.Kept (s.endEpoch ln) :=
  State.kept_mapLine (kept_foldl h (fun _ _ ht => State.kept_sendPartials ht))

theorem State.kept_sendInv {dies : List Nat} {ln core kind want : Nat} {safe : Bool} (h : s₀.Kept s) :
    s₀.Kept (s.sendInv dies ln core kind want safe) :=
  kept_foldl h (fun _ _ ht => State.kept_post ht)

theorem State.kept_lineAccess {die ln : Nat} {rd : Bool} (h : s₀.Kept s) : s₀.Kept (s.lineAccess die ln rd) :=
  State.kept_reach h

theorem State.kept_backFrom {die ln : Nat} (h : s₀.Kept s) : s₀.Kept (s.backFrom die ln) :=
  kept_ite (State.kept_lineAccess h) h

theorem State.kept_writeBack {core ln : Nat} (h : s₀.Kept s) : s₀.Kept (s.writeBack core ln) := by
  unfold State.writeBack
  split
  · extract_lets _ s1
    have h1 : s₀.Kept s1 := State.kept_lineAccess (State.kept_setX (State.kept_setLine h))
    split
    · exact kept_ite (State.kept_modFold h1) h1
    · exact h1
  · exact h

theorem State.kept_giveUp {core ln : Nat} (h : s₀.Kept s) : s₀.Kept (s.giveUp core ln) := by
  unfold State.giveUp
  extract_lets s1
  have h1 : s₀.Kept s1 := State.kept_sendPartials (State.kept_writeBack h)
  exact State.kept_leaveDie (State.kept_setLine h1)

theorem State.kept_makeRoom {core ln : Nat} (h : s₀.Kept s) : s₀.Kept (s.makeRoom core ln) :=
  kept_ite h (State.kept_giveUp h)

theorem State.kept_take {core ln : Nat} {x : LineState} (h : s₀.Kept s) : s₀.Kept (s.take core ln x) := by
  unfold State.take
  extract_lets s1
  have h1 : s₀.Kept s1 := State.kept_takeX h
  exact kept_ite (State.kept_setLine (State.kept_makeRoom h1)) (State.kept_postAbroad (State.kept_setLine h1))

theorem State.kept_grantNow {core kind ln : Nat} (h : s₀.Kept s) : s₀.Kept (s.grantNow core kind ln) :=
  kept_ite (State.kept_take (State.kept_mapLine h)) (kept_ite (State.kept_take (State.kept_mapLine h)) h)

theorem State.kept_recall {f : Nat} {e : DirEntry} {core want : Nat} (h : s₀.Kept s) :
    s₀.Kept (s.recall f e core want) :=
  State.kept_sendInv (State.kept_modFold (kept_ite (State.kept_endEpoch h) h))

theorem State.kept_refuse {core ln kind : Nat} (h : s₀.Kept s) : s₀.Kept (s.refuse core ln kind) := by
  unfold State.refuse
  split <;> exact h

theorem State.kept_forward {ptr ln : Nat} (h : s₀.Kept s) : s₀.Kept (s.forward ptr ln) := State.kept_postAbroad h

theorem State.kept_serveRead {f core ln : Nat} {e : DirEntry} {safe : Bool} (h : s₀.Kept s) :
    s₀.Kept (s.serveRead f core ln e safe) := by
  unfold State.serveRead
  extract_lets _ s1 _
  have h1 : s₀.Kept s1 := kept_ite (State.kept_endEpoch h) h
  split
  · exact State.kept_take (State.kept_modFold (State.kept_lineAccess h1))
  split
  · exact State.kept_take (State.kept_modFold (State.kept_setX (State.kept_mapLine (State.kept_forward h1))))
  · exact State.kept_take (State.kept_modFold (kept_ite h1 (kept_ite (State.kept_lineAccess h1) (State.kept_forward h1))))

theorem State.kept_serveOwn {f core ln kind : Nat} {e : DirEntry} {asked : List Nat} {safe : Bool}
    (h : s₀.Kept s) : s₀.Kept (s.serveOwn f core ln kind e asked safe) := by
  unfold State.serveOwn
  extract_lets _ _ s1 s2 _ s3 s4 _ s5
  have h1 : s₀.Kept s1 := kept_ite (State.kept_endEpoch h) h
  have h2 : s₀.Kept s2 := kept_ite (State.kept_lineAccess h1) h1
  have h3 : s₀.Kept s3 := kept_ite (State.kept_backFrom h2) h2
  have h4 : s₀.Kept s4 := kept_ite h3 (State.kept_mapLine h3)
  have h5 : s₀.Kept s5 := State.kept_modFold h4
  exact kept_ite (State.kept_grantNow h5) (State.kept_sendInv h5)

theorem State.kept_serve {f core ln kind : Nat} {e : DirEntry} {asked : List Nat} {safe : Bool}
    (h : s₀.Kept s) : s₀.Kept (s.serve f core ln kind e asked safe) :=
  kept_ite (State.kept_serveRead h) (State.kept_serveOwn h)

theorem State.kept_serveSafe {f core ln kind : Nat} (h : s₀.Kept s) : s₀.Kept (s.serveSafe f core ln kind) := by
  unfold State.serveSafe
  extract_lets s1 s2
  have h1 : s₀.Kept s1 := kept_ite (kept_foldl h (fun _ _ ht => State.kept_forward ht)) h
  have h2 : s₀.Kept s2 := State.kept_endEpoch h1
  exact State.kept_modFold (State.kept_serve h2)

theorem State.kept_askHome {ln : Nat} (h : s₀.Kept s) : s₀.Kept (s.askHome ln) := kept_ite (State.kept_postAbroad h) h

theorem State.kept_dirRequest {core ln kind : Nat} (h : s₀.Kept s) : s₀.Kept (s.dirRequest core ln kind) := by
  unfold State.dirRequest
  extract_lets _ _ _ s1
  have h1 : s₀.Kept s1 := State.kept_askHome h
  split
  · exact State.kept_refuse h1
  split
  · exact State.kept_serveSafe h1
  split
  · exact kept_ite (State.kept_refuse h1) (State.kept_serve h1)
  split
  · split
    · exact State.kept_refuse (State.kept_recall h1)
    · exact State.kept_refuse h1
  · exact State.kept_serve (State.kept_modFold h1)

theorem State.kept_invalidateDie {die ln : Nat} (h : s₀.Kept s) : s₀.Kept (s.invalidateDie die ln) := by
  unfold State.invalidateDie
  extract_lets s1 s2
  have h1 : s₀.Kept s1 := kept_ite (State.kept_endEpoch h) h
  have h2 : s₀.Kept s2 := by
    unfold s2
    split
    · exact kept_ite (State.kept_postAbroad h1) h1
    · exact State.kept_backFrom h1
  exact State.kept_dropX (State.kept_mapLine h2)

theorem State.kept_clearLine {ln : Nat} (h : s₀.Kept s) : s₀.Kept (s.clearLine ln) := by
  unfold State.clearLine
  extract_lets _ _ s1 s2
  have h1 : s₀.Kept s1 := kept_foldl h (fun _ _ ht => kept_ite (State.kept_postAbroad ht) (kept_ite (State.kept_postAbroad ht) ht))
  have h2 : s₀.Kept s2 := kept_foldl (State.kept_endEpoch h1) (fun _ _ ht => State.kept_backFrom ht)
  exact State.kept_modFold (State.kept_setX (State.kept_mapLine h2))

theorem State.kept_enterAt {f : Nat} {e : DirEntry} {stored : Bool} (h : s₀.Kept s) :
    s₀.Kept (s.enterAt f e stored) := by
  unfold State.enterAt
  extract_lets _ put
  have hput : ∀ (s : State), s₀.Kept s → s₀.Kept (put s) := fun _ ht => ht
  split
  · split <;> exact State.kept_recall (hput _ h)
  · exact hput _ h

theorem State.kept_reenter {ln : Nat} (h : s₀.Kept s) : s₀.Kept (s.reenter ln) := kept_ite h (State.kept_enterAt h)

theorem State.kept_entryFor {ln : Nat} (h : s₀.Kept s) : s₀.Kept (s.entryFor ln) := kept_ite h (State.kept_reenter h)

theorem State.kept_regain {ln : Nat} (h : s₀.Kept s) : s₀.Kept (s.regain ln) :=
  kept_ite h (kept_ite h (State.kept_reenter h))

theorem State.kept_acknowledge {id : Nat} (h : s₀.Kept s) : s₀.Kept (s.acknowledge id) := by
  unfold State.acknowledge
  extract_lets s1 _ _ s2
  have h2 : s₀.Kept s2 := h
  exact kept_foldl h2
    (fun _ _ ht => kept_ite (State.kept_regain (State.kept_grantNow ht)) (State.kept_entryFor (State.kept_grantNow ht)))

theorem State.kept_settle {ln : Nat} (h : s₀.Kept s) : s₀.Kept (s.settle ln) :=
  kept_foldl h (fun _ _ ht => State.kept_acknowledge (State.kept_invalidateDie ht))

theorem State.kept_recallDone {f ln : Nat} (h : s₀.Kept s) : s₀.Kept (s.recallDone f ln) := by
  unfold State.recallDone
  split
  · exact kept_ite h h
  · exact h

theorem State.kept_settleSet {f ln : Nat} (h : s₀.Kept s) : s₀.Kept (s.settleSet f ln) :=
  kept_foldl h (fun _ _ ht => State.kept_recallDone (State.kept_settle ht))

theorem State.kept_of_onDie {s t : State} {core ln kind : Nat} (h : s₀.Kept s) (e : s.onDie core ln kind = some t) :
    s₀.Kept t := by
  unfold State.onDie at e
  split at e
  · cases e
    exact State.kept_take (State.kept_mapLine h)
  split at e
  · cases e
    exact State.kept_take (State.kept_mapLine h)
  · cases e

theorem State.kept_dropLine {ln : Nat} (h : s₀.Kept s) : s₀.Kept (s.dropLine ln) := by
  unfold State.dropLine
  extract_lets s1
  have h1 : s₀.Kept s1 := State.kept_settle h
  clear_value s1
  exact kept_ite h1 (State.kept_clearLine h1)

theorem State.kept_peersReport {p : Nat → Bool} (h : s₀.Kept s) : s₀.Kept (s.peersReport p) :=
  kept_foldl h (fun _ _ ht => kept_ite (State.kept_regain (State.kept_takeX (State.kept_setLine ht))) ht)

theorem State.kept_moveEntries {old : Nat} {p : Nat → Bool} (h : s₀.Kept s) : s₀.Kept (s.moveEntries old p) := by
  unfold State.moveEntries
  extract_lets _ s1 s2 s3 s4
  have h1 : s₀.Kept s1 := h
  have h2 : s₀.Kept s2 := kept_foldl h1 (fun _ _ ht => kept_ite (State.kept_enterAt ht) ht)
  have h3 : s₀.Kept s3 := kept_ite (State.kept_peersReport h2) h2
  have h4 : s₀.Kept s4 := kept_foldl h3 (fun _ _ ht => State.kept_entryFor ht)
  exact kept_foldl h4 (fun _ _ ht => ht)

theorem State.kept_thaw (h : s₀.Kept s) : s₀.Kept s.thaw := by
  unfold State.thaw
  split
  · exact State.kept_moveEntries h
  · exact h

theorem State.kept_foldStep {f n : Nat} (h : s₀.Kept s) : s₀.Kept (s.foldStep f n) := State.kept_logEvent h

theorem State.kept_beginFailure (h : s₀.Kept s) : s₀.Kept s.beginFailure := by
  unfold State.beginFailure
  split
  · exact h
  split
  · exact h
  · extract_lets s1
    have h1 : s₀.Kept s1 := State.kept_foldStep (State.kept_foldStep h)
    exact h1

theorem State.kept_rebuild {f : Nat} (h : s₀.Kept s) : s₀.Kept (s.rebuild f) :=
  kept_ite h (State.kept_foldStep (kept_foldl h (fun _ _ ht => State.kept_reenter ht)))

theorem State.kept_slotMoved {f i : Nat} (h : s₀.Kept s) : s₀.Kept (s.slotMoved f i) := by
  unfold State.slotMoved
  extract_lets s1
  exact kept_ite h (State.kept_beginFailure (State.kept_foldStep h))

theorem State.kept_endFailure (h : s₀.Kept s) : s₀.Kept s.endFailure := by
  unfold State.endFailure
  split
  · exact State.kept_beginFailure h
  split
  · exact h
  · exact State.kept_moveEntries (kept_foldl (State.kept_rebuild h) (fun _ _ ht => State.kept_slotMoved ht))

theorem State.kept_untilLive {ln n : Nat} (h : s₀.Kept s) : s₀.Kept (State.untilLive ln n s) := by
  induction n generalizing s with
  | zero => exact h
  | succ n ih =>
    unfold State.untilLive
    exact kept_ite h (ih (State.kept_endFailure h))

theorem State.kept_serveReserved {f ln : Nat} (h : s₀.Kept s) : s₀.Kept (s.serveReserved f ln) := by
  unfold State.serveReserved
  refine kept_foldl h (fun _ _ ht => ?_)
  split
  · exact State.kept_settle (State.kept_dirRequest ht)
  · exact ht

theorem State.kept_clearWay {ln : Nat} (h : s₀.Kept s) : s₀.Kept (s.clearWay ln) := by
  unfold State.clearWay
  extract_lets s1 s2
  have h1 : s₀.Kept s1 := State.kept_untilLive h
  have h2 : s₀.Kept s2 := kept_ite (State.kept_thaw h1) h1
  exact State.kept_settleSet (State.kept_settle h2)

theorem State.kept_enter {core ln kind : Nat} (h : s₀.Kept s) : s₀.Kept (s.enter core ln kind) :=
  kept_ite (State.kept_setLine h) h

theorem State.kept_ask {core ln kind n : Nat} (h : s₀.Kept s) : s₀.Kept (State.ask core ln kind n s) := by
  induction n generalizing s with
  | zero => exact h
  | succ n ih =>
    unfold State.ask
    extract_lets s1
    have h1 : s₀.Kept s1 := State.kept_clearWay h
    split
    · exact State.kept_enter h1
    split
    · exact State.kept_of_onDie h1 ‹_›
    split
    · exact State.kept_enter (State.kept_clearWay (State.kept_dirRequest h1))
    · exact ih (State.kept_serveReserved (State.kept_clearWay (State.kept_dirRequest h1)))

theorem State.kept_obtain {core ln kind : Nat} (h : s₀.Kept s) : s₀.Kept (s.obtain core ln kind) :=
  kept_ite (State.kept_enter h) (State.kept_ask h)

theorem State.kept_uncache {ln : Nat} (h : s₀.Kept s) : s₀.Kept (s.uncache ln) :=
  State.kept_dropLine (State.kept_clearWay (State.kept_askHome h))

/-! ### The queue (R216, R219, R486) -/

theorem State.kept_target {r : MemReq} {pa va : Nat} (h : s₀.Kept s) : s₀.Kept (s.target r pa va).1 := by
  unfold State.target
  extract_lets _
  split
  · exact State.kept_deferredFault h
  · exact h

theorem State.kept_returns {r : MemReq} {v : Word} (h : s₀.Kept s) : s₀.Kept (s.returns r v) :=
  State.kept_modKept (fun _ => rfl) h

theorem State.kept_settleReq {r : MemReq} (h : s₀.Kept s) : s₀.Kept (s.settleReq r) :=
  kept_ite h (State.kept_modKept (fun _ => rfl) h)

theorem State.kept_storeAt {r : MemReq} {pa : Nat} {a : Acc} {bs : List Byte} (h : s₀.Kept s) :
    s₀.Kept (s.storeAt r pa a bs) := by
  unfold State.storeAt
  split
  · exact h
  · exact kept_ite (State.kept_writeAcc (State.kept_obtain h)) (State.kept_obtain h)

theorem State.kept_redPartial {r : MemReq} {pa va op ty : Nat} {v : Word} (h : s₀.Kept s) :
    s₀.Kept (s.redPartial r pa va op ty v) :=
  State.kept_modCore (fun _ => rfl) h

theorem State.kept_redAt {r : MemReq} {pa va op ty : Nat} {v : Word} (h : s₀.Kept s) :
    s₀.Kept (s.redAt r pa va op ty v) :=
  kept_ite (State.kept_redPartial (State.kept_obtain h)) (State.kept_obtain h)

theorem State.kept_atMemory {r : MemReq} {pa : Nat} {rd : Bool} {a : Acc} {f : State → State} (h : s₀.Kept s)
    (hf : ∀ t, s₀.Kept t → s₀.Kept (f t)) : s₀.Kept (s.atMemory r pa rd a f) := by
  unfold State.atMemory
  extract_lets s1
  have h1 : s₀.Kept s1 := State.kept_uncache h
  clear_value s1
  exact kept_ite (hf _ (State.kept_reach h1)) h1

theorem State.kept_performReq {r : MemReq} (h : s₀.Kept s) : s₀.Kept (s.performReq r) := by
  unfold State.performReq
  split
  · split
    · exact State.kept_storeAt (kept_fst ‹_› (State.kept_target h))
    · exact kept_fst ‹_› (State.kept_target h)
  · split
    · exact State.kept_atMemory (kept_fst ‹_› (State.kept_target h)) (fun _ ht => State.kept_writeAcc ht)
    · exact kept_fst ‹_› (State.kept_target h)
  · exact State.kept_atMemory h (fun _ ht => State.kept_returns (State.kept_writeAcc ht))
  split
  · next s1 _ e1 =>
      have h1 : s₀.Kept s1 := kept_fst e1 (State.kept_target h)
      exact kept_ite (State.kept_atMemory h1 (fun _ ht => State.kept_combineAt ht)) (State.kept_redAt h1)
  · exact kept_fst ‹_› (State.kept_target h)

theorem State.kept_performHead (h : s₀.Kept s) : s₀.Kept s.performHead := by
  unfold State.performHead
  split
  · exact h
  · exact State.kept_settleReq (State.kept_performReq h)

theorem State.kept_drain {p : MemReq → Bool} {n : Nat} (h : s₀.Kept s) : s₀.Kept (State.drain p n s) := by
  induction n generalizing s with
  | zero => exact h
  | succ n ih =>
    unfold State.drain
    exact kept_ite (kept_ite (ih (State.kept_performHead h)) (State.kept_performHead h)) h

theorem State.kept_drainIf {p : MemReq → Bool} (h : s₀.Kept s) : s₀.Kept (s.drainIf p) := State.kept_drain h

theorem State.kept_drainGroup (h : s₀.Kept s) : s₀.Kept s.drainGroup := State.kept_drainIf h

/-! ### What stands where it did -/

theorem State.Kept.cycle (h : s₀.Kept s) : s.cycle = s₀.cycle := congrArg (·.1.2.1) h
theorem State.Kept.core (h : s₀.Kept s) : s.core = s₀.core := congrArg (·.1.2.2.1) h
theorem State.Kept.grp (h : s₀.Kept s) : s.grp = s₀.grp := congrArg (·.1.2.2.2.1) h
theorem State.Kept.nextGrid (h : s₀.Kept s) : s.nextGrid = s₀.nextGrid := congrArg (·.1.2.2.2.2) h

theorem State.Kept.teamAt (h : s₀.Kept s) (c : Nat) :
    (s.coreAt c).team.map Team.still = (s₀.coreAt c).team.map Team.still := congrFun (congrArg Prod.snd h) c

theorem State.Kept.isSvc (h : s₀.Kept s) : s.isSvc = s₀.isSvc := by unfold State.isSvc; rw [h.grp]

theorem State.Kept.present (h : s₀.Kept s) : s.present = s₀.present := by
  have ht := congrArg Option.isSome (h.teamAt s₀.core)
  rw [Option.isSome_map, Option.isSome_map] at ht
  unfold State.present
  rw [h.isSvc, h.core, ht]

theorem State.Kept.team (h : s₀.Kept s) : s.team.still = s₀.team.still := by
  have ht := congrArg (fun o => o.getD (Team.still {})) (h.teamAt s₀.core)
  simp only [Option.getD_map] at ht
  unfold State.team
  rw [h.core, ht]

/-- The group of a team that issues is unchanged but for its pending results. -/
theorem State.Kept.group (h : s₀.Kept s) (hs : s₀.isSvc = false) : s.group.still = s₀.group.still := by
  unfold State.group
  rw [h.isSvc, hs, h.grp]
  exact congrArg (fun x => x.2 s₀.grp) h.team

end Sys2Proof.Machine
end

section
/-! PROOFS. TQGET, RNGGET and GLAUNCH (O29). -/
namespace Sys2Proof.Machine
open Sys2Proof

/-! ## What an issue leaves of its group -/

/-- Two groups that differ only in the scalar registers `rs`, and in waits, windows, pending results and control state. -/
structure Group.SameBut (rs : List Nat) (g h : Group) : Prop where
  scalars : SameS rs g h
  v : h.v = g.v
  m : h.m = g.m
  it : h.it = g.it
  flags : h.flags = g.flags
  pc : h.pc = g.pc
  repcnt : h.repcnt = g.repcnt

theorem Group.SameBut.refl (rs : List Nat) (g : Group) : g.SameBut rs g := ⟨fun _ _ => rfl, rfl, rfl, rfl, rfl, rfl, rfl⟩

theorem Group.SameBut.trans {rs : List Nat} {f g h : Group} (a : f.SameBut rs g) (b : g.SameBut rs h) : f.SameBut rs h :=
  ⟨fun n hn => (b.scalars n hn).trans (a.scalars n hn), b.v.trans a.v, b.m.trans a.m, b.it.trans a.it,
    b.flags.trans a.flags, b.pc.trans a.pc, b.repcnt.trans a.repcnt⟩

theorem Group.SameBut.mono {rs qs : List Nat} {g h : Group} (a : g.SameBut rs h) (hsub : ∀ n ∈ rs, n ∈ qs) : g.SameBut qs h :=
  { a with scalars := fun n hn => a.scalars n (fun hr => hn (hsub n hr)) }

/-- Groups that agree but for their pending results. -/
theorem Group.sameBut_of_still {g h : Group} (e : h.still = g.still) : g.SameBut [] h :=
  ⟨fun n _ => (congrArg (fun x : Group => x.sreg n) e :), (congrArg Group.v e :), (congrArg Group.m e :), (congrArg Group.it e :),
    (congrArg Group.flags e :), (congrArg Group.pc e :), (congrArg Group.repcnt e :)⟩

theorem Group.sameBut_setS {rs : List Nat} {n : Nat} (hn : n ∈ rs) (v : Dword) (g : Group) : g.SameBut rs (g.setS n v) := by
  refine ⟨fun k hk => ?_, by simp, by simp, by simp, by simp, by simp, by simp⟩
  have hne : k ≠ n := fun e => hk (e ▸ hn)
  rw [Group.sreg_setS]
  simp [hne]

theorem Group.openWindow_sameRegs (p : Dword) (n : Nat) (ds : List Dest) (g : Group) : g.SameRegs (g.openWindow p n ds) := by
  unfold Group.openWindow
  split
  · exact .refl g
  · exact ⟨⟨rfl, rfl, rfl, rfl, rfl, rfl, rfl⟩, rfl, rfl, rfl, rfl, rfl⟩
@[simp] theorem Group.openWindow_pc (p : Dword) (n : Nat) (ds : List Dest) (g : Group) : (g.openWindow p n ds).pc = g.pc := by
  unfold Group.openWindow; split <;> rfl
@[simp] theorem Group.openWindow_repcnt (p : Dword) (n : Nat) (ds : List Dest) (g : Group) :
    (g.openWindow p n ds).repcnt = g.repcnt := by
  unfold Group.openWindow; split <;> rfl
@[simp] theorem Group.openWindow_waits (p : Dword) (n : Nat) (ds : List Dest) (g : Group) :
    (g.openWindow p n ds).waits = g.waits := by
  unfold Group.openWindow; split <;> rfl

theorem Group.SameRegs.sameBut {g h : Group} (e : g.SameRegs h) (hpc : h.pc = g.pc) (hrep : h.repcnt = g.repcnt) (rs : List Nat) :
    g.SameBut rs h := ⟨fun n _ => e.sreg n, e.v, e.m, e.it, e.flags, hpc, hrep⟩

/-- What an instruction that answers in scalar registers leaves: those alone are written, and its threads are at the next
instruction. -/
structure Answers (i : Instr) (rs : List Nat) (s t : State) : Prop where
  scalars : SameS rs s.group t.group
  vectors : SameV [] s.group t.group
  masks : SameM [] s.group t.group
  iters : SameIt [] s.group t.group
  flags : t.group.flags = s.group.flags
  went : s.group.Went t.group (wordsOf i) 0 0

theorem answers_wentOn {i : Instr} {rs : List Nat} {s u : State} {sat : Bool} (hu : u.present = true)
    (h : s.group.SameBut rs u.group) : Answers i rs s (s.wentOn (wordsOf i) sat u) := by
  have e := s.wentOn_sameRegs (wordsOf i) sat hu
  refine ⟨fun n hn => (e.sreg n).trans (h.scalars n hn), fun n _ => ?_, fun n _ => ?_, fun n _ => ?_, e.flags.trans h.flags,
    s.wentOn_went (wordsOf i) sat hu h.pc h.repcnt⟩
  · exact (e.vreg n).trans (by unfold Group.vreg; rw [h.v])
  · rw [e.m, h.m]
  · exact (e.iter n).trans (by unfold Group.iter; rw [h.it])

/-- Outside redundant grids a comparison point is an ordinary issue (R446). -/
theorem execCompared_wentOn {i : Instr} {body : Body} {s u : State} (hq : s.quiet i = true) (hr : s.isRedundant = false)
    (hb : body ((s.issueOf (wordsOf i)).by (s.doers i)) s = { s := u }) :
    execCompared i body s = .next (s.wentOn (wordsOf i) false u) := by
  have hc : comparePoint body ((s.issueOf (wordsOf i)).by (s.doers i)) s = { s := u } := by
    unfold comparePoint
    rw [if_pos (.inl (by simp [hr])), hb]
  unfold execCompared
  rw [runIssue_wentOn hq hc]
  simp [State.mirror, hr]

/-! ## Irrevocable steps (R443) -/

theorem State.irrevocable_coreAt (s : State) (k : Nat) : s.irrevocable.coreAt k =
    if k = s.core then { s.coreAt s.core with team := (s.coreAt s.core).team.map (fun t => { t with irrevocable := true }) }
    else s.coreAt k := s.coreAt_modCore _ _ _

@[simp] theorem State.irrevocable_present (s : State) : s.irrevocable.present = s.present := by
  show (s.isSvc || (s.irrevocable.coreAt s.core).team.isSome) = (s.isSvc || (s.coreAt s.core).team.isSome)
  rw [s.irrevocable_coreAt, if_pos rfl, Option.isSome_map]

@[simp] theorem State.irrevocable_group (s : State) : s.irrevocable.group = s.group := by
  show (if s.isSvc then (s.irrevocable.coreAt s.core).svc else ((s.irrevocable.coreAt s.core).team.getD {}).group s.grp) =
    (if s.isSvc then (s.coreAt s.core).svc else ((s.coreAt s.core).team.getD {}).group s.grp)
  rw [s.irrevocable_coreAt, if_pos rfl]
  cases (s.coreAt s.core).team <;> rfl

theorem State.irrevocable_retired (s : State) (k : Nat) : (s.irrevocable.coreAt k).retired = (s.coreAt k).retired := by
  rw [s.irrevocable_coreAt]
  split
  · next e => rw [e]
  · rfl

/-! ## Results of the task queue (R231) -/

/-- What a result of the task queue's instructions does to the group: its words are written from s(x) on, and a window may open. -/
def tqWritten (o : QOps) (p : Dword) (n : Nat) (ws : List Dword) (g : Group) : Group :=
  ((ws.mapIdx (fun i w => (i, w))).foldl (fun g w => g.setS (o.x + w.1) w.2) g).openWindow p o.la
    ((List.range n).map (fun i => Dest.s (o.x + i)))

theorem tqResult_eq (o : QOps) (p : Dword) (n : Nat) (ws : List Dword) (s : State) :
    tqResult o p n ws s = { s := s.modGroup (tqWritten o p n ws) } := rfl

theorem tqWritten_one_sameBut (o : QOps) (p : Dword) (a : Dword) (g : Group) : g.SameBut [o.x] (tqWritten o p 1 [a] g) :=
  (Group.sameBut_setS (by simp) _ _).trans ((Group.openWindow_sameRegs _ _ _ _).sameBut (by simp) (by simp) _)

theorem tqWritten_two_sameBut (o : QOps) (p : Dword) (a b : Dword) (g : Group) :
    g.SameBut [o.x, o.x + 1] (tqWritten o p 2 [a, b] g) :=
  ((Group.sameBut_setS (n := o.x) (by simp) a g).trans (Group.sameBut_setS (n := o.x + 1) (by simp) b _)).trans
    ((Group.openWindow_sameRegs _ _ _ _).sameBut (by simp) (by simp) _)

theorem tqWritten_one_sreg (o : QOps) (p : Dword) (a : Dword) (g : Group) (hx : o.x ≠ 0) :
    (tqWritten o p 1 [a] g).sreg o.x = a := by
  refine ((Group.openWindow_sameRegs _ _ _ _).sreg o.x).trans ?_
  show (g.setS o.x a).sreg o.x = a
  rw [Group.sreg_setS]
  simp [hx]

theorem tqWritten_two_sreg (o : QOps) (p : Dword) (a b : Dword) (g : Group) (hx : 0 < o.x) :
    (tqWritten o p 2 [a, b] g).sreg o.x = a ∧ (tqWritten o p 2 [a, b] g).sreg (o.x + 1) = b := by
  have h : ∀ n, (tqWritten o p 2 [a, b] g).sreg n = ((g.setS o.x a).setS (o.x + 1) b).sreg n :=
    fun n => (Group.openWindow_sameRegs _ _ _ _).sreg n
  rw [h, h]
  simp [Group.sreg_setS, Nat.ne_of_gt hx]

/-! ## The first READY task (R234) -/

theorem tget_of_mem_canon {α : Type} [DecidableEq α] {d : α} {t : Tbl α} (h : Canon d t = true) {k : Nat} {v : α}
    (hm : (k, v) ∈ t) : tget d t k = v := by
  induction t with
  | nil => cases hm
  | cons p r ih =>
    obtain ⟨k', w⟩ := p
    simp only [Canon, Bool.and_eq_true, aboveB_iff] at h
    obtain ⟨⟨_, habove⟩, hr⟩ := h
    rcases List.mem_cons.mp hm with e | hm
    · cases e; simp [tget]
    · have hlt := habove _ hm
      have hne : k' ≠ k := by simp only at hlt; omega
      simp only [tget, if_neg hne]
      exact ih hr hm

/-- Task a comes before task b: of a higher priority, or ready for longer, or of a lower number. -/
def taskBefore (a b : Nat × TqSlot) : Bool :=
  b.2.prio < a.2.prio || (b.2.prio = a.2.prio && (a.2.readyCycle < b.2.readyCycle || (a.2.readyCycle = b.2.readyCycle && a.1 < b.1)))

/-- The choice between the best task so far and the next one. -/
def bestTask (best : Option (Nat × TqSlot)) (x : Nat × TqSlot) : Option (Nat × TqSlot) :=
  match best with
  | none => some x
  | some b => if taskBefore x b then some x else some b

theorem Grid.firstReady_eq (g : Grid) : g.firstReady = (g.tq.filter (fun x => x.2.state = .ready)).foldl bestTask none := by
  unfold Grid.firstReady bestTask taskBefore
  rfl

theorem taskBefore_iff (a b : Nat × TqSlot) : taskBefore a b = true ↔ b.2.prio < a.2.prio ∨ b.2.prio = a.2.prio ∧
    (a.2.readyCycle < b.2.readyCycle ∨ a.2.readyCycle = b.2.readyCycle ∧ a.1 < b.1) := by
  simp [taskBefore]

/-- A fold from a task finds it or one of the list, and none of these comes before what it finds. -/
theorem foldl_bestTask (l : List (Nat × TqSlot)) (b : Nat × TqSlot) : ∃ m, l.foldl bestTask (some b) = some m ∧ (m = b ∨ m ∈ l)
    ∧ ∀ x, x = b ∨ x ∈ l → ¬ taskBefore x m = true := by
  induction l generalizing b with
  | nil =>
    refine ⟨b, rfl, .inl rfl, fun x hx => ?_⟩
    obtain rfl : x = b := hx.resolve_right List.not_mem_nil
    rw [taskBefore_iff]
    omega
  | cons y ys ih =>
    rw [List.foldl_cons]
    by_cases hy : taskBefore y b = true
    · obtain ⟨m, hm, hin, hbest⟩ := ih y
      refine ⟨m, by rw [bestTask, if_pos hy, hm], .inr (List.mem_cons.mpr hin), fun x hx => ?_⟩
      rcases hx with rfl | hx
      · have := hbest y (.inl rfl)
        rw [taskBefore_iff] at this hy ⊢
        omega
      · exact hbest x (List.mem_cons.mp hx)
    · obtain ⟨m, hm, hin, hbest⟩ := ih b
      refine ⟨m, by rw [bestTask, if_neg hy, hm], hin.imp id (List.mem_cons_of_mem y), fun x hx => ?_⟩
      rcases hx with rfl | hx
      · exact hbest x (.inl rfl)
      rcases List.mem_cons.mp hx with rfl | hx
      · have := hbest b (.inl rfl)
        rw [taskBefore_iff] at this hy ⊢
        omega
      · exact hbest x (.inr hx)

/-- No task is READY, or the first one is, and none that is READY comes before it. -/
theorem Grid.firstReady_cases (g : Grid) :
    (g.firstReady = none ∧ ∀ p ∈ g.tq, p.2.state ≠ .ready)
    ∨ ∃ m, g.firstReady = some m ∧ m ∈ g.tq ∧ m.2.state = .ready ∧ ∀ p ∈ g.tq, p.2.state = .ready → ¬ taskBefore p m = true := by
  have hmem : ∀ p, p ∈ g.tq.filter (fun x => x.2.state = .ready) ↔ p ∈ g.tq ∧ p.2.state = .ready := fun p => by
    rw [List.mem_filter, decide_eq_true_eq]
  rw [g.firstReady_eq]
  cases h : g.tq.filter (fun x => x.2.state = .ready) with
  | nil => exact .inl ⟨rfl, fun p hp hr => by have := (hmem p).mpr ⟨hp, hr⟩; rw [h] at this; cases this⟩
  | cons y ys =>
    rw [h] at hmem
    obtain ⟨m, hm, hin, hbest⟩ := foldl_bestTask ys y
    obtain ⟨hmq, hmr⟩ := (hmem m).mp (List.mem_cons.mpr hin)
    exact .inr ⟨m, hm, hmq, hmr, fun p hp hr => hbest p (List.mem_cons.mp ((hmem p).mpr ⟨hp, hr⟩))⟩

/-- The task that comes first is the one that `Grid.firstReady` names. -/
theorem Grid.firstReady_of_first {g : Grid} (hc : Canon {} g.tq = true) {k : Nat} {x : TqSlot} (hx : (k, x) ∈ g.tq)
    (hr : x.state = .ready) (hfirst : ∀ k' y, (k', y) ∈ g.tq → y.state = .ready → y.prio < x.prio ∨ y.prio = x.prio ∧
      (x.readyCycle < y.readyCycle ∨ x.readyCycle = y.readyCycle ∧ k ≤ k')) : g.firstReady = some (k, x) := by
  rcases g.firstReady_cases with ⟨_, hno⟩ | ⟨⟨k', y⟩, hm, hmem, hmr, hbest⟩
  · exact absurd hr (hno _ hx)
  · have h1 := hfirst k' y hmem hmr
    have h2 := hbest _ hx hr
    rw [taskBefore_iff] at h2
    simp only at h2
    obtain rfl : k' = k := by omega
    rw [hm, ← tget_of_mem_canon hc hx, ← tget_of_mem_canon hc hmem]

theorem Grid.emptyWord_of_none_ready {g : Grid} (h : ∀ p ∈ g.tq, p.2.state ≠ .ready) :
    g.emptyWord = BitVec.ofNat 64 (2 ^ 63 + (if ∃ kx ∈ g.tq, kx.2.state = .waiting then 0 else 2 ^ 62)) := by
  have hany : g.tq.any (fun x => x.2.state = .waiting || x.2.state = .ready) = true ↔ ∃ kx ∈ g.tq, kx.2.state = .waiting := by
    rw [List.any_eq_true]
    refine exists_congr fun p => and_congr_right fun hp => ?_
    simp [h p hp]
  unfold Grid.emptyWord
  simp only [hany]

/-! ## TQGET (R234, R235) -/

theorem State.slot_congr {s t : State} (h : t.grids = s.grids) (g k : Nat) : t.slot g k = s.slot g k := by
  unfold State.slot State.grid; rw [h]

theorem State.slot_setSlot_same (s : State) (g k : Nat) (x : TqSlot) : (s.setSlot g k x).slot g k = x := by
  have hg : (s.setSlot g k x).grid g = { s.grid g with tq := tput {} (s.grid g).tq k x } := tget_tput_same ({} : Grid) _ _ _
  unfold State.slot
  rw [hg]
  exact tget_tput_same ({} : TqSlot) _ _ _

theorem teamOnly_team {body : Body} {iss : Issue} {s : State} (hs : s.isSvc = false) : teamOnly body iss s = body iss s := by
  unfold teamOnly
  rw [if_neg (by simp [hs])]

section
variable {o : QOps} {s : State} {iss : Issue}

/-- A READY task is taken, and its two words are returned. -/
theorem tqgetBody_found (hp : iss.p ≠ 0) (hs : s.isSvc = false) {k : Nat} {x : TqSlot}
    (h : (s.grid s.team.grid).firstReady = some (k, x)) :
    tqgetBody o iss s = Res.group (s.irrevocable.setSlot s.team.grid k { x with state := .taken })
      (tqWritten o iss.p 2 [(taskWords k x).1, (taskWords k x).2]) := by
  have h' : (s.irrevocable.grid s.team.grid).firstReady = some (k, x) := h
  unfold tqgetBody
  rw [teamOnly_team hs]
  simp only [if_neg hp, h']
  rfl

/-- With no READY task, TQGET answers EMPTY when its deadline has passed. -/
theorem tqgetBody_empty (hp : iss.p ≠ 0) (hs : s.isSvc = false) (h : (s.grid s.team.grid).firstReady = none)
    (hd : (s.group.sreg o.sa).toNat ≤ s.cycle) :
    tqgetBody o iss s = Res.group s.irrevocable (tqWritten o iss.p 2 [(s.grid s.team.grid).emptyWord, 0]) := by
  have h' : (s.irrevocable.grid s.team.grid).firstReady = none := h
  have hd' : (s.group.sreg o.sa).toNat ≤ s.irrevocable.cycle := hd
  unfold tqgetBody
  rw [teamOnly_team hs]
  simp only [if_neg hp, h', if_pos hd']
  rfl

/-- Before its deadline its threads wait. -/
theorem tqgetBody_waits (hp : iss.p ≠ 0) (hs : s.isSvc = false) (h : (s.grid s.team.grid).firstReady = none)
    (hd : s.cycle < (s.group.sreg o.sa).toNat) :
    tqgetBody o iss s = Res.group s.irrevocable.fresh.1 (tqWaits iss.p o.x (s.group.sreg o.sa).toNat s.reqId o.la) := by
  have h' : (s.irrevocable.grid s.team.grid).firstReady = none := h
  have hd' : ¬ (s.group.sreg o.sa).toNat ≤ s.irrevocable.cycle := Nat.not_le.mpr hd
  unfold tqgetBody
  rw [teamOnly_team hs]
  simp only [if_neg hp, h', if_neg hd']
  rfl

end

theorem tqWaits_sameBut (p : Dword) (sd deadline id la : Nat) (g : Group) : g.SameBut [] (tqWaits p sd deadline id la g) :=
  have hout : g.SameBut [] { g with outstanding := g.outstanding ++ [{ req := id, dests := [.s sd, .s (sd + 1)] }] } :=
    ⟨fun _ _ => rfl, rfl, rfl, rfl, rfl, rfl, rfl⟩
  (hout.trans ((Group.hold_sameRegs _ _ _).sameBut (by simp) (by simp) _)).trans
    ((Group.openWindow_sameRegs _ _ _ _).sameBut (by simp) (by simp) _)

theorem tqWaits_mem_waits {p : Dword} (hp : p ≠ 0) (sd deadline id la : Nat) (g : Group) :
    ⟨p, .tqget sd deadline id (if g.frame.isSome then 1 else 0)⟩ ∈ (tqWaits p sd deadline id la g).waits := by
  unfold tqWaits
  rw [Group.openWindow_waits, Group.hold_waits, if_neg hp]
  exact List.mem_append_right _ (List.mem_singleton.mpr rfl)

theorem tqWaits_outstanding (p : Dword) (sd deadline id la : Nat) (g : Group) :
    (tqWaits p sd deadline id la g).outstanding = g.outstanding ++ [{ req := id, dests := [.s sd, .s (sd + 1)] }] :=
  (Group.openWindow_sameRegs _ _ _ _).outstanding.trans (Group.hold_sameRegs _ _ _).outstanding

/-- An instruction with nothing in its way whose body changes its group by f, in a state v in which that group is as in s but for
pending results, answers in the registers that f writes. -/
theorem compared_answers {i : Instr} {body : Body} {s v : State} {f : Group → Group} {rs : List Nat} (hq : s.quiet i = true)
    (hr : s.isRedundant = false) (hb : body ((s.issueOf (wordsOf i)).by (s.doers i)) s = Res.group v f)
    (hv : v.present = true) (hg : s.group.SameBut [] v.group) (hf : v.group.SameBut rs (f v.group)) :
    ∃ t, execCompared i body s = .next t ∧ Answers i rs s t ∧ t.mem = v.mem ∧ t.grids = v.grids ∧ t.nextGrid = v.nextGrid
      ∧ (f v.group).SameRegs t.group ∧ t.group.waits = ((f v.group).satisfy s.group.issueSet).waits := by
  have hu : (v.modGroup f).present = true := by rw [State.modGroup_present, hv]
  have hug : (v.modGroup f).group = f v.group := v.group_modGroup f hv
  have hsame : s.group.SameBut rs (v.modGroup f).group := by
    rw [hug]; exact (hg.mono (fun _ h => absurd h List.not_mem_nil)).trans hf
  refine ⟨_, execCompared_wentOn hq hr hb, answers_wentOn hu hsame, ?_, ?_, ?_, ?_, ?_⟩
  · rw [State.wentOn_mem, State.modGroup_mem]
  · rw [State.wentOn_grids, State.modGroup_grids]
  · rw [State.wentOn_nextGrid, State.modGroup_nextGrid]
  · rw [← hug]; exact s.wentOn_sameRegs _ _ hu
  · rw [State.wentOn_waits _ _ _ hu, hug]; rfl

section
variable {o : QOps} {s : State}

section
variable (hq : s.quiet (.tqget o) = true) (hp : s.doers (.tqget o) ≠ 0) (hs : s.isSvc = false) (hr : s.isRedundant = false)
include hq hp hs hr

/-- TQGET returns a READY task, which is then TAKEN. -/
theorem tqget_found (hx : 0 < o.x) {k : Nat} {x : TqSlot} (h : (s.grid s.team.grid).firstReady = some (k, x)) :
    ∃ t, exec (.tqget o) s = .next t ∧ Answers (.tqget o) [o.x, o.x + 1] s t ∧ t.mem = s.mem
      ∧ t.group.sreg o.x = (taskWords k x).1 ∧ t.group.sreg (o.x + 1) = (taskWords k x).2
      ∧ t.slot s.team.grid k = { x with state := .taken } := by
  have hv : (s.irrevocable.setSlot s.team.grid k { x with state := .taken }).present = true :=
    (State.irrevocable_present s).trans (State.quiet_present hq)
  have hg : (s.irrevocable.setSlot s.team.grid k { x with state := .taken }).group = s.group := State.irrevocable_group s
  obtain ⟨t, he, ha, hm, hgr, _, hregs, _⟩ := compared_answers hq hr (tqgetBody_found hp hs h) hv (by rw [hg]; exact .refl _ _)
    (tqWritten_two_sameBut o _ _ _ _)
  obtain ⟨h0, h1⟩ := tqWritten_two_sreg o (s.doers (.tqget o)) (taskWords k x).1 (taskWords k x).2
    (s.irrevocable.setSlot s.team.grid k { x with state := .taken }).group hx
  refine ⟨t, he, ha, hm, (hregs.sreg _).trans h0, (hregs.sreg _).trans h1, ?_⟩
  exact (State.slot_congr hgr _ _).trans (State.slot_setSlot_same _ _ _ _)

/-- TQGET answers EMPTY when no task is READY and its deadline has passed. -/
theorem tqget_empty (hx : 0 < o.x) (h : (s.grid s.team.grid).firstReady = none) (hd : (s.group.sreg o.sa).toNat ≤ s.cycle) :
    ∃ t, exec (.tqget o) s = .next t ∧ Answers (.tqget o) [o.x, o.x + 1] s t ∧ t.mem = s.mem
      ∧ t.group.sreg o.x = (s.grid s.team.grid).emptyWord ∧ t.group.sreg (o.x + 1) = 0 := by
  have hv : s.irrevocable.present = true := (State.irrevocable_present s).trans (State.quiet_present hq)
  obtain ⟨t, he, ha, hm, _, _, hregs, _⟩ := compared_answers hq hr (tqgetBody_empty hp hs h hd) hv
    (by rw [State.irrevocable_group]; exact .refl _ _) (tqWritten_two_sameBut o _ _ _ _)
  obtain ⟨h0, h1⟩ := tqWritten_two_sreg o (s.doers (.tqget o)) (s.grid s.team.grid).emptyWord 0 s.irrevocable.group hx
  exact ⟨t, he, ha, hm, (hregs.sreg _).trans h0, (hregs.sreg _).trans h1⟩

/-- The threads of TQGET wait while no task is READY and its deadline has not passed. -/
theorem tqget_waits (h : (s.grid s.team.grid).firstReady = none) (hd : s.cycle < (s.group.sreg o.sa).toNat) :
    ∃ t, exec (.tqget o) s = .next t ∧ Answers (.tqget o) [] s t ∧ t.mem = s.mem
      ∧ ⟨s.doers (.tqget o), .tqget o.x (s.group.sreg o.sa).toNat s.reqId (if s.group.frame.isSome then 1 else 0)⟩ ∈ t.group.waits
      ∧ t.group.outstanding = s.group.outstanding ++ [{ req := s.reqId, dests := [.s o.x, .s (o.x + 1)] }] := by
  have hv : s.irrevocable.fresh.1.present = true := (State.irrevocable_present s).trans (State.quiet_present hq)
  have hg : s.irrevocable.fresh.1.group = s.group := State.irrevocable_group s
  obtain ⟨t, he, ha, hm, _, _, hregs, hwaits⟩ := compared_answers hq hr (tqgetBody_waits hp hs h hd) hv
    (by rw [hg]; exact .refl _ _) (tqWaits_sameBut _ _ _ _ _ _)
  rw [hg] at hregs hwaits
  refine ⟨t, he, ha, hm, ?_, hregs.outstanding.trans (tqWaits_outstanding _ _ _ _ _ _)⟩
  rw [hwaits, Group.mem_satisfy_waits _ _ (fun _ => WaitKind.noConfusion)]
  exact tqWaits_mem_waits hp _ _ _ _ _

end

/-- TQGET takes the first READY task; with none it answers EMPTY at its deadline, or its threads wait (R234, R235). -/
theorem tqget_answers (hq : s.quiet (.tqget o) = true) (hp : s.doers (.tqget o) ≠ 0) (hs : s.isSvc = false)
    (hr : s.isRedundant = false) (hx : 0 < o.x) (hc : Canon {} (s.grid s.team.grid).tq = true) :
    ∃ t, exec (.tqget o) s = .next t ∧ Answers (.tqget o) [o.x, o.x + 1] s t ∧ t.mem = s.mem
      ∧ (∀ k x, (k, x) ∈ (s.grid s.team.grid).tq → x.state = .ready →
          (∀ k' y, (k', y) ∈ (s.grid s.team.grid).tq → y.state = .ready → y.prio < x.prio ∨ y.prio = x.prio ∧
            (x.readyCycle < y.readyCycle ∨ x.readyCycle = y.readyCycle ∧ k ≤ k')) →
          t.group.sreg o.x = BitVec.ofNat 64 (x.prio * 2 ^ 12 + k) ∧ t.group.sreg (o.x + 1) = x.payload.setWidth 64
            ∧ t.slot s.team.grid k = { x with state := .taken })
      ∧ ((∀ k x, (k, x) ∈ (s.grid s.team.grid).tq → x.state ≠ .ready) → (s.group.sreg o.sa).toNat ≤ s.cycle →
          t.group.sreg o.x = BitVec.ofNat 64 (2 ^ 63 + (if ∃ kx ∈ (s.grid s.team.grid).tq, kx.2.state = .waiting then 0 else 2 ^ 62))
            ∧ t.group.sreg (o.x + 1) = 0)
      ∧ ((∀ k x, (k, x) ∈ (s.grid s.team.grid).tq → x.state ≠ .ready) → s.cycle < (s.group.sreg o.sa).toNat →
          SameS [] s.group t.group
            ∧ ⟨s.doers (.tqget o), .tqget o.x (s.group.sreg o.sa).toNat s.reqId (if s.group.frame.isSome then 1 else 0)⟩ ∈ t.group.waits
            ∧ t.group.outstanding = s.group.outstanding ++ [{ req := s.reqId, dests := [.s o.x, .s (o.x + 1)] }]) := by
  rcases (s.grid s.team.grid).firstReady_cases with ⟨hnone, hno⟩ | ⟨⟨k, x⟩, hsome, hmem, hready, _⟩
  · rcases Nat.lt_or_ge s.cycle (s.group.sreg o.sa).toNat with hd | hd
    · obtain ⟨t, he, ha, hm, hw, ho⟩ := tqget_waits hq hp hs hr hnone hd
      exact ⟨t, he, { ha with scalars := fun n _ => ha.scalars n List.not_mem_nil }, hm, fun k x hx hxr _ => absurd hxr (hno _ hx),
        fun _ hd' => absurd hd' (Nat.not_le.mpr hd), fun _ _ => ⟨ha.scalars, hw, ho⟩⟩
    · obtain ⟨t, he, ha, hm, h0, h1⟩ := tqget_empty hq hp hs hr hx hnone hd
      exact ⟨t, he, ha, hm, fun k x hx hxr _ => absurd hxr (hno _ hx),
        fun _ _ => ⟨h0.trans (Grid.emptyWord_of_none_ready hno), h1⟩, fun _ hd' => absurd hd' (Nat.not_lt.mpr hd)⟩
  · obtain ⟨t, he, ha, hm, h0, h1, hslot⟩ := tqget_found hq hp hs hr hx hsome
    refine ⟨t, he, ha, hm, fun k' y hy hyr hfirst => ?_, fun h => absurd hready (h _ _ hmem), fun h => absurd hready (h _ _ hmem)⟩
    cases (Grid.firstReady_of_first hc hy hyr hfirst).symm.trans hsome
    exact ⟨h0, h1, hslot⟩

/-! ## RNGGET (R45, R236) -/

/-- What is left of a range that has been set. -/
theorem Grid.left_setRange (g : Grid) (cl sp a b : Nat) : (g.setRange cl sp (a, b)).left cl sp = b - a := by
  unfold Grid.left Grid.range Grid.setRange
  dsimp only
  rw [tget_tput_same]
  split
  · next h => dsimp only at h ⊢; omega
  · rfl

/-- A cluster that has indices left steals none. -/
theorem Grid.steal_of_left {g : Grid} {cl sp : Nat} (h : g.left cl sp ≠ 0) : g.steal cl sp = g := if_pos h

/-- The words that RNGGET writes for a start and a count: beside n = 0 the start is a free value (log 50). -/
def rngWords (s : State) (a n : Nat) : List Dword :=
  [if n = 0 then s.openWord 1 ++ s.openWord 0 else BitVec.ofNat 64 a, BitVec.ofNat 64 n]

/-- RNGGET takes min(max(1, c), left) indices of its cluster's range, which is first filled when it is empty. -/
theorem rnggetBody_eq {iss : Issue} (hp : iss.p ≠ 0) (hs : s.isSvc = false) {c n : Nat} {r : Nat × Nat} {g : Grid}
    (hc : c = bits (s.group.sreg o.sa).toNat 31 0) (hg : g = (s.grid s.team.grid).steal s.team.clid (o.y % 4))
    (hr : r = g.range s.team.clid (o.y % 4)) (hn : n = min (max 1 c) (r.2 - r.1)) :
    rnggetBody o iss s = Res.group (s.irrevocable.setGrid s.team.grid (g.setRange s.team.clid (o.y % 4) (r.1 + n, r.2)))
      (tqWritten o iss.p 2 (rngWords s r.1 n)) := by
  have hn' : n = min (if c = 0 then 1 else c) (r.2 - r.1) := by rw [hn]; split <;> omega
  unfold rnggetBody
  rw [teamOnly_team hs]
  simp only [if_neg hp]
  subst hn' hr hg hc
  rfl

/-- RNGGET answers with the next indices of its cluster's range, which then begins behind them (R45, R236). -/
theorem rngget_answers (hq : s.quiet (.rngget o) = true) (hp : s.doers (.rngget o) ≠ 0) (hs : s.isSvc = false)
    (hr : s.isRedundant = false) (hx : 0 < o.x) :
    let g := (s.grid s.team.grid).steal s.team.clid (o.y % 4)
    let r := g.range s.team.clid (o.y % 4)
    let n := min (max 1 (bits (s.group.sreg o.sa).toNat 31 0)) (r.2 - r.1)
    ∃ t, exec (.rngget o) s = .next t ∧ Answers (.rngget o) [o.x, o.x + 1] s t ∧ t.mem = s.mem
      ∧ (n ≠ 0 → t.group.sreg o.x = BitVec.ofNat 64 r.1) ∧ t.group.sreg (o.x + 1) = BitVec.ofNat 64 n
      ∧ (t.grid s.team.grid).left s.team.clid (o.y % 4) = r.2 - r.1 - n := by
  intro g r n
  have hv : (s.irrevocable.setGrid s.team.grid (g.setRange s.team.clid (o.y % 4) (r.1 + n, r.2))).present = true :=
    (State.irrevocable_present s).trans (State.quiet_present hq)
  have hvg : (s.irrevocable.setGrid s.team.grid (g.setRange s.team.clid (o.y % 4) (r.1 + n, r.2))).group = s.group :=
    State.irrevocable_group s
  obtain ⟨t, he, ha, hm, hgr, _, hregs, _⟩ := compared_answers hq hr (rnggetBody_eq hp hs rfl rfl rfl rfl) hv
    (by rw [hvg]; exact .refl _ _) (tqWritten_two_sameBut o _ _ _ _)
  obtain ⟨h0, h1⟩ := tqWritten_two_sreg o (s.doers (.rngget o)) (if n = 0 then s.openWord 1 ++ s.openWord 0 else BitVec.ofNat 64 r.1)
    (BitVec.ofNat 64 n) s.group hx
  rw [hvg] at hregs
  refine ⟨t, he, ha, hm, fun hn => ((hregs.sreg _).trans h0).trans (if_neg hn), (hregs.sreg _).trans h1, ?_⟩
  have hgrid : t.grid s.team.grid = g.setRange s.team.clid (o.y % 4) (r.1 + n, r.2) := by
    unfold State.grid
    rw [hgr]
    exact tget_tput_same ({} : Grid) _ _ _
  rw [hgrid, Grid.left_setRange]
  omega

/-! ## GLAUNCH (R237, R402, R403) -/

/-- A post does not depend on whether a step is irrevocable. -/
theorem State.irrevocable_postCode (s : State) (r : Rec) (p : Nat) (own : Option Nat) :
    s.irrevocable.postCode r p own = s.postCode r p own := by
  have hfit : s.irrevocable.fitsEmpty r = s.fitsEmpty r := by
    unfold State.fitsEmpty
    simp only [s.irrevocable_retired]
    rfl
  unfold State.postCode
  rw [hfit]
  rfl

theorem State.postRecord_code (s : State) (r : Rec) (p : Nat) (own : Option Nat) : (s.postRecord r p own).2 = s.postCode r p own := by
  unfold State.postRecord
  dsimp only
  split
  · next h => exact h.symm
  · rfl

theorem State.postRecord_mem (s : State) (r : Rec) (p : Nat) (own : Option Nat) : (s.postRecord r p own).1.mem = s.mem := by
  have h : (s.ctxReach (recCtx r)).mem = s.mem := by
    unfold State.ctxReach
    split
    · rfl
    · exact State.mem_reach _ _ _ _
  unfold State.postRecord
  dsimp only
  split <;> exact h

theorem State.postRecord_issuer (s : State) (r : Rec) (p : Nat) (own : Option Nat) : (s.postRecord r p own).1.issuer = s.issuer := by
  have h : (s.ctxReach (recCtx r)).issuer = s.issuer := by
    unfold State.ctxReach
    split
    · rfl
    · exact State.issuer_reach _ _ _ _
  unfold State.postRecord
  dsimp only
  split <;> exact h

theorem State.postRecord_present (s : State) (r : Rec) (p : Nat) (own : Option Nat) : (s.postRecord r p own).1.present = s.present := by
  have h : (s.ctxReach (recCtx r)).present = s.present := State.Kept.present (State.kept_ctxReach rfl)
  unfold State.postRecord
  dsimp only
  split <;> exact h

/-- An accepted record is the level's next entry. -/
theorem State.postRecord_accepted {s : State} {r : Rec} {p : Nat} {own : Option Nat} (h : s.postCode r p own = 0) :
    (s.postRecord r p own).1.grid s.nextGrid = { record := r, postTime := s.cycle } ∧ (s.postRecord r p own).1.nextGrid = s.nextGrid + 1 := by
  have hk : s.Kept (s.ctxReach (recCtx r)) := State.kept_ctxReach rfl
  unfold State.postRecord
  dsimp only
  rw [if_pos h, hk.nextGrid, hk.cycle]
  exact ⟨tget_tput_same ({} : Grid) _ _ _, rfl⟩

theorem State.postRecord_refused {s : State} {r : Rec} {p : Nat} {own : Option Nat} (h : s.postCode r p own ≠ 0) :
    (s.postRecord r p own).1.nextGrid = s.nextGrid := by
  have hk : s.Kept (s.ctxReach (recCtx r)) := State.kept_ctxReach rfl
  unfold State.postRecord
  dsimp only
  rw [if_neg h]
  exact hk.nextGrid

/-- GLAUNCH with the right to launch and a record inside the scratchpad passes its checks. -/
theorem glaunchCheck_none {t : Team} {off : Nat} (hl : t.launch = true) (ha : off % 64 = 0) (hb : off + 64 ≤ t.scratchSize) :
    glaunchCheck t off = none := by
  simp [glaunchCheck, hl, ha, Nat.not_lt.mpr hb]

/-- GLAUNCH posts the record in the scratchpad once the group's stores are performed. -/
theorem glaunchBody_eq {iss : Issue} (hp : iss.p ≠ 0) (hs : s.isSvc = false)
    (hchk : glaunchCheck s.team (s.group.sreg o.sa).toNat = none) {r : Rec}
    (hr : r = BitVec.ofNat 512 (leNat (s.team.scratchBytes (s.group.sreg o.sa).toNat 64))) :
    glaunchBody o iss s = Res.group (s.drainGroup.irrevocable.postRecord r (recPrio r) (some s.team.ctx)).1
      (tqWritten o iss.p 1 [BitVec.ofNat 64 (s.drainGroup.postCode r (recPrio r) (some s.team.ctx))]) := by
  rw [← State.irrevocable_postCode, ← State.postRecord_code]
  unfold glaunchBody
  rw [teamOnly_team hs]
  simp only [if_neg hp, hchk]
  subst hr
  rfl

/-- GLAUNCH answers with the code of its post, and an accepted record is the level's next entry (R237, R403). -/
theorem glaunch_answers (hq : s.quiet (.glaunch o) = true) (hp : s.doers (.glaunch o) ≠ 0) (hs : s.isSvc = false)
    (hr : s.isRedundant = false) (hchk : glaunchCheck s.team (s.group.sreg o.sa).toNat = none) :
    let r : Rec := BitVec.ofNat 512 (leNat (s.team.scratchBytes (s.group.sreg o.sa).toNat 64))
    let code := s.drainGroup.postCode r (recPrio r) (some s.team.ctx)
    ∃ t, exec (.glaunch o) s = .next t ∧ Answers (.glaunch o) [o.x] s t ∧ t.mem = s.drainGroup.mem
      ∧ (o.x ≠ 0 → t.group.sreg o.x = BitVec.ofNat 64 code)
      ∧ (code = 0 → t.grid s.nextGrid = { record := r, postTime := s.cycle } ∧ t.nextGrid = s.nextGrid + 1)
      ∧ (code ≠ 0 → t.nextGrid = s.nextGrid) := by
  intro r code
  have hk : s.Kept s.drainGroup := State.kept_drainGroup rfl
  have hcode : s.drainGroup.irrevocable.postCode r (recPrio r) (some s.team.ctx) = code := State.irrevocable_postCode _ _ _ _
  have hnext : s.drainGroup.irrevocable.nextGrid = s.nextGrid := hk.nextGrid
  have hcycle : s.drainGroup.irrevocable.cycle = s.cycle := hk.cycle
  have hv : (s.drainGroup.irrevocable.postRecord r (recPrio r) (some s.team.ctx)).1.present = true := by
    rw [State.postRecord_present, State.irrevocable_present, hk.present, State.quiet_present hq]
  have hvg : (s.drainGroup.irrevocable.postRecord r (recPrio r) (some s.team.ctx)).1.group = s.drainGroup.group :=
    (congrArg Prod.snd (State.postRecord_issuer _ _ _ _)).trans (State.irrevocable_group _)
  obtain ⟨t, he, ha, hm, hgr, hng, hregs, _⟩ := compared_answers hq hr (glaunchBody_eq hp hs hchk rfl) hv
    (by rw [hvg]; exact Group.sameBut_of_still (hk.group hs)) (tqWritten_one_sameBut o _ _ _)
  refine ⟨t, he, ha, hm.trans (State.postRecord_mem _ _ _ _), fun hx => (hregs.sreg _).trans (tqWritten_one_sreg o _ _ _ hx),
    fun h0 => ?_, fun h0 => ?_⟩
  · obtain ⟨hgrid, hnew⟩ := State.postRecord_accepted (hcode.trans h0)
    rw [hnext, hcycle] at hgrid
    rw [hnext] at hnew
    exact ⟨(congrArg (tget ({} : Grid) · s.nextGrid) hgr).trans hgrid, hng.trans hnew⟩
  · exact hng.trans ((State.postRecord_refused (fun e => h0 (hcode.symm.trans e))).trans hnext)

end

/-- Settles O29: TQGET takes the task that `Grid.firstReady` names (`tqget_answers`), RNGGET the next indices of a range that
`Grid.steal` may have filled (`rngget_answers`), and GLAUNCH posts its record once the group's stores are performed, which
leaves the group as it stands (`State.Kept`, `glaunch_answers`). -/
theorem tasksRangesLaunches : Obligations.TasksRangesLaunches := by
  unfold Obligations.TasksRangesLaunches
  refine ⟨fun o s => ?_, fun o s => ?_, fun o s => ?_⟩
  · intro i gr deadline hq hp hs hr hx hc
    obtain ⟨t, he, ⟨h1, h2, h3, h4, h5, h6⟩, hm, hrest⟩ := tqget_answers hq hp hs hr hx hc
    exact ⟨t, he, h1, h2, h3, h4, h5, h6, hm, hrest⟩
  · intro i gr cl c r n hq hp hs hr hx
    obtain ⟨t, he, ⟨h1, h2, h3, h4, h5, h6⟩, hm, hstart, hcount, hleft⟩ := rngget_answers hq hp hs hr hx
    exact ⟨t, he, h1, h2, h3, h4, h5, h6, hm, hstart, hcount, hleft, fun hl => congrArg (Grid.range · cl (o.y % 4)) (Grid.steal_of_left hl)⟩
  · intro i off r u code hq hp hs hr hl ha hb
    obtain ⟨t, he, ⟨h1, h2, h3, h4, h5, h6⟩, hrest⟩ := glaunch_answers hq hp hs hr (glaunchCheck_none hl ha hb)
    exact ⟨t, he, h1, h2, h3, h4, h5, h6, hrest⟩

end Sys2Proof.Machine
end

section
/-! PROOFS. The magnitudes of codes in the formats with infinities and NaNs. -/
namespace Sys2Proof.Machine
open Sys2Proof

/-! ## The magnitudes of codes (R51 to R53) -/

/-- The significand of a code without its sign, were every exponent field an ordinary one. -/
def Fmt.sig (f : Fmt) (c : Nat) : Nat := if c < 2 ^ f.mb then c else c % 2 ^ f.mb + 2 ^ f.mb
/-- The exponent of a code's unit, above the smallest one. -/
def Fmt.step (f : Fmt) (c : Nat) : Nat := c / 2 ^ f.mb - 1
/-- The magnitude of a code, were every exponent field an ordinary one: `Fmt.mag` of the finite codes (`Fmt.mag_eq`), and still
growing beyond them. -/
def Fmt.ideal (f : Fmt) (c : Nat) : ℚ := f.sig c * 2 ^ (f.qmin + f.step c)

section
variable (f : Fmt)

theorem Fmt.step_mul_add_sig (c : Nat) : f.step c * 2 ^ f.mb + f.sig c = c := by
  unfold Fmt.step Fmt.sig
  have hpos : 0 < 2 ^ f.mb := by positivity
  split
  · next h => simp [Nat.div_eq_of_lt h]
  · next h =>
    have h1 : 1 ≤ c / 2 ^ f.mb := (Nat.one_le_div_iff hpos).mpr (by omega)
    have h2 : 2 ^ f.mb * (c / 2 ^ f.mb) + c % 2 ^ f.mb = c := Nat.div_add_mod c _
    have h3 : (c / 2 ^ f.mb - 1) * 2 ^ f.mb + 2 ^ f.mb = 2 ^ f.mb * (c / 2 ^ f.mb) := by
      rw [← Nat.succ_mul, Nat.succ_eq_add_one, Nat.sub_add_cancel h1, Nat.mul_comm]
    omega

theorem Fmt.sig_lt (c : Nat) : f.sig c < 2 * 2 ^ f.mb := by
  unfold Fmt.sig
  have : c % 2 ^ f.mb < 2 ^ f.mb := Nat.mod_lt _ (by positivity)
  split <;> omega

theorem Fmt.step_eq_zero_or (c : Nat) : f.step c = 0 ∨ 2 ^ f.mb ≤ f.sig c := by
  unfold Fmt.step Fmt.sig
  split
  · next h => simp [Nat.div_eq_of_lt h]
  · exact .inr (by omega)

/-- The code of n units of a binade, the first of the next binade among them. -/
theorem Fmt.ideal_code {k n : Nat} (hn : n ≤ 2 * 2 ^ f.mb) (hk : k = 0 ∨ 2 ^ f.mb ≤ n) :
    f.ideal (k * 2 ^ f.mb + n) = n * 2 ^ (f.qmin + k) := by
  have hpos : 0 < 2 ^ f.mb := by positivity
  rcases Nat.lt_or_ge n (2 ^ f.mb) with h | h
  · obtain rfl : k = 0 := hk.resolve_right (by omega)
    simp [Fmt.ideal, Fmt.sig, Fmt.step, h, Nat.div_eq_of_lt h]
  · rcases Nat.lt_or_ge n (2 * 2 ^ f.mb) with h2 | h2
    · have e : k * 2 ^ f.mb + n = (k + 1) * 2 ^ f.mb + (n - 2 ^ f.mb) := by rw [Nat.add_mul]; omega
      have hd : (k * 2 ^ f.mb + n) / 2 ^ f.mb = k + 1 := by
        rw [e, Nat.add_comm, Nat.add_mul_div_right _ _ hpos, Nat.div_eq_of_lt (by omega)]; omega
      have hm : (k * 2 ^ f.mb + n) % 2 ^ f.mb = n - 2 ^ f.mb := by
        rw [e, Nat.add_comm, Nat.add_mul_mod_self_right, Nat.mod_eq_of_lt (by omega)]
      have hs : f.sig (k * 2 ^ f.mb + n) = n := by
        unfold Fmt.sig; rw [if_neg (by omega), hm]; omega
      rw [Fmt.ideal, hs, Fmt.step, hd, Nat.add_sub_cancel]
    · obtain rfl : n = 2 * 2 ^ f.mb := by omega
      have e : k * 2 ^ f.mb + 2 * 2 ^ f.mb = (k + 2) * 2 ^ f.mb := by ring
      have hs : f.sig ((k + 2) * 2 ^ f.mb) = 2 ^ f.mb := by
        unfold Fmt.sig; rw [if_neg (by nlinarith), Nat.mul_mod_left, Nat.zero_add]
      rw [e, Fmt.ideal, hs, Fmt.step, Nat.mul_div_cancel _ hpos]
      push_cast
      rw [show f.qmin + ((k : ℤ) + 1) = (f.qmin + k) + 1 by ring, zpow_add_one₀ (two_ne_zero)]
      ring

theorem Fmt.ideal_lt_succ (c : Nat) : f.ideal c < f.ideal (c + 1) := by
  have h := f.ideal_code (n := f.sig c + 1) (k := f.step c) (f.sig_lt c) ((f.step_eq_zero_or c).imp_right (by omega))
  rw [← Nat.add_assoc, f.step_mul_add_sig] at h
  rw [h, Fmt.ideal]
  push_cast
  have : (0 : ℚ) < 2 ^ (f.qmin + f.step c) := by positivity
  linarith

theorem Fmt.ideal_strictMono : StrictMono f.ideal := strictMono_nat_of_lt_succ f.ideal_lt_succ

@[simp] theorem Fmt.ideal_zero : f.ideal 0 = 0 := by simp [Fmt.ideal, Fmt.sig]

theorem Fmt.ideal_nonneg (c : Nat) : 0 ≤ f.ideal c := by unfold Fmt.ideal; positivity

theorem Fmt.ideal_one : f.ideal 1 = 2 ^ f.qmin := by
  have := f.ideal_code (k := 0) (n := 1) (by have := Nat.one_le_two_pow (n := f.mb); omega) (.inl rfl)
  simpa using this

/-! ## The sign of a code -/

theorem Fmt.two_pow_mb_pos : 0 < 2 ^ f.mb ∧ 2 ^ f.mb * 2 ^ f.eb = f.signBit := by
  refine ⟨by positivity, ?_⟩
  rw [Fmt.signBit, Nat.add_comm, pow_add]

theorem Fmt.infCode_lt_signBit : f.infCode < f.signBit := by
  obtain ⟨hpos, he⟩ := f.two_pow_mb_pos
  have h1 : 1 ≤ 2 ^ f.eb := Nat.one_le_two_pow
  rw [← he, Fmt.infCode, Nat.mul_comm]
  exact Nat.mul_lt_mul_of_pos_left (by omega) hpos

theorem Fmt.bit_sgn {m : Nat} (h : m < f.signBit) (neg : Bool) : bit (f.sgn neg m) (f.eb + f.mb) = neg := by
  unfold bit Fmt.sgn Fmt.signBit at *
  cases neg with
  | false => simp [Nat.div_eq_of_lt h]
  | true =>
    rw [if_pos rfl, Nat.add_div_left _ (by positivity), Nat.div_eq_of_lt h]
    rfl

theorem Fmt.sgn_mod {m : Nat} (h : m < f.signBit) (neg : Bool) : f.sgn neg m % f.signBit = m := by
  unfold Fmt.sgn
  cases neg with
  | false => exact Nat.mod_eq_of_lt h
  | true => rw [if_pos rfl, Nat.add_mod_left, Nat.mod_eq_of_lt h]

/-- The exponent and the fraction field of a code do not depend on its sign. -/
theorem Fmt.sgn_fields (c : Nat) (neg : Bool) :
    f.sgn neg c / 2 ^ f.mb % 2 ^ f.eb = c / 2 ^ f.mb % 2 ^ f.eb ∧ f.sgn neg c % 2 ^ f.mb = c % 2 ^ f.mb := by
  obtain ⟨hpos, he⟩ := f.two_pow_mb_pos
  unfold Fmt.sgn
  cases neg with
  | false => exact ⟨rfl, rfl⟩
  | true => rw [if_pos rfl, ← he, Nat.mul_add_div hpos, Nat.add_mod_left, Nat.mul_add_mod]; exact ⟨rfl, rfl⟩

end

/-- The formats with infinities and NaNs, of which F32, BF16 and F16 are three (R52). -/
structure Fmt.Standard (f : Fmt) : Prop where
  ieee : f.ieee = true
  fraction : 2 ≤ f.mb
  exponent : 2 ≤ f.eb
  bias : f.bias = 2 ^ (f.eb - 1) - 1

theorem standard_of_mem {f : Fmt} (h : f ∈ [F32, BF16, F16]) : f.Standard := by
  simp only [List.mem_cons, List.not_mem_nil, or_false] at h
  rcases h with rfl | rfl | rfl <;> exact ⟨rfl, by decide, by decide, by decide⟩

section
variable {f : Fmt} (hf : f.Standard)
include hf

theorem Fmt.Standard.maxCode_succ : f.maxCode + 1 = f.infCode := by
  have h4 : 2 ^ 2 ≤ 2 ^ f.eb := Nat.pow_le_pow_right (by omega) hf.exponent
  have : 0 < f.infCode := Nat.mul_pos (by omega) f.two_pow_mb_pos.1
  rw [Fmt.maxCode, if_pos hf.ieee, Fmt.infCode] at *
  omega

/-- The value of a finite code of either sign. -/
theorem Fmt.Standard.val_sgn {c : Nat} (h : c ≤ f.maxCode) (neg : Bool) :
    f.val (f.sgn neg c) = .fin neg (f.sig c) (f.qmin + f.step c) := by
  have hc : c < f.infCode := by have := hf.maxCode_succ; omega
  obtain ⟨he, hm⟩ := f.sgn_fields c neg
  have hfield : c / 2 ^ f.mb < 2 ^ f.eb - 1 := Nat.div_lt_of_lt_mul (by rw [Nat.mul_comm]; exact hc)
  have hmod : c / 2 ^ f.mb % 2 ^ f.eb = c / 2 ^ f.mb := Nat.mod_eq_of_lt (by omega)
  unfold Fmt.val
  simp only [f.bit_sgn (hc.trans f.infCode_lt_signBit), he, hm, hmod]
  rw [if_neg (by omega)]
  unfold Fmt.sig Fmt.step
  by_cases hz : c < 2 ^ f.mb
  · simp [Nat.div_eq_of_lt hz, Nat.mod_eq_of_lt hz, hz]
  · have h1 : 1 ≤ c / 2 ^ f.mb := (Nat.one_le_div_iff f.two_pow_mb_pos.1).mpr (by omega)
    rw [if_neg (by omega), if_neg hz, Nat.cast_sub h1]
    congr 1
    push_cast
    ring

theorem Fmt.Standard.val_finite {c : Nat} (h : c ≤ f.maxCode) : f.val c = .fin false (f.sig c) (f.qmin + f.step c) :=
  hf.val_sgn h false

/-- The magnitude of a finite code. -/
theorem Fmt.Standard.mag_eq {c : Nat} (h : c ≤ f.maxCode) : f.mag c = f.ideal c := by
  rw [Fmt.mag, hf.val_finite h, Fmt.ideal]

theorem Fmt.Standard.val_inf (neg : Bool) : f.val (f.sgn neg f.infCode) = .inf neg := by
  obtain ⟨he, hm⟩ := f.sgn_fields f.infCode neg
  have hd : f.infCode / 2 ^ f.mb % 2 ^ f.eb = 2 ^ f.eb - 1 := by
    rw [Fmt.infCode, Nat.mul_div_cancel _ f.two_pow_mb_pos.1]
    exact Nat.mod_eq_of_lt (Nat.sub_lt (by positivity) one_pos)
  have hz : f.infCode % 2 ^ f.mb = 0 := Nat.mul_mod_left _ _
  unfold Fmt.val
  simp only [f.bit_sgn f.infCode_lt_signBit, he, hm, hd, hz]
  simp [hf.ieee]

/-- The first power of two beyond the finite codes. -/
theorem Fmt.Standard.ideal_infCode : f.ideal f.infCode = 2 ^ (2 ^ (f.eb - 1) : Nat) := by
  obtain ⟨j, hj⟩ := Nat.exists_eq_add_of_le hf.exponent
  have h2 : 2 ^ f.eb = 2 * 2 ^ (f.eb - 1) := by rw [← pow_succ']; congr 1; omega
  have h1 : 2 ≤ 2 ^ (f.eb - 1) := by
    calc 2 = 2 ^ 1 := rfl
      _ ≤ _ := Nat.pow_le_pow_right (by omega) (by have := hf.exponent; omega)
  have e : f.infCode = (2 ^ f.eb - 2) * 2 ^ f.mb + 2 ^ f.mb := by
    rw [Fmt.infCode, ← Nat.succ_mul]; congr 1; omega
  rw [e, f.ideal_code (by omega) (.inr le_rfl), Fmt.qmin, hf.bias]
  push_cast [h2, Nat.cast_sub (show 2 ≤ 2 * 2 ^ (f.eb - 1) by omega), Nat.cast_sub (show 1 ≤ 2 ^ (f.eb - 1) by omega)]
  rw [← zpow_natCast, ← zpow_natCast (2 : ℚ) (2 ^ _), ← zpow_add₀ two_ne_zero]
  congr 1
  push_cast
  ring

end
end Sys2Proof.Machine
end

section
/-! PROOFS. The rounding of F32, BF16 and F16 (O13). -/
namespace Sys2Proof.Machine
open Sys2Proof

/-! ## Quotients in units of a power of two -/

/-- A numerator and a denominator, shifted by a power of two. -/
def shiftNum (num : Nat) (sh : Int) : Nat := if 0 ≤ sh then num * 2 ^ sh.toNat else num
def shiftDen (den : Nat) (sh : Int) : Nat := if 0 ≤ sh then den else den * 2 ^ (-sh).toNat

theorem shiftDen_pos {den : Nat} (h : 0 < den) (sh : Int) : 0 < shiftDen den sh := by
  unfold shiftDen; split <;> positivity

theorem shiftNum_div_shiftDen (num den : Nat) (sh : Int) :
    (shiftNum num sh : ℚ) / shiftDen den sh = num / den * 2 ^ sh := by
  unfold shiftNum shiftDen
  split
  · next h =>
    obtain ⟨n, rfl⟩ := Int.eq_ofNat_of_zero_le h
    simp [div_mul_eq_mul_div]
  · next h =>
    obtain ⟨n, rfl⟩ : ∃ n : Nat, sh = -n := ⟨sh.natAbs, by omega⟩
    simp [zpow_neg, div_eq_mul_inv, mul_comm, mul_assoc]

/-- A quotient, its integer part, and its remainder. -/
theorem div_eq_add_rem (a : Nat) {b : Nat} (hb : 0 < b) : (a : ℚ) / b = (a / b : Nat) + (a % b : Nat) / b := by
  have hq : (b : ℚ) ≠ 0 := by exact_mod_cast hb.ne'
  have e : (b : ℚ) * (a / b : Nat) + (a % b : Nat) = a := by exact_mod_cast Nat.div_add_mod a b
  field_simp
  linarith

/-- The logarithm of a quotient. -/
theorem fracLog_bounds {a b : Nat} (ha : 0 < a) (hb : 0 < b) :
    (2 : ℚ) ^ fracLog a b ≤ a / b ∧ (a : ℚ) / b < 2 ^ (fracLog a b + 1) := by
  have hbq : (0 : ℚ) < b := by exact_mod_cast hb
  let k : Int := (Nat.log2 a : Int) - Nat.log2 b
  have hlt : (if 0 ≤ k then a < b * 2 ^ k.toNat else a * 2 ^ (-k).toNat < b) ↔ (a : ℚ) / b < 2 ^ k := by
    rw [div_lt_iff₀ hbq]
    split
    · next h =>
      obtain ⟨n, hn⟩ := Int.eq_ofNat_of_zero_le h
      rw [hn, Int.toNat_natCast, zpow_natCast, mul_comm]
      exact_mod_cast Iff.rfl
    · next h =>
      obtain ⟨n, hn⟩ : ∃ n : Nat, k = -n := ⟨k.natAbs, by omega⟩
      rw [hn, neg_neg, Int.toNat_natCast, zpow_neg, zpow_natCast, inv_mul_eq_div, lt_div_iff₀ (by positivity)]
      exact_mod_cast Iff.rfl
  have a1 : ((2 : ℚ) ^ Nat.log2 a) ≤ a := by exact_mod_cast Nat.log2_self_le ha.ne'
  have a2 : (a : ℚ) < 2 ^ (Nat.log2 a + 1) := by exact_mod_cast Nat.lt_log2_self
  have b1 : ((2 : ℚ) ^ Nat.log2 b) ≤ b := by exact_mod_cast Nat.log2_self_le hb.ne'
  have b2 : (b : ℚ) < 2 ^ (Nat.log2 b + 1) := by exact_mod_cast Nat.lt_log2_self
  have hk : (2 : ℚ) ^ k = 2 ^ Nat.log2 a / 2 ^ Nat.log2 b := by
    rw [zpow_sub₀ two_ne_zero, zpow_natCast, zpow_natCast]
  have low : (2 : ℚ) ^ (k - 1) ≤ a / b := by
    rw [zpow_sub_one₀ two_ne_zero, hk, ← div_eq_mul_inv, div_div, ← pow_succ]
    gcongr
  have high : (a : ℚ) / b < 2 ^ (k + 1) := by
    rw [zpow_add_one₀ two_ne_zero, hk, div_mul_eq_mul_div, ← pow_succ]
    gcongr
  have e : fracLog a b = if (a : ℚ) / b < 2 ^ k then k - 1 else k := by
    by_cases h : (a : ℚ) / b < 2 ^ k
    · rw [if_pos h]; exact if_pos (hlt.mpr h)
    · rw [if_neg h]; exact if_neg (fun h' => h (hlt.mp h'))
  rw [e]
  split
  · next h => exact ⟨low, by rwa [sub_add_cancel]⟩
  · next h => exact ⟨not_lt.mp h, high⟩

/-! ## The code at or below a number -/

/-- c is the largest code whose magnitude does not exceed x. -/
structure Fmt.Floor (f : Fmt) (x : ℚ) (c : Nat) : Prop where
  le : f.ideal c ≤ x
  lt : x < f.ideal (c + 1)

/-- The code of n units of 2^q. -/
def Fmt.codeOf (f : Fmt) (n : Nat) (q : Int) : Nat := (q - f.qmin).toNat * 2 ^ f.mb + n

/-- The exponent of the unit in which a number of exponent lg is rounded. -/
def Fmt.quantum (f : Fmt) (lg : Int) : Int := max (lg - f.mb) f.qmin

/-- The units of a number of exponent lg fill one binade, or lie in the lowest. -/
theorem Fmt.units_bounds (f : Fmt) {lg : Int} {n : Nat} (hlt : (n : ℚ) * 2 ^ f.quantum lg < 2 ^ (lg + 1))
    (hgt : (2 : ℚ) ^ lg < (n + 1) * 2 ^ f.quantum lg) :
    n < 2 * 2 ^ f.mb ∧ (f.quantum lg = f.qmin ∨ 2 ^ f.mb ≤ n) := by
  have hq : (0 : ℚ) < 2 ^ f.quantum lg := by positivity
  unfold Fmt.quantum at *
  rcases le_total f.qmin (lg - f.mb) with h | h
  · rw [max_eq_left h] at *
    have e : (2 : ℚ) ^ lg = 2 ^ f.mb * 2 ^ (lg - f.mb) := by
      rw [← zpow_natCast, ← zpow_add₀ two_ne_zero]; congr 1; ring
    have h1 : (n : ℚ) < 2 * 2 ^ f.mb := by
      rw [zpow_add_one₀ two_ne_zero, e, mul_right_comm] at hlt
      linarith [lt_of_mul_lt_mul_right hlt hq.le]
    have h2 : (2 : ℚ) ^ f.mb < n + 1 := by rw [e] at hgt; exact lt_of_mul_lt_mul_right hgt hq.le
    exact ⟨by exact_mod_cast h1, .inr (Nat.lt_succ_iff.mp (by exact_mod_cast h2))⟩
  · rw [max_eq_right h] at *
    have e : (2 : ℚ) ^ (lg + 1) ≤ 2 * 2 ^ f.mb * 2 ^ f.qmin := by
      rw [← zpow_natCast, ← zpow_one_add₀ two_ne_zero, ← zpow_add₀ two_ne_zero]
      exact zpow_le_zpow_right₀ one_le_two (by omega)
    have h1 : (n : ℚ) < 2 * 2 ^ f.mb := lt_of_mul_lt_mul_right (hlt.trans_le e) hq.le
    exact ⟨by exact_mod_cast h1, .inl rfl⟩

theorem Fmt.ideal_codeOf (f : Fmt) {lg : Int} {n : Nat}
    (h : n < 2 * 2 ^ f.mb ∧ (f.quantum lg = f.qmin ∨ 2 ^ f.mb ≤ n)) :
    f.ideal (f.codeOf n (f.quantum lg)) = n * 2 ^ f.quantum lg
      ∧ f.ideal (f.codeOf n (f.quantum lg) + 1) = (n + 1) * 2 ^ f.quantum lg := by
  obtain ⟨hn, hk⟩ := h
  have hq : f.qmin ≤ f.quantum lg := le_max_right _ _
  have e : f.qmin + ((f.quantum lg - f.qmin).toNat : Int) = f.quantum lg := by omega
  have h0 : (f.quantum lg - f.qmin).toNat = 0 ∨ 2 ^ f.mb ≤ n := hk.imp_left (by omega)
  refine ⟨by rw [Fmt.codeOf, f.ideal_code hn.le h0, e], ?_⟩
  rw [Fmt.codeOf, Nat.add_assoc, f.ideal_code (by omega) (h0.imp_right (by omega)), e]
  push_cast
  rfl

/-- The remainder of a rounding, as a part of a unit. -/
theorem rem_bounds (a : Nat) {b : Nat} (hb : 0 < b) :
    (0 : ℚ) ≤ (a % b : Nat) / b ∧ ((a % b : Nat) : ℚ) / b < 1 := by
  have hq : (0 : ℚ) < b := by exact_mod_cast hb
  refine ⟨by positivity, ?_⟩
  rw [div_lt_one hq]
  exact_mod_cast Nat.mod_lt a hb

theorem rem_eq_zero_iff (rem : Nat) {b : Nat} (hb : 0 < b) : rem = 0 ↔ (rem : ℚ) / b = 0 := by
  have hq : (b : ℚ) ≠ 0 := by exact_mod_cast hb.ne'
  rw [div_eq_zero_iff, or_iff_left hq, Nat.cast_eq_zero]

/-- A rounding in units of 2^q: the integer below, with one more when the mode says so of the remainder. -/
theorem roundUnits_eq (mode : Nat) (neg : Bool) (num den : Nat) (e q : Int) :
    let a := shiftNum num (e - q)
    let b := shiftDen den (e - q)
    roundUnits mode neg num den e q =
      (if roundsUp mode neg (a / b % 2 = 1) (2 * (a % b)) b then a / b + 1 else a / b, decide (a % b = 0)) := rfl

/-- The logarithm of num/den·2^e. -/
theorem frac_bounds {num den : Nat} (hn : 0 < num) (hd : 0 < den) (e : Int) :
    (2 : ℚ) ^ (fracLog num den + e) ≤ num / den * 2 ^ e ∧ (num : ℚ) / den * 2 ^ e < 2 ^ (fracLog num den + e + 1) := by
  obtain ⟨l1, l2⟩ := fracLog_bounds hn hd
  rw [add_right_comm, zpow_add₀ two_ne_zero, zpow_add₀ two_ne_zero]
  exact ⟨mul_le_mul_of_nonneg_right l1 (by positivity), mul_lt_mul_of_pos_right l2 (by positivity)⟩

/-- The units of a number at the quantum of its exponent give the code at or below it. -/
theorem Fmt.floor_units (f : Fmt) {num den : Nat} (hn : 0 < num) (hd : 0 < den) (e : Int) :
    let q := f.quantum (fracLog num den + e)
    let a := shiftNum num (e - q)
    let b := shiftDen den (e - q)
    let c := f.codeOf (a / b) q
    let x : ℚ := num / den * 2 ^ e
    0 < b ∧ f.ideal c = (a / b : Nat) * 2 ^ q ∧ f.ideal (c + 1) = ((a / b : Nat) + 1) * 2 ^ q
      ∧ x = ((a / b : Nat) + (a % b : Nat) / b) * 2 ^ q ∧ f.Floor x c := by
  intro q a b c x
  have hb : 0 < b := shiftDen_pos hd _
  have hq : (0 : ℚ) < 2 ^ q := by positivity
  obtain ⟨r0, r1⟩ := rem_bounds a hb
  have hx : x = ((a / b : Nat) + (a % b : Nat) / b) * 2 ^ q := by
    rw [← div_eq_add_rem a hb, shiftNum_div_shiftDen, mul_assoc, ← zpow_add₀ two_ne_zero, sub_add_cancel]
  obtain ⟨x1, x2⟩ := frac_bounds hn hd e
  have low : (a / b : Nat) * 2 ^ q ≤ x := by rw [hx]; exact mul_le_mul_of_nonneg_right (by linarith) hq.le
  have high : x < ((a / b : Nat) + 1) * 2 ^ q := by rw [hx]; exact mul_lt_mul_of_pos_right (by linarith) hq
  obtain ⟨c1, c2⟩ := f.ideal_codeOf (f.units_bounds (low.trans_lt x2) (x1.trans_lt high))
  exact ⟨hb, c1, c2, hx, by rw [c1]; exact low, by rw [c2]; exact high⟩

/-! ## The rounding of a magnitude (R67, R68) -/

/-- The mode rounds a number of this sign toward zero. -/
def TowardZero (mode : Nat) (neg : Bool) : Prop := mode = 1 ∨ mode = 2 ∧ neg = true ∨ mode = 3 ∧ neg = false

/-- Whether a mode takes the code above c, of the two codes beside x. -/
structure Fmt.Takes (f : Fmt) (mode : Nat) (neg : Bool) (x : ℚ) (c : Nat) (up : Bool) : Prop where
  exact : x = f.ideal c → up = false
  nearDown : mode = 0 → up = false → 2 * x ≤ f.ideal c + f.ideal (c + 1)
    ∧ (2 * x = f.ideal c + f.ideal (c + 1) → c % 2 = 0)
  nearUp : mode = 0 → up = true → f.ideal c + f.ideal (c + 1) ≤ 2 * x
    ∧ (2 * x = f.ideal c + f.ideal (c + 1) → c % 2 = 1)
  toward : TowardZero mode neg → up = false
  away : mode ≠ 0 → ¬ TowardZero mode neg → x ≠ f.ideal c → up = true

/-- A directed mode takes the code above every inexact number, unless it rounds toward zero. -/
theorem roundsUp_directed {mode : Nat} (hmode : mode < 4) (h0 : mode ≠ 0) {neg odd : Bool} {rem2 b : Nat} (hr : rem2 ≠ 0) :
    roundsUp mode neg odd rem2 b = true ↔ ¬ TowardZero mode neg := by
  obtain rfl | rfl | rfl : mode = 1 ∨ mode = 2 ∨ mode = 3 := by omega
  · simp [roundsUp, TowardZero]
  · simp [roundsUp, TowardZero, hr]
  · simp [roundsUp, TowardZero, hr]

/-- `roundsUp` takes the code above as the mode says: c lies `rem/b` of a unit below x, and has the parity of its units. -/
theorem Fmt.takes_roundsUp (f : Fmt) {mode : Nat} (hmode : mode < 4) (neg : Bool) {x u : ℚ} {c n rem b : Nat} (hu : 0 < u)
    (hb : 0 < b) (h0 : f.ideal c = n * u) (h1 : f.ideal (c + 1) = (n + 1) * u) (hx : x = (n + (rem : ℚ) / b) * u)
    (hpar : c % 2 = n % 2) : f.Takes mode neg x c (roundsUp mode neg (n % 2 = 1) (2 * rem) b) := by
  have hbq : (0 : ℚ) < b := by exact_mod_cast hb
  have hexact : x = f.ideal c ↔ rem = 0 := by
    rw [hx, h0, mul_left_inj' hu.ne', add_eq_left, rem_eq_zero_iff rem hb]
  have hle : 2 * x ≤ f.ideal c + f.ideal (c + 1) ↔ 2 * rem ≤ b := by
    have : f.ideal c + f.ideal (c + 1) - 2 * x = (1 - 2 * rem / b) * u := by rw [hx, h0, h1]; ring
    rw [← sub_nonneg, this, mul_nonneg_iff_of_pos_right hu, sub_nonneg, div_le_one hbq]
    exact_mod_cast Iff.rfl
  have hge : f.ideal c + f.ideal (c + 1) ≤ 2 * x ↔ b ≤ 2 * rem := by
    have : 2 * x - (f.ideal c + f.ideal (c + 1)) = (2 * rem / b - 1) * u := by rw [hx, h0, h1]; ring
    rw [← sub_nonneg, this, mul_nonneg_iff_of_pos_right hu, sub_nonneg, one_le_div hbq]
    exact_mod_cast Iff.rfl
  have heq : 2 * x = f.ideal c + f.ideal (c + 1) ↔ 2 * rem = b := by
    rw [le_antisymm_iff, hle, hge, le_antisymm_iff]
  by_cases hr : rem = 0
  · subst hr
    exact ⟨fun _ => rfl, fun _ _ => ⟨hle.mpr (by omega), fun h => by have := heq.mp h; omega⟩, fun _ h => Bool.noConfusion h,
      fun _ => rfl, fun _ _ h => absurd (hexact.mpr rfl) h⟩
  · have h2 : 2 * rem ≠ 0 := by omega
    refine ⟨fun h => absurd (hexact.mp h) hr, ?_, ?_, ?_, ?_⟩
    · rintro rfl h
      simp only [roundsUp, if_neg h2, if_true, Bool.or_eq_false_iff, Bool.and_eq_false_iff, decide_eq_false_iff_not] at h
      exact ⟨hle.mpr (by omega), fun he => by have := heq.mp he; omega⟩
    · rintro rfl h
      simp only [roundsUp, if_neg h2, if_true, Bool.or_eq_true, Bool.and_eq_true, decide_eq_true_eq] at h
      exact ⟨hge.mpr (by omega), fun he => by have := heq.mp he; omega⟩
    · intro ht
      have hm : mode ≠ 0 := by unfold TowardZero at ht; omega
      rw [Bool.eq_false_iff, Ne, roundsUp_directed hmode hm h2]
      exact not_not_intro ht
    · exact fun hm ht _ => (roundsUp_directed hmode hm h2).mpr ht

theorem Fmt.codeOf_parity (f : Fmt) (hm : 1 ≤ f.mb) (n : Nat) (q : Int) : f.codeOf n q % 2 = n % 2 := by
  obtain ⟨j, hj⟩ := Nat.exists_eq_add_of_le hm
  rw [Fmt.codeOf, hj, pow_add, pow_one, Nat.mul_left_comm, Nat.mul_add_mod]

/-- The one rounding: the code at or below x or the next, as the mode takes it; past the largest finite code an overflow. -/
theorem Fmt.round_spec (f : Fmt) (hi : f.ieee = true) (hm : 1 ≤ f.mb) {mode : Nat} (hmode : mode < 4) (neg : Bool)
    {num den : Nat} (hn : 0 < num) (hd : 0 < den) (e : Int) :
    let r := f.round mode false neg num den e
    let x : ℚ := num / den * 2 ^ e
    ∃ c up, f.Floor x c ∧ f.Takes mode neg x c up ∧ (let c' := if up then c + 1 else c
      (f.maxCode < c' → r.fl &&& fOVF ≠ 0 ∧ ∃ m, (m = f.infCode ∨ m = f.maxCode) ∧ r.code = f.sgn neg m)
      ∧ (c' ≤ f.maxCode → r.code = f.sgn neg c' ∧ r.fl &&& fOVF = 0 ∧ (r.fl &&& fINX ≠ 0 ↔ x ≠ f.ideal c))) := by
  intro r x
  obtain ⟨hb, c1, c2, hx, hfl⟩ := f.floor_units hn hd e
  have hr : r = f.round mode false neg num den e := rfl
  unfold Fmt.round at hr
  rw [if_neg hn.ne'] at hr
  simp only [roundUnits_eq, hi, Bool.not_true, Bool.false_eq_true, or_self, if_false] at hr
  generalize hlg : fracLog num den + e = lg at *
  rw [show max (lg - (f.mb : Int)) f.qmin = f.quantum lg from rfl] at hr
  generalize f.quantum lg = q at *
  generalize shiftNum num (e - q) = a at *
  generalize shiftDen den (e - q) = b at *
  have ht := f.takes_roundsUp hmode neg (by positivity) hb c1 c2 hx (f.codeOf_parity hm _ q)
  have hex : a % b = 0 ↔ x = f.ideal (f.codeOf (a / b) q) := by
    rw [rem_eq_zero_iff _ hb, c1, show x = _ from hx, mul_left_inj' (by positivity), add_eq_left]
  generalize roundsUp mode neg (a / b % 2 = 1) (2 * (a % b)) b = up at *
  have hcode : (q - f.qmin).toNat * 2 ^ f.mb + (if up = true then a / b + 1 else a / b) =
      if up = true then f.codeOf (a / b) q + 1 else f.codeOf (a / b) q := by
    cases up <;> rfl
  rw [hcode] at hr
  refine ⟨_, up, hfl, ht, fun h => ?_, fun h => ?_⟩
  · rw [if_pos h] at hr
    rw [hr]
    exact ⟨(by decide : (fOVF ||| fINX) &&& fOVF ≠ 0), _, ite_eq_or_eq _ _ _, rfl⟩
  · rw [if_neg (by omega)] at hr
    rw [hr]
    by_cases hz : a % b = 0
    · simp [hz, hex.mp hz]
    · have hz' := fun h => hz (hex.mpr h)
      refine ⟨rfl, ?_, fun _ => hz', fun _ => ?_⟩ <;>
      · simp only [hz, decide_false, Bool.false_eq_true, if_false]
        split <;> decide

/-- The code that is taken to nearest is nearest, and even between two that are. -/
theorem Fmt.Takes.nearest {f : Fmt} {neg : Bool} {x : ℚ} {c : Nat} {up : Bool} (hfl : f.Floor x c) (ht : f.Takes 0 neg x c up)
    (d : Nat) : let c' := if up then c + 1 else c
    |x - f.ideal c'| ≤ |x - f.ideal d| ∧ (|x - f.ideal c'| = |x - f.ideal d| → d = c' ∨ c' % 2 = 0) := by
  intro c'
  obtain ⟨h0, h1⟩ := hfl
  rcases Nat.lt_or_ge c d with hd | hd
  · have hmono : f.ideal (c + 1) ≤ f.ideal d := f.ideal_strictMono.monotone hd
    rw [abs_of_neg (by linarith : x - f.ideal d < 0)]
    cases up with
    | false =>
      obtain ⟨hle, heq⟩ := ht.nearDown rfl rfl
      rw [show c' = c from rfl, abs_of_nonneg (by linarith)]
      exact ⟨by linarith, fun h => .inr (heq (by linarith))⟩
    | true =>
      rw [show c' = c + 1 from rfl, abs_of_neg (by linarith)]
      exact ⟨by linarith, fun h => .inl (f.ideal_strictMono.injective (by linarith))⟩
  · have hmono : f.ideal d ≤ f.ideal c := f.ideal_strictMono.monotone hd
    rw [abs_of_nonneg (by linarith : 0 ≤ x - f.ideal d)]
    cases up with
    | false =>
      rw [show c' = c from rfl, abs_of_nonneg (by linarith)]
      exact ⟨by linarith, fun h => .inl (f.ideal_strictMono.injective (by linarith))⟩
    | true =>
      obtain ⟨hge, heq⟩ := ht.nearUp rfl rfl
      rw [show c' = c + 1 from rfl, abs_of_neg (by linarith)]
      exact ⟨by linarith, fun h => .inr (by have := heq (by linarith); omega)⟩

/-- A code that is taken upward, if it has to be, is the least whose magnitude is not below x. -/
theorem Fmt.Takes.least {f : Fmt} {mode : Nat} {neg : Bool} {x : ℚ} {c : Nat} {up : Bool} (hfl : f.Floor x c)
    (ht : f.Takes mode neg x c up) (hm : mode ≠ 0) (hz : ¬ TowardZero mode neg) : let c' := if up then c + 1 else c
    x ≤ f.ideal c' ∧ ∀ d, x ≤ f.ideal d → f.ideal c' ≤ f.ideal d := by
  intro c'
  by_cases hx : x = f.ideal c
  · have hc : c' = c := by rw [show c' = if up then c + 1 else c from rfl, ht.exact hx]; rfl
    rw [hc, ← hx]; exact ⟨le_rfl, fun _ h => h⟩
  · have hc : c' = c + 1 := by rw [show c' = if up then c + 1 else c from rfl, ht.away hm hz hx]; rfl
    rw [hc]
    refine ⟨hfl.lt.le, fun d h => f.ideal_strictMono.monotone (Nat.succ_le_of_lt ?_)⟩
    exact f.ideal_strictMono.lt_iff_lt.mp (lt_of_le_of_ne hfl.le (Ne.symm hx) |>.trans_le h)

theorem Fmt.Floor.greatest {f : Fmt} {x : ℚ} {c : Nat} (hfl : f.Floor x c) {d : Nat} (h : f.ideal d ≤ x) :
    f.ideal d ≤ f.ideal c :=
  f.ideal_strictMono.monotone (Nat.lt_succ_iff.mp (f.ideal_strictMono.lt_iff_lt.mp (h.trans_lt hfl.lt)))

/-- Settles O13: the rounding finds the code at or below x (`Fmt.floor_units`) and takes it or the next one as the mode says of
the remainder (`Fmt.round_spec`); of the two the statement names the one that is nearest, or the one toward the mode's side. -/
theorem floatRounds : Obligations.FloatRounds := by
  unfold Obligations.FloatRounds
  intro f hf mode neg num den e hmode hn hd r x c down
  have hs := standard_of_mem hf
  have hlt := f.infCode_lt_signBit
  have hmax := hs.maxCode_succ
  obtain ⟨c₀, up, hfl, ht, hover, hfin⟩ := f.round_spec hs.ieee (by have := hs.fraction; omega) hmode neg hn hd e
  rcases Nat.lt_or_ge f.maxCode (if up then c₀ + 1 else c₀) with h | h
  · obtain ⟨hov, m, hm, hcode⟩ := hover h
    rw [show r.code = _ from hcode, f.bit_sgn (by omega)]
    exact ⟨rfl, fun h => absurd h hov⟩
  · obtain ⟨hcode, -, hinx⟩ := hfin h
    have hc : c = if up then c₀ + 1 else c₀ := by
      show r.code % f.signBit = _
      rw [show r.code = _ from hcode, f.sgn_mod (by omega)]
    have hmag : ∀ d ≤ f.maxCode, f.mag d = f.ideal d := fun d h => hs.mag_eq h
    rw [show r.code = _ from hcode, f.bit_sgn (by omega)]
    refine ⟨rfl, fun _ => ⟨by omega, fun h0 d hd => ?_, fun hdown => ?_, fun h0 hdown => ?_, ?_⟩⟩
    · subst h0
      rw [hmag d hd, hmag c (by omega), hc]
      exact ht.nearest hfl d
    · rw [hmag c (by omega), hc, ht.toward hdown]
      exact ⟨hfl.le, fun d hd h => by rw [hmag d hd] at h ⊢; exact hfl.greatest h⟩
    · obtain ⟨hle, hleast⟩ := ht.least hfl h0 hdown
      rw [hmag c (by omega), hc]
      exact ⟨hle, fun d hd h => by rw [hmag d hd] at h ⊢; exact hleast d h⟩
    · rw [show (r.fl &&& fINX ≠ 0 ↔ x ≠ f.ideal c₀) from hinx, hmag c (by omega), hc, not_iff_not]
      cases hup : up with
      | false => exact eq_comm
      | true =>
        have hne : x ≠ f.ideal c₀ := fun h => by have := ht.exact h; rw [hup] at this; exact Bool.noConfusion this
        exact ⟨fun h => absurd h hne, fun h => absurd h hfl.lt.ne'⟩

end Sys2Proof.Machine
end

section
/-! PROOFS. Results beside a code: quotients, square roots, and exponentials beyond the finite codes. -/
namespace Sys2Proof.Machine
open Sys2Proof

/-! ## The code at or below a quotient or a root -/

theorem sqrtDigits_bounds (v k r : Nat) (h1 : r ^ 2 ≤ v) (h2 : v < (r + 2 ^ k) ^ 2) :
    sqrtDigits v k r ^ 2 ≤ v ∧ v < (sqrtDigits v k r + 1) ^ 2 := by
  induction k generalizing r with
  | zero => exact ⟨h1, h2⟩
  | succ k ih =>
    have e : r + 2 ^ (k + 1) = r + 2 ^ k + 2 ^ k := by rw [pow_succ]; omega
    unfold sqrtDigits
    split
    · next h => exact ih _ h (by rwa [← e])
    · next h => exact ih _ h1 (not_le.mp h)

theorem floorSqrt_bounds (v : Nat) : floorSqrt v ^ 2 ≤ v ∧ v < (floorSqrt v + 1) ^ 2 := by
  refine sqrtDigits_bounds v _ 0 (by simp) ?_
  rw [Nat.zero_add, ← pow_mul]
  calc v < 2 ^ (Nat.log2 v + 1) := Nat.lt_log2_self
    _ ≤ _ := Nat.pow_le_pow_right (by omega) (by omega)

/-- The result beside the code c: c itself when it is exact, and otherwise c or the next one, as the free choice says. -/
def Fmt.beside (f : Fmt) (neg : Bool) (c : Nat) (exact : Bool) (p : Pick) : FRes :=
  if f.maxCode < c ∨ (c = f.maxCode ∧ !exact) then ⟨f.sgn neg f.infCode, fOVF⟩
  else
    let c := if !exact && p.up then c + 1 else c
    ⟨f.sgn (if c = 0 then neg != p.zero else neg) c, 0⟩

theorem Fmt.near_eq (f : Fmt) (neg : Bool) (n : Nat) (q : Int) (exact : Bool) (p : Pick) :
    f.near neg n q exact p = f.beside neg (f.codeOf n q) exact p := rfl

theorem roundsUp_one (neg odd : Bool) (rem2 den : Nat) : roundsUp 1 neg odd rem2 den = false := by
  unfold roundsUp; split <;> rfl

/-- A quotient within one unit is a result beside the code at or below it. -/
theorem Fmt.nearFrac_spec (f : Fmt) (neg : Bool) {num den : Nat} (hn : 0 < num) (hd : 0 < den) (e : Int) (p : Pick) :
    let x : ℚ := num / den * 2 ^ e
    ∃ c, f.Floor x c ∧ f.nearFrac neg num den e p = f.beside neg c (x = f.ideal c) p := by
  intro x
  obtain ⟨hb, c1, -, hx, hfl⟩ := f.floor_units hn hd e
  refine ⟨_, hfl, ?_⟩
  unfold Fmt.nearFrac
  rw [if_neg hn.ne']
  simp only [roundUnits_eq, roundsUp_one, Bool.false_eq_true, if_false, Fmt.near_eq]
  refine congrArg (fun b => f.beside neg _ b p) (decide_eq_decide.mpr ?_)
  rw [show (fracLog num den + e - f.mb) ⊔ f.qmin = f.quantum (fracLog num den + e) from rfl]
  rw [rem_eq_zero_iff _ hb, show x = _ from hx, c1, mul_left_inj' (by positivity), add_eq_left]

/-- The integer part of the square root of a quotient. -/
theorem root_bounds (a : Nat) {b : Nat} (hb : 0 < b) :
    (floorSqrt (a / b) : ℚ) ^ 2 ≤ a / b ∧ (a : ℚ) / b < ((floorSqrt (a / b) : ℚ) + 1) ^ 2
      ∧ (floorSqrt (a / b) * floorSqrt (a / b) * b = a ↔ (a : ℚ) / b = (floorSqrt (a / b) : ℚ) ^ 2) := by
  obtain ⟨s1, s2⟩ := floorSqrt_bounds (a / b)
  obtain ⟨r0, r1⟩ := rem_bounds a hb
  have hbq : (0 : ℚ) < b := by exact_mod_cast hb
  generalize floorSqrt (a / b) = s at *
  have s1q : (s : ℚ) ^ 2 ≤ (a / b : Nat) := by exact_mod_cast s1
  have s2q : ((a / b : Nat) : ℚ) + 1 ≤ ((s : ℚ) + 1) ^ 2 := by exact_mod_cast s2
  refine ⟨by rw [div_eq_add_rem a hb]; linarith, by rw [div_eq_add_rem a hb]; linarith, ?_⟩
  rw [div_eq_iff hbq.ne', eq_comm, pow_two]
  exact_mod_cast Iff.rfl

/-- A square root within one unit is a result beside the code at or below it. -/
theorem Fmt.nearSqrt_spec (f : Fmt) {num den : Nat} (hn : 0 < num) (hd : 0 < den) (e : Int) (p : Pick) :
    let x : ℚ := num / den * 2 ^ e
    ∃ c, f.ideal c ^ 2 ≤ x ∧ x < f.ideal (c + 1) ^ 2 ∧ f.nearSqrt num den e p = f.beside false c (x = f.ideal c ^ 2) p := by
  intro x
  have h : f.nearSqrt num den e p =
      (let q := f.quantum ((fracLog num den + e) / 2)
       let a := shiftNum num (e - 2 * q)
       let b := shiftDen den (e - 2 * q)
       f.beside false (f.codeOf (floorSqrt (a / b)) q) (floorSqrt (a / b) * floorSqrt (a / b) * b = a) p) := rfl
  set lg := (fracLog num den + e) / 2 with hlg
  obtain ⟨x1, x2⟩ := frac_bounds hn hd e
  have hlow : ((2 : ℚ) ^ lg) ^ 2 ≤ x := by
    rw [← zpow_natCast, ← zpow_mul]
    exact (zpow_le_zpow_right₀ one_le_two (by push_cast; omega)).trans x1
  have hhigh : x < ((2 : ℚ) ^ (lg + 1)) ^ 2 := by
    rw [← zpow_natCast, ← zpow_mul]
    exact x2.trans_le (zpow_le_zpow_right₀ one_le_two (by push_cast; omega))
  have hq : (0 : ℚ) < 2 ^ f.quantum lg := by positivity
  have hx : x = shiftNum num (e - 2 * f.quantum lg) / shiftDen den (e - 2 * f.quantum lg) * (2 ^ f.quantum lg) ^ 2 := by
    rw [shiftNum_div_shiftDen, ← zpow_natCast (2 ^ f.quantum lg : ℚ) 2, ← zpow_mul, mul_assoc, ← zpow_add₀ two_ne_zero,
      show e - 2 * f.quantum lg + f.quantum lg * (2 : ℕ) = e by push_cast; ring]
  have hb : 0 < shiftDen den (e - 2 * f.quantum lg) := shiftDen_pos hd _
  simp only at h
  generalize hqq : f.quantum lg = q at *
  generalize shiftNum num (e - 2 * q) = a at *
  generalize shiftDen den (e - 2 * q) = b at *
  obtain ⟨r1, r2, r3⟩ := root_bounds a hb
  generalize floorSqrt (a / b) = s at *
  have low : ((s : ℚ) * 2 ^ q) ^ 2 ≤ x := by rw [hx, mul_pow]; exact mul_le_mul_of_nonneg_right r1 (by positivity)
  have high : x < (((s : ℚ) + 1) * 2 ^ q) ^ 2 := by rw [hx, mul_pow]; exact mul_lt_mul_of_pos_right r2 (by positivity)
  have hb1 : (s : ℚ) * 2 ^ q < 2 ^ (lg + 1) := lt_of_pow_lt_pow_left₀ 2 (by positivity) (low.trans_lt hhigh)
  have hb2 : (2 : ℚ) ^ lg < (s + 1) * 2 ^ q := lt_of_pow_lt_pow_left₀ 2 (by positivity) (hlow.trans_lt high)
  obtain ⟨c1, c2⟩ := f.ideal_codeOf (lg := lg) (n := s) (f.units_bounds (by rwa [hqq]) (by rwa [hqq]))
  rw [hqq] at c1 c2
  refine ⟨_, by rwa [c1], by rwa [c2], h.trans (congrArg (fun b => f.beside false _ b p) (decide_eq_decide.mpr ?_))⟩
  rw [r3, c1, hx, mul_pow, mul_left_inj' (by positivity)]

/-! ## Results beside a code -/

/-- Past the largest finite code, or strictly above it, the result overflows. -/
theorem Fmt.Floor.beside_overflow {f : Fmt} {x : ℚ} {c : Nat} (h : f.Floor x c) (hx : f.ideal f.maxCode < x) (neg : Bool) (p : Pick) :
    f.beside neg c (x = f.ideal c) p = ⟨f.sgn neg f.infCode, fOVF⟩ := by
  have hc : f.maxCode < c + 1 := f.ideal_strictMono.lt_iff_lt.mp (hx.trans h.lt)
  refine if_pos ?_
  rcases Nat.lt_or_ge f.maxCode c with hlt | hge
  · exact .inl hlt
  · obtain rfl : c = f.maxCode := by omega
    exact .inr ⟨rfl, by simp [hx.ne']⟩

/-- A result that raises no flag is c, or the next code when c is not exact; both are finite. -/
theorem Fmt.beside_code (f : Fmt) {c : Nat} {exact : Bool} {p : Pick} (h : (f.beside false c exact p).fl = 0) (hc : 0 < c) :
    let r := (f.beside false c exact p).code
    r ≤ f.maxCode ∧ (exact = true → r = c) ∧ (exact = false → c < f.maxCode ∧ (r = c ∨ r = c + 1)) := by
  unfold Fmt.beside at h ⊢
  split at h
  · exact absurd (show fOVF = 0 from h) (by decide)
  · next hmax =>
    rw [if_neg hmax]
    cases exact with
    | true =>
      simp only [Bool.not_true, Bool.false_and, Bool.false_eq_true, if_false, if_neg hc.ne'] at hmax ⊢
      exact ⟨by show c ≤ _; omega, fun _ => rfl, fun h => absurd h (by decide)⟩
    | false =>
      have : c < f.maxCode := by simp at hmax; omega
      cases p.up with
      | false =>
        simp only [Bool.and_false, Bool.false_eq_true, if_false, if_neg hc.ne']
        exact ⟨this.le, fun h => absurd h (by decide), fun _ => ⟨this, .inl rfl⟩⟩
      | true =>
        simp only [Bool.not_false, Bool.and_true, if_true, if_neg (Nat.succ_ne_zero c)]
        exact ⟨this, fun h => absurd h (by decide), fun _ => ⟨this, .inr rfl⟩⟩

@[simp] theorem Fmt.sig_zero (f : Fmt) : f.sig 0 = 0 := if_pos (by positivity)

theorem Fmt.sig_pos (f : Fmt) {c : Nat} (h : 0 < c) : 0 < f.sig c := by
  unfold Fmt.sig; split
  · exact h
  · positivity

theorem Fmt.ideal_pos (f : Fmt) {c : Nat} (h : 0 < c) : 0 < f.ideal c := by
  rw [← f.ideal_zero]; exact f.ideal_strictMono h

/-! ## VEXP and VEXP2 beyond the finite codes -/

/-- A real number above the largest finite code overflows. -/
theorem Fmt.nearReal_overflow (f : Fmt) {r : RealVal} (hneg : r.neg = false) (h : f.ideal f.maxCode < r.m * 2 ^ r.e) (p : Pick) :
    f.nearReal r false 1 0 p = ⟨f.infCode, fOVF⟩ := by
  have hpos : 0 < r.m := by
    refine Nat.pos_of_ne_zero fun h0 => ?_
    rw [h0, Nat.cast_zero, zero_mul] at h
    exact absurd (f.ideal_nonneg f.maxCode) (not_le.mpr h)
  unfold Fmt.nearReal
  rw [hneg]
  split
  · obtain ⟨c, hfl, he⟩ := f.nearFrac_spec (false != false) (num := r.m * 1) (den := 1) (by omega) one_pos (r.e + 0) p
    rw [he]
    exact hfl.beside_overflow (by simpa using h) _ _
  · obtain ⟨c, hfl, he⟩ := f.nearFrac_spec (false != false) (num := (2 * r.m + 1) * 1) (den := 1) (by omega) one_pos (r.e - 1 + 0) p
    rw [he]
    refine hfl.beside_overflow (h.trans ?_) _ _
    rw [add_zero, zpow_sub_one₀ two_ne_zero]
    have : (0 : ℚ) < 2 ^ r.e := by positivity
    push_cast
    linarith

theorem fix1_le_expFrac (r : Nat) : fix1 ≤ expFrac r := Nat.le_add_right _ _

theorem ln2Fix_bounds : 0 < ln2Fix ∧ ln2Fix ≤ fix1 := by decide +kernel

/-- A finite value of at least N, in fixed point. -/
theorem mul_fix1_le_fixOf {N m : Nat} {e : Int} (he : -prec ≤ e) (h : (N : ℚ) ≤ m * 2 ^ e) : N * fix1 ≤ fixOf m e := by
  obtain ⟨k, hk⟩ := Int.eq_ofNat_of_zero_le (show 0 ≤ e + prec by omega)
  rw [fixOf, hk, Int.toNat_natCast, fix1]
  have : (N : ℚ) * 2 ^ prec ≤ m * 2 ^ k := by
    have e2 : (2 : ℚ) ^ k = 2 ^ e * 2 ^ prec := by
      rw [← zpow_natCast, ← zpow_natCast, ← zpow_add₀ two_ne_zero, hk]
    rw [e2, ← mul_assoc]
    exact mul_le_mul_of_nonneg_right h (by positivity)
  exact_mod_cast this

theorem two_pow_le_scaled {N k v : Nat} (hk : N ≤ k) (hv : fix1 ≤ v) : (2 : ℚ) ^ N ≤ v * 2 ^ ((k : Int) - prec) := by
  have hv' : (2 : ℚ) ^ prec ≤ v := by exact_mod_cast hv
  calc (2 : ℚ) ^ N ≤ 2 ^ k := pow_le_pow_right₀ one_le_two hk
    _ = 2 ^ prec * 2 ^ ((k : Int) - prec) := by
      rw [← zpow_natCast, ← zpow_natCast, ← zpow_add₀ two_ne_zero, add_sub_cancel]
    _ ≤ _ := mul_le_mul_of_nonneg_right hv' (by positivity)

theorem two_pow_le_1024 {N : Nat} (hN : N ≤ 1024) : (2 : ℚ) ^ N ≤ (1 : Nat) * 2 ^ (1024 : Int) := by
  rw [Nat.cast_one, one_mul, ← zpow_natCast]
  exact zpow_le_zpow_right₀ one_le_two (by omega)

/-- e^x is at least 2^N where x is at least N. -/
theorem expReal_large {N m : Nat} {e : Int} (hN : N ≤ 1024) (hm : m ≠ 0) (h : N * fix1 ≤ fixOf m e) :
    (expReal false m e).neg = false ∧ (2 : ℚ) ^ N ≤ (expReal false m e).m * 2 ^ (expReal false m e).e := by
  obtain ⟨hpos, hle⟩ := ln2Fix_bounds
  have hk : N ≤ fixOf m e / ln2Fix := (Nat.le_div_iff_mul_le hpos).mpr ((Nat.mul_le_mul_left N hle).trans h)
  unfold expReal
  rw [if_neg hm]
  split
  · exact ⟨rfl, two_pow_le_1024 hN⟩
  · exact ⟨rfl, two_pow_le_scaled hk (fix1_le_expFrac _)⟩

/-- 2^x is at least 2^N where x is at least N. -/
theorem exp2Real_large {N m : Nat} {e : Int} (hN : N ≤ 1024) (h : N * fix1 ≤ fixOf m e) :
    (exp2Real false m e).neg = false ∧ (2 : ℚ) ^ N ≤ (exp2Real false m e).m * 2 ^ (exp2Real false m e).e := by
  have hk : N ≤ fixOf m e / fix1 := (Nat.le_div_iff_mul_le (by unfold fix1; positivity)).mpr h
  unfold exp2Real
  simp only [Bool.false_eq_true, if_false]
  split
  · exact ⟨rfl, two_pow_le_1024 hN⟩
  · split
    · refine ⟨rfl, ?_⟩
      rw [Nat.cast_one, one_mul, zpow_natCast]
      exact pow_le_pow_right₀ one_le_two hk
    · exact ⟨rfl, two_pow_le_scaled hk (fix1_le_expFrac _)⟩

end Sys2Proof.Machine
end

section
/-! PROOFS. The special inputs of the special functions, their overflow, and the bounds of VRCP and VSQRT (O16). -/
namespace Sys2Proof.Machine
open Sys2Proof

/-! ## The special functions on each kind of value (R76) -/

section
variable {ty c : Nat}

theorem sfu_of_nan {sig : Bool} (h : (fmtOfTy ty).val c = .nan sig) (fn : Nat) :
    sfu fn ty c = ⟨(fmtOfTy ty).nan, if sig then fINV else 0⟩ := by simp only [sfu, h]

theorem sfu_of_inf {n : Bool} (h : (fmtOfTy ty).val c = .inf n) :
    let f := fmtOfTy ty
    let one := (f.round 0 false false 1 1 0).code
    sfu 0 ty c = (if n then ⟨0, 0⟩ else f.infR false) ∧ sfu 1 ty c = (if n then ⟨0, 0⟩ else f.infR false)
      ∧ sfu 2 ty c = (if n then f.invalid else f.infR false) ∧ sfu 3 ty c = ⟨f.sgn n 0, 0⟩
      ∧ sfu 4 ty c = (if n then f.invalid else ⟨0, 0⟩) ∧ sfu 5 ty c = (if n then f.invalid else f.infR false)
      ∧ sfu 6 ty c = f.invalid ∧ sfu 7 ty c = f.invalid ∧ sfu 8 ty c = ⟨f.sgn n one, 0⟩
      ∧ sfu 9 ty c = (if n then ⟨0, 0⟩ else ⟨one, 0⟩) ∧ sfu 10 ty c = (if n then ⟨f.sgn true 0, 0⟩ else f.infR false) := by
  simp [sfu, h]

theorem sfu_of_zero {n : Bool} {e : Int} (h : (fmtOfTy ty).val c = .fin n 0 e) :
    let f := fmtOfTy ty
    sfu 2 ty c = ⟨f.sgn true f.infCode, fDZ⟩ ∧ sfu 3 ty c = ⟨f.sgn n f.infCode, fDZ⟩
      ∧ sfu 4 ty c = ⟨f.sgn n f.infCode, fDZ⟩ ∧ sfu 5 ty c = ⟨f.sgn n 0, 0⟩ := by simp [sfu, h]

theorem sfu_of_negative {m : Nat} {e : Int} (h : (fmtOfTy ty).val c = .fin true m e) (hm : m ≠ 0) :
    ∀ fn ∈ [2, 4, 5], sfu fn ty c = (fmtOfTy ty).invalid := by simp [sfu, h, hm]

theorem sfu_of_finite {n : Bool} {m : Nat} {e : Int} (h : (fmtOfTy ty).val c = .fin n m e) (hm : m ≠ 0) :
    let f := fmtOfTy ty
    sfu 0 ty c = f.nearReal (expReal n m e) false 1 0 (pickOf 0 ty [c])
      ∧ sfu 1 ty c = f.nearReal (exp2Real n m e) false 1 0 (pickOf 1 ty [c])
      ∧ sfu 3 ty c = f.nearFrac n 1 m (-e) (pickOf 3 ty [c])
      ∧ (n = false → sfu 5 ty c = f.nearSqrt m 1 e (pickOf 5 ty [c])) := by
  refine ⟨?_, ?_, ?_, ?_⟩ <;> simp +contextual [sfu, h, hm]

end

/-! ## VRCP and VSQRT -/

/-- The result beside a code that is at or below y in the order of `value` is one of the two codes between which y lies. -/
theorem Fmt.beside_between (f : Fmt) {c : Nat} {exact : Bool} {p : Pick} {value : Nat → ℚ} {y : ℚ}
    (h : (f.beside false c exact p).fl = 0) (hc : 0 < c) (hex : exact = true ↔ value c = y) (hle : value c ≤ y)
    (hlt : y < value (c + 1)) :
    let r := (f.beside false c exact p).code
    r ≤ f.maxCode ∧ (value r = y ∨ (0 < r ∧ value (r - 1) < y ∧ y < value r) ∨
      (value r < y ∧ r < f.maxCode ∧ y < value (r + 1))) := by
  intro r
  obtain ⟨hmax, ht, hf⟩ := f.beside_code h hc
  refine ⟨hmax, ?_⟩
  cases exact with
  | true => exact .inl (by rw [show r = c from ht rfl]; exact hex.mp rfl)
  | false =>
    have hne : value c < y := lt_of_le_of_ne hle (fun h => Bool.noConfusion (hex.mpr h))
    obtain ⟨hcm, e | e⟩ := hf rfl
    · rw [show r = c from e]; exact .inr (.inr ⟨hne, hcm, hlt⟩)
    · rw [show r = c + 1 from e]; exact .inr (.inl ⟨Nat.succ_pos c, hne, hlt⟩)

theorem Fmt.inv_ideal (f : Fmt) (c : Nat) :
    ((1 : Nat) : ℚ) / f.sig c * 2 ^ (-(f.qmin + f.step c : Int)) = 1 / f.ideal c := by
  rw [Fmt.ideal, zpow_neg, Nat.cast_one, div_mul_eq_mul_div, one_mul, one_div, mul_inv, div_eq_mul_inv, mul_comm]

/-- A reciprocal above the largest finite code overflows. -/
theorem Fmt.rcp_overflow (f : Fmt) {c : Nat} (h0 : 0 < c) (h : f.ideal f.maxCode * f.ideal c < 1) (neg : Bool) (p : Pick) :
    f.nearFrac neg 1 (f.sig c) (-(f.qmin + f.step c)) p = ⟨f.sgn neg f.infCode, fOVF⟩ := by
  obtain ⟨k, hfl, he⟩ := f.nearFrac_spec neg one_pos (f.sig_pos h0) (-(f.qmin + f.step c)) p
  rw [he]
  refine hfl.beside_overflow ?_ neg p
  rw [f.inv_ideal c, lt_div_iff₀ (f.ideal_pos h0)]
  exact h

section
variable {f : Fmt} (hf : f.Standard)
include hf

theorem Fmt.Standard.qmin_le : f.qmin ≤ -(2 ^ (f.eb - 1) : Nat) := by
  have h1 : 1 ≤ 2 ^ (f.eb - 1) := Nat.one_le_two_pow
  have h2 := hf.fraction
  rw [Fmt.qmin, hf.bias, Nat.cast_sub h1]
  omega

theorem Fmt.Standard.ideal_maxCode_lt : f.ideal f.maxCode < 2 ^ (2 ^ (f.eb - 1) : Nat) := by
  rw [← hf.ideal_infCode, ← hf.maxCode_succ]; exact f.ideal_lt_succ _

/-- The code of one. -/
theorem Fmt.Standard.ideal_oneCode : f.ideal ((2 ^ (f.eb - 1) - 1) * 2 ^ f.mb) = 1 := by
  have h2 : 2 ≤ 2 ^ (f.eb - 1) := Nat.le_self_pow (by have := hf.exponent; omega) 2
  have e : (2 ^ (f.eb - 1) - 1) * 2 ^ f.mb = (f.bias - 1) * 2 ^ f.mb + 2 ^ f.mb := by
    rw [← Nat.succ_mul, hf.bias]; congr 1; omega
  have h1 : 1 ≤ f.bias := by rw [hf.bias]; omega
  rw [e, f.ideal_code (by omega) (.inr le_rfl), Fmt.qmin, Nat.cast_sub h1]
  push_cast
  rw [← zpow_natCast, ← zpow_add₀ two_ne_zero]
  convert zpow_zero (2 : ℚ) using 2
  ring

theorem Fmt.Standard.one_lt_ideal_maxCode : 1 < f.ideal f.maxCode := by
  have h4 : 4 ≤ 2 ^ f.mb := by
    calc 4 = 2 ^ 2 := rfl
      _ ≤ _ := Nat.pow_le_pow_right (by omega) hf.fraction
  have h2 : 2 ^ f.eb = 2 * 2 ^ (f.eb - 1) := by rw [← pow_succ']; congr 1; have := hf.exponent; omega
  have h1 : 1 ≤ 2 ^ (f.eb - 1) := Nat.one_le_two_pow
  have e : f.infCode = (2 ^ (f.eb - 1) - 1) * 2 ^ f.mb + 2 ^ (f.eb - 1) * 2 ^ f.mb := by
    rw [Fmt.infCode, ← Nat.add_mul]; congr 1; omega
  have h3 : 1 * 4 ≤ 2 ^ (f.eb - 1) * 2 ^ f.mb := Nat.mul_le_mul h1 h4
  rw [← hf.ideal_oneCode]
  exact f.ideal_strictMono (by have := hf.maxCode_succ; omega)

/-- The reciprocal of a finite code is above the smallest step. -/
theorem Fmt.Standard.ideal_one_lt_inv {c : Nat} (h0 : 0 < c) (h : c ≤ f.maxCode) : f.ideal 1 < 1 / f.ideal c := by
  have hlt : f.ideal c < 2 ^ (-f.qmin) := by
    calc f.ideal c ≤ f.ideal f.maxCode := f.ideal_strictMono.monotone h
      _ < 2 ^ (2 ^ (f.eb - 1) : Nat) := hf.ideal_maxCode_lt
      _ ≤ 2 ^ (-f.qmin) := by
        rw [← zpow_natCast]; exact zpow_le_zpow_right₀ one_le_two (by have := hf.qmin_le; omega)
  rw [f.ideal_one, lt_div_iff₀ (f.ideal_pos h0), ← lt_div_iff₀' (by positivity), one_div, ← zpow_neg]
  exact hlt

/-- A reciprocal that does not overflow is one of the two codes beside it. -/
theorem Fmt.Standard.rcp_between {c : Nat} (h0 : 0 < c) (h : c ≤ f.maxCode) (p : Pick) :
    let r := f.nearFrac false 1 (f.sig c) (-(f.qmin + f.step c)) p
    r.fl = 0 → r.code ≤ f.maxCode ∧ (f.ideal r.code * f.ideal c = 1 ∨
      (0 < r.code ∧ f.ideal (r.code - 1) * f.ideal c < 1 ∧ 1 < f.ideal r.code * f.ideal c) ∨
      (f.ideal r.code * f.ideal c < 1 ∧ r.code < f.maxCode ∧ 1 < f.ideal (r.code + 1) * f.ideal c)) := by
  intro r hr
  obtain ⟨k, hfl, he⟩ := f.nearFrac_spec false one_pos (f.sig_pos h0) (-(f.qmin + f.step c)) p
  have hc := f.ideal_pos h0
  rw [f.inv_ideal c] at hfl he
  rw [show r = _ from he] at hr ⊢
  have hk : 0 < k := Nat.pos_of_ne_zero fun hk => by
    subst hk; exact absurd (hf.ideal_one_lt_inv h0 h) (not_lt.mpr hfl.lt.le)
  refine f.beside_between (value := fun k => f.ideal k * f.ideal c) hr hk ?_ ((le_div_iff₀ hc).mp hfl.le)
    ((div_lt_iff₀ hc).mp hfl.lt)
  rw [decide_eq_true_iff, div_eq_iff hc.ne', eq_comm]

/-- A square root of a finite code raises no flag and is one of the two codes beside it. -/
theorem Fmt.Standard.sqrt_between {c : Nat} (h0 : 0 < c) (h : c ≤ f.maxCode) (p : Pick) :
    let r := f.nearSqrt (f.sig c) 1 (f.qmin + f.step c) p
    r.fl = 0 ∧ r.code ≤ f.maxCode ∧ (f.ideal r.code ^ 2 = f.ideal c ∨
      (0 < r.code ∧ f.ideal (r.code - 1) ^ 2 < f.ideal c ∧ f.ideal c < f.ideal r.code ^ 2) ∨
      (f.ideal r.code ^ 2 < f.ideal c ∧ r.code < f.maxCode ∧ f.ideal c < f.ideal (r.code + 1) ^ 2)) := by
  intro r
  obtain ⟨k, hle, hlt, he⟩ := f.nearSqrt_spec (f.sig_pos h0) one_pos (f.qmin + f.step c) p
  have hx : (f.sig c : ℚ) / (1 : Nat) * 2 ^ (f.qmin + f.step c) = f.ideal c := by rw [Nat.cast_one, div_one]; rfl
  rw [hx] at hle hlt he
  have hone : f.ideal 1 < 1 := by
    rw [f.ideal_one]
    exact zpow_lt_one_of_neg₀ one_lt_two (by have := hf.qmin_le; have := Nat.one_le_two_pow (n := f.eb - 1); omega)
  have hk : 0 < k := Nat.pos_of_ne_zero fun hk => by
    subst hk
    have h1 : f.ideal 1 ≤ f.ideal c := f.ideal_strictMono.monotone h0
    rw [Nat.zero_add] at hlt
    nlinarith [f.ideal_pos one_pos]
  have hkm : k < f.maxCode := by
    by_contra hge
    have h1 : f.ideal f.maxCode ≤ f.ideal k := f.ideal_strictMono.monotone (not_lt.mp hge)
    have h2 : f.ideal c ≤ f.ideal f.maxCode := f.ideal_strictMono.monotone h
    nlinarith [hf.one_lt_ideal_maxCode]
  have hfl : (f.beside false k (decide (f.ideal c = f.ideal k ^ 2)) p).fl = 0 := by
    unfold Fmt.beside; rw [if_neg (by omega)]
  rw [show r = _ from he]
  exact ⟨hfl, f.beside_between (value := fun k => f.ideal k ^ 2) hfl hk (by rw [decide_eq_true_iff, eq_comm]) hle hlt⟩

end

/-! ## The three formats -/

theorem fmtOfTy_mem {ty : Nat} (h : ty < 3) : fmtOfTy ty ∈ [F32, BF16, F16] :=
  (by decide : ∀ ty < 3, fmtOfTy ty ∈ [F32, BF16, F16]) ty h

/-- What the fixed point has room for: 2^1024 is beyond the finite codes, and the smallest step is above one place. -/
theorem fixed_room {f : Fmt} (h : f ∈ [F32, BF16, F16]) : 2 ^ (f.eb - 1) ≤ 1024 ∧ -(prec : Int) ≤ f.qmin :=
  (by decide : ∀ f ∈ [F32, BF16, F16], 2 ^ (f.eb - 1) ≤ 1024 ∧ -(prec : Int) ≤ f.qmin) f h

theorem round_one {f : Fmt} (h : f ∈ [F32, BF16, F16]) :
    (f.round 0 false false 1 1 0).code = (2 ^ (f.eb - 1) - 1) * 2 ^ f.mb :=
  (by decide +kernel : ∀ f ∈ [F32, BF16, F16], (f.round 0 false false 1 1 0).code = (2 ^ (f.eb - 1) - 1) * 2 ^ f.mb) f h

/-- VEXP and VEXP2 overflow from the first power of two beyond the finite codes on. -/
theorem exp_overflow {ty c : Nat} (hty : ty < 3) (h0 : 0 < c) (h : c ≤ (fmtOfTy ty).maxCode)
    (hbig : 2 ^ ((fmtOfTy ty).eb - 1) ≤ (fmtOfTy ty).ideal c) :
    ∀ fn < 2, sfu fn ty c = ⟨(fmtOfTy ty).infCode, fOVF⟩ := by
  have hmem := fmtOfTy_mem hty
  have hs := standard_of_mem hmem
  obtain ⟨hroom, hprec⟩ := fixed_room hmem
  have hsig := (Fmt.sig_pos (fmtOfTy ty) h0).ne'
  obtain ⟨h0', h1', -, -⟩ := sfu_of_finite (hs.val_finite h) hsig
  have hfix : 2 ^ ((fmtOfTy ty).eb - 1) * fix1 ≤ fixOf ((fmtOfTy ty).sig c) ((fmtOfTy ty).qmin + (fmtOfTy ty).step c) :=
    mul_fix1_le_fixOf (by omega) (by push_cast; exact hbig)
  intro fn hfn
  obtain rfl | rfl : fn = 0 ∨ fn = 1 := by omega
  · obtain ⟨hneg, hlarge⟩ := expReal_large hroom hsig hfix
    rw [h0']
    exact Fmt.nearReal_overflow _ hneg (hs.ideal_maxCode_lt.trans_le hlarge) _
  · obtain ⟨hneg, hlarge⟩ := exp2Real_large hroom hfix
    rw [h1']
    exact Fmt.nearReal_overflow _ hneg (hs.ideal_maxCode_lt.trans_le hlarge) _

/-- Settles O16: the table of special inputs is `sfu` on each kind of value; VEXP and VEXP2 overflow by `exp_overflow`, VRCP by
`Fmt.rcp_overflow`; the bounds are `Fmt.Standard.rcp_between` and `Fmt.Standard.sqrt_between`. -/
theorem specialValues : Obligations.SpecialValues := by
  unfold Obligations.SpecialValues
  intro ty hty f ninf one
  have hmem : f ∈ [F32, BF16, F16] := fmtOfTy_mem hty
  have hs := standard_of_mem hmem
  have hpinf : f.val f.infCode = .inf false := hs.val_inf false
  have hninf : f.val ninf = .inf true := hs.val_inf true
  have hzero : ∀ neg, f.val (f.sgn neg 0) = .fin neg 0 (f.qmin + f.step 0) := fun neg => by
    rw [hs.val_sgn (Nat.zero_le _) neg, f.sig_zero]
  have hone : (f.round 0 false false 1 1 0).code = one := round_one hmem
  obtain ⟨p0, p1, p2, -, p4, p5, -, -, -, p9, p10⟩ := sfu_of_inf hpinf
  obtain ⟨n0, n1, -, -, -, -, -, -, -, n9, n10⟩ := sfu_of_inf hninf
  refine ⟨fun fn hfn => ?_, ⟨p2, p4, p5, ?_, ?_, n9, p10, n10⟩, fun neg => ?_, fun c h0 hc fn hfn => ?_, fun fn _ c _ hnan => ?_,
    fun c h0 hc => ?_⟩
  · obtain rfl | rfl : fn = 0 ∨ fn = 1 := by omega
    · exact ⟨p0, n0⟩
    · exact ⟨p1, n1⟩
  · obtain ⟨-, -, -, z5⟩ := sfu_of_zero (hzero true)
    exact z5
  · rw [p9]; exact congrArg (FRes.mk · 0) hone
  · obtain ⟨z2, z3, z4, -⟩ := sfu_of_zero (hzero neg)
    obtain ⟨-, -, -, i3, -, -, i6, i7, i8, -, -⟩ := sfu_of_inf (hs.val_inf neg)
    exact ⟨by rw [i8]; exact congrArg (fun c => FRes.mk (f.sgn neg c) 0) hone, z2, z3, z4, i3, i6, i7⟩
  · rcases hc.eq_or_lt with rfl | hlt
    · obtain ⟨-, -, i2, -, i4, i5, -⟩ := sfu_of_inf hninf
      simp only [List.mem_cons, List.not_mem_nil, or_false] at hfn
      obtain rfl | rfl | rfl := hfn
      · exact i2
      · exact i4
      · exact i5
    · have hle : c ≤ f.maxCode := by have := hs.maxCode_succ; omega
      exact sfu_of_negative (hs.val_sgn hle true) (f.sig_pos h0).ne' fn hfn
  · cases hv : f.val c with
    | nan sig => exact sfu_of_nan hv fn
    | inf n => rw [hv] at hnan; exact Bool.noConfusion hnan
    | fin n m e => rw [hv] at hnan; exact Bool.noConfusion hnan
  · have hsig := (f.sig_pos h0).ne'
    have hmag : ∀ d ≤ f.maxCode, f.mag d = f.ideal d := fun d h => hs.mag_eq h
    obtain ⟨-, -, h3, h5⟩ := sfu_of_finite (hs.val_finite hc) hsig
    rw [hmag c hc, hmag _ le_rfl]
    refine ⟨exp_overflow hty h0 hc, fun hover neg => ?_, ?_, ?_⟩
    · obtain ⟨-, -, h3', -⟩ := sfu_of_finite (hs.val_sgn hc neg) hsig
      rw [h3']
      exact f.rcp_overflow h0 hover neg _
    · intro r hr
      have hr3 : r = f.nearFrac false 1 (f.sig c) (-(f.qmin + f.step c)) (pickOf 3 ty [c]) := h3
      rw [hr3] at hr ⊢
      obtain ⟨hmax, hb⟩ := hs.rcp_between h0 hc _ hr
      rw [hmag _ hmax, hmag _ (by omega)]
      exact ⟨hmax, hb.imp_right (Or.imp_right fun ⟨hlt, _, hgt⟩ => ⟨hlt, fun h => by rw [hmag _ h]; exact hgt⟩)⟩
    · intro r
      have hr5 : r = f.nearSqrt (f.sig c) 1 (f.qmin + f.step c) (pickOf 5 ty [c]) := h5 rfl
      obtain ⟨hfl, hmax, hb⟩ := hs.sqrt_between h0 hc (pickOf 5 ty [c])
      rw [hr5, hmag _ hmax, hmag _ (by omega)]
      exact ⟨hfl, hmax, hb.imp_right (Or.imp_right fun ⟨hlt, hm, hgt⟩ => ⟨hlt, by rw [hmag _ hm]; exact hgt⟩)⟩

end Sys2Proof.Machine
end

section
/-! PROOFS. What instructions that write vector registers leave; vector integer arithmetic (O5). -/
namespace Sys2Proof.Machine
open Sys2Proof

/-! ## Changes of vector registers and FLAGS alone -/

/-- Two groups that differ only in the vector registers `vs` and in FLAGS. -/
structure Group.VecOnly (vs : List Nat) (g h : Group) : Prop where
  control : g.SameControl h
  pc : h.pc = g.pc
  repcnt : h.repcnt = g.repcnt
  s : h.s = g.s
  m : h.m = g.m
  it : h.it = g.it
  vectors : SameV vs g h

theorem Group.VecOnly.refl (vs : List Nat) (g : Group) : g.VecOnly vs g :=
  ⟨⟨rfl, rfl, rfl, rfl, rfl, rfl, rfl⟩, rfl, rfl, rfl, rfl, rfl, fun _ _ => rfl⟩

theorem Group.vreg_raise (fl : Nat) (g : Group) (n : Nat) : (g.raise fl).vreg n = g.vreg n := by rw [Group.raise_eq]; rfl

theorem Group.VecOnly.raise {vs : List Nat} {g h : Group} (e : g.VecOnly vs h) (fl : Nat) : g.VecOnly vs (h.raise fl) := by
  obtain ⟨⟨c1, c2, c3, c4, c5, c6, c7⟩, hpc, hrep, hs, hm, hit, hv⟩ := e
  rw [Group.raise_eq]
  exact ⟨⟨c1, c2, c3, c4, c5, c6, c7⟩, hpc, hrep, hs, hm, hit, hv⟩

theorem Group.VecOnly.setV {vs : List Nat} {g h : Group} (e : g.VecOnly vs h) {d : Nat} (hd : d ∈ vs) (tag : Nat)
    (vals : List (Nat × Word)) : g.VecOnly vs (h.setV d tag vals) := by
  have hc := h.setV_control d tag vals
  refine ⟨⟨hc.exited.trans e.control.exited, hc.frame.trans e.control.frame, hc.trapmask.trans e.control.trapmask,
    hc.retpc.trans e.control.retpc, hc.retrep.trans e.control.retrep, hc.trapinfo.trans e.control.trapinfo,
    hc.outstanding.trans e.control.outstanding⟩, by rw [Group.setV_pc, e.pc], by rw [Group.setV_repcnt, e.repcnt],
    by rw [Group.setV_s, e.s], by rw [Group.setV_m, e.m], by rw [Group.setV_it, e.it], fun n hn => ?_⟩
  rw [Group.vreg_setV, if_neg (fun ⟨hd', _⟩ => hn (hd' ▸ hd)), e.vectors n hn]

theorem Group.VecOnly.setVF {vs : List Nat} {g h : Group} (e : g.VecOnly vs h) {d : Nat} (hd : d ∈ vs) (tag : Nat) (p : Dword)
    (f : Nat → Word) : g.VecOnly vs (h.setVF d tag p f) := e.setV hd tag _

/-- What the end of an issue leaves of a group that differs in vector registers and FLAGS alone. -/
theorem changes_of_vecOnly {i : Instr} {vs : List Nat} {s t : State} {h : Group} (hf : IssueFrame i s t 0 0)
    (e : s.group.VecOnly vs h) (hr : h.SameRegs t.group) : Changes i [] vs [] [] s t := by
  refine ⟨hf, fun n _ => ?_, fun n hn => (hr.vreg n).trans (e.vectors n hn), fun n _ => by rw [hr.m, e.m], fun n _ => ?_⟩
  · rw [hr.sreg]; unfold Group.sreg; rw [e.s]
  · rw [hr.iter]; unfold Group.iter; rw [e.it]

/-- An instruction whose body changes vector registers and FLAGS of its group. -/
theorem execWord_vectors {i : Instr} {body : Body} {vs : List Nat} {s : State} {f : Group → Group} (hq : s.quiet i = true)
    (hb : body ((s.issueOf (wordsOf i)).by (s.doers i)) s = Res.group s f) (h : s.group.VecOnly vs (f s.group)) :
    ∃ t, execWord i body s = .next t ∧ Changes i [] vs [] [] s t ∧ (f s.group).SameRegs t.group := by
  obtain ⟨t, ht, hfr, hr⟩ := issue_group (perform := State.performReqs) (p := 0) (dest := 0) (moves := []) (sat := false) hq hb
    h.control h.pc h.repcnt (.inr ⟨rfl, rfl⟩) (fun l hl => by simp at hl)
  exact ⟨t, congrArg _ ht, changes_of_vecOnly hfr h hr, hr⟩

/-- An instruction whose body does nothing. -/
theorem execWord_skip {i : Instr} {body : Body} {vs : List Nat} {s : State} (hq : s.quiet i = true)
    (hb : body ((s.issueOf (wordsOf i)).by (s.doers i)) s = .skip s) :
    ∃ t, execWord i body s = .next t ∧ Changes i [] vs [] [] s t ∧ s.group.SameRegs t.group := by
  obtain ⟨t, ht, hfr, hr⟩ := issue_moves (perform := State.performReqs) (p := 0) (dest := 0) (moves := []) hq hb
    (.inr ⟨rfl, rfl⟩) (fun l hl => by simp at hl)
  exact ⟨t, congrArg _ ht, changes_of_vecOnly hfr (.refl vs _) hr, hr⟩

/-- A group-uniform change of vector registers and FLAGS: none when P is empty. -/
theorem uniform_vectors {i : Instr} {body : Body} {vs : List Nat} {s : State} {f : Group → Group} (hq : s.quiet i = true)
    (hb : body ((s.issueOf (wordsOf i)).by (s.doers i)) s = uniform f ((s.issueOf (wordsOf i)).by (s.doers i)) s)
    (h : s.group.VecOnly vs (f s.group)) :
    ∃ t, execWord i body s = .next t ∧ Changes i [] vs [] [] s t
      ∧ (if s.doers i = 0 then s.group else f s.group).SameRegs t.group := by
  by_cases hp : s.doers i = 0
  · rw [if_pos hp]; exact execWord_skip hq (hb.trans (if_pos hp))
  · rw [if_neg hp]; exact execWord_vectors hq (hb.trans (if_neg hp)) h

/-! ## Written registers and raised flags -/

section
variable {p : Dword} {n tag : Nat} {f : Nat → Word} {g h k : Group}

theorem WroteV.then_same (w : WroteV p n tag f g h) (e : k.vreg n = h.vreg n) : WroteV p n tag f g k := by
  unfold WroteV Group.tag Group.lane at *; rwa [e]

theorem WroteV.of_same (w : WroteV p n tag f h k) (e : h.vreg n = g.vreg n) : WroteV p n tag f g k := by
  unfold WroteV Group.tag Group.lane at *; rwa [e] at w

theorem WroteV.empty (hp : p = 0) (e : h.vreg n = g.vreg n) : WroteV p n tag f g h := by rw [WroteV, if_pos hp]; exact e

theorem Group.vreg_setVF_ne (g : Group) {d n : Nat} (hn : n ≠ d) (tag : Nat) (p : Dword) (f : Nat → Word) :
    (g.setVF d tag p f).vreg n = g.vreg n := by rw [Group.setVF, Group.vreg_setV, if_neg (fun h => hn h.1)]

theorem Group.setVF_empty (g : Group) (d tag : Nat) (f : Nat → Word) : g.setVF d tag 0 f = g := by
  rw [Group.setVF, lanesOf_zero]; rfl

@[simp] theorem Group.setVF_flags (g : Group) (d tag : Nat) (p : Dword) (f : Nat → Word) : (g.setVF d tag p f).flags = g.flags :=
  Group.setV_flags _ _ _ _

end

theorem Group.raise_flags (fl : Nat) (g : Group) : (g.raise fl).flags = g.flags ||| BitVec.ofNat 64 fl := by rw [Group.raise_eq]

theorem Group.SameRegs.raisedFlags {g h k : Group} {fl : Nat} (e : h.SameRegs k) (hf : h.flags = g.flags ||| BitVec.ofNat 64 fl) :
    RaisedFlags fl g k := e.flags.trans hf

theorem RaisedFlags.of_zero {g h : Group} (e : RaisedFlags 0 g h) : h.flags = g.flags := Eq.trans e (BitVec.or_zero)

theorem raisedFlags_zero {g h : Group} (e : h.flags = g.flags) : RaisedFlags 0 g h := e.trans BitVec.or_zero.symm

theorem foldl_or (ls : List Nat) (f : Nat → Nat) (a : Nat) :
    ls.foldl (fun a l => a ||| f l) a = a ||| ls.foldl (fun a l => a ||| f l) 0 := by
  induction ls generalizing a with
  | nil => simp
  | cons l ls ih => rw [List.foldl_cons, List.foldl_cons, ih, ih (0 ||| f l), Nat.zero_or, Nat.lor_assoc]

@[simp] theorem flagsOf_zero (p : Dword) : flagsOf p (fun _ => 0) = 0 := by
  unfold flagsOf
  induction lanesOf p with
  | nil => rfl
  | cons l ls ih => rw [List.foldl_cons, Nat.zero_or]; exact ih

@[simp] theorem flagsOf_empty (f : Nat → Nat) : flagsOf 0 f = 0 := by rw [flagsOf, lanesOf_zero]; rfl

/-! ## Integer arithmetic (R65, R173) -/

/-- The least and the greatest value of a type. -/
def intLo (sgn : Bool) : Int := if sgn then -2 ^ 31 else 0
def intHi (sgn : Bool) : Int := if sgn then 2 ^ 31 - 1 else 2 ^ 32 - 1

theorem clampTo_eq {lo hi : Int} (h : lo ≤ hi) (v : Int) :
    clampTo lo hi v = (max lo (min hi v), if v < lo ∨ hi < v then fSAT else 0) := by
  unfold clampTo
  split
  · next h1 => rw [if_pos (.inl h1), max_eq_left ((min_le_right _ _).trans h1.le)]
  · next h1 =>
    split
    · next h2 => rw [if_pos (.inr h2), min_eq_left h2.le, max_eq_right h]
    · next h2 => rw [if_neg (not_or.mpr ⟨h1, h2⟩), min_eq_right (not_lt.mp h2), max_eq_right (not_lt.mp h1)]

theorem intResult_eq (sgn sat : Bool) (v : Int) :
    intResult sgn sat v =
      ⟨BitVec.ofInt 32 (if sat then max (intLo sgn) (min (intHi sgn) v) else v),
       if sat ∧ (v < intLo sgn ∨ intHi sgn < v) then 32 else 0⟩ := by
  cases sat with
  | false => rfl
  | true =>
    have e : (if sgn then clampTo (-2 ^ 31) (2 ^ 31 - 1) v else clampTo 0 (2 ^ 32 - 1) v) = clampTo (intLo sgn) (intHi sgn) v := by
      cases sgn <;> rfl
    unfold intResult
    rw [if_pos rfl, if_pos rfl, e, clampTo_eq (by cases sgn <;> decide)]
    simp only [true_and]
    rfl

theorem ofInt_wordInt (sgn : Bool) (w : Word) : BitVec.ofInt 32 (wordInt sgn w) = w := by
  cases sgn with
  | true => exact BitVec.ofInt_toInt
  | false => exact (BitVec.ofInt_natCast ..).trans (BitVec.ofNat_toNat ..|>.trans (BitVec.setWidth_eq _))

/-- A vector write behind a check of tags that are accepted. -/
theorem checkedWrite_quiet {i : Instr} {ok : Group → Bool} {s : State} {d tag : Nat} {f : Group → Nat → LaneRes}
    (hq : s.quiet i = true) (hok : ok s.group = true) :
    ∃ t, execWord i (checkTags ok (vecWrite d tag f)) s = .next t ∧ Changes i [] [d] [] [] s t
      ∧ WroteV (s.doers i) d tag (fun l => (f s.group l).w) s.group t.group
      ∧ RaisedFlags (flagsOf (s.doers i) (fun l => (f s.group l).fl)) s.group t.group :=
  vecWrite_quiet hq (checkTags_ok hok)

/-- The sources of an integer arithmetic code have accepted tags (R55): VABS has no B, and VMAD alone an addend. -/
def intTags (min : Nat) (o : VOps) (g : Group) : Bool :=
  intTag (g.tag o.a) && (min = 7 || tagB g o intTag) && (min ≠ 4 || intTag (g.tag (addendReg o)))

/-- An integer arithmetic code on sources of accepted tags. -/
theorem intBody_quiet {i : Instr} {maj min : Nat} {o : VOps} {s : State} (hq : s.quiet i = true)
    (hA : intTag (s.group.tag o.a) = true) (hB : min ≠ 7 → tagB s.group o intTag = true)
    (hC : min = 4 → intTag (s.group.tag (addendReg o)) = true) {f : Nat → LaneRes}
    (hf : ∀ l, intFn min (maj = 8) o.sat (vA s.group o l) (vB s.group o l) (vC s.group o l) = f l) :
    ∃ t, execWord i (intBody maj min o) s = .next t ∧ Changes i [] [o.d] [] [] s t
      ∧ WroteV (s.doers i) o.d (if maj = 8 then 7 else 8) (fun l => (f l).w) s.group t.group
      ∧ RaisedFlags (flagsOf (s.doers i) (fun l => (f l).fl)) s.group t.group := by
  have hok : intTags min o s.group = true := by
    simp only [intTags, hA, Bool.true_and, Bool.and_eq_true, Bool.or_eq_true, decide_eq_true_eq]
    exact ⟨or_iff_not_imp_left.mpr hB, or_iff_not_imp_left.mpr (fun h => hC (not_not.mp h))⟩
  obtain ⟨t, he, hc, hw, hfl⟩ := checkedWrite_quiet (d := o.d) (tag := if maj = 8 then 7 else 8)
    (f := fun g l => intFn min (maj = 8) o.sat (vA g o l) (vB g o l) (vC g o l)) hq hok
  simp only [hf] at hw hfl
  exact ⟨t, he, hc, hw, hfl⟩

/-- Arithmetic whose exact result is wrapped or clamped (R65). -/
theorem intArith_quiet {i : Instr} {maj code : Nat} {o : VOps} {s : State} {sgn useB useC : Bool} {v : Nat → Int}
    (hex : exec i s = execWord i (intBody maj code o) s) (hsgn : decide (maj = 8) = sgn) (hq : s.quiet i = true)
    (hA : intTag (s.group.tag o.a) = true) (hB : useB = true → tagB s.group o intTag = true)
    (hC : useC = true → intTag (s.group.tag (addendReg o)) = true) (hmin : (code ≠ 7 → useB = true) ∧ (code = 4 → useC = true))
    (hv : ∀ l, intFn code sgn o.sat (vA s.group o l) (vB s.group o l) (vC s.group o l) = intResult sgn o.sat (v l)) :
    ∃ t, exec i s = .next t ∧ Changes i [] [o.d] [] [] s t
      ∧ WroteV (s.doers i) o.d (if sgn then 7 else 8)
          (fun l => BitVec.ofInt 32 (if o.sat then max (intLo sgn) (min (intHi sgn) (v l)) else v l)) s.group t.group
      ∧ RaisedFlags (flagsOf (s.doers i) (fun l => if o.sat ∧ (v l < intLo sgn ∨ intHi sgn < v l) then 32 else 0))
          s.group t.group := by
  subst hsgn
  obtain ⟨t, he, hc, hw, hfl⟩ := intBody_quiet hq hA (fun h => hB (hmin.1 h)) (fun h => hC (hmin.2 h)) hv
  simp only [intResult_eq] at hw hfl
  refine ⟨t, hex.trans he, hc, ?_, hfl⟩
  simpa only [decide_eq_true_eq] using hw

/-- Arithmetic whose exact result lies in the type. -/
theorem intExact_quiet {i : Instr} {maj code : Nat} {o : VOps} {s : State} {sgn : Bool} {v : Nat → Int}
    (hex : exec i s = execWord i (intBody maj code o) s) (hsgn : decide (maj = 8) = sgn) (hq : s.quiet i = true)
    (hA : intTag (s.group.tag o.a) = true) (hB : tagB s.group o intTag = true) (hmin : code ≠ 4)
    (hv : ∀ l, intFn code sgn o.sat (vA s.group o l) (vB s.group o l) (vC s.group o l) = ⟨BitVec.ofInt 32 (v l), 0⟩) :
    ∃ t, exec i s = .next t ∧ Changes i [] [o.d] [] [] s t
      ∧ WroteV (s.doers i) o.d (if sgn then 7 else 8) (fun l => BitVec.ofInt 32 (v l)) s.group t.group
      ∧ t.group.flags = s.group.flags := by
  subst hsgn
  obtain ⟨t, he, hc, hw, hfl⟩ := intBody_quiet hq hA (fun _ => hB) (fun h => absurd h hmin) hv
  simp only [flagsOf_zero] at hfl
  refine ⟨t, hex.trans he, hc, ?_, hfl.of_zero⟩
  simpa only [decide_eq_true_eq] using hw

theorem intFn_mulh (sgn sat : Bool) (a b c : Word) :
    intFn 3 sgn sat a b c = ⟨BitVec.ofInt 32 (wordInt sgn a * wordInt sgn b / 2 ^ 32), 0⟩ := rfl

theorem intFn_min (sgn sat : Bool) (a b c : Word) :
    intFn 5 sgn sat a b c = ⟨BitVec.ofInt 32 (min (wordInt sgn a) (wordInt sgn b)), 0⟩ := by
  show LaneRes.mk (if wordInt sgn b < wordInt sgn a then b else a) 0 = _
  split
  · next h => rw [min_eq_right h.le, ofInt_wordInt]
  · next h => rw [min_eq_left (not_lt.mp h), ofInt_wordInt]

theorem intFn_max (sgn sat : Bool) (a b c : Word) :
    intFn 6 sgn sat a b c = ⟨BitVec.ofInt 32 (max (wordInt sgn a) (wordInt sgn b)), 0⟩ := by
  show LaneRes.mk (if wordInt sgn a < wordInt sgn b then b else a) 0 = _
  split
  · next h => rw [max_eq_right h.le, ofInt_wordInt]
  · next h => rw [max_eq_left (not_lt.mp h), ofInt_wordInt]

theorem intFn_abs (sgn sat : Bool) (a b c : Word) : intFn 7 sgn sat a b c = intResult sgn sat |wordInt sgn a| :=
  congrArg (intResult sgn sat) (Int.abs_eq_natAbs _).symm

/-- Settles O5: each code writes what `intFn` gives: an exact result that is wrapped or clamped (`intArith_quiet`), or one that
lies in the type (`intExact_quiet`). -/
theorem vectorArithmetic : Obligations.VectorArithmetic := by
  unfold Obligations.VectorArithmetic
  constructor
  · intro mk sgn useB useC exact hmem o s hq hA hB hC
    simp only [List.mem_cons, List.not_mem_nil, or_false, Prod.mk.injEq] at hmem
    rcases hmem with ⟨rfl, rfl, rfl, rfl, rfl⟩ | ⟨rfl, rfl, rfl, rfl, rfl⟩ | ⟨rfl, rfl, rfl, rfl, rfl⟩ |
      ⟨rfl, rfl, rfl, rfl, rfl⟩ | ⟨rfl, rfl, rfl, rfl, rfl⟩ | ⟨rfl, rfl, rfl, rfl, rfl⟩ | ⟨rfl, rfl, rfl, rfl, rfl⟩ |
      ⟨rfl, rfl, rfl, rfl, rfl⟩ | ⟨rfl, rfl, rfl, rfl, rfl⟩
    · exact intArith_quiet (maj := 8) (code := 0) rfl rfl hq hA hB hC (by decide) (fun _ => rfl)
    · exact intArith_quiet (maj := 8) (code := 1) rfl rfl hq hA hB hC (by decide) (fun _ => rfl)
    · exact intArith_quiet (maj := 8) (code := 2) rfl rfl hq hA hB hC (by decide) (fun _ => rfl)
    · exact intArith_quiet (maj := 8) (code := 4) rfl rfl hq hA hB hC (by decide) (fun _ => rfl)
    · exact intArith_quiet (maj := 8) (code := 7) rfl rfl hq hA hB hC (by decide) (fun _ => intFn_abs _ _ _ _ _)
    · exact intArith_quiet (maj := 9) (code := 0) rfl rfl hq hA hB hC (by decide) (fun _ => rfl)
    · exact intArith_quiet (maj := 9) (code := 1) rfl rfl hq hA hB hC (by decide) (fun _ => rfl)
    · exact intArith_quiet (maj := 9) (code := 2) rfl rfl hq hA hB hC (by decide) (fun _ => rfl)
    · exact intArith_quiet (maj := 9) (code := 4) rfl rfl hq hA hB hC (by decide) (fun _ => rfl)
  · intro mk sgn f hmem o s hq hA hB
    simp only [List.mem_cons, List.not_mem_nil, or_false, Prod.mk.injEq] at hmem
    rcases hmem with ⟨rfl, rfl, rfl⟩ | ⟨rfl, rfl, rfl⟩ | ⟨rfl, rfl, rfl⟩ | ⟨rfl, rfl, rfl⟩ | ⟨rfl, rfl, rfl⟩ |
      ⟨rfl, rfl, rfl⟩
    · exact intExact_quiet (maj := 8) (code := 3) rfl rfl hq hA hB (by decide) (fun _ => intFn_mulh _ _ _ _ _)
    · exact intExact_quiet (maj := 8) (code := 5) rfl rfl hq hA hB (by decide) (fun _ => intFn_min _ _ _ _ _)
    · exact intExact_quiet (maj := 8) (code := 6) rfl rfl hq hA hB (by decide) (fun _ => intFn_max _ _ _ _ _)
    · exact intExact_quiet (maj := 9) (code := 3) rfl rfl hq hA hB (by decide) (fun _ => intFn_mulh _ _ _ _ _)
    · exact intExact_quiet (maj := 9) (code := 5) rfl rfl hq hA hB (by decide) (fun _ => intFn_min _ _ _ _ _)
    · exact intExact_quiet (maj := 9) (code := 6) rfl rfl hq hA hB (by decide) (fun _ => intFn_max _ _ _ _ _)

end Sys2Proof.Machine
end

section
/-! PROOFS. Conversions, block scales and zero points (O17). -/
namespace Sys2Proof.Machine
open Sys2Proof

/-! ## A run of registers -/

/-- Registers d to d + n - 1 of a group written in the lanes of p. -/
def Group.setRun (d tag n : Nat) (p : Dword) (w : Nat → Nat → Word) (g : Group) : Group :=
  (List.range n).foldl (fun g k => g.setVF (d + k) tag p (w k)) g

section
variable (d tag n : Nat) (p : Dword) (w : Nat → Nat → Word) (g : Group)

theorem Group.setRun_succ : g.setRun d tag (n + 1) p w = (g.setRun d tag n p w).setVF (d + n) tag p (w n) := by
  rw [Group.setRun, List.range_succ, List.foldl_append]; rfl

theorem Group.setRun_empty : g.setRun d tag n 0 w = g := by
  induction n with
  | zero => rfl
  | succ n ih => rw [Group.setRun_succ, ih, Group.setVF_empty]

@[simp] theorem Group.setRun_flags : (g.setRun d tag n p w).flags = g.flags := by
  induction n with
  | zero => rfl
  | succ n ih => rw [Group.setRun_succ, Group.setVF_flags, ih]

theorem Group.vreg_setRun_ne {r : Nat} (h : r < d ∨ d + n ≤ r) : (g.setRun d tag n p w).vreg r = g.vreg r := by
  induction n with
  | zero => rfl
  | succ n ih => rw [Group.setRun_succ, Group.vreg_setVF_ne _ (by omega), ih (by omega)]

theorem Group.setRun_vecOnly {vs : List Nat} (h : ∀ k < n, d + k ∈ vs) : g.VecOnly vs (g.setRun d tag n p w) := by
  induction n with
  | zero => exact .refl vs g
  | succ n ih =>
    rw [Group.setRun_succ]
    exact (ih (fun k hk => h k (by omega))).setVF (h n (by omega)) tag p (w n)

theorem Group.setRun_wroteV {k : Nat} (h : k < n) : WroteV p (d + k) tag (w k) g (g.setRun d tag n p w) := by
  induction n with
  | zero => omega
  | succ n ih =>
    rw [Group.setRun_succ]
    rcases Nat.lt_succ_iff_lt_or_eq.mp h with hlt | rfl
    · exact (ih hlt).then_same (Group.vreg_setVF_ne _ (by omega) _ _ _)
    · exact (Group.wroteV p (d + k) tag (w k) (g.setRun d tag k p w)).of_same (Group.vreg_setRun_ne d tag k p w g (.inr le_rfl))

end

/-! ## The write of a conversion -/

theorem foldl_max_const {ls : List Nat} (h : ls ≠ []) (n : Nat) : (ls.map (fun _ => n)).foldl max 0 = n := by
  have key : ∀ (ls : List Nat) (a : Nat), a ≤ n → (ls.map (fun _ => n)).foldl max a = if ls = [] then a else n := by
    intro ls
    induction ls with
    | nil => intro a _; rfl
    | cons l ls ih =>
      intro a ha
      rw [List.map_cons, List.foldl_cons, max_eq_right ha, ih n le_rfl, if_neg (List.cons_ne_nil l ls), ite_self]
  rw [key ls 0 (Nat.zero_le n), if_neg h]

/-- What a conversion writes in the lanes of p when each lane gives n registers: the run, and the companion where there is one. -/
def Group.convPut (d dtag comp n : Nat) (p : Dword) (r : Nat → ConvRes) (g : Group) : Group :=
  ((g.setRun d dtag n p (fun k l => (r l).regs.getD k 0)).setV comp 0
    ((lanesOf p).filterMap (fun l => (r l).comp.map (fun w => (l, w))))).raise (flagsOf p (fun l => (r l).fl))

theorem convWrite_eq {d dtag comp n : Nat} {bad : Group → Dword → List Nat} {f : Group → Nat → ConvRes} {iss : Issue} {s : State}
    (hbad : bad s.group iss.p = []) (hn : ∀ l, (f s.group l).regs.length = n) :
    convWrite d dtag comp bad f iss s = Res.group s (Group.convPut d dtag comp n iss.p (f s.group)) := by
  have hls : (lanesOf iss.p).filter (fun l => !([] : List Nat).contains l) = lanesOf iss.p := List.filter_eq_self.mpr (by simp)
  have hlen : ((lanesOf iss.p).map (fun l => (f s.group l).regs.length)).foldl max 0 = if iss.p = 0 then 0 else n := by
    split
    · next h => rw [h]; rfl
    · next h => simp only [hn]; exact foldl_max_const (fun e => h ((lanesOf_eq_nil _).mp e)) n
  have hrun : ∀ g : Group, g.setRun d dtag (if iss.p = 0 then 0 else n) iss.p (fun k l => (f s.group l).regs.getD k 0) =
      g.setRun d dtag n iss.p (fun k l => (f s.group l).regs.getD k 0) := fun g => by
    split
    · next h => rw [h, Group.setRun_empty, Group.setRun_empty]
    · rfl
  unfold convWrite Res.group Group.convPut
  simp only [hbad, hls, List.map_map, List.foldl_map, List.filterMap_map, List.map_nil]
  congr 2
  funext g
  rw [← hrun g, ← hlen]
  simp only [List.foldl_map]
  rfl

/-- The registers that a conversion writes: its run, and the companion when it writes one. -/
def convDests (d n : Nat) (comps : List Nat) : List Nat := (List.range n).map (d + ·) ++ comps

theorem add_mem_convDests {d n k : Nat} (h : k < n) (comps : List Nat) : d + k ∈ convDests d n comps :=
  List.mem_append_left _ (List.mem_map_of_mem (List.mem_range.mpr h))

/-- A conversion of accepted sources that writes a run alone. -/
theorem convRun_quiet {i : Instr} {body : Body} {s : State} {d dtag n : Nat} {r : Nat → ConvRes} (comp : Nat) (hq : s.quiet i = true)
    (hb : body ((s.issueOf (wordsOf i)).by (s.doers i)) s = Res.group s (Group.convPut d dtag comp n (s.doers i) r))
    (hcomp : ∀ l, (r l).comp = none) :
    ∃ t, execWord i body s = .next t ∧ Changes i [] (convDests d n []) [] [] s t
      ∧ (∀ k < n, WroteV (s.doers i) (d + k) dtag (fun l => (r l).regs.getD k 0) s.group t.group)
      ∧ RaisedFlags (flagsOf (s.doers i) (fun l => (r l).fl)) s.group t.group := by
  have hput : Group.convPut d dtag comp n (s.doers i) r s.group =
      (s.group.setRun d dtag n (s.doers i) (fun k l => (r l).regs.getD k 0)).raise (flagsOf (s.doers i) (fun l => (r l).fl)) := by
    have hnil : (lanesOf (s.doers i)).filterMap (fun l => (r l).comp.map (fun w => (l, w))) = [] := by simp [hcomp]
    rw [Group.convPut, hnil]
    rfl
  obtain ⟨t, he, hc, hr⟩ := execWord_vectors hq hb (vs := convDests d n [])
    (by rw [hput]; exact (Group.setRun_vecOnly _ _ _ _ _ _ (fun k hk => add_mem_convDests hk [])).raise _)
  rw [hput] at hr
  refine ⟨t, he, hc, fun k hk => ?_, hr.raisedFlags (by rw [Group.raise_flags, Group.setRun_flags])⟩
  exact ((Group.setRun_wroteV d dtag n _ _ s.group hk).then_same (Group.vreg_raise _ _ _)).congr hr

/-- A conversion of accepted sources that writes a run and its companion. -/
theorem convComp_quiet {i : Instr} {body : Body} {s : State} {d dtag comp n : Nat} {r : Nat → ConvRes} {w : Nat → Word}
    (hq : s.quiet i = true)
    (hb : body ((s.issueOf (wordsOf i)).by (s.doers i)) s = Res.group s (Group.convPut d dtag comp n (s.doers i) r))
    (hcomp : ∀ l, (r l).comp = some (w l)) (hout : ∀ k < n, comp ≠ d + k) :
    ∃ t, execWord i body s = .next t ∧ Changes i [] (convDests d n [comp]) [] [] s t
      ∧ (∀ k < n, WroteV (s.doers i) (d + k) dtag (fun l => (r l).regs.getD k 0) s.group t.group)
      ∧ WroteV (s.doers i) comp 0 w s.group t.group
      ∧ RaisedFlags (flagsOf (s.doers i) (fun l => (r l).fl)) s.group t.group := by
  have hput : Group.convPut d dtag comp n (s.doers i) r s.group =
      ((s.group.setRun d dtag n (s.doers i) (fun k l => (r l).regs.getD k 0)).setVF comp 0 (s.doers i) w).raise
        (flagsOf (s.doers i) (fun l => (r l).fl)) := by
    rw [Group.convPut, Group.setVF]
    simp [hcomp]
  have hvreg : (s.group.setRun d dtag n (s.doers i) (fun k l => (r l).regs.getD k 0)).vreg comp = s.group.vreg comp := by
    refine Group.vreg_setRun_ne _ _ _ _ _ _ ?_
    by_contra hin
    exact hout (comp - d) (by omega) (by omega)
  obtain ⟨t, he, hc, hr⟩ := execWord_vectors hq hb (vs := convDests d n [comp]) (by
    rw [hput]
    exact ((Group.setRun_vecOnly _ _ _ _ _ _ (fun k hk => add_mem_convDests hk [comp])).setVF
      (List.mem_append_right _ (List.mem_singleton_self comp)) _ _ _).raise _)
  rw [hput] at hr
  refine ⟨t, he, hc, fun k hk => ?_, ?_,
    hr.raisedFlags (by rw [Group.raise_flags, Group.setVF_flags, Group.setRun_flags])⟩
  · have hw := Group.setRun_wroteV d dtag n (s.doers i) (fun k l => (r l).regs.getD k 0) s.group hk
    exact ((hw.then_same (Group.vreg_setVF_ne _ (hout k hk).symm _ _ _)).then_same (Group.vreg_raise _ _ _)).congr hr
  · exact (((Group.wroteV _ comp 0 w _).of_same hvreg).then_same (Group.vreg_raise _ _ _)).congr hr

/-! ## One lane of a conversion (R183, R184) -/

theorem packRun_length (tag k : Nat) (he : 0 < elems tag) {cs : List Nat} (h : cs.length = elems tag * k) :
    (packRun tag cs).length = k := by
  have hlt : (elems tag - 1) / elems tag = 0 := Nat.div_eq_of_lt (by omega)
  rw [packRun, List.length_map, List.length_range, h, Nat.add_sub_assoc (by omega), Nat.mul_add_div he, hlt, Nat.add_zero]

/-- One register holds the elements of one slot. -/
theorem packRun_one (tag : Nat) (he : 0 < elems tag) {cs : List Nat} (h : cs.length = elems tag) :
    packRun tag cs = [packElems tag cs] := by
  have hlen : (cs.length + elems tag - 1) / elems tag = 1 := by
    have hlt : (elems tag - 1) / elems tag = 0 := Nat.div_eq_of_lt (by omega)
    rw [h, Nat.add_sub_assoc (by omega), Nat.add_div_left _ he, hlt]
  unfold packRun
  simp only [hlen]
  rw [List.range_one, List.map_singleton, Nat.zero_mul, List.drop_zero, ← h, List.take_length]

@[simp] theorem runElems_length (g : Group) (tag r n l : Nat) : (runElems g tag r n l).length = n := by simp [runElems]

/-- An FP4 lane: its registers, and the block scale that its companion takes. -/
theorem cvtLane_fp4 (sf mode : Nat) (sat : Bool) (codes : List Nat) (comp : Word) :
    ∃ (es : List FRes) (w : Word) (fl : Nat), es.length = codes.length
      ∧ cvtLane sf 6 mode sat codes comp = { regs := packRun 6 (es.map FRes.code), comp := some w, fl := fl } := by
  unfold cvtLane
  rw [if_pos rfl]
  refine ⟨_, _, _, ?_, rfl⟩
  simp

/-- A lane of another format: its registers, and no companion. -/
theorem cvtLane_other {dt : Nat} (h : dt ≠ 6) (sf mode : Nat) (sat : Bool) (codes : List Nat) (comp : Word) :
    ∃ (rs : List FRes) (fl : Nat), rs.length = codes.length
      ∧ cvtLane sf dt mode sat codes comp = { regs := packRun dt (rs.map FRes.code), fl := fl } := by
  unfold cvtLane
  rw [if_neg h]
  refine ⟨_, _, ?_, rfl⟩
  simp

theorem cvtLane_regs_length {sf dt k mode : Nat} {sat : Bool} {codes : List Nat} {comp : Word}
    (hlen : codes.length = elems dt * k) (he : 0 < elems dt) : (cvtLane sf dt mode sat codes comp).regs.length = k := by
  by_cases h : dt = 6
  · subst h
    obtain ⟨es, w, fl, hes, e⟩ := cvtLane_fp4 sf mode sat codes comp
    rw [e]
    exact packRun_length 6 k he (by rw [List.length_map, hes, hlen])
  · obtain ⟨rs, fl, hrs, e⟩ := cvtLane_other h sf mode sat codes comp
    rw [e]
    exact packRun_length dt k he (by rw [List.length_map, hrs, hlen])

theorem cvtLane_comp_none {sf dt mode : Nat} {sat : Bool} {codes : List Nat} {comp : Word} (h : dt ≠ 6) :
    (cvtLane sf dt mode sat codes comp).comp = none := by
  obtain ⟨rs, fl, -, e⟩ := cvtLane_other h sf mode sat codes comp
  rw [e]

theorem cvtLane_comp_some {sf mode : Nat} {sat : Bool} {codes : List Nat} {comp : Word} :
    (cvtLane sf 6 mode sat codes comp).comp = some ((cvtLane sf 6 mode sat codes comp).comp.getD 0) := by
  obtain ⟨es, w, fl, -, e⟩ := cvtLane_fp4 sf mode sat codes comp
  rw [e]
  rfl

/-- The slots of two formats divide one another. -/
theorem elems_dvd_max {sf dt : Nat} (hs : sf ≤ 12) (hd : dt ≤ 12) : 0 < elems dt ∧ elems dt ∣ max (elems sf) (elems dt) :=
  (by decide : ∀ sf ≤ 12, ∀ dt ≤ 12, 0 < elems dt ∧ elems dt ∣ max (elems sf) (elems dt)) sf hs dt hd

/-- VCVT on accepted sources writes each lane's results. -/
theorem cvtBody_quiet {o : VOps} {s : State} {iss : Issue} {sf dt n : Nat} (hdt : o.bf % 16 = dt) (hsf : o.bf / 16 % 16 = sf)
    (hn : max (elems sf) (elems dt) = n) (hd : dt ≤ 12) (hs : sf ≤ 12) (htag : allTag s.group sf o.a (n / elems sf) = true)
    (hcomp : sf = 6 ∨ isOb sf = true ∨ isOb dt = true → compTag (s.group.tag o.c) = true)
    (hbad : badZero s.group (if isOb sf then sf else dt) o.c iss.p = []) :
    cvtBody o iss s = Res.group s (Group.convPut o.d dt o.c (n / elems dt) iss.p
      (fun l => cvtLane sf dt (modeOf s.group o) o.sat (runElems s.group sf o.a n l) (s.group.lane o.c l))) := by
  obtain ⟨he, hdvd⟩ := elems_dvd_max hs hd
  have hok : (allTag s.group sf o.a (n / elems sf) && (!(sf = 6 || isOb sf || isOb dt) || compTag (s.group.tag o.c))) = true := by
    rw [htag, Bool.true_and]
    cases hc : compTag (s.group.tag o.c) with
    | true => rw [Bool.or_true]
    | false =>
      rw [hc] at hcomp
      simpa [not_or, and_assoc] using hcomp
  subst hdt hsf hn
  unfold cvtBody
  refine (checkTags_ok ?_).trans (convWrite_eq ?_ fun l => ?_)
  · exact hok
  · exact hbad
  · exact cvtLane_regs_length ((runElems_length _ _ _ _ _).trans (Nat.mul_div_cancel' hdvd).symm) he

/-! ## VCVT, VSCALE and VZP -/

theorem vcvt_quiet {o : VOps} {s : State} {sf dt n : Nat} (hdt : o.bf % 16 = dt) (hsf : o.bf / 16 % 16 = sf)
    (hn : max (elems sf) (elems dt) = n) (hq : s.quiet (.vcvt o) = true) (hd : dt ≤ 12) (hs : sf ≤ 12)
    (htag : allTag s.group sf o.a (n / elems sf) = true)
    (hcomp : sf = 6 ∨ isOb sf = true ∨ isOb dt = true → compTag (s.group.tag o.c) = true)
    (hbad : badZero s.group (if isOb sf then sf else dt) o.c (s.doers (.vcvt o)) = []) (hcd : dt = 6 → o.c ≠ o.d) :
    let r := fun l => cvtLane sf dt (modeOf s.group o) o.sat (runElems s.group sf o.a n l) (s.group.lane o.c l)
    ∃ t, exec (.vcvt o) s = .next t
      ∧ Changes (.vcvt o) [] (convDests o.d (n / elems dt) (if dt = 6 then [o.c] else [])) [] [] s t
      ∧ (∀ k < n / elems dt, WroteV (s.doers (.vcvt o)) (o.d + k) dt (fun l => (r l).regs.getD k 0) s.group t.group)
      ∧ (dt = 6 → WroteV (s.doers (.vcvt o)) o.c 0 (fun l => (r l).comp.getD 0) s.group t.group)
      ∧ RaisedFlags (flagsOf (s.doers (.vcvt o)) (fun l => (r l).fl)) s.group t.group := by
  intro r
  have hb := cvtBody_quiet (iss := (s.issueOf (wordsOf (.vcvt o))).by (s.doers (.vcvt o))) hdt hsf hn hd hs htag hcomp hbad
  by_cases h6 : dt = 6
  · subst h6
    have hone : n / elems 6 ≤ 1 := by
      have h8 : elems sf ≤ 8 := by unfold elems; split_ifs <;> omega
      rw [← hn, show elems 6 = 8 from rfl, max_eq_right h8]
    obtain ⟨t, he, hc, hw, hwc, hfl⟩ := convComp_quiet hq hb (fun l => cvtLane_comp_some)
      (fun k hk => by obtain rfl : k = 0 := by omega
                      exact hcd rfl)
    exact ⟨t, he, hc, hw, fun _ => hwc, hfl⟩
  · obtain ⟨t, he, hc, hw, hfl⟩ := convRun_quiet o.c hq hb (fun l => cvtLane_comp_none h6)
    rw [if_neg h6]
    exact ⟨t, he, hc, hw, fun h => absurd h h6, hfl⟩

/-- A conversion behind a check of tags that writes one register and no companion. -/
theorem convOne_quiet {i : Instr} {ok : Group → Bool} {bad : Group → Dword → List Nat} {s : State} {d dtag : Nat}
    {f : Group → Nat → ConvRes} {w : Nat → Word} {fl : Nat → Nat} (hq : s.quiet i = true) (hok : ok s.group = true)
    (hbad : bad s.group (s.doers i) = []) (hf : ∀ l, f s.group l = { regs := [w l], fl := fl l }) :
    ∃ t, execWord i (checkTags ok (convWrite d dtag 0 bad f)) s = .next t ∧ Changes i [] [d] [] [] s t
      ∧ WroteV (s.doers i) d dtag w s.group t.group ∧ RaisedFlags (flagsOf (s.doers i) fl) s.group t.group := by
  obtain ⟨t, he, hc, hw, hfl⟩ := convRun_quiet (n := 1) 0 hq ((checkTags_ok hok).trans
    (convWrite_eq (f := f) hbad (fun l => by rw [hf]; rfl))) (fun l => by rw [hf])
  simp only [hf] at hw hfl
  exact ⟨t, he, hc, hw 0 one_pos, hfl⟩

theorem vscaleApply_quiet {o : VOps} {s : State} {sf : Nat} (hsf : o.bf / 16 % 16 = sf) (hq : s.quiet (.vscaleApply o) = true)
    (htag : allTag s.group sf o.a (8 / elems sf) = true) (hcomp : compTag (s.group.tag o.c) = true) :
    let r := fun l => (runElems s.group sf o.a 8 l).map
      (fun c => fp4Elem (modeOf s.group o) (bits (s.group.lane o.c l).toNat 7 0) ((fmtOfTag sf).val c))
    ∃ t, exec (.vscaleApply o) s = .next t ∧ Changes (.vscaleApply o) [] [o.d] [] [] s t
      ∧ WroteV (s.doers (.vscaleApply o)) o.d 6 (fun l => packElems 6 ((r l).map FRes.code)) s.group t.group
      ∧ RaisedFlags (flagsOf (s.doers (.vscaleApply o)) (fun l => (r l).foldl (fun a x => a ||| x.fl) 0)) s.group t.group := by
  subst hsf
  refine convOne_quiet hq (by rw [htag, hcomp]; rfl) rfl (fun l => ?_)
  simp only [packRun_one 6 (by decide) (by simp; rfl : (((runElems s.group (o.bf / 16 % 16) o.a 8 l).map
    (fun c => fp4Elem (modeOf s.group o) (bits (s.group.lane o.c l).toNat 7 0) ((fmtOfTag (o.bf / 16 % 16)).val c))).map
      FRes.code).length = elems 6)]

/-- The value of a zero point, in a companion without bad bits (R62). -/
theorem compVal_eq (t : Nat) (w : Word) : compVal t w = w.toNat % if t = 12 then 16 else 256 := by
  unfold compVal bits
  split <;> simp

theorem wordInt_decide (p : Prop) [Decidable p] (w : Word) : wordInt (decide p) w = if p then w.toInt else (w.toNat : Int) := by
  by_cases h : p <;> simp [wordInt, h]

/-- Settles O17: VCVT writes each lane's results and an FP4 scale (`vcvt_quiet`); the block-scale and zero-point forms write one
register (`checkedWrite_quiet`, `convOne_quiet`). -/
theorem conversionForms : Obligations.ConversionForms := by
  unfold Obligations.ConversionForms
  refine ⟨fun o s => ?_, fun o s => ⟨?_, ?_, ?_, ?_⟩⟩
  · intro i dt sf n p r hq hd hs htag hcomp hbad hcd
    obtain ⟨t, he, hc, hw, hwc, hfl⟩ := vcvt_quiet (o := o) rfl rfl rfl hq hd hs htag hcomp hbad hcd
    exact ⟨t, he, hc, hw, hwc, hfl⟩
  · intro i r hq htag
    exact checkedWrite_quiet hq htag
  · intro i r hq htag hcomp
    exact vscaleApply_quiet rfl hq htag hcomp
  · intro i hi v hq htag
    obtain ⟨t, he, hc, hw, hfl⟩ := checkedWrite_quiet (ok := fun g => g.tag o.a = o.bf / 16 % 16) (d := o.d) (tag := 0) hq
      (decide_eq_true htag)
      (f := fun g l => (fun x => ⟨BitVec.ofInt 32 x.1, x.2⟩) (clampTo 0 hi (wordInt (o.bf / 16 % 16 = 7) (vA g o l))))
    have hhi : 0 ≤ hi := by show (0 : Int) ≤ if o.bf % 16 = 11 then 255 else 15; split <;> decide
    have hclamp : ∀ l, clampTo 0 hi (wordInt (o.bf / 16 % 16 = 7) (vA s.group o l)) =
        (max 0 (min hi (v l)), if v l < 0 ∨ hi < v l then 32 else 0) := fun l => by
      rw [clampTo_eq hhi, show wordInt (o.bf / 16 % 16 = 7) (vA s.group o l) = v l from wordInt_decide _ _]
      rfl
    simp only [hclamp] at hw hfl
    exact ⟨t, he, hc, hw, hfl⟩
  · intro i hq hcomp hbad
    obtain ⟨t, he, hc, hw, hfl⟩ := convOne_quiet (ok := fun g => compTag (g.tag o.a)) 
      (bad := fun g p => badZero g (o.bf / 16 % 16) o.a p) (d := o.d) (dtag := 8)
      (f := fun g l => { regs := [BitVec.ofNat 32 (compVal (o.bf / 16 % 16) (vA g o l))] }) hq hcomp hbad (fun l => rfl)
    simp only [compVal_eq, flagsOf_zero] at hw hfl
    exact ⟨t, he, hc, hfl.of_zero, hw⟩

end Sys2Proof.Machine
end

section
/-! PROOFS. Row statistics and the fused forms (O20). -/
namespace Sys2Proof.Machine
open Sys2Proof

/-! ## The entries of a team (R80, R193) -/

theorem State.team_modTeam {s : State} (h : (s.coreAt s.core).team.isSome = true) (f : Team → Team) :
    (s.modTeam f).team = f s.team := by
  obtain ⟨t, ht⟩ := Option.isSome_iff_exists.mp h
  show (((s.modCore s.core _).coreAt s.core).team).getD {} = f ((s.coreAt s.core).team.getD {})
  rw [State.coreAt_modCore, if_pos rfl, ht]
  rfl

theorem State.quiet_team {i : Instr} {s : State} (hq : s.quiet i = true) (hs : s.isSvc = false) :
    (s.coreAt s.core).team.isSome = true := by
  have := State.quiet_present hq
  rwa [State.present, hs, Bool.false_or] at this

section
variable {s : State} (e : Nat) (r : RowStat)

theorem State.setStat_present (h : s.present = true) : (s.setStat e r).present = true := by
  show (s.isSvc || ((s.modCore s.core _).coreAt s.core).team.isSome) = true
  rw [State.coreAt_modCore, if_pos rfl]
  show (s.isSvc || (Option.map _ (s.coreAt s.core).team).isSome) = true
  rw [Option.isSome_map]
  exact h

theorem State.setStat_group (hs : s.isSvc = false) (ht : (s.coreAt s.core).team.isSome = true) : (s.setStat e r).group = s.group := by
  show (if s.isSvc then _ else (s.modTeam _).team.group s.grp) = if s.isSvc then _ else s.team.group s.grp
  rw [hs, if_neg Bool.false_ne_true, if_neg Bool.false_ne_true, State.team_modTeam ht]
  rfl

theorem State.stat_setStat (ht : (s.coreAt s.core).team.isSome = true) (k : Nat) :
    (s.setStat e r).stat k = if k = e then r else s.stat k := by
  show tget {} (s.modTeam _).team.rowstat k = _
  rw [State.team_modTeam ht]
  exact tget_tput _ _ _ _ _

end

/-- A change of the issuing group leaves the entries of its team. -/
theorem State.stat_modGroup (s : State) (f : Group → Group) (k : Nat) : (s.modGroup f).stat k = s.stat k := by
  show tget {} (((s.modGroup f).coreAt (s.modGroup f).core).team.getD {}).rowstat k = tget {} ((s.coreAt s.core).team.getD {}).rowstat k
  rw [State.modGroup_core]
  by_cases hg : s.grp = 16
  · rw [s.modGroup_svc f hg, State.coreAt_modCore, if_pos rfl]
  · rw [s.modGroup_team f hg, State.coreAt_modCore, if_pos rfl]
    cases (s.coreAt s.core).team <;> rfl

/-- An instruction whose body leaves a state with the same group. -/
theorem execWord_sameGroup {i : Instr} {body : Body} {s u : State} (hq : s.quiet i = true)
    (hb : body ((s.issueOf (wordsOf i)).by (s.doers i)) s = .skip u) (hu : u.present = true) (hg : u.group = s.group) :
    ∃ t, execWord i body s = .next t ∧ Changes i [] [] [] [] u t ∧ t.group.flags = s.group.flags ∧ ∀ k, t.stat k = u.stat k := by
  have hr := s.wentOn_sameRegs (wordsOf i) false hu
  have hwent := s.wentOn_went (wordsOf i) false hu (congrArg _ hg) (congrArg _ hg)
  refine ⟨s.wentOn (wordsOf i) false u, congrArg _ (runIssue_wentOn hq hb),
    changes_of_vecOnly ⟨⟨_, rfl⟩, hr.toSameControl, ?_⟩ (.refl [] _) hr, hr.flags.trans (congrArg _ hg), u.stat_modGroup _⟩
  unfold Group.Went at hwent ⊢
  rwa [hg]

theorem checkEntry_ok {idx : Group → Nat} {body : Body} {iss : Issue} {s : State} (hs : s.isSvc = false)
    (he : idx s.group < 128 * s.team.tiles) : checkEntry idx body iss s = body iss s := by
  unfold checkEntry
  simp only [hs, Bool.false_eq_true, if_false]
  rw [if_neg (fun h => absurd h.2 (not_le.mpr he))]

/-! ## VSTAT (R193 to R195) -/

theorem RowStat.acc_n (r : RowStat) (x : Fv) : (r.acc x).n = r.n + 1 := by
  cases x with
  | nan _ => rfl
  | inf n => cases n <;> rfl
  | fin _ _ _ => rfl

/-- Every element counts. -/
theorem RowStat.foldl_acc_n (xs : List Fv) (r : RowStat) : (xs.foldl RowStat.acc r).n = r.n + xs.length := by
  induction xs generalizing r with
  | nil => rfl
  | cons x xs ih => rw [List.foldl_cons, ih, RowStat.acc_n, List.length_cons]; omega

section
variable {o : VOps} {s : State}

/-- A write of an entry by an instruction with performers. -/
theorem setStat_quiet {i : Instr} {body : Body} {e : Nat} {r : RowStat} (hq : s.quiet i = true) (hs : s.isSvc = false)
    (hb : body ((s.issueOf (wordsOf i)).by (s.doers i)) s = .skip (s.setStat e r)) :
    ∃ t, execWord i body s = .next t ∧ Changes i [] [] [] [] (s.setStat e r) t ∧ t.group.flags = s.group.flags
      ∧ t.stat e = r ∧ ∀ k, k ≠ e → t.stat k = s.stat k := by
  have ht := State.quiet_team hq hs
  obtain ⟨t, he, hc, hfl, hst⟩ := execWord_sameGroup hq hb (State.setStat_present e r (State.quiet_present hq))
    (State.setStat_group e r hs ht)
  exact ⟨t, he, hc, hfl, by rw [hst, State.stat_setStat e r ht, if_pos rfl],
    fun k hk => by rw [hst, State.stat_setStat e r ht, if_neg hk]⟩

/-- VSTAT.ACC adds the elements of the lanes of P to its entry. -/
theorem statAccBody_eq {iss : Issue} (hs : s.isSvc = false) (he : statIdx o s.group < 128 * s.team.tiles) (hp : iss.p ≠ 0)
    (htag : tagB s.group o (fun t => t = o.d / 4 % 4 + 1) = true) :
    statAccBody o iss s = .skip (s.setStat (statIdx o s.group)
      (((lanesOf iss.p).flatMap (fun l => (elemsOf (o.d / 4 % 4 + 1) (vB s.group o l)).map
        (fmtOfTag (o.d / 4 % 4 + 1)).val)).foldl RowStat.acc (s.stat (statIdx o s.group)))) := by
  unfold statAccBody
  rw [checkTags_ok htag, checkEntry_ok hs he]
  exact if_neg hp

/-- VSTAT.CLR empties its entry. -/
theorem statClrBody_eq {iss : Issue} (hs : s.isSvc = false) (he : statIdx o s.group < 128 * s.team.tiles) (hp : iss.p ≠ 0) :
    statClrBody o iss s = .skip (s.setStat (statIdx o s.group) {}) := by
  unfold statClrBody
  rw [checkEntry_ok hs he]
  exact if_neg hp

/-! ## Two registers, and the flags that go with them -/

/-- A write of registers d and d + 1 in the lanes of P, made when P is not empty. -/
theorem twoRegs_quiet {i : Instr} {body : Body} {d fl : Nat} {w w' : Nat → Word} (hq : s.quiet i = true)
    (hb : body ((s.issueOf (wordsOf i)).by (s.doers i)) s = uniform (fun g => ((g.setVF d 1 (s.doers i) w).setVF (d + 1) 1
      (s.doers i) w').raise fl) ((s.issueOf (wordsOf i)).by (s.doers i)) s) :
    ∃ t, execWord i body s = .next t ∧ Changes i [] [d, d + 1] [] [] s t ∧ WroteV (s.doers i) d 1 w s.group t.group
      ∧ WroteV (s.doers i) (d + 1) 1 w' s.group t.group ∧ RaisedFlags (if s.doers i = 0 then 0 else fl) s.group t.group := by
  obtain ⟨t, he, hc, hr⟩ := uniform_vectors hq hb (vs := [d, d + 1])
    ((((Group.VecOnly.refl _ s.group).setVF (by simp) 1 _ w).setVF (by simp) 1 _ w').raise fl)
  refine ⟨t, he, hc, ?_⟩
  split at hr
  · next hp =>
    rw [if_pos hp]
    exact ⟨.empty hp (hr.vreg _), .empty hp (hr.vreg _), raisedFlags_zero hr.flags⟩
  · next hp =>
    rw [if_neg hp]
    refine ⟨?_, ?_, hr.raisedFlags (by rw [Group.raise_flags, Group.setVF_flags, Group.setVF_flags])⟩
    · exact (((Group.wroteV _ d 1 w s.group).then_same (Group.vreg_setVF_ne _ (by omega) _ _ _)).then_same
        (Group.vreg_raise _ _ _)).congr hr
    · exact (((Group.wroteV _ (d + 1) 1 w' _).of_same (Group.vreg_setVF_ne s.group (by omega) _ _ w)).then_same
        (Group.vreg_raise _ _ _)).congr hr

/-- VSTAT.RD writes the mean and the variance of its entry. -/
theorem statRdBody_eq {iss : Issue} (hs : s.isSvc = false) (he : statIdx o s.group < 128 * s.team.tiles) :
    let r := (s.stat (statIdx o s.group)).meanVar
    statRdBody o iss s = uniform (fun g => ((g.setVF o.b 1 iss.p (fun _ => BitVec.ofNat 32 r.1)).setVF (o.b + 1) 1 iss.p
      (fun _ => BitVec.ofNat 32 r.2.1)).raise r.2.2) iss s := by
  unfold statRdBody
  rw [checkEntry_ok hs he]

/-! ## VRMAX (R196) -/

/-- VRMAX writes the new maximum and the factor of each lane. -/
theorem rmaxBody_eq {iss : Issue} (ha : s.group.tag o.a = 1) (hb : tagB s.group o (fun t => t = 1) = true) :
    let m := maxAll ((lanesOf iss.p).map (fun l => (vA s.group o l).toNat))
    let r := fun l => rmaxLane m (vB s.group o l).toNat
    rmaxBody o iss s = uniform (fun g => ((g.setVF o.d 1 iss.p (fun l => BitVec.ofNat 32 (r l).1.code)).setVF (o.d + 1) 1 iss.p
      (fun l => BitVec.ofNat 32 (r l).2.code)).raise (m.fl ||| flagsOf iss.p (fun l => (r l).1.fl ||| (r l).2.fl))) iss s := by
  intro m r
  unfold rmaxBody
  rw [checkTags_ok (by simp [ha, hb])]
  have hfl : ((lanesOf iss.p).map (fun l => (l, r l))).foldl (fun a x => a ||| x.2.1.fl ||| x.2.2.fl) m.fl =
      m.fl ||| flagsOf iss.p (fun l => (r l).1.fl ||| (r l).2.fl) := by
    rw [List.foldl_map, flagsOf, ← foldl_or]
    simp only [Nat.lor_assoc]
  simp only [Group.setVF, ← hfl, List.map_map]
  rfl

/-! ## VNORM (R197) -/

theorem vecWrite_eq (d tag : Nat) (f : Group → Nat → LaneRes) (iss : Issue) (s : State) :
    vecWrite d tag f iss s = Res.group s (fun g => (g.setVF d tag iss.p (fun l => (f s.group l).w)).raise
      (flagsOf iss.p (fun l => (f s.group l).fl))) := by
  unfold vecWrite Group.setVF flagsOf orFlags
  simp only [List.map_map, List.foldl_map]
  rfl

theorem Group.raise_raise (a b : Nat) (g : Group) : (g.raise a).raise b = g.raise (b ||| a) := by
  rw [Group.raise_eq, Group.raise_eq, Group.raise_eq, Nat.lor_comm, BitVec.ofNat_or, ← BitVec.or_assoc]

/-- VNORM writes each lane's result, and raises the flags of the row's statistics beside those of the lanes. -/
theorem normBody_eq {iss : Issue} (hs : s.isSvc = false) (ha : s.group.tag o.a = 1)
    (he : bits (s.group.sreg o.b).toNat 31 0 < 128 * s.team.tiles) :
    let st := (s.stat (bits (s.group.sreg o.b).toNat 31 0)).meanVar
    let v := sfu 4 0 (F32.add 0 false st.2.1 (bits (s.group.sreg o.b).toNat 63 32)).code
    let r := fun l => normLane (modeOf s.group o) o.sat (vA s.group o l).toNat st.1 v.code
    normBody o iss s = uniform (fun g => (g.setVF o.d 1 iss.p (fun l => BitVec.ofNat 32 (r l).code)).raise
      (st.2.2 ||| v.fl ||| flagsOf iss.p (fun l => (r l).fl))) iss s := by
  intro st v r
  unfold normBody
  simp only
  rw [checkTags_ok (by simp [ha]), checkEntry_ok hs he]
  unfold uniform
  by_cases hp : iss.p = 0
  · exact (if_pos hp).trans (if_pos hp).symm
  · refine (if_neg hp).trans (Eq.trans ?_ (if_neg hp).symm)
    simp only [vecWrite_eq, Res.group, State.modGroup_modGroup]
    congr 2
    funext g
    exact Group.raise_raise _ _ _

/-- A write of one register in the lanes of P, made when P is not empty. -/
theorem oneReg_quiet {i : Instr} {body : Body} {d fl : Nat} {w : Nat → Word} (hq : s.quiet i = true)
    (hb : body ((s.issueOf (wordsOf i)).by (s.doers i)) s = uniform (fun g => (g.setVF d 1 (s.doers i) w).raise fl)
      ((s.issueOf (wordsOf i)).by (s.doers i)) s) :
    ∃ t, execWord i body s = .next t ∧ Changes i [] [d] [] [] s t ∧ WroteV (s.doers i) d 1 w s.group t.group
      ∧ RaisedFlags (if s.doers i = 0 then 0 else fl) s.group t.group := by
  obtain ⟨t, he, hc, hr⟩ := uniform_vectors hq hb (vs := [d])
    (((Group.VecOnly.refl _ s.group).setVF (by simp) 1 _ w).raise fl)
  refine ⟨t, he, hc, ?_⟩
  split at hr
  · next hp => rw [if_pos hp]; exact ⟨.empty hp (hr.vreg _), raisedFlags_zero hr.flags⟩
  · next hp =>
    rw [if_neg hp]
    exact ⟨((Group.wroteV _ d 1 w s.group).then_same (Group.vreg_raise _ _ _)).congr hr,
      hr.raisedFlags (by rw [Group.raise_flags, Group.setVF_flags])⟩

end

/-- Settles O20: an entry is written as the body says (`setStat_quiet`), every element counting once (`RowStat.foldl_acc_n`);
VSTAT.RD and VRMAX write two registers (`twoRegs_quiet`), VNORM and VFUSE one (`oneReg_quiet`, `checkedWrite_quiet`). -/
theorem statisticsAndFused : Obligations.StatisticsAndFused := by
  unfold Obligations.StatisticsAndFused
  refine ⟨fun o s => ?_, fun o s => ⟨?_, ?_, ?_⟩⟩
  · intro g e hs he
    refine ⟨?_, ?_, ?_⟩
    · intro i tag xs hq hp htag
      obtain ⟨t, hex, hc, hfl, hst, hother⟩ := setStat_quiet hq hs (statAccBody_eq hs he hp htag)
      exact ⟨t, hex, hc, hfl, hst, (congrArg RowStat.n hst).trans (RowStat.foldl_acc_n _ _), hother⟩
    · intro i hq hp
      exact setStat_quiet hq hs (statClrBody_eq hs he hp)
    · intro i r hq
      exact twoRegs_quiet hq (statRdBody_eq hs he)
  · intro i m r hq ha hb
    obtain ⟨t, hex, hc, hw, hw', hfl⟩ := twoRegs_quiet hq (rmaxBody_eq ha hb)
    refine ⟨t, hex, hc, hw, hw', ?_⟩
    have hzero : s.doers i = 0 → m.fl ||| flagsOf (s.doers i) (fun l => (r l).1.fl ||| (r l).2.fl) = 0 := fun hp => by
      have hm : m = maxAll [] := congrArg maxAll (by rw [hp, lanesOf_zero]; rfl)
      rw [hp, flagsOf_empty, hm]
      rfl
    split at hfl
    · next hp => rw [hzero hp]; exact hfl
    · exact hfl
  · intro i e st v r hs hq ha he
    exact oneReg_quiet hq (normBody_eq hs ha he)
  · intro i ty tag c r hq ha hb hc hx
    exact checkedWrite_quiet hq (by simp [ha, hb, hc, show s.group.tag (o.xf % 1024) = tag from hx, tag, ty])

end Sys2Proof.Machine
end

section
/-! PROOFS. Fields of a word, and the words of each format read back. -/
namespace Sys2Proof

/-! ## Fields of a word

A word is a sum of fields, each shifted to its place, lowest first. A field is read by dropping the ones above it: then it
is the topmost one. -/

/-- A field that lies above the bits that are read does not count. -/
theorem bits_add_above (w x k hi lo : Nat) (h : hi + 1 ≤ k) : bits (w + x * 2 ^ k) hi lo = bits w hi lo := by
  unfold bits
  by_cases hlo : lo ≤ hi + 1
  · obtain ⟨a, rfl⟩ := Nat.exists_eq_add_of_le h
    obtain ⟨b, hb⟩ := Nat.exists_eq_add_of_le hlo
    have e : x * 2 ^ (hi + 1 + a) = 2 ^ lo * (2 ^ b * (x * 2 ^ a)) := by rw [hb]; ring
    rw [e, Nat.add_mul_div_left _ _ (Nat.two_pow_pos lo), hb, Nat.add_sub_cancel_left, Nat.add_mul_mod_self_left]
  · rw [Nat.sub_eq_zero_of_le (by omega), pow_zero, Nat.mod_one, Nat.mod_one]

/-- The topmost field is read as it was written. -/
theorem bits_add_top (w x hi lo : Nat) (hw : w < 2 ^ lo) (hx : x < 2 ^ (hi + 1 - lo)) : bits (w + x * 2 ^ lo) hi lo = x := by
  unfold bits
  rw [Nat.add_mul_div_right _ _ (Nat.two_pow_pos lo), Nat.div_eq_of_lt hw, Nat.zero_add, Nat.mod_eq_of_lt hx]

theorem bits_mul_top (x hi lo : Nat) (hx : x < 2 ^ (hi + 1 - lo)) : bits (x * 2 ^ lo) hi lo = x := by
  rw [← Nat.zero_add (x * 2 ^ lo), bits_add_top 0 x hi lo (Nat.two_pow_pos lo) hx]

theorem bits_eq_zero (w hi lo : Nat) (hw : w < 2 ^ lo) : bits w hi lo = 0 := by
  unfold bits
  rw [Nat.div_eq_of_lt hw, Nat.zero_mod]

theorem bits_eq_self (w hi : Nat) (hw : w < 2 ^ (hi + 1)) : bits w hi 0 = w := by
  unfold bits
  rw [pow_zero, Nat.div_one, Nat.sub_zero, Nat.mod_eq_of_lt hw]

theorem bits_zero (hi lo : Nat) : bits 0 hi lo = 0 := bits_eq_zero 0 hi lo (Nat.two_pow_pos lo)

theorem bits_mul_above (x k hi lo : Nat) (h : hi + 1 ≤ k) : bits (x * 2 ^ k) hi lo = 0 := by
  rw [← Nat.zero_add (x * 2 ^ k), bits_add_above 0 x k hi lo h, bits_zero]

/-- A bit is a field of width 1. -/
theorem bit_eq_bits (w n : Nat) : bit w n = decide (bits w n n = 1) := by
  unfold bit bits
  rw [Nat.add_sub_cancel_left, pow_one]

theorem toBit_lt (b : Bool) : toBit b < 2 := by cases b <;> decide
theorem toBit_eq_one (b : Bool) : decide (toBit b = 1) = b := by cases b <;> rfl

/-- The fields above the length and the major do not count for these two. -/
theorem mod_four_add_above (w x k : Nat) (h : 2 ≤ k) : (w + x * 2 ^ k) % 4 = w % 4 := by
  obtain ⟨a, rfl⟩ := Nat.exists_eq_add_of_le h
  rw [show x * 2 ^ (2 + a) = 4 * (x * 2 ^ a) by ring, Nat.add_mul_mod_self_left]
theorem mod_four_add_major (len maj : Nat) (h : len < 4) : (len + maj * 4) % 4 = len := by omega
theorem bits_major (len maj : Nat) (h : len < 4) (hm : maj < 64) : bits (len + maj * 4) 7 2 = maj :=
  bits_add_top len maj 7 2 h hm

theorem lenOf_lt (ext lit : Bool) : lenOf ext lit < 4 := by cases ext <;> cases lit <;> decide

/-! ## Words of an instruction (R107, R115) -/

theorem litWords_pair (l : Dword) : BitVec.ofNat 64 (l.toNat % 2 ^ 32 + 2 ^ 32 * (l.toNat / 2 ^ 32)) = l := by
  rw [Nat.mod_add_div, BitVec.ofNat_toNat, BitVec.setWidth_eq]

/-- The base word and the literal of an instruction, whatever words follow. -/
theorem splitWords_base (lit : Option Dword) (w : Nat) (more : List Nat) :
    splitWords (lenOf false lit.isSome) (w :: (litWords lit ++ more)) = { w := w, lit := lit } := by
  cases lit with
  | none => rfl
  | some l => exact congrArg (fun l => ({ w := w, lit := some l } : Words)) (litWords_pair l)

/-- The same with the two extension words. -/
theorem splitWords_ext (lit : Option Dword) (w x1 x2 : Nat) (more : List Nat) :
    splitWords (lenOf true lit.isSome) (w :: x1 :: x2 :: (litWords lit ++ more)) =
      { w := w, x1 := x1, x2 := x2, lit := lit } := by
  cases lit with
  | none => rfl
  | some l => exact congrArg (fun l => ({ w := w, x1 := x1, x2 := x2, lit := some l } : Words)) (litWords_pair l)

theorem litWords_length (l : Option Dword) : (litWords l).length = if l.isSome then 2 else 0 := by cases l <;> rfl

/-- A vector form's literal is a literal whose high word is 0. -/
theorem litWordsV_eq (l : Option Word) : litWordsV l = litWords (l.map (BitVec.setWidth 64)) := by
  cases l with
  | none => rfl
  | some l =>
    have h : l.toNat < 2 ^ 32 := l.isLt
    simp only [litWordsV, litWords, Option.map_some, BitVec.toNat_setWidth]
    rw [Nat.mod_eq_of_lt (show l.toNat < 2 ^ 64 by omega), Nat.mod_eq_of_lt h, Nat.div_eq_of_lt h]

/-- LEN of a form (R108). -/
def Form.len : Form → Nat
  | .sc _ _ o => lenOf false o.lit.isSome
  | .br _ o => lenOf o.ext o.lit.isSome
  | .vec _ _ o => lenOf o.ext o.lit.isSome
  | .sweep _ _ _ o => lenOf true o.lit.isSome
  | .mem _ o => lenOf o.ext o.lit.isSome
  | .atm _ o => lenOf true o.lit.isSome
  | .q _ _ o => lenOf o.ext false
  | .priv _ _ => 0
  | .rep _ _ _ => 0

/-- Words show a form: its length and its major in the base word, and its decoder finds it, without a further cause. -/
structure Form.ReadFrom (f : Form) (ws : List Nat) : Prop where
  len : ws.getD 0 0 % 4 = f.len
  major : bits (ws.getD 0 0) 7 2 = Machine.formMajor f
  form : decForm (Machine.formMajor f) (splitWords f.len ws) = (f, [])

theorem VOps.xWords_length {fmtI : Bool} {o : VOps} (h : o.ext = true) : (o.xWords fmtI).length = 2 := by simp [xWords, h]

/-- A form of a length that it may have has as many words as its length says (R108). -/
theorem Form.encode_length {f : Form} (hok : f.lenOk = true) : f.encode.length = lenWords f.len := by
  cases f with
  | sc maj min o => cases h : o.lit.isSome <;> simp [encode, len, litWords_length, lenOf, lenWords, h]
  | br cond o => cases h : o.lit.isSome <;> cases hx : o.ext <;> simp [encode, len, litWords_length, lenOf, lenWords, h, hx]
  | vec maj min o =>
    cases h : o.lit.isSome <;> cases hx : o.ext <;>
      simp [encode, len, VOps.xWords, litWordsV_eq, litWords_length, lenOf, lenWords, h, hx]
  | sweep itn maj min o =>
    have hx : o.ext = true := by simp only [lenOk, Bool.and_eq_true] at hok; exact hok.1
    cases h : o.lit.isSome <;> simp [encode, len, VOps.xWords, litWordsV_eq, litWords_length, lenOf, lenWords, h, hx]
  | mem maj o => cases h : o.lit.isSome <;> cases hx : o.ext <;> simp [encode, len, litWords_length, lenOf, lenWords, h, hx]
  | atm maj o => cases h : o.lit.isSome <;> simp [encode, len, litWords_length, lenOf, lenWords, h]
  | q maj qop o => cases hx : o.ext <;> simp [encode, len, lenOf, lenWords, hx]
  | priv qop o => rfl
  | rep cnt str sel => rfl

/-- The scalar format (R110). -/
theorem Form.readFrom_sc {maj min : Nat} {o : SOps} (hmaj : maj ≤ 2) (hmin : min < 16) (hfit : o.fits = true)
    (more : List Nat) : (Form.sc maj min o).ReadFrom ((Form.sc maj min o).encode ++ more) := by
  have hlen := lenOf_lt false o.lit.isSome
  have hu := toBit_lt o.u
  have hbi := toBit_lt o.bi
  simp only [SOps.fits, Bool.and_eq_true, decide_eq_true_eq] at hfit
  obtain ⟨⟨hd, ha⟩, hb⟩ := hfit
  refine ⟨?_, ?_, ?_⟩
  · simp (disch := omega) only [encode, len, List.cons_append, List.getD_cons_zero, mod_four_add_above, mod_four_add_major]
  · simp (disch := omega) only [encode, Machine.formMajor, List.cons_append, List.getD_cons_zero, bits_add_above, bits_major]
  · simp (disch := omega) only [encode, len, Machine.formMajor, List.cons_append, splitWords_base, decForm, if_pos hmaj, decAS,
      bit_eq_bits, bits_add_above, bits_add_top, toBit_eq_one, Nat.div_add_mod]

/-- The extension bit of a base word (R108). -/
theorem bits_ext (ext lit : Bool) (maj : Nat) : bits (lenOf ext lit + maj * 4) 0 0 = toBit ext := by
  unfold bits
  cases ext <;> cases lit <;> simp [lenOf, toBit] <;> omega

/-! ## The guard (R112, R114) -/

theorem Guard.fits_base {g : Guard} (h : g.fits false = true) : g = {} := by simpa [fits] using h
theorem Guard.fits_ext {g : Guard} (h : g.fits true = true) : g.gm < 16 := by simpa [fits] using h

/-- Words without X2 have no guard. -/
theorem Words.guard_base (w : Nat) (lit : Option Dword) : ({ w := w, lit := lit } : Words).guard = {} := by
  simp [guard, bit_eq_bits, bits_zero]

/-! ## One format after another -/

/-- The branch format (R111, R113). -/
theorem Form.readFrom_br {cond : Nat} {o : BOps} (hc : cond < 16) (hfit : o.fits = true)
    (more : List Nat) : (Form.br cond o).ReadFrom ((Form.br cond o).encode ++ more) := by
  obtain ⟨a, disp, ext, lit, g⟩ := o
  simp only [BOps.fits, Bool.and_eq_true, decide_eq_true_eq] at hfit
  obtain ⟨⟨⟨ha, hlo⟩, hhi⟩, hg⟩ := hfit
  have hlen := lenOf_lt ext lit.isSome
  have hgp := toBit_lt g.gp
  have hdisp : dispField disp < 2 ^ 14 := by unfold dispField; omega
  have hsigned : signed 14 (dispField disp) = disp := by
    unfold signed dispField
    split <;> omega
  have hdec : ∀ x, decForm 4 x = decB x := fun _ => rfl
  refine ⟨?_, ?_, ?_⟩
  · simp (disch := omega) only [encode, len, List.cons_append, List.getD_cons_zero, mod_four_add_above, mod_four_add_major]
  · simp (disch := omega) only [encode, Machine.formMajor, List.cons_append, List.getD_cons_zero, bits_add_above, bits_major]
  · cases ext
    · cases Guard.fits_base hg
      simp (disch := omega) only [encode, len, Machine.formMajor, List.cons_append, List.nil_append, if_false,
        Bool.false_eq_true, splitWords_base, hdec, decB, Words.ext, Words.guard_base, hsigned, bit_eq_bits, bits_add_above,
        bits_add_top, bits_ext, toBit_eq_one, bits_zero]
      rfl
    · have hgm := Guard.fits_ext hg
      simp (disch := omega) only [encode, len, Machine.formMajor, List.cons_append, List.nil_append, if_true, splitWords_ext,
        hdec, decB, Words.ext, Words.guard, hsigned, Guard.x2, bit_eq_bits, bits_add_above, bits_add_top, bits_mul_top,
        bits_mul_above, bits_ext, bits_eq_zero, toBit_eq_one]
      rfl

theorem litW_map (w x1 x2 : Nat) (l : Option Word) :
    ({ w := w, x1 := x1, x2 := x2, lit := l.map (BitVec.setWidth 64) } : Words).litW = l := by
  cases l with
  | none => rfl
  | some l => exact congrArg some (BitVec.setWidth_setWidth_of_le l (by omega))

/-- The extension words of formats A and I (R112, R113) give the operands back, IMM7 and BF where the base word holds them. -/
theorem VOps.decVOps_ext {fmtI : Bool} {o : VOps} {w v x1 x2 : Nat} (hfit : o.fits fmtI = true) (hx : o.ext = true)
    (hxw : o.xWords fmtI = [x1, x2]) (hw : bit w 0 = true) (hb : fmtI = true → bits v 31 25 = o.b) :
    decVOps fmtI v o.bf { w := w, x1 := x1, x2 := x2, lit := o.lit.map (BitVec.setWidth 64) } = o := by
  obtain ⟨d, a, b, ext, c, bf, xf, rm, sat, lit, g⟩ := o
  cases hx
  simp only [xWords, if_true, List.cons.injEq, and_true] at hxw
  simp only [VOps.fits, if_true, Bool.and_eq_true, decide_eq_true_eq] at hfit
  obtain ⟨rfl, rfl⟩ := hxw
  obtain ⟨⟨hg, hrm⟩, ⟨⟨⟨⟨hd, ha⟩, hb'⟩, hc⟩, hxf⟩, hbf⟩ := hfit
  have hgm := Guard.fits_ext hg
  have hgp := toBit_lt g.gp
  have hsat := toBit_lt sat
  cases fmtI
  · simp only [Bool.false_eq_true, if_false] at hb'
    simp (disch := omega) only [decVOps, Words.ext, hw, if_true, if_false, Bool.false_eq_true, Words.guard, litW_map, Guard.x2,
      ← Nat.add_assoc, bit_eq_bits, bits_add_above, bits_add_top, bits_eq_self, toBit_eq_one]
  · simp (disch := omega) only [decVOps, Words.ext, hw, hb rfl, if_true, Words.guard, litW_map, Guard.x2,
      ← Nat.add_assoc, Nat.add_zero, bit_eq_bits, bits_add_above, bits_add_top, bits_eq_self, toBit_eq_one]

theorem litWordsV_high (l : Option Word) : ∀ x ∈ l.map (BitVec.setWidth 64), x.toNat / 2 ^ 32 = 0 := by
  intro x hx
  obtain ⟨y, -, rfl⟩ := Option.map_eq_some_iff.mp hx
  have h : y.toNat < 2 ^ 32 := y.isLt
  rw [BitVec.toNat_setWidth, Nat.mod_eq_of_lt (show y.toNat < 2 ^ 64 by omega), Nat.div_eq_of_lt h]

theorem decVExtra_eq_nil {fmtI : Bool} {x : Words} (hxla : bits x.x2 19 16 = 0) (hxb : fmtI = true → bits x.x1 29 20 = 0)
    (hlit : ∀ l ∈ x.lit, l.toNat / 2 ^ 32 = 0) : decVExtra fmtI x = [] := by
  obtain ⟨w, x1, x2, lit⟩ := x
  unfold decVExtra
  cases fmtI <;> cases lit <;> simp_all [sub]

theorem VOps.decVExtra_ext {fmtI : Bool} {o : VOps} {w x1 x2 : Nat} (hfit : o.fits fmtI = true) (hx : o.ext = true)
    (hxw : o.xWords fmtI = [x1, x2]) :
    decVExtra fmtI { w := w, x1 := x1, x2 := x2, lit := o.lit.map (BitVec.setWidth 64) } = [] := by
  obtain ⟨d, a, b, ext, c, bf, xf, rm, sat, lit, g⟩ := o
  cases hx
  simp only [xWords, if_true, List.cons.injEq, and_true] at hxw
  simp only [VOps.fits, if_true, Bool.and_eq_true, decide_eq_true_eq] at hfit
  obtain ⟨rfl, rfl⟩ := hxw
  obtain ⟨⟨hg, hrm⟩, ⟨⟨⟨⟨hd, ha⟩, hb'⟩, hc⟩, hxf⟩, hbf⟩ := hfit
  have hgm := Guard.fits_ext hg
  have hgp := toBit_lt g.gp
  have hsat := toBit_lt sat
  refine decVExtra_eq_nil ?_ ?_ (litWordsV_high lit)
  · simp (disch := omega) only [Guard.x2, ← Nat.add_assoc, bits_add_above, bits_eq_zero]
  · rintro rfl
    simp (disch := omega) only [if_true, Nat.add_zero, bits_add_above, bits_eq_zero]

/-- Formats A and I in the base form (R109, R110). -/
theorem Form.readFrom_vec_base {maj min : Nat} {o : VOps} (hdec : ∀ x, decForm maj x = decV maj x) (hmaj : maj < 64)
    (hmin : min < 8) (hfit : o.fits (fmtIOf maj min) = true) (hx : o.ext = false) (more : List Nat) :
    (Form.vec maj min o).ReadFrom ((Form.vec maj min o).encode ++ more) := by
  obtain ⟨d, a, b, ext, c, bf, xf, rm, sat, lit, g⟩ := o
  cases hx
  simp only [VOps.fits, Bool.false_eq_true, if_false, Bool.and_eq_true, decide_eq_true_eq, beq_iff_eq,
    Bool.not_eq_true'] at hfit
  obtain ⟨⟨hg, -⟩, ⟨⟨⟨⟨⟨⟨hd, ha⟩, hb⟩, rfl⟩, rfl⟩, rfl⟩, rfl⟩, rfl⟩ := hfit
  cases Guard.fits_base hg
  have hlen := lenOf_lt false lit.isSome
  have hs := splitWords_base (lit.map (BitVec.setWidth 64))
  rw [Option.isSome_map] at hs
  have he : ∀ w, decVExtra (fmtIOf maj min) { w := w, lit := lit.map (BitVec.setWidth 64) } = [] := fun w =>
    decVExtra_eq_nil (bits_zero _ _) (fun _ => bits_zero _ _) (litWordsV_high lit)
  refine ⟨?_, ?_, ?_⟩
  · simp (disch := omega) only [encode, len, List.cons_append, List.getD_cons_zero, Bool.false_eq_true, if_false,
      ← Nat.add_assoc, mod_four_add_above, mod_four_add_major]
  · simp (disch := omega) only [encode, Machine.formMajor, List.cons_append, List.getD_cons_zero, Bool.false_eq_true,
      if_false, ← Nat.add_assoc, bits_add_above, bits_major]
  · simp (disch := omega) only [encode, len, Machine.formMajor, VOps.xWords, litWordsV_eq, List.cons_append, List.nil_append,
      hs, hdec, decV, decVOps, Bool.false_eq_true, if_false, Words.ext, litW_map, ← Nat.add_assoc, bit_eq_bits,
      bits_add_above, bits_add_top, bits_ext, toBit_eq_one, he]

/-- Formats A and I in the extended form (R112, R113). -/
theorem Form.readFrom_vec_ext {maj min : Nat} {o : VOps} (hdec : ∀ x, decForm maj x = decV maj x) (hmaj : maj < 64)
    (hmin : min < 8) (hfit : o.fits (fmtIOf maj min) = true) (hx : o.ext = true) (more : List Nat) :
    (Form.vec maj min o).ReadFrom ((Form.vec maj min o).encode ++ more) := by
  have hlen := lenOf_lt true o.lit.isSome
  have hs := splitWords_ext (o.lit.map (BitVec.setWidth 64))
  rw [Option.isSome_map] at hs
  obtain ⟨x1, x2, hxw⟩ := List.length_eq_two.mp (VOps.xWords_length (fmtI := fmtIOf maj min) hx)
  have hv := fun w => VOps.decVOps_ext (w := w) (v := w) hfit hx hxw
  have he := fun w => VOps.decVExtra_ext (w := w) hfit hx hxw
  have hfit' := hfit
  simp only [VOps.fits, hx, if_true, Bool.and_eq_true, decide_eq_true_eq] at hfit'
  obtain ⟨-, ⟨⟨⟨-, hb⟩, -⟩, -⟩, hbf⟩ := hfit'
  refine ⟨?_, ?_, ?_⟩
  · simp (disch := omega) only [encode, len, List.cons_append, List.getD_cons_zero, hx, if_true, ← ite_zero_mul,
      ← Nat.add_assoc, mod_four_add_above, mod_four_add_major]
  · simp (disch := omega) only [encode, Machine.formMajor, List.cons_append, List.getD_cons_zero, hx, if_true,
      ← ite_zero_mul, ← Nat.add_assoc, bits_add_above, bits_major]
  · simp (disch := omega) only [encode, len, Machine.formMajor, hx, hxw, if_true, ← ite_zero_mul, litWordsV_eq,
      List.cons_append, List.nil_append, hs, hdec, decV, ← Nat.add_assoc, bits_add_above, bits_add_top, he]
    have hext : ∀ y : Nat,
        bit (lenOf true o.lit.isSome + maj * 4 + min * 2 ^ 8 + o.bf * 2 ^ 11 + y * 2 ^ 25) 0 = true := fun y => by
      simp (disch := omega) only [bit_eq_bits, bits_add_above, bits_ext, toBit_eq_one]
    cases hfi : fmtIOf maj min <;> simp only [hfi, if_true, if_false, Bool.false_eq_true] at hv hb hbf ⊢
    · simp (disch := omega) only [zero_mul, add_zero, bits_add_top]
      rw [hv _ (by simpa only [zero_mul, add_zero] using hext 0) False.elim]
    · simp (disch := omega) only [bits_add_top]
      rw [hv _ (hext _) fun _ => bits_add_top _ _ _ _ (by omega) hb]

/-- Formats A and I (R109, R112, R113). -/
theorem Form.readFrom_vec {maj min : Nat} {o : VOps} (hmaj : 4 < maj ∧ maj < 0x1E) (hmin : min < 8)
    (hfit : o.fits (fmtIOf maj min) = true) (more : List Nat) :
    (Form.vec maj min o).ReadFrom ((Form.vec maj min o).encode ++ more) := by
  have hdec : ∀ x, decForm maj x = decV maj x := fun x => by
    unfold decForm
    rw [if_neg (by omega), if_neg (by omega), if_neg (by omega), if_pos (by omega)]
  cases hx : o.ext
  · exact readFrom_vec_base hdec (by omega) hmin hfit hx more
  · exact readFrom_vec_ext hdec (by omega) hmin hfit hx more

/-- The sweep form (R120). -/
theorem Form.readFrom_sweep {itn maj min : Nat} {o : VOps} (hitn : itn < 8) (hmaj : maj < 64) (hmin : min < 8)
    (hfit : o.fits false = true) (hx : o.ext = true) (hbf : o.bf = 0) (more : List Nat) :
    (Form.sweep itn maj min o).ReadFrom ((Form.sweep itn maj min o).encode ++ more) := by
  have hlen := lenOf_lt true o.lit.isSome
  have hdec : ∀ x, decForm 0x1E x = decSweep x := fun x => rfl
  obtain ⟨x1, x2, hxw⟩ := List.length_eq_two.mp (VOps.xWords_length (fmtI := false) hx)
  refine ⟨?_, ?_, ?_⟩
  · simp (disch := omega) only [encode, len, List.cons_append, List.getD_cons_zero, mod_four_add_above, mod_four_add_major]
  · simp (disch := omega) only [encode, Machine.formMajor, List.cons_append, List.getD_cons_zero, bits_add_above, bits_major]
  · have hs := splitWords_ext (o.lit.map (BitVec.setWidth 64))
    rw [Option.isSome_map] at hs
    have hv := fun w h => VOps.decVOps_ext (w := w) (v := 0) hfit hx hxw h (fun h => Bool.noConfusion h)
    rw [hbf] at hv
    simp (disch := omega) only [encode, len, Machine.formMajor, hxw, litWordsV_eq, List.cons_append, List.nil_append, hs,
      hdec, decSweep, VOps.decVExtra_ext hfit hx hxw, bits_add_above, bits_add_top, bits_eq_zero]
    rw [hv]
    · rfl
    · simp (disch := omega) only [bit_eq_bits, bits_add_above, bits_ext, toBit_eq_one]

/-- Format M of loads and stores in the base form (R121). -/
theorem Form.readFrom_mem_base {maj : Nat} {o : MOps} (hdec : ∀ x, decForm maj x = decM maj x) (hmaj : maj < 64)
    (hfit : o.fits = true) (hx : o.ext = false) (more : List Nat) :
    (Form.mem maj o).ReadFrom ((Form.mem maj o).encode ++ more) := by
  obtain ⟨d, off, ov, bt, la, ext, lit, scope, tag, size, ds, br, ord, g⟩ := o
  cases hx
  simp only [MOps.fits, Bool.false_eq_true, if_false, Bool.and_eq_true, decide_eq_true_eq, beq_iff_eq,
    Bool.not_eq_true'] at hfit
  obtain ⟨⟨hg, hla⟩, ⟨⟨⟨⟨⟨⟨⟨hd, hoff⟩, hbt⟩, rfl⟩, rfl⟩, rfl⟩, rfl⟩, rfl⟩, rfl⟩ := hfit
  cases Guard.fits_base hg
  have hlen := lenOf_lt false lit.isSome
  have hov := toBit_lt ov
  refine ⟨?_, ?_, ?_⟩
  · simp (disch := omega) only [encode, len, List.cons_append, List.getD_cons_zero, Bool.false_eq_true, if_false,
      mod_four_add_above, mod_four_add_major]
  · simp (disch := omega) only [encode, Machine.formMajor, List.cons_append, List.getD_cons_zero, Bool.false_eq_true,
      if_false, bits_add_above, bits_major]
  · simp (disch := omega) only [encode, len, Machine.formMajor, List.cons_append, splitWords_base, hdec, decM,
      Bool.false_eq_true, if_false, Words.ext, bit_eq_bits, bits_add_above, bits_add_top, bits_ext, toBit_eq_one]

/-- Format M of loads and stores in the extended form (R121). -/
theorem Form.readFrom_mem_ext {maj : Nat} {o : MOps} (hdec : ∀ x, decForm maj x = decM maj x) (hmaj : maj < 64)
    (hfit : o.fits = true) (hx : o.ext = true) (more : List Nat) :
    (Form.mem maj o).ReadFrom ((Form.mem maj o).encode ++ more) := by
  obtain ⟨d, off, ov, bt, la, ext, lit, scope, tag, size, ds, br, ord, g⟩ := o
  cases hx
  simp only [MOps.fits, if_true, Bool.and_eq_true, decide_eq_true_eq] at hfit
  obtain ⟨⟨hg, hla⟩, ⟨⟨⟨⟨⟨hd, hoff⟩, hbt⟩, hscope⟩, htag⟩, hsize⟩, hord⟩ := hfit
  have hlen := lenOf_lt true lit.isSome
  have hgm := Guard.fits_ext hg
  have hgp := toBit_lt g.gp
  have hov := toBit_lt ov
  have hds := toBit_lt ds
  have hbr := toBit_lt br
  refine ⟨?_, ?_, ?_⟩
  · simp (disch := omega) only [encode, len, List.cons_append, List.getD_cons_zero, if_true, mod_four_add_above,
      mod_four_add_major]
  · simp (disch := omega) only [encode, Machine.formMajor, List.cons_append, List.getD_cons_zero, if_true, bits_add_above,
      bits_major]
  · simp (disch := omega) only [encode, len, Machine.formMajor, List.cons_append, splitWords_ext, hdec, decM, if_true,
      Words.ext, Words.guard, Guard.x2, ← Nat.add_assoc, bit_eq_bits, bits_add_above, bits_add_top, bits_eq_self,
      bits_eq_zero, bits_ext, toBit_eq_one]
    rfl

/-- Format M of loads and stores (R121). -/
theorem Form.readFrom_mem {maj : Nat} {o : MOps} (hmaj : 0x20 ≤ maj ∧ maj < 0x26) (hfit : o.fits = true) (more : List Nat) :
    (Form.mem maj o).ReadFrom ((Form.mem maj o).encode ++ more) := by
  have hdec : ∀ x, decForm maj x = decM maj x := fun x => by
    unfold decForm
    rw [if_neg (by omega), if_neg (by omega), if_neg (by omega), if_neg (by omega), if_pos (by omega)]
  cases hx : o.ext
  · exact readFrom_mem_base hdec (by omega) hfit hx more
  · exact readFrom_mem_ext hdec (by omega) hfit hx more

/-- AMO, CAS, RED (R122). -/
theorem Form.readFrom_atm {maj : Nat} {o : AOps} (hmaj : 0x28 ≤ maj ∧ maj < 0x2B) (hfit : o.fits = true) (more : List Nat) :
    (Form.atm maj o).ReadFrom ((Form.atm maj o).encode ++ more) := by
  have hdec : ∀ x, decForm maj x = decA maj x := fun x => by
    unfold decForm
    rw [if_neg (by omega), if_neg (by omega), if_neg (by omega), if_neg (by omega), if_neg (by omega), if_pos (by omega)]
  simp only [AOps.fits, Bool.and_eq_true, decide_eq_true_eq] at hfit
  obtain ⟨⟨⟨⟨⟨⟨⟨⟨⟨⟨hg, hd⟩, hoff⟩, hb⟩, hc⟩, hop⟩, hty⟩, hscope⟩, hord⟩, hbt⟩, hla⟩ := hfit
  have hlen := lenOf_lt true o.lit.isSome
  have hgm := Guard.fits_ext hg
  have hgp := toBit_lt o.g.gp
  have hov := toBit_lt o.ov
  have hbr := toBit_lt o.br
  refine ⟨?_, ?_, ?_⟩
  · simp (disch := omega) only [encode, len, List.cons_append, List.getD_cons_zero, mod_four_add_above, mod_four_add_major]
  · simp (disch := omega) only [encode, Machine.formMajor, List.cons_append, List.getD_cons_zero, bits_add_above, bits_major]
  · simp (disch := omega) only [encode, len, Machine.formMajor, List.cons_append, splitWords_ext, hdec, decA, Words.guard,
      Guard.x2, ← Nat.add_assoc, bit_eq_bits, bits_add_above, bits_add_top, bits_eq_self, bits_eq_zero, toBit_eq_one]
    rfl

/-- Format Q of the privileged instructions (R109, R123). -/
theorem Form.readFrom_priv {qop : Nat} {o : POps} (hq : qop < 16) (hsd : o.sd < 64) (hsa : o.sa < 64) (more : List Nat) :
    (Form.priv qop o).ReadFrom ((Form.priv qop o).encode ++ more) := by
  have hdec : ∀ x, decForm 0x3D x = decP x := fun _ => rfl
  refine ⟨?_, ?_, ?_⟩
  · simp (disch := omega) only [encode, len, List.cons_append, List.getD_cons_zero, mod_four_add_above]
  · simp (disch := omega) only [encode, Machine.formMajor, List.cons_append, List.getD_cons_zero, bits_add_above]
    rfl
  · simp (disch := omega) only [encode, len, Machine.formMajor, List.cons_append, splitWords, List.getD_cons_zero, if_true,
      hdec, decP, bits_add_above, bits_add_top, bits_eq_zero]
    rfl

/-- REP (R109, R129). -/
theorem Form.readFrom_rep {cnt str sel : Nat} (hc : cnt < 64) (hst : str < 16) (hse : sel < 16) (more : List Nat) :
    (Form.rep cnt str sel).ReadFrom ((Form.rep cnt str sel).encode ++ more) := by
  have hdec : ∀ x, decForm 0x3E x = decRep x := fun _ => rfl
  refine ⟨?_, ?_, ?_⟩
  · simp (disch := omega) only [encode, len, List.cons_append, List.getD_cons_zero, mod_four_add_above]
  · simp (disch := omega) only [encode, Machine.formMajor, List.cons_append, List.getD_cons_zero, bits_add_above]
    rfl
  · simp (disch := omega) only [encode, len, Machine.formMajor, List.cons_append, splitWords, List.getD_cons_zero, if_true,
      hdec, decRep, bits_add_above, bits_add_top, bits_eq_zero]
    rfl

/-- What X2 of format Q holds: the guard and the lookahead (R113, R123). -/
def QOps.x2 (o : QOps) : Nat := if o.ext then o.g.x2 + o.la * 2 ^ 16 else 0

theorem QOps.x2_guard {o : QOps} (hg : o.g.fits o.ext = true) (w : Nat) :
    ({ w := w, x2 := o.x2 } : Words).guard = o.g := by
  unfold Words.guard
  have hgp := toBit_lt o.g.gp
  cases hx : o.ext <;> rw [hx] at hg
  · simp only [x2, hx, Guard.fits_base hg, Bool.false_eq_true, if_false, bit_eq_bits, bits_zero]
    rfl
  · have hgm := Guard.fits_ext hg
    simp (disch := omega) only [x2, hx, if_true, Guard.x2, bit_eq_bits, bits_add_above, bits_add_top, bits_mul_top,
      toBit_eq_one]

/-- X2 of format Q holds no more than the guard and the lookahead. -/
theorem QOps.x2_rest {o : QOps} (hg : o.g.fits o.ext = true) (hla : o.la < 16) :
    bits o.x2 9 0 = 0 ∧ bits o.x2 15 15 = 0 ∧ bits o.x2 31 20 = 0 := by
  have hgp := toBit_lt o.g.gp
  cases hx : o.ext <;> rw [hx] at hg <;> simp only [x2, hx, Bool.false_eq_true, if_false, if_true]
  · exact ⟨bits_zero _ _, bits_zero _ _, bits_zero _ _⟩
  · have hgm := Guard.fits_ext hg
    refine ⟨?_, ?_, ?_⟩ <;>
      simp (disch := omega) only [Guard.x2, bits_add_above, bits_mul_above, bits_eq_zero]

/-- The lookahead field of the base word, which the extended form leaves 0. -/
def QOps.baseLa (o : QOps) : Nat := if o.ext then 0 else o.la

theorem QOps.baseLa_mul (o : QOps) (k : Nat) : (if o.ext = true then 0 else o.la * k) = o.baseLa * k := by
  unfold baseLa
  split
  · rw [zero_mul]
  · rfl

theorem QOps.baseLa_lt {o : QOps} (h : o.la < 16) : o.baseLa < 16 := by
  unfold baseLa
  split <;> omega

theorem QOps.baseLa_ext (o : QOps) : (o.ext && o.baseLa != 0) = false := by
  unfold baseLa
  cases o.ext <;> rfl

/-- The lookahead stands in X2 of the extended form, in the base word of the other (R123). -/
theorem QOps.la_read {o : QOps} (hg : o.g.fits o.ext = true) (hla : o.la < 16) :
    (if o.ext = true then bits o.x2 19 16 else o.baseLa) = o.la := by
  have hgp := toBit_lt o.g.gp
  cases hx : o.ext <;> rw [hx] at hg <;> simp only [x2, baseLa, hx, Bool.false_eq_true, if_false, if_true]
  have hgm := Guard.fits_ext hg
  simp (disch := omega) only [Guard.x2, bits_add_top]

theorem splitWords_q (o : QOps) (w : Nat) (more : List Nat) :
    splitWords (lenOf o.ext false) (w :: ((if o.ext = true then [0, o.g.x2 + o.la * 2 ^ 16] else []) ++ more)) =
      { w := w, x1 := 0, x2 := o.x2 } := by
  unfold QOps.x2
  cases o.ext <;> rfl

/-- The three fields above QOP, which each kind of format Q places in its own way (R123). -/
def qFields (maj qop w : Nat) : Nat × Nat × Nat :=
  if maj = 0x2C then
    if qop = 0 then (bits w 17 15, bits w 31 20, bits w 19 18) else (bits w 19 15, bits w 25 20, bits w 31 26)
  else (bits w 20 15, bits w 26 21, bits w 31 27)

theorem decQ_eq (maj : Nat) (x : Words) : decQ maj x =
    (let qop := bits x.w 14 12
     let t := qFields maj qop x.w
     (.q maj qop { x := t.1, sa := t.2.1, y := t.2.2, la := if x.ext then bits x.x2 19 16 else bits x.w 11 8, ext := x.ext,
                   g := x.guard },
       sub (x.ext && bits x.w 11 8 != 0) 3 ++ sub (x.x1 != 0) 3
         ++ sub (bits x.x2 9 0 != 0 || bit x.x2 15 || bits x.x2 31 20 != 0) 3)) := rfl

/-- The same fields as a form holds them, shifted down to bit 0. -/
def QOps.fields (maj qop : Nat) (o : QOps) : Nat :=
  o.x + if maj = 0x2C then if qop = 0 then o.y * 2 ^ 3 + o.sa * 2 ^ 5 else o.sa * 2 ^ 5 + o.y * 2 ^ 11
    else o.sa * 2 ^ 6 + o.y * 2 ^ 12

theorem Form.encode_q (maj qop : Nat) (o : QOps) : (Form.q maj qop o).encode =
    (lenOf o.ext false + maj * 4 + o.baseLa * 2 ^ 8 + qop * 2 ^ 12 + o.fields maj qop * 2 ^ 15)
      :: (if o.ext = true then [0, o.g.x2 + o.la * 2 ^ 16] else []) := by
  simp only [encode, QOps.baseLa_mul, QOps.fields]
  congr 1
  split
  · split <;> ring
  · ring

theorem qFields_fields {maj qop w : Nat} {o : QOps} (hfit : o.fits maj qop = true) (hw : w < 2 ^ 15) :
    qFields maj qop (w + o.fields maj qop * 2 ^ 15) = (o.x, o.sa, o.y) := by
  simp only [QOps.fits, Bool.and_eq_true, decide_eq_true_eq] at hfit
  obtain ⟨-, hfit⟩ := hfit
  unfold qFields QOps.fields
  split at hfit
  · next h1 =>
    split at hfit
    · next h2 =>
      simp only [Bool.and_eq_true, decide_eq_true_eq] at hfit
      obtain ⟨⟨hx, hy⟩, hsa⟩ := hfit
      rw [if_pos h1, if_pos h2, if_pos h1, if_pos h2, show w + (o.x + (o.y * 2 ^ 3 + o.sa * 2 ^ 5)) * 2 ^ 15 =
        w + o.x * 2 ^ 15 + o.y * 2 ^ 18 + o.sa * 2 ^ 20 by ring]
      simp (disch := omega) only [bits_add_above, bits_add_top]
    · next h2 =>
      simp only [Bool.and_eq_true, decide_eq_true_eq] at hfit
      obtain ⟨⟨hx, hsa⟩, hy⟩ := hfit
      rw [if_pos h1, if_neg h2, if_pos h1, if_neg h2, show w + (o.x + (o.sa * 2 ^ 5 + o.y * 2 ^ 11)) * 2 ^ 15 =
        w + o.x * 2 ^ 15 + o.sa * 2 ^ 20 + o.y * 2 ^ 26 by ring]
      simp (disch := omega) only [bits_add_above, bits_add_top]
  · next h1 =>
    simp only [Bool.and_eq_true, decide_eq_true_eq] at hfit
    obtain ⟨⟨hx, hsa⟩, hy⟩ := hfit
    rw [if_neg h1, if_neg h1, show w + (o.x + (o.sa * 2 ^ 6 + o.y * 2 ^ 12)) * 2 ^ 15 =
      w + o.x * 2 ^ 15 + o.sa * 2 ^ 21 + o.y * 2 ^ 27 by ring]
    simp (disch := omega) only [bits_add_above, bits_add_top]

/-- Format Q of majors 0x2C to 0x3B (R113, R123). -/
theorem Form.readFrom_q {maj qop : Nat} {o : QOps} (hmaj : 0x2B ≤ maj ∧ maj < 0x3D) (hq : qop < 8)
    (hfit : o.fits maj qop = true) (more : List Nat) : (Form.q maj qop o).ReadFrom ((Form.q maj qop o).encode ++ more) := by
  have hdec : ∀ x, decForm maj x = decQ maj x := fun x => by
    unfold decForm
    rw [if_neg (by omega), if_neg (by omega), if_neg (by omega), if_neg (by omega), if_neg (by omega), if_neg (by omega),
      if_pos (by omega)]
  have hlen := lenOf_lt o.ext false
  have hf := fun w => qFields_fields (w := w) hfit
  simp only [QOps.fits, Bool.and_eq_true, decide_eq_true_eq] at hfit
  obtain ⟨⟨hg, hla⟩, -⟩ := hfit
  have hx := QOps.x2_guard hg
  obtain ⟨h9, h15, h31⟩ := QOps.x2_rest hg hla
  have hl := QOps.la_read hg hla
  have hb := QOps.baseLa_lt hla
  refine ⟨?_, ?_, ?_⟩
  · simp (disch := omega) only [encode_q, len, List.cons_append, List.getD_cons_zero, mod_four_add_above, mod_four_add_major]
  · simp (disch := omega) only [encode_q, Machine.formMajor, List.cons_append, List.getD_cons_zero, bits_add_above, bits_major]
  · simp only [len, Machine.formMajor, encode_q, List.cons_append, splitWords_q, hdec]
    rw [decQ_eq]
    simp (disch := omega) only [bits_add_above, bits_add_top, hf, Words.ext, hx, bit_eq_bits, h9, h15, h31, bits_ext,
      toBit_eq_one, hl, QOps.baseLa_ext]
    rfl

end Sys2Proof
end

section
/-! PROOFS. Decoding gives back what was encoded (O54, O55), and the words of the manual (O56). -/
namespace Sys2Proof

/-! ## Codes and lengths of forms that name an instruction (R116, R117) -/

theorem scInstr_codes {maj min : Nat} {o : SOps} {i : Instr} (h : scInstr maj min o = some i) : maj ≤ 2 ∧ min < 16 := by
  unfold scInstr at h
  split at h <;> simp at h ⊢
  omega

theorem brInstr_codes {cond : Nat} {o : BOps} {i : Instr} (h : brInstr cond o = some i) : cond < 16 := by
  unfold brInstr at h
  split at h <;> simp at h ⊢

theorem memInstr_codes {maj : Nat} {o : MOps} {i : Instr} (h : memInstr maj o = some i) : 0x20 ≤ maj ∧ maj < 0x26 := by
  unfold memInstr at h
  split at h <;> simp at h ⊢

theorem atmInstr_codes {maj : Nat} {o : AOps} {i : Instr} (h : atmInstr maj o = some i) : 0x28 ≤ maj ∧ maj < 0x2B := by
  unfold atmInstr at h
  split at h <;> simp at h ⊢

theorem privInstr_codes {qop : Nat} {o : POps} {i : Instr} (h : privInstr qop o = some i) : qop < 16 := by
  unfold privInstr at h
  split at h <;> simp at h ⊢

theorem qInstr_codes {maj qop : Nat} {o : QOps} {i : Instr} (h : qInstr maj qop o = some i) :
    (0x2B ≤ maj ∧ maj < 0x3D) ∧ qop < 8 ∧ majLens maj = some [0, 1] := by
  unfold qInstr at h
  split at h <;> simp [majLens] at h ⊢

/-- A row of the map of formats A and I: its minor code, its format, and the lengths that its major has. -/
structure VRow.Placed (r : VRow) (maj min : Nat) : Prop where
  major : 4 < maj ∧ maj < 0x1E
  minor : min < 8
  format : r.fmtI = fmtIOf maj min
  lens : ∀ ext lit, r.lenOk ext lit = true → lenOf ext lit ∈ (majLens maj).getD []

theorem ctlRow_placed {maj min : Nat} {r : VRow} (h : ctlRow maj min = some r) : r.Placed maj min := by
  unfold ctlRow at h
  split at h <;> simp at h
  all_goals
    subst h
    exact ⟨by decide, by decide, by decide, by decide⟩

theorem lenOf_mem_all (ext lit : Bool) : lenOf ext lit ∈ [0, 1, 2, 3] := by cases ext <;> cases lit <;> decide
theorem lenOf_mem_ext (lit : Bool) : lenOf true lit ∈ [1, 3] := by cases lit <;> decide
theorem lenOf_mem_base (lit : Bool) : lenOf false lit ∈ [0, 2] := by cases lit <;> decide
theorem lenOf_mem_short (ext : Bool) : lenOf ext false ∈ [0, 1] := by cases ext <;> decide

/-- The lengths of a row whose major has all of them. -/
theorem VRow.lens_all {r : VRow} {maj : Nat} (h : majLens maj = some [0, 1, 2, 3]) (ext lit : Bool)
    (_ : r.lenOk ext lit = true) : lenOf ext lit ∈ (majLens maj).getD [] := by
  rw [h]
  exact lenOf_mem_all ext lit

theorem VRow.placed_all {r : VRow} {maj min : Nat} (hm : 4 < maj ∧ maj < 0x1E) (hn : min < 8) (hf : r.fmtI = fmtIOf maj min)
    (h : majLens maj = some [0, 1, 2, 3]) : r.Placed maj min := ⟨hm, hn, hf, VRow.lens_all h⟩

theorem movRow_placed {maj min : Nat} {o : VOps} {r : VRow} (h : movRow maj min o = some r) : r.Placed maj min := by
  unfold movRow at h
  split at h
  case h_16 =>
    cases h
    exact ⟨by decide, by decide, rfl, by decide⟩
  all_goals
    repeat' split at h
    all_goals cases h
    all_goals exact VRow.placed_all (by decide) (by decide) rfl rfl

theorem vecRow_placed {maj min : Nat} {o : VOps} {r : VRow} (h : vecRow maj min o = some r) : r.Placed maj min := by
  unfold vecRow at h
  split at h
  · exact ctlRow_placed h
  split at h
  case h_13 => exact movRow_placed h
  all_goals
    repeat' split at h
    all_goals cases h
    all_goals exact VRow.placed_all (by decide) (by omega) rfl rfl

/-- A code of formats A and I that names an instruction has a row. -/
theorem vecInstr_row {maj min : Nat} {o : VOps} {i : Instr} (h : vecInstr maj min o = some i) :
    ∃ r, vecRow maj min o = some r := by
  rw [← Option.isSome_iff_exists]
  unfold vecInstr at h
  split at h
  · unfold ctlInstr at h
    split at h
    any_goals rfl
    cases h
  split at h
  · unfold intInstr at h
    split at h <;> simp at h
    all_goals simp [vecRow, h]
  split at h
  · unfold fltInstr at h
    split at h <;> simp at h
    all_goals simp [vecRow, h]
  split at h
  · unfold sfuInstr at h
    split at h <;> simp at h
    all_goals rfl
  split at h
  · unfold cvtInstr at h
    split at h <;> simp at h
    all_goals rfl
  · unfold lanInstr at h
    split at h
    any_goals rfl
    · show (if o.d % 4 = 0 then _ else if o.d % 4 = 1 then _ else _ : Option VRow).isSome = true
      split
      · rfl
      · split <;> rfl
    · cases h

/-- A form that names an instruction, of a length that it may have: its major has that length (R116). -/
theorem Form.majLens_len {f : Form} {i : Instr} (hi : f.instr = some i) (hok : f.lenOk = true) :
    ∃ lens, majLens (Machine.formMajor f) = some lens ∧ f.len ∈ lens := by
  cases f with
  | sc maj min o => exact ⟨[0, 2], if_pos (scInstr_codes hi).1, lenOf_mem_base _⟩
  | br cond o => exact ⟨[0, 1, 2, 3], rfl, lenOf_mem_all _ _⟩
  | vec maj min o =>
    obtain ⟨r, hr⟩ := vecInstr_row hi
    have hl := (vecRow_placed hr).lens o.ext o.lit.isSome (by simpa only [lenOk, hr] using hok)
    cases hm : majLens maj with
    | none => rw [hm] at hl; cases hl
    | some lens => rw [hm] at hl; exact ⟨lens, hm, hl⟩
  | sweep itn maj min o => exact ⟨[1, 3], rfl, lenOf_mem_ext _⟩
  | mem maj o =>
    obtain ⟨hlo, hhi⟩ := memInstr_codes hi
    refine ⟨[0, 1, 2, 3], ?_, lenOf_mem_all _ _⟩
    show majLens maj = _
    interval_cases maj <;> rfl
  | atm maj o =>
    obtain ⟨hlo, hhi⟩ := atmInstr_codes hi
    refine ⟨[1, 3], ?_, lenOf_mem_ext _⟩
    show majLens maj = _
    interval_cases maj <;> rfl
  | q maj qop o => exact ⟨[0, 1], (qInstr_codes hi).2.2, lenOf_mem_short _⟩
  | priv qop o => exact ⟨[0], rfl, by simp [len]⟩
  | rep cnt str sel => exact ⟨[0], rfl, by simp [len]⟩

/-- A form that names an instruction, within its widths, is read from its words, whatever words follow. -/
theorem Form.readFrom_encode {f : Form} {i : Instr} (hi : f.instr = some i) (hfit : f.fits = true) (hok : f.lenOk = true)
    (more : List Nat) : f.ReadFrom (f.encode ++ more) := by
  cases f with
  | sc maj min o =>
    obtain ⟨hmaj, hmin⟩ := scInstr_codes hi
    exact readFrom_sc hmaj hmin hfit more
  | br cond o =>
    exact readFrom_br (brInstr_codes hi) (by simp only [fits, Bool.and_eq_true] at hfit; exact hfit.1) more
  | vec maj min o =>
    obtain ⟨r, hr⟩ := vecInstr_row hi
    have hp := vecRow_placed hr
    simp only [fits, hr, hp.format] at hfit
    exact readFrom_vec hp.major hp.minor hfit more
  | sweep itn maj min o =>
    simp only [instr, Option.ite_none_right_eq_some, Option.map_eq_some_iff] at hi
    obtain ⟨-, j, hj, -⟩ := hi
    obtain ⟨r, hr⟩ := vecInstr_row hj
    have hp := vecRow_placed hr
    simp only [fits, Bool.and_eq_true, decide_eq_true_eq, beq_iff_eq] at hfit
    simp only [lenOk, Bool.and_eq_true] at hok
    obtain ⟨⟨hfit, hitn⟩, hbf⟩ := hfit
    have hmaj := hp.major
    exact readFrom_sweep hitn (by omega) hp.minor hfit hok.1 hbf more
  | mem maj o => exact readFrom_mem (memInstr_codes hi) hfit more
  | atm maj o => exact readFrom_atm (atmInstr_codes hi) hfit more
  | q maj qop o =>
    obtain ⟨hmaj, hq, -⟩ := qInstr_codes hi
    exact readFrom_q hmaj hq hfit more
  | priv qop o =>
    simp only [fits, Bool.and_eq_true, decide_eq_true_eq] at hfit
    exact readFrom_priv (privInstr_codes hi) hfit.1 hfit.2 more
  | rep cnt str sel =>
    simp only [fits, Bool.and_eq_true, decide_eq_true_eq] at hfit
    exact readFrom_rep hfit.1.1 hfit.1.2 hfit.2 more

theorem lenWords_ext (lit : Bool) : 3 ≤ lenWords (lenOf true lit) := by cases lit <;> decide

/-- With all its words at hand a form stands as it was read. -/
theorem Form.cutAt_of_le {f : Form} {n : Nat} (h : lenWords f.len ≤ n) : f.cutAt n = f := by
  have hext : ∀ (ext lit : Bool) (k : Nat), lenWords (lenOf ext lit) ≤ n → k ≤ 3 → ¬(ext = true ∧ n < k) := by
    rintro _ lit k hn hk ⟨rfl, hlt⟩
    have := lenWords_ext lit
    omega
  unfold cutAt
  split
  · next min o => rw [if_neg fun hc => hext o.ext o.lit.isSome 2 h (by decide) ⟨hc.1, hc.2.1⟩]
  · next maj o => rw [if_neg (hext o.ext o.lit.isSome 3 h (by decide))]
  · rfl

/-- Decoding the words of a form that names an instruction and breaks no rule. -/
theorem decode_of_readFrom {regs : Nat} {ws : List Nat} {f : Form} {i : Instr} (hr : f.ReadFrom ws) (hi : f.instr = some i)
    (hok : f.lenOk = true) (hn : lenWords f.len ≤ ws.length) (hc : f.causes regs true = []) :
    decode regs ws = .ok i (lenWords f.len) := by
  obtain ⟨lens, hlens, hmem⟩ := Form.majLens_len hi hok
  have hmaj : Machine.formMajor f ≠ 0x3F := by
    intro h
    rw [h] at hlens
    cases hlens
  unfold decode
  simp only [hr.len, hr.major, if_neg hmaj, hlens, hmem, hr.form, Form.cutAt_of_le hn, hok, hi]
  simp [Nat.not_lt.mpr hn, hn, hc, sub, lowest]

/-- Decoding gives back a well-formed instruction, whatever words follow its own. -/
theorem decode_encode_append {i : Instr} (h : WellFormed i) (more : List Nat) :
    decode 768 (encode i ++ more) = .ok i (encode i).length := by
  unfold WellFormed Instr.wellFormed at h
  cases hf : i.form with
  | none => rw [hf] at h; cases h
  | some f =>
    simp only [hf, Bool.and_eq_true, beq_iff_eq, List.isEmpty_iff] at h
    obtain ⟨⟨⟨hi, hfit⟩, hok⟩, hc⟩ := h
    have he : encode i = f.encode := by unfold encode; rw [hf]
    rw [he, Form.encode_length hok]
    exact decode_of_readFrom (Form.readFrom_encode hi hfit hok more) hi hok
      (by rw [List.length_append, Form.encode_length hok]; omega) hc

/-- Settles O54: a well-formed instruction is the one that its form names, and its words show that form
(`decode_encode_append`), here with no words behind them. -/
theorem decodeOfEncode : Obligations.DecodeOfEncode := by
  unfold Obligations.DecodeOfEncode
  intro i h
  simpa only [List.append_nil] using decode_encode_append h []

/-- Settles O55: `decode_encode_append` holds of every format, whatever words follow. -/
theorem scalarDecodeOfEncode : Obligations.ScalarDecodeOfEncode := by
  unfold Obligations.ScalarDecodeOfEncode
  intro _ _ _ i more _ _ h
  exact decode_encode_append h more

/-- Settles O56: the decoder evaluated on each of the words. -/
theorem wordsDecode : Obligations.WordsDecode := by
  unfold Obligations.WordsDecode
  decide +kernel

end Sys2Proof
end

section
/-! PROOFS. What translations, fetches and fault records leave of memory and of the grids. -/
namespace Sys2Proof.Machine
open Sys2Proof

/-! ## Translations and fetches leave memory and grids alone

They count accesses, post messages and keep translations, and a record of a fault is written to memory: none of these changes
a grid, and a fetch writes no byte. -/

/-- The memory and the grids of a machine. -/
def State.stock (s : State) : Memory × Tbl Grid := (s.mem, s.grids)

theorem State.stock_transmit (s : State) (m : Msg) : (s.transmit m).1.stock = s.stock := by
  unfold State.transmit
  split
  · rfl
  · split <;> rfl

theorem State.stock_post (s : State) (m : Msg) : (s.post m).stock = s.stock := by
  unfold State.post
  split
  · exact s.stock_transmit m
  · rfl

theorem State.stock_postAbroad (s : State) (vc flits ptr ln : Nat) : (s.postAbroad vc flits ptr ln).stock = s.stock := by
  unfold State.postAbroad
  split
  · rfl
  · exact State.stock_post _ _

theorem State.stock_reach (s : State) (die : Nat) (a : Acc) (rd : Bool) : (s.reach die a rd).stock = s.stock := by
  cases a with
  | peer pa => exact s.stock_postAbroad _ _ _ _
  | _ => rfl

theorem State.stock_physReach (s : State) (master pa : Nat) : (s.physReach master pa).stock = s.stock := s.stock_reach _ _ _

theorem Walked.stock_reach (w : Walked) (die : Nat) (s : State) : (w.reach die s).stock = s.stock :=
  List.foldlRecOn (motive := fun t : State => t.stock = s.stock) w.reads _ rfl
    fun t ht a _ => (t.stock_reach die a true).trans ht

theorem State.stock_dieAdd (s : State) (die : Nat) (e : TlbEntry) : (s.dieAdd die e).stock = s.stock := by
  unfold State.dieAdd
  exact (apply_ite State.stock _ _ _).trans (ite_self _)

theorem State.stock_tlbAdd (s : State) (core : Nat) (e : TlbEntry) : (s.tlbAdd core e).stock = s.stock :=
  State.stock_dieAdd _ _ _

theorem State.stock_keepWalk (s : State) (die ctx va : Nat) (r : WalkRes) (tabs : List TabEntry) :
    (s.keepWalk die ctx va r tabs).stock = s.stock := by
  unfold State.keepWalk
  split
  · rfl
  · dsimp only
    split <;> exact s.stock_dieAdd _ _

theorem State.stock_startWalks (die n : Nat) (s : State) : (State.startWalks die n s).stock = s.stock := by
  induction n generalizing s with
  | zero => rfl
  | succ n ih =>
    unfold State.startWalks
    split
    · rfl
    split
    · rfl
    · rw [ih]
      split <;> exact Walked.stock_reach _ die s

theorem State.stock_endWalk (s : State) (w : PtWalk) : (s.endWalk w).stock = s.stock := by
  unfold State.endWalk
  rw [State.stock_startWalks]
  split
  · exact State.stock_keepWalk _ _ _ _ _ _
  · rfl

theorem State.stock_walkUntil (die : Nat) (p : State → Bool) (n : Nat) (s : State) :
    (State.walkUntil die p n s).stock = s.stock := by
  induction n generalizing s with
  | zero => rfl
  | succ n ih =>
    unfold State.walkUntil
    split
    · rfl
    split
    · rw [ih, State.stock_endWalk]
    · rfl

theorem State.stock_ownWalk (s : State) (die ctx va : Nat) : (s.ownWalk die ctx va).1.stock = s.stock := by
  unfold State.ownWalk
  rw [State.stock_keepWalk, Walked.stock_reach, State.stock_walkUntil]

theorem State.stock_missWalk (s : State) (core ctx va : Nat) : (s.missWalk core ctx va).1.stock = s.stock := by
  unfold State.missWalk
  split
  · exact s.stock_ownWalk _ _ _
  extract_lets _ t
  have ht : t.stock = s.stock := State.stock_walkUntil _ _ _ _
  split
  · split
    · rw [State.stock_endWalk, ht]
    · rw [State.stock_ownWalk, ht]
  · rw [State.stock_ownWalk, ht]

theorem State.stock_leafOf (s : State) (core ctx va : Nat) : (s.leafOf core ctx va).1.stock = s.stock := by
  have hm := s.stock_missWalk core ctx va
  unfold State.leafOf
  split
  · rfl
  split
  · exact s.stock_tlbAdd _ _
  split
  · next e => rw [State.stock_tlbAdd, ← hm, e]
  · next e => rw [← hm, e]

theorem State.stock_translate (s : State) (core ctx va : Nat) (need : Need) :
    (s.translate core ctx va need).1.stock = s.stock := by
  have hl := s.stock_leafOf core ctx va
  unfold State.translate
  split
  · next e => rw [← hl, e]
  · next e => split <;> rw [← hl, e]

/-! ### Fetches -/

section
variable {α : Type} (v : State → α) (hv : ∀ s core ctx va need, v (s.translate core ctx va need).1 = v s)
include hv

/-- What every translation keeps, a fetch keeps. -/
theorem State.fetchWords_keeps (n : Nat) (s : State) (pc : Nat) : v (s.fetchWords n pc).1 = v s := by
  induction n generalizing s pc with
  | zero => rfl
  | succ n ih =>
    have ht := hv s s.core s.ctx (s.code.1 + pc) { x := true }
    unfold State.fetchWords
    dsimp only
    split
    · rfl
    split
    · next e => rw [← ht, e]
    · next u pa k e =>
      have hu : v u = v s := by rw [← ht, e]
      have hn := (ih u (pc + 4)).trans hu
      split
      · exact hu
      · split
        · next e => rw [← hn, e]
        · next e => rw [← hn, e]

theorem State.fetchAt_keeps (s : State) (pc : Nat) : v (s.fetchAt pc).1 = v s := by
  have h1 := State.fetchWords_keeps v hv 1 s pc
  unfold State.fetchAt
  split
  · next e => rw [State.fetchWords_keeps v hv, ← h1, e]
  · exact h1

theorem State.instrAt_keeps (s : State) (pc : Nat) : v (s.instrAt pc).1 = v s := by
  have h1 := State.fetchAt_keeps v hv s pc
  unfold State.instrAt
  split
  · next e => rw [← h1, e]
  · next e => split <;> rw [← h1, e]

end

theorem State.stock_instrAt (s : State) (pc : Nat) : (s.instrAt pc).1.stock = s.stock :=
  State.instrAt_keeps State.stock State.stock_translate s pc
theorem State.issuer_instrAt (s : State) (pc : Nat) : (s.instrAt pc).1.issuer = s.issuer :=
  State.instrAt_keeps State.issuer State.issuer_translate s pc
theorem State.standing_instrAt (s : State) (pc : Nat) : (s.instrAt pc).1.standing = s.standing :=
  State.instrAt_keeps State.standing (fun _ _ _ _ _ => State.kept_translate rfl) s pc

/-! ### Fault records -/

theorem State.stock_desc (s : State) (die ctx i : Nat) : (s.desc die ctx i).1.stock = s.stock := by
  unfold State.desc
  split
  · rfl
  · exact (apply_ite State.stock _ _ _).trans ((ite_self _).trans (s.stock_physReach _ _))

theorem State.stock_recLength (s : State) (ctx : Nat) : (s.recLength ctx).1.stock = s.stock := s.stock_desc _ _ _

theorem State.stock_recordAt (s : State) (core ctx off : Nat) : (s.recordAt core ctx off).1.stock = s.stock := by
  have hd := s.stock_desc (dieOf core) ctx 4095
  unfold State.recordAt
  split
  next u d e =>
    rw [e] at hd
    have ht := u.stock_translate core ctx (bits d 56 8 * 256 + off) {}
    split <;> next e' => rw [← hd, ← ht, e']

theorem State.grids_putAcc (s : State) (die : Nat) (a : Acc) (bs : List Byte) : (s.putAcc die a bs).grids = s.grids := by
  have h : ((s.reach die a false).writeAcc a bs).grids = (s.reach die a false).grids := by cases a <;> rfl
  exact h.trans (congrArg Prod.snd (s.stock_reach die a false))

theorem State.grids_logEvent (s : State) (gridid ctx code sub : Nat) (u : HwUnit) (event arg : Nat) :
    (s.logEvent gridid ctx code sub u event arg).grids = s.grids := by
  unfold State.logEvent
  split
  · rfl
  · exact s.grids_putAcc _ _ _

theorem State.grids_terminal (s : State) (core : Nat) (t : Team) (grp lane pc rep kind : Nat) (x : Trap) :
    (s.terminal core t grp lane pc rep kind x).grids = s.grids := by
  unfold State.terminal
  extract_lets s1 r s2
  have h2 : s2.grids = s.grids := s1.grids_logEvent _ _ _ _ _ _ _
  clear_value s2
  have h3 := s2.stock_recordAt core t.ctx 0
  split
  next s3 hd e =>
    have h3 : s3.grids = s.grids := by rw [e] at h3; exact (congrArg Prod.snd h3).trans h2
    split
    · exact h3
    extract_lets s4 h n lost
    have h4 : s4.grids = s.grids := (congrArg Prod.snd (s3.stock_reach _ _ _)).trans h3
    have hlost : ∀ v : State, (lost v).grids = v.grids := fun v => v.grids_putAcc _ _ _
    clear_value s4 lost
    split
    · exact (hlost s4).trans h4
    have h5 := s4.stock_recordAt core t.ctx (64 * (n + 1))
    split
    next s5 a e =>
      have h5 : s5.grids = s.grids := by rw [e] at h5; exact (congrArg Prod.snd h5).trans h4
      split
      · exact (hlost s5).trans h5
      · exact ((State.grids_putAcc _ _ _ _).trans (s5.grids_putAcc _ _ _)).trans h5

theorem State.grids_noteFault (s : State) (code detail : Nat) : (s.noteFault code detail).grids = s.grids := by
  unfold State.noteFault State.noteError State.newWindow
  split
  · dsimp only
    split <;> rfl
  · rfl

theorem State.grids_noteTraps (s : State) (r : Raised) : (s.noteTraps r).grids = s.grids :=
  List.foldlRecOn (motive := fun t : State => t.grids = s.grids) r.records _ rfl
    fun t ht p _ => by
      split
      · exact (t.grids_noteFault _ _).trans ht
      · exact ht

end Sys2Proof.Machine
end

section
/-! PROOFS. What is no instruction traps its whole issue set (O36). -/
namespace Sys2Proof.Machine
open Sys2Proof

/-! ## A trap of a whole issue set (R134, R160) -/

theorem Raised.mask_together (m : Dword) (x : Trap) : ({ tog := some (m, x) } : Raised).mask = m := by
  simp [Raised.mask]

theorem Issue.trapAt_of_none {iss : Issue} {x : Trap} (h : iss.recPc = none) : iss.trapAt x = x := by
  obtain ⟨code, sub, off, bt, va, opid, detail, pcAt, grpAt, laneAt, cycleAt, coreAt⟩ := x
  cases pcAt <;> simp [Issue.trapAt, h]

/-- What is no instruction, with nothing in its way: the issue set takes the trap together, and no thread moves on. -/
theorem State.issueNone_quiet {i : Instr} {s : State} (x : Trap) (hq : s.quiet i = true) :
    s.issueNone i x = (s.modGroup (s.group.finish (s.issueOf 1) s.tick false s.group.issueSet 0 [])).takeTraps s.group.issuePc
      { tog := some (s.group.issueSet, x) } := by
  have hb : illegalBody x ((s.issueOf 1).by (s.doers i)) s = { s := s, raised := { tog := some (s.group.issueSet, x) } } := by
    show ({ s := s, raised := together s.group.issueSet x } : Res) = _
    rw [together, if_neg (State.quiet_set hq)]
  unfold State.issueNone
  rw [runIssue_quiet hq, hb]
  simp only [closeIssue, Bool.false_eq_true, if_false, lanesOf_zero, List.map_nil, List.append_nil, Option.map_some,
    Issue.trapAt_of_none (show (s.issueOf 1).recPc = none from rfl), Raised.mask_together]
  rfl

/-! ## A trap with no handler (R160) -/

theorem State.modGroup_isSvc (s : State) (f : Group → Group) : (s.modGroup f).isSvc = s.isSvc := by
  unfold State.isSvc; rw [State.modGroup_grp]

/-- A change of the issuing group of a team is one of that group alone. -/
theorem State.modGroup_ofTeam {s : State} (f : Group → Group) (hs : s.isSvc = false) (hp : s.present = true) :
    (s.modGroup f).team = s.team.setGroup s.grp (f s.group) := by
  have hg : s.grp ≠ 16 := by simpa [State.isSvc] using hs
  obtain ⟨t, ht⟩ : ∃ t, (s.coreAt s.core).team = some t := by
    simpa [State.present, hs, Option.isSome_iff_exists] using hp
  have hteam : s.team = t := by simp [State.team, ht]
  have hgroup : s.group = t.group s.grp := by simp [State.group, hs, hteam]
  rw [s.modGroup_team f hg, hteam, hgroup]
  simp [State.team, State.coreAt_modCore, ht]

theorem State.Kept.grid {s₀ s : State} (h : s₀.Kept s) : s.team.grid = s₀.team.grid := congrArg (fun x => x.1.grid) h.team

theorem State.kept_noteTraps (s : State) (r : Raised) : s.Kept (s.noteTraps r) :=
  kept_foldl rfl fun _ _ ht => kept_ite (State.kept_noteFault ht) ht

/-- The terminal records of a trap (R160): the state before its grid ends. -/
theorem State.trapEnds_spec (s : State) (pc : Nat) (r : Raised) :
    ∃ u, s.trapEnds pc r = u.endGrid s.team.grid 2 ∧ s.Kept u ∧ u.grids = s.grids := by
  refine ⟨_, rfl, kept_foldl rfl fun _ _ ht => State.kept_terminal ht, ?_⟩
  exact List.foldlRecOn (motive := fun t : State => t.grids = s.grids) _ _ rfl
    fun t ht p _ => (t.grids_terminal _ _ _ _ _ _ _ _).trans ht

/-- A trap of a team's group that has no frame open and no handler ends its grid FAULTED, and its threads stand where they did. -/
theorem State.takeTraps_noHandler {s : State} {pc : Nat} {r : Raised} (hm : r.mask ≠ 0) (hs : s.isSvc = false)
    (hf : s.group.frame = none) (hh : s.team.hEn = false) :
    ∃ u, s.takeTraps pc r = u.endGrid s.team.grid 2 ∧ s.Kept u ∧ u.grids = s.grids := by
  have h1 := s.kept_noteTraps r
  have hframe : (s.noteTraps r).group.frame = none := (congrArg Group.frame (h1.group hs) :).trans hf
  have hhandler : (s.noteTraps r).team.hEn = false := (congrArg (fun x => x.1.hEn) h1.team :).trans hh
  have h2 : s.Kept ((s.noteTraps r).recLength (s.noteTraps r).team.ctx).1 := State.kept_desc h1
  obtain ⟨u, he, hk, hg⟩ := ((s.noteTraps r).recLength (s.noteTraps r).team.ctx).1.trapEnds_spec pc r
  refine ⟨u, ?_, hk.trans h2, ?_⟩
  · rw [h2.grid] at he
    rw [← he]
    unfold State.takeTraps
    simp only [hm, if_false, h1.isSvc, hs, Bool.false_eq_true, hframe, hhandler]
    exact if_pos (.inl rfl)
  · exact hg.trans ((congrArg Prod.snd (State.stock_recLength _ _)).trans (State.grids_noteTraps s r))

/-- The first cause decides: a grid that has neither ended nor begun to end is FAULTED by it (R440). -/
theorem State.grid_endGrid {s : State} {g : Nat} (status : Nat) (h1 : (s.grid g).phase ≠ .ended)
    (h2 : (s.grid g).phase ≠ .ending) :
    (s.endGrid g status).grid g = { s.grid g with phase := .ending, status := status } := by
  show tget {} (tput {} s.grids g _) g = _
  rw [tget_tput_same]
  exact if_neg (by rintro (h | h); exacts [h1 h, h2 h])

theorem Group.SameRegs.sameRegisters {g h : Group} (e : g.SameRegs h) : g.SameRegisters h := by
  obtain ⟨hs, hv, hm, hi⟩ := e.same
  exact ⟨hs, hv, hm, hi, e.flags⟩

theorem Group.SameRegisters.of_still {g h k : Group} (e : g.SameRegisters h) (hk : k.still = h.still) : g.SameRegisters k := by
  have b := Group.sameBut_of_still hk
  refine ⟨fun n hn => ?_, fun n hn => ?_, fun n hn => ?_, fun n hn => ?_, b.flags.trans e.flags⟩
  · exact (b.scalars n hn).trans (e.scalars n hn)
  · exact (show k.vreg n = h.vreg n by unfold Group.vreg; rw [b.v]).trans (e.vectors n hn)
  · rw [b.m]; exact e.masks n hn
  · exact (show k.iter n = h.iter n by unfold Group.iter; rw [b.it]).trans (e.iters n hn)

/-- Where no handler is there to enter, what is no instruction ends its grid and writes no register (R134, R160). -/
theorem State.issueNone_noHandler {i : Instr} {s : State} (x : Trap) (hq : s.quiet i = true) (hs : s.isSvc = false)
    (hf : s.group.frame = none) (hh : s.team.hEn = false) (h1 : (s.grid s.team.grid).phase ≠ .ended)
    (h2 : (s.grid s.team.grid).phase ≠ .ending) :
    (s.issueNone i x).grid s.team.grid = { s.grid s.team.grid with phase := .ending, status := 2 }
      ∧ s.group.SameRegisters (s.issueNone i x).group := by
  have hp := State.quiet_present hq
  rw [State.issueNone_quiet x hq]
  generalize hv : s.group.finish (s.issueOf 1) s.tick false s.group.issueSet 0 [] = f
  have hsame : s.group.SameRegs (f s.group) := hv ▸ Group.sameRegs_finish _ _ _ _ _ _ _ _
  have hteam := State.modGroup_ofTeam f hs hp
  have hgroup := s.group_modGroup f hp
  have hsv : (s.modGroup f).isSvc = false := (s.modGroup_isSvc f).trans hs
  obtain ⟨u, he, hk, hg⟩ := State.takeTraps_noHandler (s := s.modGroup f) (pc := s.group.issuePc)
    (r := { tog := some (s.group.issueSet, x) }) (by rw [Raised.mask_together]; exact State.quiet_set hq) hsv
    (by rw [hgroup, hsame.frame, hf]) (by rw [hteam]; exact hh)
  have hgrid : ∀ n, u.grid n = s.grid n := fun n => by unfold State.grid; rw [hg, State.modGroup_grids]
  rw [hteam] at he
  rw [he]
  constructor
  · show (u.endGrid s.team.grid 2).grid s.team.grid = _
    rw [← hgrid] at h1 h2
    rw [State.grid_endGrid 2 h1 h2, hgrid]
  · refine Group.SameRegisters.of_still hsame.sameRegisters ?_
    rw [← hgroup]
    exact hk.group hsv

/-- Settles O36: the body of what is no instruction raises one trap for the issue set (`State.issueNone_quiet`); without a
handler that trap ends the grid (`State.issueNone_noHandler`). -/
theorem noInstructionTraps : Obligations.NoInstructionTraps := by
  unfold Obligations.NoInstructionTraps
  intro sub va s ix hix hq
  have hexec : exec ix.1 s = .next (s.issueNone ix.1 ix.2) := by
    simp only [List.mem_cons, List.not_mem_nil, or_false] at hix
    obtain rfl | rfl := hix <;> rfl
  rw [hexec]
  refine ⟨congrArg _ (State.issueNone_quiet ix.2 hq), fun t ht hs hf hh h1 h2 => ?_⟩
  cases ht
  exact State.issueNone_noHandler ix.2 hq hs hf hh h1 h2

end Sys2Proof.Machine
end

section
/-! PROOFS. One iteration of a repeat (O22). -/
namespace Sys2Proof.Machine
open Sys2Proof

/-! ## An issue that may count windows before it runs (R126) -/

/-- A window that is left after a count was there before it. -/
theorem Group.promised_of_count {ls : List Nat} {g : Group} {ds : List Dest} {l : Nat}
    (h : (g.count ls).promised ds l = true) : g.promised ds l = true := by
  unfold Group.promised Group.count at h
  rw [tget_tputs_map] at h
  split at h
  · simp only [List.any_eq_true, List.mem_filterMap] at h
    obtain ⟨w, ⟨v, hv, hw⟩, d, hd, hin⟩ := h
    refine List.any_eq_true.mpr ⟨v, hv, List.any_eq_true.mpr ⟨d, ?_, hin⟩⟩
    split at hw
    · cases hw
    · cases hw; exact hd
  · exact h

/-- An instruction with nothing in its way has nothing in its way after a count. -/
theorem State.quiet_count {i : Instr} {s : State} (ls : List Nat) (h : s.quiet i = true) :
    (s.modGroup (Group.count ls)).quiet i = true := by
  have hp := State.quiet_present h
  unfold State.quiet at h ⊢
  rw [State.modGroup_present, s.group_modGroup _ hp]
  simp only [Bool.and_eq_true, List.all_eq_true] at h ⊢
  obtain ⟨⟨⟨h1, h2⟩, h3⟩, h4⟩ := h
  refine ⟨⟨⟨h1, h2⟩, h3⟩, fun l hl => ?_⟩
  have := h4 l hl
  rw [Bool.not_eq_true'] at this ⊢
  exact Bool.eq_false_iff.mpr fun hc => Bool.eq_false_iff.mp this (Group.promised_of_count hc)

/-- The state that an issue's body meets: in the first iteration of a repeat, REP has counted (R126). -/
def State.counted (s : State) (iss : Issue) : State :=
  if iss.first then s.modGroup (Group.count (lanesOf iss.set)) else s

theorem State.counted_group {s : State} (iss : Issue) (hp : s.present = true) :
    (s.counted iss).group = s.group.count (if iss.first then lanesOf iss.set else []) := by
  unfold State.counted
  cases iss.first
  · rfl
  · exact s.group_modGroup _ hp

@[simp] theorem State.counted_mem (s : State) (iss : Issue) : (s.counted iss).mem = s.mem := by
  unfold State.counted
  split
  · exact s.modGroup_mem _
  · rfl

theorem State.modGroup_tick (s : State) (f : Group → Group) : (s.modGroup f).tick = s.tick := by
  unfold State.modGroup State.modGroupAt; split <;> rfl

theorem State.counted_quiet {i : Instr} {s : State} (iss : Issue) (h : s.quiet i = true) : (s.counted iss).quiet i = true := by
  unfold State.counted
  split
  · exact State.quiet_count _ h
  · exact h

/-- An issue of the whole issue set, with nothing in its way: its body runs for the threads of P. -/
theorem runIssue_counted {i : Instr} {perform : State → List Nat → State} {iss : Issue} {body : Body} {s : State}
    (hq : s.quiet i = true) (hset : iss.set = s.group.issueSet) (hv : iss.viol = 0) :
    runIssue i perform iss body s = closeIssue s.group iss 0 s.tick (body (iss.by (s.doers i)) (s.counted iss)) := by
  have hq' := State.counted_quiet iss hq
  have htick : (s.counted iss).tick = s.tick := by
    unfold State.counted
    split
    · exact s.modGroup_tick _
    · rfl
  have hg : guardSet (s.counted iss).group iss.set (guardOf i) = s.doers i := by
    rw [State.counted_group iss (State.quiet_present hq), hset]
    rfl
  have hby : ({ iss.by (s.doers i &&& ~~~0#64) with viol := 0#64 } : Issue) = iss.by (s.doers i) := by
    rw [BitVec.not_zero, BitVec.and_allOnes]
    exact congrArg (fun v => ({ iss.by (s.doers i) with viol := v } : Issue)) hv.symm
  have hfirst : (if iss.first = true then s.modGroup (Group.count (lanesOf iss.set)) else s) = s.counted iss := rfl
  unfold runIssue
  simp only [hfirst, htick, hg, State.quiet_violators hq', State.quiet_hits hq', and_false, if_false, Bool.false_eq_true, hby]
  rfl

theorem Raised.mask_mapped (r : Raised) (f : Trap → Trap) :
    ({ tog := r.tog.map (fun t => (t.1, f t.2)), own := r.own.map (fun o => (o.1, f o.2)) } : Raised).mask = r.mask := by
  obtain ⟨tog, own⟩ := r
  cases tog <;> simp [Raised.mask, Function.comp_def]

/-- An issue in which no thread traps. -/
theorem closeIssue_noTrap {old : Group} {iss : Issue} {tick : Nat} {r : Res} (hr : r.raised.mask = 0) (hstay : r.stay = false) :
    closeIssue old iss 0 tick r = r.s.modGroup (old.finish iss tick r.selfSat 0 r.placed r.moves) := by
  unfold closeIssue
  simp only [hstay, Bool.false_eq_true, if_false, lanesOf_zero, List.map_nil, ite_self, List.nil_append]
  have hm := Raised.mask_mapped r.raised iss.trapAt
  rw [State.takeTraps_none _ _ (hm.trans hr), hm, hr]

/-- Where an issue that moves no thread of its own leaves the threads of its set. -/
theorem Group.finish_next (old : Group) (iss : Issue) (tick : Nat) (sat : Bool) (g : Group) {l : Nat}
    (hl : iss.set.getLsbD l = true) :
    tget 0 (old.finish iss tick sat 0 0 [] g).pc l = iss.next
      ∧ tget 0 (old.finish iss tick sat 0 0 [] g).repcnt l = iss.nextRep := by
  have hmem : l ∈ lanesOf (iss.set &&& ~~~(0#64 ||| 0#64) &&& ~~~0#64) := by
    rw [mem_lanesOf, show (0#64 ||| 0#64) = 0#64 from rfl, BitVec.not_zero, BitVec.and_allOnes, BitVec.and_allOnes]
    exact hl
  have hpc : (old.finish iss tick sat 0 0 [] g).pc =
      tputs 0 g.pc ((lanesOf (iss.set &&& ~~~(0#64 ||| 0#64) &&& ~~~0#64)).map (fun l => (l, iss.next))) := by cases sat <;> rfl
  have hrep : (old.finish iss tick sat 0 0 [] g).repcnt =
      tputs 0 g.repcnt ((lanesOf (iss.set &&& ~~~(0#64 ||| 0#64) &&& ~~~0#64)).map (fun l => (l, iss.nextRep))) := by
    cases sat <;> rfl
  rw [hpc, hrep, tget_tputs_map (f := fun _ => iss.next), tget_tputs_map (f := fun _ => iss.nextRep), if_pos hmem, if_pos hmem]
  exact ⟨rfl, rfl⟩

/-! ## The iteration (R129 to R131) -/

/-- What a fetch keeps for the issue behind it. -/
theorem State.instrAt_same {s u : State} {pc : Nat} {a : AtPc} (h : s.instrAt pc = (u, a)) :
    u.group = s.group ∧ u.tick = s.tick ∧ u.mem = s.mem ∧ u.regalloc = s.regalloc := by
  have hi := s.issuer_instrAt pc
  have hk : s.Kept (s.instrAt pc).1 := s.standing_instrAt pc
  have hm := s.stock_instrAt pc
  rw [h] at hi hk hm
  refine ⟨congrArg Prod.snd hi, congrArg (·.1.1) hk, congrArg Prod.fst hm, ?_⟩
  have ht : u.team.regalloc = s.team.regalloc := (congrArg (fun x => x.1.regalloc) hk.team :)
  unfold State.regalloc
  rw [hk.isSvc, ht]

/-- The issue of one iteration: REP counts in the first one, and the threads go on to the next iteration or past the target of n
words (R131, R132). -/
def State.repIssue (s : State) (cnt n : Nat) : Issue :=
  let pc := s.group.issuePc
  let j := tget 0 s.group.repcnt (lowLane s.group.issueSet)
  { pc := pc, first := decide (j = 0), next := if j < cnt then pc else pc + 4 + 4 * n
    nextRep := if j < cnt then j + 1 else 0, recPc := some (pc + 4), set := s.group.issueSet }

theorem exec_rep_ok {cnt str sel n : Nat} {i0 : Instr} {f : Form} {s u : State}
    (ht : s.instrAt (s.group.issuePc + 4) = (u, .ok i0 n)) (hf : i0.form = some f)
    (hl : repLegal s.regalloc cnt str sel f = true) (hr : s.isRedundant = false) :
    exec (.rep cnt str sel) s = .next (repRun cnt str sel f n u) := by
  obtain ⟨-, -, -, hreg⟩ := State.instrAt_same ht
  show Host.Outcome.next ((repStep cnt str sel s).mirror _ s) = _
  simp [repStep, State.mirror, hr, ht, hf, hreg, hl]

/-- The target of iteration j as the statement's steps give it. -/
theorem repForm_eq (str sel j : Nat) (f : Form) :
    let step := fun k => if bit sel k then ((j * (str + 1) : Nat) : Int) else 0
    repForm str sel j f = stepForm (step 0) (step 1) (step 2) (step 3) f := by
  simp [repForm]

/-- One iteration that does not trap performs the stepped target for the threads of P. -/
theorem repRun_noTrap {cnt str sel n : Nat} {f g : Form} {i : Instr} {u : State}
    (hg : repForm str sel (tget 0 u.group.repcnt (lowLane u.group.issueSet)) f = g)
    (hi : g.instr = some i) (hq : u.quiet i = true)
    {r : Res} (hr : formBody g ((u.repIssue cnt n).by (u.doers i)) (u.counted (u.repIssue cnt n)) = r)
    (hm : r.raised.mask = 0) (hs : r.stay = false) : repRun cnt str sel f n u =
      r.s.modGroup (u.group.finish (u.repIssue cnt n) u.tick r.selfSat 0 r.placed r.moves) := by
  subst hg hr
  have e : repRun cnt str sel f n u = runIssue i State.performReqs (u.repIssue cnt n)
      (formBody (repForm str sel (tget 0 u.group.repcnt (lowLane u.group.issueSet)) f)) u := by
    unfold repRun
    simp only [show (u.issueOf 1).set = u.group.issueSet from rfl, hi]
    rfl
  rw [e, runIssue_counted hq rfl rfl]
  exact closeIssue_noTrap hm hs

/-- What a scalar instruction does to its group (R137). -/
def scStep (maj min : Nat) (o : SOps) (g : Group) : Group :=
  let r := scalarFn maj min o.u (g.sreg o.d) (opA g o) (opB g o)
  (g.setS o.d r.v).raise (if r.dz then fDZ else 0)

theorem scBody_eq {maj min : Nat} {o : SOps} {iss : Issue} {s : State} (h : iss.p ≠ 0) :
    scBody maj min o iss s = { s := s.modGroup (scStep maj min o) } := if_neg h

/-- A scalar instruction has no guard (R114). -/
theorem guardOf_scalar {maj min : Nat} {o : SOps} {i : Instr} (h : scInstr maj min o = some i) : guardOf i = {} := by
  unfold scInstr at h
  repeat' split at h
  all_goals cases h
  all_goals rfl

theorem scStep_sreg (maj min : Nat) (o : SOps) (g : Group) (n : Nat) : (scStep maj min o g).sreg n =
    if n = o.d ∧ o.d ≠ 0 then (scalarFn maj min o.u (g.sreg o.d) (opA g o) (opB g o)).v else g.sreg n := by
  unfold scStep
  rw [Group.raise_eq]
  exact Group.sreg_setS _ _ _ _

theorem scStep_frame (maj min : Nat) (o : SOps) (g : Group) :
    (scStep maj min o g).v = g.v ∧ (scStep maj min o g).m = g.m ∧ (scStep maj min o g).it = g.it := by
  unfold scStep
  rw [Group.raise_eq]
  exact ⟨Group.setS_v _ _ _, Group.setS_m _ _ _, Group.setS_it _ _ _⟩

/-- An issue that performs a scalar form for the whole issue set: where its threads are, and what it has written (R137). -/
theorem scalarIssue {maj min tick : Nat} {o : SOps} {iss : Issue} {u t : State} (hp : u.present = true)
    (ht : t = ((u.counted iss).modGroup (scStep maj min o)).modGroup (u.group.finish iss tick false 0 0 [])) :
    (∀ l, iss.set.getLsbD l = true → tget 0 t.group.pc l = iss.next ∧ tget 0 t.group.repcnt l = iss.nextRep)
      ∧ t.group.sreg o.d = (if o.d = 0 then 0 else
          (scalarFn maj min o.u (u.group.sreg o.d) (opA u.group o) (opB u.group o)).v)
      ∧ SameS [o.d] u.group t.group ∧ SameV [] u.group t.group ∧ SameM [] u.group t.group ∧ SameIt [] u.group t.group
      ∧ t.mem = u.mem := by
  have hp1 : (u.counted iss).present = true := by
    unfold State.counted
    split
    · rw [State.modGroup_present, hp]
    · exact hp
  generalize hls : (if iss.first then lanesOf iss.set else []) = ls
  have hc : (u.counted iss).group = u.group.count ls := hls ▸ State.counted_group iss hp
  have hg : t.group = u.group.finish iss tick false 0 0 [] (scStep maj min o (u.group.count ls)) := by
    rw [ht, State.group_modGroup _ _ (by rw [State.modGroup_present, hp1]), State.group_modGroup _ _ hp1, hc]
  have hs := Group.sameRegs_finish u.group iss tick false 0 0 [] (scStep maj min o (u.group.count ls))
  rw [← hg] at hs
  obtain ⟨hv, hm, hi⟩ := scStep_frame maj min o (u.group.count ls)
  have hn : ∀ n, t.group.sreg n = if n = o.d ∧ o.d ≠ 0 then
      (scalarFn maj min o.u (u.group.sreg o.d) (opA u.group o) (opB u.group o)).v else u.group.sreg n := fun n =>
    (hs.sreg n).trans (scStep_sreg maj min o (u.group.count ls) n)
  refine ⟨fun l hl => ?_, ?_, fun n h => ?_, fun n _ => ?_, fun n _ => ?_, fun n _ => ?_, ?_⟩
  · rw [hg]
    exact Group.finish_next _ _ _ _ _ hl
  · rw [hn]
    by_cases h0 : o.d = 0
    · simp [h0, Group.sreg]
    · simp [h0]
  · rw [hn, if_neg]
    rintro ⟨h1, -⟩
    exact h (by simp [h1])
  · exact (show t.group.vreg n = u.group.vreg n by unfold Group.vreg; rw [hs.v, hv]; rfl)
  · rw [hs.m, hm]; rfl
  · exact (show t.group.iter n = u.group.iter n by unfold Group.iter; rw [hs.it, hi]; rfl)
  · rw [ht, State.modGroup_mem, State.modGroup_mem, State.counted_mem]

/-- Settles O22: the fetch of the target leaves the group as it was (`State.instrAt_same`), so REP runs the stepped target's body
(`repRun_noTrap`); that of a scalar form writes sD alone (`scalarIssue`). -/
theorem repeatSteps : Obligations.RepeatSteps := by
  unfold Obligations.RepeatSteps
  intro cnt str sel n i0 i' f s u pc j step g iss u1 res ht hf hl hg hq hr hm hs
  obtain ⟨hgroup, htick, hmem, -⟩ := State.instrAt_same ht
  have hiss : u.repIssue cnt n = iss := by unfold State.repIssue; rw [hgroup]
  have hu1 : u.counted iss = u1 := by
    unfold State.counted
    by_cases h0 : j = 0 <;> simp [iss, u1, h0]
  have hform : repForm str sel (tget 0 u.group.repcnt (lowLane u.group.issueSet)) f = g := by
    rw [hgroup]; exact repForm_eq str sel j f
  have hres : formBody g ((u.repIssue cnt n).by (u.doers i')) (u.counted (u.repIssue cnt n)) = res := by rw [hiss, hu1]
  have hrun := repRun_noTrap hform hg hq hres hm hs
  rw [hiss, hgroup, htick] at hrun
  have hexec := (exec_rep_ok ht hf hl hr).trans (congrArg _ hrun)
  refine ⟨hexec, fun maj min o t hsc hnext => ?_⟩
  have hdoers : u.doers i' = u.group.issueSet := by
    have : scInstr maj min o = some i' := by rw [hsc] at hg; exact hg
    simp [State.doers, guardOf_scalar this, guardSet]
  have hbody : res = { s := u1.modGroup (scStep maj min o) } := by
    show formBody g _ _ = _
    rw [hsc]
    exact scBody_eq (by show u.doers i' ≠ 0; rw [hdoers]; exact State.quiet_set hq)
  rw [hexec] at hnext
  cases hnext
  have h := scalarIssue (maj := maj) (min := min) (tick := s.tick) (o := o) (iss := iss) (State.quiet_present hq) rfl
  rw [hu1, hgroup, hmem] at h
  rw [hbody]
  obtain ⟨h1, h2⟩ := h
  exact ⟨fun l _ => h1 l, h2⟩

end Sys2Proof.Machine
end

section
/-! PROOFS. The scalar integer instructions (O1, O2). -/
namespace Sys2Proof.Machine
open Sys2Proof

/-! ## The issue of a scalar form (R137) -/

/-- A scalar code writes its result to sD, and raises DZ where its function says so. -/
theorem scalar_writes {i : Instr} {maj min : Nat} {o : SOps} {s : State} {v : Dword} {dz : Prop} [Decidable dz]
    (hi : scInstr maj min o = some i) (hex : exec i s = execScalar i maj min o s) (hq : s.quiet i = true)
    (hv : scalarFn maj min o.u (s.group.sreg o.d) (opA s.group o) (opB s.group o) = ⟨v, decide dz⟩) :
    ∃ t, exec i s = .next t ∧ Changes i [o.d] [] [] [] s t ∧ (o.d ≠ 0 → t.group.sreg o.d = v)
      ∧ RaisedFlags (if dz then 2 else 0) s.group t.group := by
  obtain ⟨t, he, hc, hn, hfl⟩ := execScalar_quiet (maj := maj) (min := min) (o := o) hq (guardOf_scalar hi)
  rw [hv] at hn hfl
  refine ⟨t, hex.trans he, hc, fun h0 => ?_, ?_⟩
  · rw [hn, if_pos ⟨rfl, h0⟩]
  · simpa only [decide_eq_true_eq] using hfl

/-- A scalar code that raises no flag leaves FLAGS; s0 reads as 0 whatever was written to it. -/
theorem scalar_quiet {i : Instr} {maj min : Nat} {o : SOps} {s : State} {v : Dword} (hi : scInstr maj min o = some i)
    (hex : exec i s = execScalar i maj min o s) (hq : s.quiet i = true)
    (hv : scalarFn maj min o.u (s.group.sreg o.d) (opA s.group o) (opB s.group o) = ⟨v, false⟩) :
    ∃ t, exec i s = .next t ∧ Changes i [o.d] [] [] [] s t
      ∧ t.group.sreg o.d = (if o.d = 0 then 0 else v) ∧ t.group.flags = s.group.flags := by
  obtain ⟨t, he, hc, hr, hfl⟩ := scalar_writes (dz := False) hi hex hq hv
  refine ⟨t, he, hc, ?_, hfl.of_zero⟩
  by_cases h0 : o.d = 0
  · simp [h0, Group.sreg]
  · rw [if_neg h0, hr h0]

/-! ## What the scalar functions compute (R139 to R143) -/

/-- A scalar operand as the number that it stands for. -/
def dwordInt (u : Bool) (a : Dword) : Int := if u then a.toNat else a.toInt

theorem lessS_iff (u : Bool) (a b : Dword) : lessS u a b = true ↔ dwordInt u a < dwordInt u b := by
  cases u with
  | true => simp [lessS, dwordInt, BitVec.ult]
  | false => simp [lessS, dwordInt, BitVec.slt]

theorem mulHigh_eq (u : Bool) (a b : Dword) :
    mulHigh u a b =
      if u then BitVec.ofInt 64 ((a.toNat * b.toNat : Int) / 2 ^ 64) else BitVec.ofInt 64 (a.toInt * b.toInt / 2 ^ 64) := by
  unfold mulHigh
  split
  · rw [← BitVec.ofInt_natCast]
    norm_cast
  · rfl

/-- A choice by the order of two operands: SMIN's and SMAX's. -/
theorem ite_lessS (u : Bool) (a b x y : Dword) : (if lessS u a b then x else y) =
    if u then (if b.toNat ≤ a.toNat then y else x) else if b.toInt ≤ a.toInt then y else x := by
  rw [if_congr ((lessS_iff u a b).trans not_le.symm) rfl rfl, ite_not]
  cases u <;> simp [dwordInt]

theorem rotateLeft_eq (a : Dword) (k : Nat) : a.rotateLeft (k % 64) = a <<< (k % 64) ||| a >>> (64 - k % 64) := by
  rw [BitVec.rotateLeft_def, Nat.mod_mod]

theorem clz64_spec (a : Dword) : clz64 a ≤ 64 ∧ (∀ k < clz64 a, a.getLsbD (63 - k) = false)
    ∧ (clz64 a < 64 → a.getLsbD (63 - clz64 a) = true) := by
  unfold clz64
  split
  · next h => subst h; simp
  · next h =>
    have hn : a.toNat ≠ 0 := fun e => h (BitVec.eq_of_toNat_eq e)
    have hl : Nat.log2 a.toNat < 64 := (Nat.log2_lt hn).mpr a.isLt
    refine ⟨by omega, fun k hk => ?_, fun _ => ?_⟩
    · exact Nat.testBit_lt_two_pow (lt_of_lt_of_le (Nat.lt_log2_self) (Nat.pow_le_pow_right (by decide) (by omega)))
    · rw [show 63 - (63 - Nat.log2 a.toNat) = Nat.log2 a.toNat by omega]
      exact Nat.testBit_log2 hn

theorem toNat_ofNat_of_le {n : Nat} (h : n ≤ 64) : (BitVec.ofNat 64 n).toNat = n := by
  rw [BitVec.toNat_ofNat]; exact Nat.mod_eq_of_lt (by omega)

theorem popMask_le (a : Dword) : popMask a ≤ 64 := (List.length_filter_le _ _).trans (by simp)

theorem fieldSpec_eq (b : Dword) :
    fieldSpec b = (b.toNat % 64, min (b.toNat / 64 % 128) (64 - b.toNat % 64)) := by
  simp [fieldSpec, bits]

theorem signed_toNat {w : Nat} (hw : 0 < w) (x : BitVec w) : signed w x.toNat = x.toInt := by
  have h2 : 2 ^ w = 2 * 2 ^ (w - 1) := by rw [← pow_succ']; congr 1; omega
  unfold signed
  rw [BitVec.toInt_eq_toNat_cond]
  by_cases h : x.toNat < 2 ^ (w - 1)
  · rw [if_pos h, if_pos (by omega)]
  · rw [if_neg h, if_neg (by omega)]
    norm_cast

/-- SBFX extracts a field of its operand and extends it by zeros or by its sign (R143). -/
theorem extractField_eq (u : Bool) (a b : Dword) {p w : Nat} (h : fieldSpec b = (p, w)) : extractField u a b =
    if w = 0 then 0 else if u then (a.extractLsb' p w).setWidth 64 else (a.extractLsb' p w).signExtend 64 := by
  have hx : a.toNat / 2 ^ p % 2 ^ w = (a.extractLsb' p w).toNat := by
    rw [BitVec.extractLsb'_toNat, Nat.shiftRight_eq_div_pow]
  unfold extractField
  rw [h]
  dsimp only
  rw [hx]
  by_cases hw : w = 0
  · rw [if_pos hw, if_pos hw]
  · rw [if_neg hw, if_neg hw, signed_toNat (Nat.pos_of_ne_zero hw)]
    cases u with
    | true => rw [if_pos rfl, if_pos rfl, BitVec.ofNat_toNat]
    | false => rfl

theorem getLsbD_extractField (u : Bool) (a b : Dword) {p w : Nat} (h : fieldSpec b = (p, w)) {k : Nat} (hk : k < 64) :
    (extractField u a b).getLsbD k =
      if k < w then a.getLsbD (p + k) else !u && decide (0 < w) && a.getLsbD (p + w - 1) := by
  rw [extractField_eq u a b h]
  by_cases hw : w = 0
  · simp [hw]
  have hpos : 0 < w := Nat.pos_of_ne_zero hw
  rw [if_neg hw]
  cases u with
  | true => by_cases hkw : k < w <;> simp [hk, hkw]
  | false =>
    have hlast : p + (w - 1) = p + w - 1 := by omega
    rw [if_neg Bool.false_ne_true, BitVec.getLsbD_signExtend, BitVec.msb_eq_getLsbD_last, BitVec.getLsbD_extractLsb',
      BitVec.getLsbD_extractLsb', hlast]
    by_cases hkw : k < w <;> simp [hk, hkw, hpos]

/-- SBFI writes its field and keeps the other bits of D (R143). -/
theorem getLsbD_insertField (d a b : Dword) {p w : Nat} (h : fieldSpec b = (p, w)) {k : Nat} (hk : k < 64) :
    (insertField d a b).getLsbD k = if p ≤ k ∧ k < p + w then a.getLsbD (k - p) else d.getLsbD k := by
  have hm : (BitVec.ofNat 64 ((2 ^ w - 1) * 2 ^ p)).getLsbD k = decide (p ≤ k ∧ k < p + w) := by
    rw [BitVec.getLsbD_ofNat, Nat.testBit_mul_two_pow, Nat.testBit_two_pow_sub_one, Bool.eq_iff_iff]
    simp [hk]
    omega
  have ha : (BitVec.ofNat 64 (a.toNat * 2 ^ p)).getLsbD k = (decide (p ≤ k) && a.getLsbD (k - p)) := by
    rw [BitVec.getLsbD_ofNat, Nat.testBit_mul_two_pow, decide_eq_true hk, Bool.true_and]
    rfl
  unfold insertField
  rw [h]
  dsimp only
  rw [BitVec.getLsbD_or, BitVec.getLsbD_and, BitVec.getLsbD_and, BitVec.getLsbD_not, hm, ha]
  by_cases hin : p ≤ k ∧ k < p + w
  · simp [hin, hk]
  · simp [hin, hk]

/-! ## Comparisons and divisions (R141, R142) -/

theorem condS_iff {cc : Nat} (hcc : cc < 6) (u : Bool) (a b : Dword) :
    condS cc u a b = true ↔ cc = 0 ∧ a = b ∨ cc = 1 ∧ a ≠ b ∨ cc = 2 ∧ dwordInt u a < dwordInt u b
      ∨ cc = 3 ∧ dwordInt u a ≤ dwordInt u b ∨ cc = 4 ∧ dwordInt u b < dwordInt u a
      ∨ cc = 5 ∧ dwordInt u b ≤ dwordInt u a := by
  have hab := lessS_iff u a b
  have hba := lessS_iff u b a
  have hnab : lessS u a b = false ↔ dwordInt u b ≤ dwordInt u a := by
    rw [← Bool.not_eq_true, hab, not_lt]
  have hnba : lessS u b a = false ↔ dwordInt u a ≤ dwordInt u b := by
    rw [← Bool.not_eq_true, hba, not_lt]
  obtain rfl | rfl | rfl | rfl | rfl | rfl : cc = 0 ∨ cc = 1 ∨ cc = 2 ∨ cc = 3 ∨ cc = 4 ∨ cc = 5 := by omega
  · simp [condS]
  · simp [condS]
  · simp [condS, hab]
  · simp [condS, hnba]
  · simp [condS, hba]
  · simp [condS, hnab]

theorem divS_eq (u : Bool) (a b : Dword) : divS u a b =
    ⟨if b = 0 then 0 else BitVec.ofInt 64 ((dwordInt u a).tdiv (dwordInt u b)), decide (b = 0 ∧ a ≠ 0)⟩ := by
  unfold divS
  by_cases hb : b = 0
  · simp only [hb, if_true, true_and]
  · simp only [hb, if_false, false_and, decide_false]
    cases u with
    | true =>
      show SRes.mk (a / b) false = ⟨BitVec.ofInt 64 ((a.toNat : Int).tdiv b.toNat), false⟩
      rw [← Int.ofNat_tdiv, BitVec.ofInt_natCast, BitVec.udiv_def]
    | false => rfl

theorem remS_eq (u : Bool) (a b : Dword) : remS u a b =
    ⟨if b = 0 then a else BitVec.ofInt 64 (dwordInt u a - dwordInt u b * (dwordInt u a).tdiv (dwordInt u b)),
      decide (b = 0 ∧ a ≠ 0)⟩ := by
  rw [← Int.tmod_def]
  unfold remS
  by_cases hb : b = 0
  · simp only [hb, if_true, true_and]
  · simp only [hb, if_false, false_and, decide_false]
    cases u with
    | true =>
      show SRes.mk (a % b) false = ⟨BitVec.ofInt 64 ((a.toNat : Int).tmod b.toNat), false⟩
      rw [← Int.ofNat_tmod, BitVec.ofInt_natCast, BitVec.umod_def]
    | false => rfl

/-- Settles O1: each code is a value of `scalarFn`, which `scalar_quiet` writes to sD; the counts and the bit fields have theirs
by `clz64_spec`, `getLsbD_extractField` and `getLsbD_insertField`. -/
theorem scalarResults : Obligations.ScalarResults := by
  unfold Obligations.ScalarResults
  constructor
  · intro mk f hmem o s hq
    simp only [List.mem_cons, List.not_mem_nil, or_false, Prod.mk.injEq] at hmem
    rcases hmem with ⟨rfl, rfl⟩ | ⟨rfl, rfl⟩ | ⟨rfl, rfl⟩ | ⟨rfl, rfl⟩ | ⟨rfl, rfl⟩ | ⟨rfl, rfl⟩ | ⟨rfl, rfl⟩ | ⟨rfl, rfl⟩ |
      ⟨rfl, rfl⟩ | ⟨rfl, rfl⟩ | ⟨rfl, rfl⟩ | ⟨rfl, rfl⟩ | ⟨rfl, rfl⟩ | ⟨rfl, rfl⟩ | ⟨rfl, rfl⟩ | ⟨rfl, rfl⟩ | ⟨rfl, rfl⟩
    · exact scalar_quiet (maj := 0) (min := 0) rfl rfl hq rfl
    · exact scalar_quiet (maj := 0) (min := 1) rfl rfl hq rfl
    · exact scalar_quiet (maj := 0) (min := 2) rfl rfl hq rfl
    · exact scalar_quiet (maj := 0) (min := 3) rfl rfl hq (congrArg (SRes.mk · false) (mulHigh_eq _ _ _))
    · exact scalar_quiet (maj := 0) (min := 6) rfl rfl hq (congrArg (SRes.mk · false) (ite_lessS _ _ _ _ _))
    · exact scalar_quiet (maj := 0) (min := 7) rfl rfl hq (congrArg (SRes.mk · false) (ite_lessS _ _ _ _ _))
    · exact scalar_quiet (maj := 0) (min := 8) rfl rfl hq rfl
    · exact scalar_quiet (maj := 0) (min := 9) rfl rfl hq rfl
    · exact scalar_quiet (maj := 0) (min := 10) rfl rfl hq rfl
    · exact scalar_quiet (maj := 0) (min := 11) rfl rfl hq rfl
    · exact scalar_quiet (maj := 0) (min := 12) rfl rfl hq rfl
    · exact scalar_quiet (maj := 0) (min := 13) rfl rfl hq rfl
    · exact scalar_quiet (maj := 0) (min := 14) rfl rfl hq rfl
    · exact scalar_quiet (maj := 0) (min := 15) rfl rfl hq (congrArg (SRes.mk · false) (rotateLeft_eq _ _))
    · exact scalar_quiet (maj := 1) (min := 0) rfl rfl hq rfl
    · exact scalar_quiet (maj := 1) (min := 1) rfl rfl hq rfl
    · exact scalar_quiet (maj := 1) (min := 6) rfl rfl hq (congrArg (SRes.mk · false) (ite_not ..))
  · intro mk ok hmem o s hq
    simp only [List.mem_cons, List.not_mem_nil, or_false, Prod.mk.injEq] at hmem
    rcases hmem with ⟨rfl, rfl⟩ | ⟨rfl, rfl⟩ | ⟨rfl, rfl⟩ | ⟨rfl, rfl⟩
    · obtain ⟨t, he, hc, hr, hfl⟩ := scalar_quiet (maj := 1) (min := 2) rfl rfl hq rfl
      refine ⟨t, he, hc, fun h0 => ?_, hfl⟩
      beta_reduce
      rw [hr, if_neg h0, toNat_ofNat_of_le (clz64_spec _).1]
      exact clz64_spec _
    · obtain ⟨t, he, hc, hr, hfl⟩ := scalar_quiet (maj := 1) (min := 3) rfl rfl hq rfl
      refine ⟨t, he, hc, fun h0 => ?_, hfl⟩
      rw [hr, if_neg h0]
      exact toNat_ofNat_of_le (popMask_le _)
    · obtain ⟨t, he, hc, hr, hfl⟩ := scalar_quiet (maj := 1) (min := 4) rfl rfl hq rfl
      refine ⟨t, he, hc, fun h0 k hk => ?_, hfl⟩
      rw [hr, if_neg h0]
      exact getLsbD_extractField _ _ _ (fieldSpec_eq _) hk
    · obtain ⟨t, he, hc, hr, hfl⟩ := scalar_quiet (maj := 1) (min := 5) rfl rfl hq rfl
      refine ⟨t, he, hc, fun h0 k hk => ?_, hfl⟩
      rw [hr, if_neg h0]
      exact getLsbD_insertField _ _ _ (fieldSpec_eq _) hk

/-- Settles O2: SCMP's condition is `condS_iff`; a quotient and a remainder are `divS_eq` and `remS_eq`. -/
theorem scalarCompareAndDivide : Obligations.ScalarCompareAndDivide := by
  unfold Obligations.ScalarCompareAndDivide
  constructor
  · intro cc o s hcc hq
    obtain ⟨t, he, hc, hr, hfl⟩ := scalar_quiet (maj := 2) (min := cc) (if_pos hcc) rfl hq rfl
    refine ⟨t, he, hc, fun h0 => ?_, hfl⟩
    rw [hr, if_neg h0]
    exact if_congr (condS_iff hcc _ _ _) rfl rfl
  · intro rem o s i hq
    cases rem with
    | true => exact scalar_writes (maj := 0) (min := 5) rfl rfl hq (remS_eq _ _ _)
    | false => exact scalar_writes (maj := 0) (min := 4) rfl rfl hq (divS_eq _ _ _)

end Sys2Proof.Machine
end

section
/-! PROOFS. What instructions that write scalar and mask registers leave; NOP and ELECT (O4), SLEEPTO and the status
registers (O9). -/
namespace Sys2Proof.Machine
open Sys2Proof

/-! ## Changes of scalar registers, mask registers and FLAGS alone -/

/-- Two groups that differ only in the scalar registers `ss`, the mask registers `ms`, FLAGS and waits. -/
structure Group.Writes (ss ms : List Nat) (g h : Group) : Prop where
  control : g.SameControl h
  pc : h.pc = g.pc
  repcnt : h.repcnt = g.repcnt
  scalars : SameS ss g h
  masks : SameM ms g h
  v : h.v = g.v
  it : h.it = g.it

theorem Group.writes_setS (n : Nat) (v : Dword) (g : Group) : g.Writes [n] [] (g.setS n v) := by
  refine ⟨g.setS_control n v, by simp, by simp, fun k hk => ?_, fun k _ => by simp, by simp, by simp⟩
  rw [Group.sreg_setS, if_neg (fun h => hk (by simp [h.1]))]

theorem Group.writes_flags (ss ms : List Nat) (fl : Dword) (g : Group) : g.Writes ss ms { g with flags := fl } :=
  ⟨⟨rfl, rfl, rfl, rfl, rfl, rfl, rfl⟩, rfl, rfl, fun _ _ => rfl, fun _ _ => rfl, rfl, rfl⟩

theorem Group.Writes.trans {ss ms : List Nat} {f g h : Group} (a : f.Writes ss ms g) (b : g.Writes ss ms h) :
    f.Writes ss ms h := by
  obtain ⟨⟨a1, a2, a3, a4, a5, a6, a7⟩, apc, arep, as, am, av, ait⟩ := a
  obtain ⟨⟨b1, b2, b3, b4, b5, b6, b7⟩, bpc, brep, bs, bm, bv, bit⟩ := b
  exact ⟨⟨b1.trans a1, b2.trans a2, b3.trans a3, b4.trans a4, b5.trans a5, b6.trans a6, b7.trans a7⟩, bpc.trans apc,
    brep.trans arep, fun n hn => (bs n hn).trans (as n hn), fun n hn => (bm n hn).trans (am n hn), bv.trans av, bit.trans ait⟩

theorem Group.tget_setM (n : Nat) (v : Dword) (g : Group) (k : Nat) :
    tget 0 (g.setM n v).m k = if k = n ∧ n ≠ 0 then v else tget 0 g.m k := by
  unfold Group.setM
  by_cases hn : n = 0
  · simp [hn]
  · simp [hn, tget_tput]
@[simp] theorem Group.setM_flags (n : Nat) (v : Dword) (g : Group) : (g.setM n v).flags = g.flags := by
  unfold Group.setM; split <;> rfl

theorem Group.writes_setM (n : Nat) (v : Dword) (g : Group) : g.Writes [] [n] (g.setM n v) := by
  have hm : SameM [n] g (g.setM n v) := fun k hk => by
    rw [Group.tget_setM, if_neg (fun h => hk (by simp [h.1]))]
  unfold Group.setM at hm ⊢
  split
  · exact ⟨⟨rfl, rfl, rfl, rfl, rfl, rfl, rfl⟩, rfl, rfl, fun _ _ => rfl, fun _ _ => rfl, rfl, rfl⟩
  · next h => exact ⟨⟨rfl, rfl, rfl, rfl, rfl, rfl, rfl⟩, rfl, rfl, fun _ _ => rfl, by rwa [if_neg h] at hm, rfl, rfl⟩

/-- An instruction whose body changes scalar registers, mask registers and FLAGS of its group. -/
theorem execWord_writes {i : Instr} {body : Body} {ss ms : List Nat} {s : State} {f : Group → Group} (hq : s.quiet i = true)
    (hb : body ((s.issueOf (wordsOf i)).by (s.doers i)) s = Res.group s f) (h : s.group.Writes ss ms (f s.group)) :
    ∃ t, execWord i body s = .next t ∧ Changes i ss [] ms [] s t ∧ (f s.group).SameRegs t.group := by
  obtain ⟨t, ht, hfr, hr⟩ := issue_group (perform := State.performReqs) (p := 0) (dest := 0) (moves := []) (sat := false) hq hb
    h.control h.pc h.repcnt (.inr ⟨rfl, rfl⟩) (fun l hl => by simp at hl)
  refine ⟨t, congrArg _ ht, ⟨hfr, fun n hn => ?_, fun n _ => ?_, fun n hn => ?_, fun n _ => ?_⟩, hr⟩
  · exact (hr.sreg n).trans (h.scalars n hn)
  · exact (hr.vreg n).trans (by unfold Group.vreg; rw [h.v])
  · rw [hr.m]; exact h.masks n hn
  · exact (hr.iter n).trans (by unfold Group.iter; rw [h.it])

/-- An instruction whose body writes one scalar register. -/
theorem execWord_setS {i : Instr} {body : Body} {d : Nat} {v : Dword} {s : State} (hq : s.quiet i = true)
    (hb : body ((s.issueOf (wordsOf i)).by (s.doers i)) s = Res.group s (Group.setS d v)) :
    ∃ t, execWord i body s = .next t ∧ Changes i [d] [] [] [] s t
      ∧ t.group.sreg d = (if d = 0 then 0 else v) ∧ t.group.flags = s.group.flags := by
  obtain ⟨t, he, hc, hr⟩ := execWord_writes hq hb (s.group.writes_setS d v)
  refine ⟨t, he, hc, ?_, hr.flags.trans (Group.setS_flags _ _ _)⟩
  rw [hr.sreg, Group.sreg_setS]
  by_cases h0 : d = 0
  · simp [h0, Group.sreg]
  · simp [h0]

/-! ## NOP and ELECT (R153, R154) -/

/-- The lowest lane of a mask is its own, and no lower one is. -/
theorem lowLane_spec {m : Dword} (hm : m ≠ 0) :
    lowLane m < 64 ∧ m.getLsbD (lowLane m) = true ∧ ∀ k < lowLane m, m.getLsbD k = false := by
  have hex : ∃ l, l < 64 ∧ m.getLsbD l = true := by
    obtain ⟨l, hl⟩ := List.exists_mem_of_ne_nil _ (mt (lanesOf_eq_nil m).mp hm)
    rw [mem_lanesOf] at hl
    exact ⟨l, BitVec.lt_of_getLsbD hl, hl⟩
  have hfind : (List.range 64).find? (fun l => m.getLsbD l) = some (lowLane m) := by
    unfold lowLane lanesOf
    rw [List.headD_eq_head?_getD, List.head?_filter]
    obtain ⟨l, hl, hml⟩ := hex
    cases hf : (List.range 64).find? (fun l => m.getLsbD l) with
    | none => exact absurd hml (List.find?_eq_none.mp hf l (List.mem_range.mpr hl))
    | some k => rfl
  rw [List.find?_range_eq_some] at hfind
  obtain ⟨h1, h2, h3⟩ := hfind
  exact ⟨List.mem_range.mp h2, h1, fun k hk => by simpa using h3 k hk⟩

theorem getLsbD_laneBit_lowLane {m : Dword} (hm : m ≠ 0) (l : Nat) (hl : l < 64) :
    (laneBit (lowLane m)).getLsbD l = true ↔ m.getLsbD l = true ∧ ∀ k < l, m.getLsbD k = false := by
  obtain ⟨hlow, hin, hmin⟩ := lowLane_spec hm
  simp only [getLsbD_laneBit, Bool.and_eq_true, decide_eq_true_eq, hl, and_true]
  constructor
  · rintro rfl
    exact ⟨hin, hmin⟩
  · rintro ⟨h1, h2⟩
    rcases lt_trichotomy l (lowLane m) with h | h | h
    · exact absurd h1 (by simp [hmin l h])
    · exact h
    · exact absurd hin (by simp [h2 _ h])

/-- Settles O4: NOP's body does nothing, and ELECT's writes the bit of the lowest lane of P (`getLsbD_laneBit_lowLane`), once. -/
theorem nopAndElect : Obligations.NopAndElect := by
  unfold Obligations.NopAndElect
  intro o s
  refine ⟨fun hq => ?_, fun hq => ?_, by decide, by decide⟩
  · obtain ⟨t, he, hc, hr⟩ := execWord_skip (vs := []) (body := fun _ s => .skip s) hq rfl
    exact ⟨t, he, hc, hr.flags⟩
  · by_cases hp : s.doers (.elect o) = 0
    · obtain ⟨t, he, hc, hr⟩ := execWord_skip (vs := []) (body := electBody o) hq (if_pos hp)
      refine ⟨t, he, { hc with masks := fun n _ => by rw [hr.m] }, hr.flags, fun _ h => absurd hp h, fun _ => by rw [hr.m]⟩
    · obtain ⟨t, he, hc, hr⟩ := execWord_writes (body := electBody o) hq (if_neg hp) (s.group.writes_setM _ _)
      refine ⟨t, he, hc, hr.flags.trans (Group.setM_flags _ _ _), fun h0 _ l hl => ?_, fun h => ?_⟩
      · rw [hr.m, Group.tget_setM, if_pos ⟨rfl, h0⟩]
        exact getLsbD_laneBit_lowLane hp l hl
      · rw [hr.m, Group.tget_setM, if_neg (fun h' => h.elim h'.2 hp)]

/-! ## SLEEPTO (R155) -/

theorem State.doneOp_iff (s : State) (id : Dword) :
    s.doneOp id = true ↔ id ≠ 0 ∧ (s.isSvc = true ∨ s.team.isDone id = true) := by
  simp [State.doneOp]

section
variable {o : VOps} {iss : Issue} {s : State} (hp : iss.p ≠ 0)
include hp

theorem sleeptoBody_done (hd : s.doneOp (s.group.sreg o.b) = true)
    (hj : s.isSvc = false → s.joinFault (s.group.sreg o.b) iss.p = none) :
    sleeptoBody o iss s = Res.group s (Group.setS o.d 0) := by
  have hnone : (if s.isSvc then none else s.joinFault (s.group.sreg o.b) iss.p) = none := by
    cases hs : s.isSvc with
    | true => rfl
    | false => exact hj hs
  unfold sleeptoBody
  dsimp only
  rw [if_neg hp, if_pos hd, hnone]

theorem sleeptoBody_late (hd : ¬ s.doneOp (s.group.sreg o.b) = true) (hl : (s.group.sreg o.a).toNat ≤ s.cycle) :
    sleeptoBody o iss s = Res.group s (Group.setS o.d 1) := by
  unfold sleeptoBody
  dsimp only
  rw [if_neg hp, if_neg hd, if_pos hl]

theorem sleeptoBody_waits (hd : ¬ s.doneOp (s.group.sreg o.b) = true) (hl : ¬ (s.group.sreg o.a).toNat ≤ s.cycle) :
    sleeptoBody o iss s =
      Res.group s (Group.hold iss.p (.sleepto o.d iss.pc (s.group.sreg o.a).toNat (s.group.sreg o.b))) := by
  unfold sleeptoBody
  dsimp only
  rw [if_neg hp, if_neg hd, if_neg hl]

end

/-- An instruction whose body puts threads to wait for anything but YIELD's hold: they wait, and no register changes. -/
theorem execWord_hold {i : Instr} {body : Body} {p : Dword} {k : WaitKind} {s : State} (hq : s.quiet i = true) (hp : p ≠ 0)
    (hk : ∀ x, k ≠ .yield x) (hb : body ((s.issueOf (wordsOf i)).by (s.doers i)) s = Res.group s (Group.hold p k)) :
    ∃ t, execWord i body s = .next t ∧ Changes i [] [] [] [] s t ∧ t.group.flags = s.group.flags ∧ ⟨p, k⟩ ∈ t.group.waits := by
  have hpr := State.quiet_present hq
  obtain ⟨hc, hfl⟩ := changes_of_sameRegs (i := i) (sat := false) hpr (s.group.hold_sameRegs p k) (by simp) (by simp)
  refine ⟨_, congrArg Host.Outcome.next (runIssue_wentOn hq hb), hc, hfl, ?_⟩
  rw [State.wentOn_waits _ _ _ (by rw [State.modGroup_present, hpr]), if_neg Bool.false_ne_true, s.group_modGroup _ hpr,
    Group.mem_satisfy_waits _ _ hk, Group.hold_waits, if_neg hp]
  simp

/-- SLEEPTO for some threads: 0 when the operation is done, 1 when the deadline has passed, a wait otherwise (R155). -/
theorem sleepto_answers (o : VOps) (s : State) (hq : s.quiet (.sleepto o) = true) (hp : s.doers (.sleepto o) ≠ 0)
    (hj : s.doneOp (s.group.sreg o.b) = true → s.isSvc = false →
      s.joinFault (s.group.sreg o.b) (s.doers (.sleepto o)) = none) :
    ∃ t, exec (.sleepto o) s = .next t ∧ t.group.flags = s.group.flags
      ∧ (s.doneOp (s.group.sreg o.b) = true ∨ (s.group.sreg o.a).toNat ≤ s.cycle → Changes (.sleepto o) [o.d] [] [] [] s t)
      ∧ (s.doneOp (s.group.sreg o.b) = true → o.d ≠ 0 → t.group.sreg o.d = 0)
      ∧ (¬ s.doneOp (s.group.sreg o.b) = true → (s.group.sreg o.a).toNat ≤ s.cycle → o.d ≠ 0 → t.group.sreg o.d = 1)
      ∧ (¬ s.doneOp (s.group.sreg o.b) = true → s.cycle < (s.group.sreg o.a).toNat → Changes (.sleepto o) [] [] [] [] s t
          ∧ ⟨s.doers (.sleepto o), .sleepto o.d s.group.issuePc (s.group.sreg o.a).toNat (s.group.sreg o.b)⟩ ∈ t.group.waits) := by
  by_cases hd : s.doneOp (s.group.sreg o.b) = true
  · obtain ⟨t, he, hc, hr, hfl⟩ := execWord_setS hq (sleeptoBody_done hp hd (hj hd))
    exact ⟨t, he, hfl, fun _ => hc, fun _ h0 => by rw [hr, if_neg h0], fun h => absurd hd h, fun h => absurd hd h⟩
  by_cases hl : (s.group.sreg o.a).toNat ≤ s.cycle
  · obtain ⟨t, he, hc, hr, hfl⟩ := execWord_setS hq (sleeptoBody_late hp hd hl)
    exact ⟨t, he, hfl, fun _ => hc, fun h => absurd h hd, fun _ _ h0 => by rw [hr, if_neg h0],
      fun _ h => absurd hl (not_le.mpr h)⟩
  · obtain ⟨t, he, hc, hfl, hw⟩ := execWord_hold hq hp (fun _ => WaitKind.noConfusion) (sleeptoBody_waits hp hd hl)
    exact ⟨t, he, hfl, fun h => absurd h (not_or.mpr ⟨hd, hl⟩), fun h => absurd h hd, fun _ h => absurd h hl, fun _ _ => ⟨hc, hw⟩⟩

/-! ## Status registers and the clock (R156 to R158) -/

/-- A write once an issue is made whether or not a thread performs it, when none breaks a promise (R31; log 42). -/
theorem perIssue_eq (f : Group → Group) {iss : Issue} (s : State) (hv : iss.viol = 0) : perIssue f iss s = Res.group s f :=
  if_neg fun h => h.2 hv

/-- RDSR.C clears the sticky flags, bits 5 to 0 of FLAGS (R157). -/
def Group.clearSticky (clear : Bool) (g : Group) : Group := if clear then { g with flags := g.flags &&& ~~~63 } else g

/-- RDSR reads its status register before it clears flags (R156, R157). -/
theorem rdsrBody_eq (o : VOps) (clear : Bool) {iss : Issue} {s : State} (hv : iss.viol = 0) :
    rdsrBody o clear iss s = Res.group s (fun g => (g.clearSticky clear).setS o.d (s.statusReg o.a)) :=
  if_neg fun h => h.2 hv

theorem rdsr_reads (o : VOps) (clear : Bool) {i : Instr} {s : State} (hq : s.quiet i = true)
    (hex : exec i s = execWord i (rdsrBody o clear) s) :
    ∃ t, exec i s = .next t ∧ Changes i [o.d] [] [] [] s t
      ∧ t.group.sreg o.d = (if o.d = 0 then 0 else s.statusReg o.a)
      ∧ t.group.flags = (if clear then s.group.flags &&& ~~~63 else s.group.flags) := by
  have hclear : s.group.Writes [o.d] [] (s.group.clearSticky clear) := by
    cases clear <;> exact Group.writes_flags _ _ _ _
  obtain ⟨t, he, hc, hr⟩ := execWord_writes hq (rdsrBody_eq o clear rfl)
    (hclear.trans (Group.writes_setS o.d (s.statusReg o.a) _))
  refine ⟨t, hex.trans he, hc, ?_, ?_⟩
  · rw [hr.sreg, Group.sreg_setS]
    by_cases h0 : o.d = 0
    · simp [h0, Group.sreg]
    · simp [h0]
  · rw [hr.flags, Group.setS_flags]
    cases clear <;> rfl

/-- The status registers that every group has, a service group too, and those that no group has (R156). -/
theorem State.statusReg_own (s : State) :
    s.statusReg 0 = s.group.flags ∧ s.statusReg 1 = 64 ∧ s.statusReg 9 = BitVec.ofNat 64 s.grp
      ∧ s.statusReg 10 = BitVec.ofNat 64 (s.core / 24) ∧ s.statusReg 11 = BitVec.ofNat 64 (s.core % 24)
      ∧ s.statusReg 16 = s.group.trapmask := by
  simp [State.statusReg, dieOf]

theorem State.statusReg_high (s : State) {n : Nat} (hn : 17 ≤ n) : s.statusReg n = 0 := by
  obtain ⟨k, rfl⟩ := Nat.exists_eq_add_of_le' hn
  unfold State.statusReg
  exact ite_self _

/-- Settles O9: SLEEPTO answers as `sleepto_answers` says; RDSR, RDSR.C and RDCLK write one register once an issue
(`rdsr_reads`, `execWord_setS`). -/
theorem sleeptoAndStatus : Obligations.SleeptoAndStatus := by
  unfold Obligations.SleeptoAndStatus
  constructor
  · intro o s
    simp only [← State.doneOp_iff]
    exact sleepto_answers o s
  · intro o s
    obtain ⟨h0, h1, h9, h10, h11, h16⟩ := s.statusReg_own
    refine ⟨?_, fun hq => ?_, h0, h1, h9, h10, h11, h16, fun _ => s.statusReg_high⟩
    · intro clear i hq
      cases clear with
      | true => exact rdsr_reads o true hq rfl
      | false => exact rdsr_reads o false hq rfl
    · obtain ⟨t, he, hc, hr, hfl⟩ := execWord_setS
        (body := fun iss s => perIssue (fun g => g.setS o.d (BitVec.ofNat 64 s.cycle)) iss s) hq (perIssue_eq _ s rfl)
      exact ⟨t, he, hc, hfl, hr⟩

end Sys2Proof.Machine
end

section
/-! PROOFS. Trap entry: a state that lists its issuing group twice refutes O3 and O11. -/
namespace Sys2Proof.Machine
open Sys2Proof

/-! ## A state whose team lists group 0 twice

A store of the state is any list of pairs, and what stands at a key is the first pair of it (`tget`). `State.blocksHeld` reads
every pair, and a write (`tput`) drops the later ones. So the end of an issue, which writes its group back, may free the frame
block of a pair that nothing reads, and the trap that the issue takes opens its frame in that block: not in the lowest block that was free
before the issue, as O3 and O11 say. -/

/-- One thread stands in group 0, s4 holds 6; a second pair of group 0 holds frame block 0. The handler is at 64; the TLB maps the
first GiB to itself, and buffer 4095 covers 64 KiB at 0x400000. -/
def twiceListed : State :=
  { chsets := [(0, { chmask := 1, nlive := 1, state := 1, csize := 24576, en := true })]
    access := [(0, BitVec.ofNat 64 (0xFFFF * 2 ^ 48 + 3 * 2 ^ 44 + 0x7FFF * 2 ^ 15))]
    descs := [(8191, BitVec.ofNat 512 (0x400000 + 2 ^ 80 + 2 ^ 160 + 15 * 2 ^ 168 + 2 ^ 176))]
    cores := [(0, { team := some { ctx := 1, hEn := true, hAddr := 64, groups :=
                      [(0, { exited := BitVec.allOnes 64 - 1, s := [(4, 6)] }), (0, { frame := some ⟨0, 0, false, 0⟩ })] }
                    tlb := [⟨1, 2, 0, BitVec.ofNat 64 (8 + 2 ^ 55 + 2 ^ 56 + 2 ^ 57)⟩] })] }

/-- Before the issue the lowest free block is 1, and the record of a trap can be written there. -/
theorem twiceListed_opens {r : Raised} (hp : ((twiceListed.recLength twiceListed.team.ctx).1.framePlaces (4096 + 4096 * 1)
      ((twiceListed.recLength twiceListed.team.ctx).1.frameRecords twiceListed.group.issuePc r)).2.isSome = true) :
    ∃ ps u, FrameOpens twiceListed r 1 ps u :=
  ⟨_, _, by decide +kernel, by decide +kernel, by decide +kernel, by decide +kernel, by decide +kernel,
    Prod.ext rfl (Option.some_get hp).symm⟩

/-- The block of the frame that stands open after an outcome. -/
def openBlock : Host.Outcome State Fault Refusal → Option Nat
  | .next t => t.group.frame.map Frame.block
  | _ => none

/-- A frame that has opened in block b is open in it. -/
theorem FrameOpened.openBlock {i : Instr} {s t u : State} {p : Dword} {tog : Bool} {info : TrapInfo} {b : Nat}
    {ps : List (Acc × Nat)} (h : FrameOpened i s t u p tog info b ps) : openBlock (.next t) = some b :=
  congrArg (Option.map Frame.block) h.frame

/-- Refutes O11: in `twiceListed` the lowest free block is 1, and TRAP opens its frame in block 0. -/
theorem not_trapEntry : ¬ Obligations.TrapEntry := by
  unfold Obligations.TrapEntry
  rintro ⟨hopen, -⟩
  obtain ⟨ps, u, ho⟩ := twiceListed_opens (r := ownAll (twiceListed.doers (.trap { b := 5 })) { code := 0x20, sub := 5 })
    (by decide +kernel)
  obtain ⟨t, he, hf⟩ := hopen { b := 5 } twiceListed u 1 ps (by decide +kernel) (by decide +kernel) ho
  have hb : openBlock (exec (.trap { b := 5 }) twiceListed) = some 0 := by decide +kernel
  rw [he, hf.openBlock] at hb
  exact absurd hb (by decide)

/-- Refutes O3: in `twiceListed` the lowest free block is 1, and JMPR to address 6 opens its frame in block 0. -/
theorem not_branchesAndCalls : ¬ Obligations.BranchesAndCalls := by
  unfold Obligations.BranchesAndCalls
  rintro ⟨-, -, hopen⟩
  obtain ⟨ps, u, ho⟩ := twiceListed_opens
    (r := together (twiceListed.doers (.jmpr { a := 4 })) { code := 5, sub := 1, off := (twiceListed.group.sreg 4).toNat })
    (by decide +kernel)
  obtain ⟨t, he, hf⟩ := hopen { a := 4 } twiceListed u 1 ps (.jmpr { a := 4 }) (twiceListed.group.sreg 4) (by simp)
    (by decide +kernel) (by decide +kernel) (by decide +kernel) ho
  have hb : openBlock (exec (.jmpr { a := 4 }) twiceListed) = some 0 := by decide +kernel
  rw [he, hf.openBlock] at hb
  exact absurd hb (by decide)

end Sys2Proof.Machine
end

section
/-! PROOFS. The return from a trap frame (O12). -/
namespace Sys2Proof.Machine
open Sys2Proof

/-! ## Changes of the cores alone -/

theorem State.modGroup_cores (s : State) (f : Group → Group) : ∃ cs, s.modGroup f = { s with cores := cs } := by
  unfold State.modGroup State.modGroupAt
  split <;> exact ⟨_, rfl⟩

theorem State.leaveFrame_cores (s : State) (ls : Dword) : ∃ cs, s.leaveFrame ls = { s with cores := cs } := by
  unfold State.leaveFrame
  dsimp only
  split
  · exact ⟨_, rfl⟩
  split
  · exact ⟨_, rfl⟩
  split
  · exact s.modGroup_cores _
  · next f _ _ _ =>
    obtain ⟨cs, hcs⟩ := s.modGroup_cores (Group.closeFrame f)
    show ∃ cs, (s.modGroup (Group.closeFrame f)).releaseHeld s.team.ctx = _
    rw [hcs]
    exact ⟨_, rfl⟩

/-- Threads of a group are sent back: each to a program counter and a repeat count of its own (R163, R166). -/
def Group.sendBack (p : Dword) (pcOf repOf : Nat → Nat) (g : Group) : Group :=
  { g with
    pc := tputs 0 g.pc ((lanesOf p).map (fun l => (l, pcOf l)))
    repcnt := tputs 0 g.repcnt ((lanesOf p).map (fun l => (l, repOf l))) }

theorem State.returnFrom_eq (s : State) (p : Dword) (pcOf repOf : Nat → Nat) :
    s.returnFrom p pcOf repOf = (s.modGroup (Group.sendBack p pcOf repOf)).leaveFrame p := rfl

theorem State.returnFrom_cores (s : State) (p : Dword) (pcOf repOf : Nat → Nat) :
    ∃ cs, s.returnFrom p pcOf repOf = { s with cores := cs } := by
  rw [State.returnFrom_eq]
  obtain ⟨cs, hcs⟩ := s.modGroup_cores (Group.sendBack p pcOf repOf)
  rw [hcs]
  exact State.leaveFrame_cores _ p

theorem Group.sendBack_place (p : Dword) (pcOf repOf : Nat → Nat) (g : Group) {l : Nat} (hl : p.getLsbD l = true) :
    tget 0 (g.sendBack p pcOf repOf).pc l = pcOf l ∧ tget 0 (g.sendBack p pcOf repOf).repcnt l = repOf l := by
  have hmem := (mem_lanesOf p l).mpr hl
  unfold Group.sendBack
  rw [tget_tputs_map, tget_tputs_map, if_pos hmem, if_pos hmem]
  exact ⟨rfl, rfl⟩

/-! ## What the leaving of a frame keeps of its group -/

theorem State.leaveFrame_place (s : State) (ls : Dword) (hp : s.present = true) :
    (s.leaveFrame ls).group.pc = s.group.pc ∧ (s.leaveFrame ls).group.repcnt = s.group.repcnt := by
  rcases s.leaveFrame_cases ls hp with ⟨_, e⟩ | ⟨_, _, _, e⟩ | ⟨f, q, _, _, _, _, e⟩
  · rw [e]; exact ⟨rfl, rfl⟩
  · rw [e, s.group_modGroup _ hp]; exact ⟨rfl, rfl⟩
  · rw [e]; exact ⟨rfl, rfl⟩

/-- Releasing the threads held at a trap ends no other wait. -/
theorem State.mem_waits_releaseHeld (s : State) (ctx : Nat) {w : Wait} (hk : w.kind ≠ .held) (hw : w ∈ s.group.waits) :
    w ∈ (s.releaseHeld ctx).group.waits := by
  have hgroup : ∀ g : Group, w ∈ g.waits → w ∈ g.released.waits := fun g hg => by
    unfold Group.released
    split
    · exact hg
    · exact List.mem_filter.mpr ⟨hg, by simpa using hk⟩
  unfold State.group State.team at hw ⊢
  rw [show (s.releaseHeld ctx).isSvc = s.isSvc from rfl, State.coreAt_releaseHeld]
  split
  · next hs => rw [if_pos hs] at hw; exact hw
  · next hs =>
    rw [if_neg hs] at hw
    show w ∈ ((((s.coreAt s.core).team.map (Team.released ctx)).getD {}).group s.grp).waits
    cases ht : (s.coreAt s.core).team with
    | none => rwa [ht] at hw
    | some t =>
      rw [ht] at hw
      show w ∈ ((t.released ctx).group s.grp).waits
      rw [Team.group_released]
      split
      · exact hgroup _ hw
      · exact hw

/-- A thread held by TRET.PASS stays held when threads leave the frame (R431). -/
theorem State.mem_waits_leaveFrame (s : State) (ls : Dword) (hp : s.present = true) {m : Dword} {k : Nat}
    (hw : ⟨m, .pass k⟩ ∈ s.group.waits) : ⟨m, .pass k⟩ ∈ (s.leaveFrame ls).group.waits := by
  rcases s.leaveFrame_cases ls hp with ⟨_, e⟩ | ⟨_, _, _, e⟩ | ⟨f, q, _, _, _, e, _⟩
  · rwa [e]
  · rw [e, s.group_modGroup _ hp]; exact hw
  · rw [e]
    refine State.mem_waits_releaseHeld _ _ WaitKind.noConfusion ?_
    rw [s.group_modGroup _ hp]
    exact List.mem_map.mpr ⟨_, hw, rfl⟩

/-! ## Threads that return (R163, R166) -/

/-- Threads that the body has placed stay where it has placed them. -/
theorem Group.finish_placed (old : Group) (iss : Issue) (tick : Nat) (sat : Bool) (p : Dword) (g : Group) {l : Nat}
    (hl : p.getLsbD l = true) :
    tget 0 (old.finish iss tick sat 0 p [] g).pc l = tget 0 g.pc l
      ∧ tget 0 (old.finish iss tick sat 0 p [] g).repcnt l = tget 0 g.repcnt l := by
  have hmem : l ∉ lanesOf (iss.set &&& ~~~(0#64 ||| p) &&& ~~~0#64) := by
    rw [mem_lanesOf]
    simp [hl]
  have hpc : (old.finish iss tick sat 0 p [] g).pc =
      tputs 0 g.pc ((lanesOf (iss.set &&& ~~~(0#64 ||| p) &&& ~~~0#64)).map (fun l => (l, iss.next))) := by cases sat <;> rfl
  have hrep : (old.finish iss tick sat 0 p [] g).repcnt =
      tputs 0 g.repcnt ((lanesOf (iss.set &&& ~~~(0#64 ||| p) &&& ~~~0#64)).map (fun l => (l, iss.nextRep))) := by
    cases sat <;> rfl
  rw [hpc, hrep, tget_tputs_map (f := fun _ => iss.next), tget_tputs_map (f := fun _ => iss.nextRep), if_neg hmem, if_neg hmem]
  exact ⟨rfl, rfl⟩

/-- What the return of the threads p makes of state u, when an issue of n words in s ends with it. -/
def State.returned (s : State) (n : Nat) (p : Dword) (pcOf repOf : Nat → Nat) (u : State) : State :=
  (u.returnFrom p pcOf repOf).modGroup (s.group.finish (s.issueOf n) s.tick false 0 p [])

theorem State.returned_cores (s : State) (n : Nat) (p : Dword) (pcOf repOf : Nat → Nat) (u : State) :
    ∃ cs, s.returned n p pcOf repOf u = { u with cores := cs } := by
  unfold State.returned
  obtain ⟨cs, hcs⟩ := u.returnFrom_cores p pcOf repOf
  rw [hcs]
  exact State.modGroup_cores _ _

section
variable (s : State) (n : Nat) (p : Dword) (pcOf repOf : Nat → Nat) {u : State} (hu : u.present = true)
include hu

/-- The threads that return stand where they are sent, and have left the frame; threads held by TRET.PASS stay held. -/
theorem State.returned_group : let t := s.returned n p pcOf repOf u
    u.group.LeftFrame t.group p ∧ u.group.SameOutsideFrame t.group
      ∧ (∀ l, p.getLsbD l = true → tget 0 t.group.pc l = pcOf l ∧ tget 0 t.group.repcnt l = repOf l)
      ∧ ∀ m k, ⟨m, .pass k⟩ ∈ u.group.waits → ⟨m, .pass k⟩ ∈ t.group.waits := by
  intro t
  generalize hv : u.modGroup (Group.sendBack p pcOf repOf) = v
  have hvp : v.present = true := by rw [← hv, State.modGroup_present, hu]
  have hvg : v.group = u.group.sendBack p pcOf repOf := hv ▸ u.group_modGroup _ hu
  have ht : t.group = s.group.finish (s.issueOf n) s.tick false 0 p [] (v.leaveFrame p).group := by
    show ((u.returnFrom p pcOf repOf).modGroup _).group = _
    rw [State.returnFrom_eq, hv]
    exact State.group_modGroup _ _ (v.leaveFrame_present p hvp)
  have hregs : (v.leaveFrame p).group.SameRegs t.group := ht ▸ Group.sameRegs_finish _ _ _ _ _ _ _ _
  have hleft := (v.leaveFrame_leftFrame p hvp).congr hregs
  have hout := (v.leaveFrame_sameOutsideFrame p hvp).trans hregs.sameOutsideFrame
  obtain ⟨hpc, hrep⟩ := v.leaveFrame_place p hvp
  rw [hvg] at hleft hout hpc hrep
  refine ⟨⟨hleft.stays, hleft.some, hleft.last⟩, ⟨hout.v, hout.m, hout.it, hout.flags, hout.exited⟩, fun l hl => ?_,
    fun m k hw => ?_⟩
  · obtain ⟨h1, h2⟩ := s.group.finish_placed (s.issueOf n) s.tick false p (v.leaveFrame p).group hl
    rw [ht, h1, h2, hpc, hrep]
    exact Group.sendBack_place p pcOf repOf _ hl
  · have hvw : ⟨m, .pass k⟩ ∈ v.group.waits := by rw [hvg]; exact hw
    rw [ht]
    show _ ∈ ((v.leaveFrame p).group.satisfy s.group.issueSet).waits
    rw [Group.mem_satisfy_waits _ _ (fun _ => WaitKind.noConfusion)]
    exact v.mem_waits_leaveFrame p hvp hvw

end

/-- A set that has no thread outside another is its own intersection with it. -/
theorem and_eq_self_of_inside {p m : Dword} (h : p &&& ~~~m = 0) : p &&& m = p := by
  apply BitVec.eq_of_getLsbD_eq
  intro l hl
  have hout := congrArg (fun x : Dword => x.getLsbD l) h
  simp only [BitVec.getLsbD_and, BitVec.getLsbD_not, hl, decide_true, Bool.true_and, BitVec.ofNat_eq_ofNat,
    BitVec.getLsbD_zero] at hout
  rw [BitVec.getLsbD_and]
  cases hp : p.getLsbD l with
  | false => rfl
  | true => simpa [hp] using hout

/-- A return of threads that all stand in the frame raises no trap (R166). -/
theorem tretBody_inside (go : State → Dword → Group → State) {iss : Issue} {s : State} (hp : iss.p ≠ 0)
    (hin : iss.p &&& ~~~s.group.trapmask = 0) :
    tretBody go iss s = { s := go s iss.p s.group, placed := iss.p } := by
  have hand := and_eq_self_of_inside hin
  have hnone : iss.p &&& ~~~iss.p = 0 := by simp
  unfold tretBody
  dsimp only
  rw [hand, if_neg hp, hnone]
  rfl

/-- The issue of a return: its threads go back as `go` sends them. -/
theorem execWord_return {i : Instr} {body : Body} {s u : State} {pcOf repOf : Nat → Nat} (hq : s.quiet i = true)
    (hb : body ((s.issueOf (wordsOf i)).by (s.doers i)) s =
      { s := u.returnFrom (s.doers i) pcOf repOf, placed := s.doers i }) :
    execWord i body s = .next (s.returned (wordsOf i) (s.doers i) pcOf repOf u) := by
  unfold execWord
  rw [runIssue_quiet hq, hb]
  exact congrArg Host.Outcome.next (closeIssue_plain rfl rfl)

/-- Threads leave the same frame of two groups that agree in frame, members and scalar registers. -/
theorem Group.LeftFrame.of_sameRegs {f g h : Group} {ls : Dword} (e : f.SameRegs g) (l : g.LeftFrame h ls) :
    f.LeftFrame h ls := by
  have hs : ∀ but, SameS but g h → SameS but f h := fun _ w n hn => (w n hn).trans (e.sreg n)
  refine ⟨fun h0 => ?_, fun h0 h1 h2 => ?_, fun f' h0 h1 h2 => ?_⟩
  · rw [← e.frame, ← e.trapmask] at h0 ⊢
    obtain ⟨hf, hm, hr⟩ := l.stays h0
    exact ⟨hf, hm, hs _ hr⟩
  · rw [← e.frame, ← e.trapmask] at *
    obtain ⟨hf, hm, hr⟩ := l.some h0 h1 h2
    exact ⟨hf, hm, hs _ hr⟩
  · rw [← e.frame, ← e.trapmask] at *
    obtain ⟨hf, hm, h1, hr⟩ := l.last f' h0 h1 h2
    exact ⟨hf, hm, h1, hs _ hr⟩

/-- The two returns that hold no thread (R163, R166): TRET to where each thread trapped, TRET.SKIP past it. -/
theorem tret_holds {i : Instr} {go : State → Dword → Group → State} {s : State} {pcOf repOf : Nat → Nat}
    (hexec : exec i s = execWord i (tretBody go) s)
    (hgo : go s (s.doers i) s.group = s.returnFrom (s.doers i) pcOf repOf)
    (hq : s.quiet i = true) (hp : s.doers i ≠ 0) (hin : s.doers i &&& ~~~s.group.trapmask = 0) :
    ∃ t, exec i s = .next t ∧ s.group.LeftFrame t.group (s.doers i) ∧ t.mem = s.mem ∧ s.group.SameOutsideFrame t.group
      ∧ ∀ l, (s.doers i).getLsbD l = true → tget 0 t.group.pc l = pcOf l ∧ tget 0 t.group.repcnt l = repOf l := by
  have hbody := tretBody_inside go (iss := (s.issueOf (wordsOf i)).by (s.doers i)) hp hin
  obtain ⟨hleft, hout, hplace, -⟩ := s.returned_group (wordsOf i) (s.doers i) pcOf repOf (State.quiet_present hq)
  obtain ⟨cs, hcs⟩ := s.returned_cores (wordsOf i) (s.doers i) pcOf repOf s
  refine ⟨_, hexec.trans (execWord_return hq (hbody.trans ?_)), hleft, by rw [hcs], hout, hplace⟩
  exact congrArg (fun u => ({ s := u, placed := s.doers i } : Res)) hgo

/-! ## TRET.PASS (R429 to R431) -/

theorem lanesOf_laneBit {l : Nat} (hl : l < 64) : lanesOf (laneBit l) = [l] :=
  (by decide +kernel : ∀ l < 64, lanesOf (laneBit l) = [l]) l hl

theorem laneBit_self {l : Nat} (hl : l < 64) : (laneBit l).getLsbD l = true := by
  rw [getLsbD_laneBit]
  simpa using hl

theorem laneBit_ne_zero {l : Nat} (hl : l < 64) : laneBit l ≠ 0 := fun h => by
  have hbit := laneBit_self hl
  rw [h] at hbit
  simp at hbit

/-- A token is free while fewer than 2^16 are in use. -/
theorem State.newToken_not_mem (s : State) (h : s.tokens.length < 2 ^ 16) : s.newToken ∉ s.tokens := by
  generalize hcand : (List.range (s.tokens.length + 1)).map (fun i => (Config.token s.tick + i) % 65536) = cand
  have hnodup : cand.Nodup := by
    rw [← hcand]
    refine List.nodup_range.map_on fun i hi j hj e => ?_
    rw [List.mem_range] at hi hj
    omega
  have hlen : cand.length = s.tokens.length + 1 := by rw [← hcand]; simp
  have hex : ∃ t ∈ cand, t ∉ s.tokens := by
    by_contra hall
    have hsub : cand ⊆ s.tokens := fun t ht => by_contra fun hn => hall ⟨t, ht, hn⟩
    have := (hnodup.subperm hsub).length_le
    omega
  unfold State.newToken
  dsimp only
  rw [hcand]
  obtain ⟨t, ht, hnot⟩ := hex
  cases hf : cand.find? (fun t => !s.tokens.contains t) with
  | none => exact absurd (List.find?_eq_none.mp hf t ht) (by simpa using hnot)
  | some k => simpa using List.find?_some hf

theorem State.mem_putAcc (s : State) (die : Nat) (a : Acc) (bs : List Byte) : (s.putAcc die a bs).mem = (s.writeAcc a bs).mem := by
  have hr := s.mem_reach die a false
  unfold State.putAcc
  cases a <;> simp_all [State.writeAcc, State.setBytes]

/-- The bytes that a write of the hardware leaves depend on neither the cores nor the fault queues. -/
theorem State.mem_physWrite_of_cores (s : State) (cs : Tbl Core) (fqs : Tbl FaultQueue) (us : List (Nat × Nat))
    (master pa : Nat) (bs : List Byte) :
    (({ s with cores := cs, fqs := fqs, unresolved := us } : State).physWrite master pa bs).mem = (s.physWrite master pa bs).mem := by
  unfold State.physWrite
  rw [State.mem_putAcc, State.mem_putAcc]
  show (State.writeAcc _ (s.access? master pa { w := true }) bs).mem = _
  cases s.access? master pa { w := true } <;> rfl

theorem State.issuer_putAcc (s : State) (die : Nat) (a : Acc) (bs : List Byte) : (s.putAcc die a bs).issuer = s.issuer := by
  have hw : ((s.reach die a false).writeAcc a bs).issuer = (s.reach die a false).issuer := by cases a <;> rfl
  exact hw.trans (s.issuer_reach die a false)

/-- What the post of an entry does to its queue and to memory (R430): no more than one entry is written, and none while
the ring is full. -/
theorem State.fqPost_cases (s : State) (q : Nat) : let f := tget {} s.fqs q
    (f.waiting = [] ∨ f.full = true) ∧ s.fqPost q = s
    ∨ ∃ die e rest, f.waiting = (die, e) :: rest ∧ f.full = false
      ∧ s.fqPost q = { s.physWrite (masterOf die) (f.ring * 2 ^ 13 + 32 * f.tail) (leBytes 32 e.toNat) with
          fqs := tput {} (s.physWrite (masterOf die) (f.ring * 2 ^ 13 + 32 * f.tail) (leBytes 32 e.toNat)).fqs q
            { f with tail := (f.tail + 1) % 256, waiting := rest } } := by
  intro f
  unfold State.fqPost
  dsimp only
  split
  · next h => exact .inl ⟨.inl h, rfl⟩
  · next die e rest h =>
    split
    · next hf => exact .inl ⟨.inr hf, rfl⟩
    · next hf => exact .inr ⟨die, e, rest, h, by simpa using hf, rfl⟩

theorem State.fqPost_issuer (s : State) (q : Nat) : (s.fqPost q).issuer = s.issuer := by
  rcases s.fqPost_cases q with ⟨_, e⟩ | ⟨die, e', rest, _, _, e⟩
  · rw [e]
  · rw [e]; exact State.issuer_putAcc _ _ _ _

theorem State.fqPost_group (s : State) (q : Nat) : (s.fqPost q).group = s.group := congrArg Prod.snd (s.fqPost_issuer q)

theorem State.fqPost_present (s : State) (q : Nat) : (s.fqPost q).present = s.present := by
  rcases s.fqPost_cases q with ⟨_, e⟩ | ⟨die, e', rest, _, _, e⟩
  · rw [e]
  · rw [e]; exact (State.kept_physWrite (show s.Kept s from rfl)).present

/-- A thread is held with its fault's token, and its entry joins the queue's (R429, R431). -/
def State.passed (s : State) (q l k : Nat) (e : BitVec 256) : State :=
  let u := s.modGroup (Group.hold (laneBit l) (.pass k))
  { u with
    fqs := tput {} u.fqs q { tget {} s.fqs q with waiting := (tget {} s.fqs q).waiting ++ [(dieOf u.core, e)] }
    unresolved := u.unresolved ++ [(u.team.ctx, k)] }

theorem State.passed_present (s : State) (q l k : Nat) (e : BitVec 256) : (s.passed q l k e).present = s.present :=
  s.modGroup_present _
theorem State.passed_group (s : State) (q l k : Nat) (e : BitVec 256) (hp : s.present = true) :
    (s.passed q l k e).group = s.group.hold (laneBit l) (.pass k) := s.group_modGroup _ hp

/-- A thread that passes a TRANSLATION to an enabled queue is held, and its queue posts. -/
theorem passOne_holds {s : State} {l : Nat} {g : Group} (hcode : (tget {} g.trapinfo l).code = 0x0B)
    (hen : (tget {} s.fqs (bits (s.ctxEntry s.team.ctx) 71 64)).en = true) :
    passOne s l g = (s.passed (bits (s.ctxEntry s.team.ctx) 71 64) l s.newToken
      (s.fqEntry l (tget 0 g.retpc l) s.newToken (tget {} g.trapinfo l))).fqPost (bits (s.ctxEntry s.team.ctx) 71 64) := by
  unfold passOne
  exact if_neg (by rw [hcode, hen]; decide)

/-- What the queue and memory are after an entry has joined a queue and the queue has posted (R429, R430). -/
theorem State.fqPost_passed (s : State) (q l k : Nat) (e : BitVec 256) :
    let f := tget {} s.fqs q
    let t := (s.passed q l k e).fqPost q
    if f.waiting = [] ∧ f.full = false then tget {} t.fqs q = { f with tail := (f.tail + 1) % 256 }
      ∧ t.mem = (s.physWrite (masterOf (dieOf s.core)) (f.ring * 2 ^ 13 + 32 * f.tail) (leBytes 32 e.toNat)).mem
    else if f.full = true then tget {} t.fqs q = { f with waiting := f.waiting ++ [(dieOf s.core, e)] } ∧ t.mem = s.mem
    else (tget {} t.fqs q).waiting = f.waiting.tail ++ [(dieOf s.core, e)] := by
  intro f t
  obtain ⟨cs, hcs⟩ := s.modGroup_cores (Group.hold (laneBit l) (.pass k))
  have hu : s.passed q l k e = { s with
      cores := cs, fqs := (s.passed q l k e).fqs, unresolved := (s.passed q l k e).unresolved } := by
    unfold State.passed
    rw [hcs]
  have hqueue : tget {} (s.passed q l k e).fqs q = { f with waiting := f.waiting ++ [(dieOf s.core, e)] } := by
    unfold State.passed
    rw [hcs]
    exact tget_tput_same _ _ _ _
  have hmem : (s.passed q l k e).mem = s.mem := by rw [hu]
  have hfull : ({ f with waiting := f.waiting ++ [(dieOf s.core, e)] } : FaultQueue).full = f.full := rfl
  have hcases := (s.passed q l k e).fqPost_cases q
  rw [hqueue] at hcases
  rcases hcases with ⟨hidle, ht⟩ | ⟨die, e', rest, hhead, hroom, ht⟩
  · have hf : f.full = true := hidle.resolve_left (by simp)
    rw [if_neg (by simp [hf]), if_pos hf]
    exact ⟨(congrArg (fun t : State => tget {} t.fqs q) ht).trans hqueue, (congrArg State.mem ht).trans hmem⟩
  · have hf : f.full = false := hroom
    have hq : tget {} t.fqs q = { f with tail := (f.tail + 1) % 256, waiting := rest } :=
      (congrArg (fun t : State => tget {} t.fqs q) ht).trans (tget_tput_same _ _ _ _)
    cases hw : f.waiting with
    | nil =>
      rw [hw] at hhead
      obtain ⟨⟨rfl, rfl⟩, rfl⟩ : (dieOf s.core = die ∧ e = e') ∧ [] = rest := by simpa using hhead
      rw [if_pos ⟨rfl, hf⟩, hq, ← hw]
      refine ⟨rfl, (congrArg State.mem ht).trans ?_⟩
      rw [hu]
      exact s.mem_physWrite_of_cores _ _ _ _ _ _
    | cons x xs =>
      rw [hw] at hhead
      obtain ⟨-, rfl⟩ : x = (die, e') ∧ xs ++ [(dieOf s.core, e)] = rest := by simpa using hhead
      rw [if_neg (by simp), if_neg (by simp [hf]), hq]
      rfl

theorem tretPassBody_free {iss : Issue} {s : State} {l : Nat} (hl : l < 64) (hp : iss.p = laneBit l)
    (hin : iss.p &&& ~~~s.group.trapmask = 0) (hfree : s.tokens.length < 2 ^ 16) :
    tretPassBody iss s =
      { s := (passOne s l s.group).returnFrom (laneBit l) (tget 0 s.group.retpc) (tget 0 s.group.retrep)
        placed := laneBit l } := by
  have hand := and_eq_self_of_inside hin
  have hone : popMask (laneBit l) = 1 := by unfold popMask; rw [lanesOf_laneBit hl]; rfl
  have hne : iss.p ≠ 0 := by rw [hp]; exact laneBit_ne_zero hl
  unfold tretPassBody
  rw [hand, hp, hone, if_neg (by omega), tretBody_inside passGo hne hin, hp]
  unfold passGo
  rw [lanesOf_laneBit hl]
  rfl

/-- Settles O12. The frame's part is `State.returned_group`, of the state in which the threads return: s itself for TRET and
TRET.SKIP, and s with the thread held and its entry posted for TRET.PASS. -/
theorem trapReturn : Obligations.TrapReturn := by
  unfold Obligations.TrapReturn
  refine ⟨fun skip o s => ?_, fun o s l => ?_⟩
  · intro i p hq hp hin _
    have hreturn : ∃ t, exec i s = .next t ∧ s.group.LeftFrame t.group p ∧ t.mem = s.mem ∧ s.group.SameOutsideFrame t.group
        ∧ ∀ l, p.getLsbD l = true → (tget 0 t.group.pc l, tget 0 t.group.repcnt l) =
          if skip then s.skipTo (tget {} s.group.trapinfo l).code (tget 0 s.group.retpc l) (tget 0 s.group.retrep l)
          else (tget 0 s.group.retpc l, tget 0 s.group.retrep l) := by
      cases skip with
      | false =>
        obtain ⟨t, ht, hleft, hmem, hout, hback⟩ :=
          tret_holds (i := .tret o) (go := tretGo) (s := s) rfl rfl hq hp hin
        exact ⟨t, ht, hleft, hmem, hout, fun l hl => Prod.ext (hback l hl).1 (hback l hl).2⟩
      | true =>
        obtain ⟨t, ht, hleft, hmem, hout, hback⟩ :=
          tret_holds (i := .tretSkip o) (go := skipGo) (s := s) rfl rfl hq hp hin
        exact ⟨t, ht, hleft, hmem, hout, fun l hl => Prod.ext (hback l hl).1 (hback l hl).2⟩
    obtain ⟨t, ht, hleft, hmem, hout, hback⟩ := hreturn
    obtain ⟨hv, hm, hit⟩ := hout.same
    exact ⟨t, ht, hleft, hmem, hv, hm, hit, hout.flags, hout.exited, fun l _ hl => hback l hl⟩
  · intro i p q hq hl hp hin _ _ hcode hen hfree
    have hpres := State.quiet_present hq
    generalize hk : s.newToken = k
    generalize he : s.fqEntry l (tget 0 s.group.retpc l) k (tget {} s.group.trapinfo l) = e
    have hone : passOne s l s.group = (s.passed q l k e).fqPost q := by rw [passOne_holds hcode hen, hk, he]
    generalize hu : (s.passed q l k e).fqPost q = u at hone
    have hup : u.present = true := by rw [← hu, State.fqPost_present, State.passed_present, hpres]
    have hug : u.group = s.group.hold p (.pass k) := by
      rw [← hu, State.fqPost_group, s.passed_group q l k e hpres, hp]
    have hheld : s.group.SameRegs u.group := hug ▸ Group.hold_sameRegs p (.pass k) s.group
    have hwait : ⟨p, .pass k⟩ ∈ u.group.waits := by
      rw [hug, Group.hold_waits, if_neg (hp ▸ laneBit_ne_zero hl)]
      exact List.mem_append_right _ (List.mem_singleton_self _)
    have hbody := tretPassBody_free (iss := (s.issueOf (wordsOf i)).by p) hl hp hin hfree
    rw [hone, ← hp] at hbody
    obtain ⟨hleft, hout, hplace, hwaits⟩ :=
      s.returned_group (wordsOf i) p (tget 0 s.group.retpc) (tget 0 s.group.retrep) hup
    obtain ⟨hpc, hrep⟩ := hplace l (hp ▸ laneBit_self hl)
    obtain ⟨hv, hm, hit⟩ := (hheld.sameOutsideFrame.trans hout).same
    obtain ⟨cs, hcs⟩ := s.returned_cores (wordsOf i) p (tget 0 s.group.retpc) (tget 0 s.group.retrep) u
    refine ⟨_, execWord_return (body := tretPassBody) hq hbody, hleft.of_sameRegs hheld, hwaits p k hwait,
      hk ▸ s.newToken_not_mem hfree, hpc, hrep, hv, hm, hit, ?_⟩
    have hpost := s.fqPost_passed q l k e
    rw [hu] at hpost
    intro e' f
    subst he
    rw [hcs]
    exact hpost

end Sys2Proof.Machine
end

section
/-! PROOFS. Waits that end, results that arrive, and a TQGET that is answered later (O35). -/
namespace Sys2Proof.Machine
open Sys2Proof

/-! ## A group of a core's team -/

/-- Group g of the team of core c. -/
def State.groupAt (s : State) (c g : Nat) : Group := ((s.coreAt c).team.getD {}).group g

theorem State.modGroupAt_mem (s : State) (c g : Nat) (f : Group → Group) : (s.modGroupAt c g f).mem = s.mem := by
  unfold State.modGroupAt
  split <;> rfl

section
variable {s : State} {c : Nat} {tm : Team} (htm : (s.coreAt c).team = some tm)
include htm

theorem State.coreAt_team_modGroupAt {g : Nat} (hg : g ≠ 16) (f : Group → Group) :
    ((s.modGroupAt c g f).coreAt c).team = some (tm.setGroup g (f (tm.group g))) := by
  unfold State.modGroupAt
  rw [if_neg hg, State.modTeamAt_of_team htm, State.coreAt_setCore, if_pos rfl]

theorem State.groupAt_modGroupAt {g : Nat} (hg : g ≠ 16) (f : Group → Group) :
    (s.modGroupAt c g f).groupAt c g = f (tm.group g) := by
  unfold State.groupAt
  rw [State.coreAt_team_modGroupAt htm hg, Option.getD_some, Team.group_setGroup, if_pos rfl]

end

/-! ## SLEEP (R152) -/

/-- The sleeping waits that are over at a cycle. -/
def WaitKind.slept (now : Nat) (k : WaitKind) : Bool :=
  match k with
  | .sleep til => til ≤ now
  | _ => false

theorem WaitKind.slept_eq_false (now : Nat) (k : WaitKind) : k.slept now = false ↔ ∀ til, k = .sleep til → now < til := by
  cases k <;> simp [WaitKind.slept]

theorem exec_sleepWake (c g : Nat) (s : State) :
    exec (.sleepWake c g) s = .next (s.modGroupAt c g (Group.release (WaitKind.slept s.cycle))) := rfl

theorem Group.mem_release (g : Group) (p : WaitKind → Bool) (w : Wait) : w ∈ (g.release p).waits ↔ w ∈ g.waits ∧ p w.kind = false := by
  unfold Group.release
  rw [List.mem_filter, Bool.not_eq_true']

/-! ## SLEEPTO and PWWAIT (R155, R350) -/

theorem State.joinFault_eq_none_iff (s : State) (id : Dword) (m : Dword) :
    s.joinFault id m = none ↔ ∀ o, s.team.findOp id = some o → o.undelivered = none := by
  unfold State.joinFault
  cases s.team.findOp id with
  | none => simp
  | some o => cases hf : o.undelivered <;> simp [hf]

/-- A wait that ends takes its result to its register: nothing else of the group's registers is written (R155, R350). -/
def Group.endWait (w : Wait) (sd : Nat) (v : Dword) (g : Group) : Group :=
  (({ g with waits := g.waits.filter (fun x => x ≠ w) } : Group).count (lanesOf w.mask)).setS sd v

theorem State.team_modGroup_findOp (s : State) (f : Group → Group) (id : Dword) (hsvc : s.grp ≠ 16) :
    (s.modGroup f).team.findOp id = s.team.findOp id := by
  rw [s.modGroup_team f hsvc]
  unfold State.team
  rw [show (s.modCore s.core _).core = s.core from rfl, State.coreAt_modCore, if_pos rfl]
  cases (s.coreAt s.core).team <;> rfl

theorem State.endWait_of_no_fault {s : State} {w : Wait} (hsvc : s.grp ≠ 16)
    (hnone : s.joinFault (w.kind.opId.getD 0) w.mask = none) :
    s.endWait w = s.modGroup (Group.endWait w (s.team.waitResult w.kind).1 (s.team.waitResult w.kind).2) := by
  generalize hs1 : s.modGroup (fun g => { g with waits := g.waits.filter (fun x => x ≠ w) }) = s1
  have hnone' : s1.joinFault (w.kind.opId.getD 0) w.mask = none := by
    rw [State.joinFault_eq_none_iff] at hnone ⊢
    rwa [← hs1, State.team_modGroup_findOp _ _ _ hsvc]
  have hisSvc : s.isSvc = false := by simpa [State.isSvc] using hsvc
  unfold State.endWait
  dsimp only
  rw [hs1, hnone', ite_self, hisSvc, ← hs1]
  exact State.modGroup_modGroup s _ _

theorem exec_sleeptoResume {s : State} {c g : Nat} {tm : Team} {w : Wait} (htm : (s.coreAt c).team = some tm) (hg : g ≠ 16)
    (hw : tm.endingWait g s.cycle = some w)
    (hnone : ({ s with core := c, grp := g } : State).joinFault (w.kind.opId.getD 0) w.mask = none) :
    exec (.sleeptoResume c g) s = .next (({ s with core := c, grp := g } : State).modGroupAt c g
      (Group.endWait w (tm.waitResult w.kind).1 (tm.waitResult w.kind).2)) := by
  have hover : s.waitOver c g = some w := by
    unfold State.waitOver
    rw [if_neg hg, htm]
    exact hw
  have hteam : ({ s with core := c, grp := g } : State).team = tm := congrArg (fun o => o.getD {}) htm
  have hend := State.endWait_of_no_fault (s := { s with core := c, grp := g }) hg hnone
  rw [hteam] at hend
  show Host.Outcome.next (match s.waitOver c g with
    | some w => ({ s with core := c, grp := g } : State).endWait w
    | none => s) = _
  rw [hover]
  exact congrArg Host.Outcome.next hend

section
variable (w : Wait) (sd : Nat) (v : Dword) (g : Group)

theorem Group.endWait_sreg (n : Nat) : (g.endWait w sd v).sreg n = if n = sd ∧ sd ≠ 0 then v else g.sreg n :=
  Group.sreg_setS sd v _ n

/-- The end of a wait keeps the program counters, the flags and every register but its result's. -/
theorem Group.endWait_keeps : (g.endWait w sd v).pc = g.pc ∧ SameV [] g (g.endWait w sd v) ∧ SameM [] g (g.endWait w sd v)
    ∧ (g.endWait w sd v).flags = g.flags ∧ SameS [sd] g (g.endWait w sd v) := by
  refine ⟨Group.setS_pc _ _ _, fun n _ => ?_, fun n _ => ?_, Group.setS_flags _ _ _, fun n hn => ?_⟩
  · exact congrArg (fun v => tget {} v n) (Group.setS_v _ _ _)
  · exact congrArg (fun m => tget 0 m n) (Group.setS_m _ _ _)
  · rw [g.endWait_sreg, if_neg (fun h => hn (List.mem_singleton.mpr h.1))]

theorem Group.setS_waits : (g.setS sd v).waits = g.waits := by unfold Group.setS; split <;> rfl

theorem Group.endWait_ended : w ∉ (g.endWait w sd v).waits := by
  unfold Group.endWait
  rw [Group.setS_waits]
  show w ∉ g.waits.filter (fun x => x ≠ w)
  simp

end

/-! ## Results that arrive (R211) -/

theorem exec_loadComplete (c g : Nat) (s : State) : exec (.loadComplete c g) s = .next (s.modGroupAt c g Group.deliverFirst) := rfl

/-- The oldest result that has arrived is delivered, and the others stay outstanding. -/
theorem Group.deliverFirst_eq {g : Group} {pre post : List Outstanding} {o : Outstanding}
    (hout : g.outstanding = pre ++ o :: post) (hreq : o.req = 0) (hpre : ∀ y ∈ pre, y.req ≠ 0) :
    g.deliverFirst = { o.results.foldl Result.apply g with outstanding := pre ++ post } := by
  have hskip : pre.find? (fun o => o.req = 0) = none := List.find?_eq_none.mpr (by simpa using hpre)
  have hfind : g.outstanding.find? (fun o => o.req = 0) = some o := by
    rw [hout, List.find?_append, hskip, Option.none_or, List.find?_cons_of_pos (by simpa using hreq)]
  have herase : g.outstanding.erase o = pre ++ post := by
    rw [hout, List.erase_append_right _ (fun hmem => hpre o hmem hreq), List.erase_cons_head]
  unfold Group.deliverFirst
  rw [hfind, ← herase]

/-- A result writes registers alone. -/
theorem Result.apply_keeps (g : Group) (r : Result) :
    (r.apply g).pc = g.pc ∧ (r.apply g).flags = g.flags ∧ (r.apply g).m = g.m := by
  cases r with
  | vec n tag vals => exact ⟨Group.setV_pc _ _ _ _, Group.setV_flags _ _ _ _, Group.setV_m _ _ _ _⟩
  | scalar n v => exact ⟨Group.setS_pc _ _ _, Group.setS_flags _ _ _, Group.setS_m _ _ _⟩

theorem Result.apply_scalar (g : Group) (n : Nat) (v : Dword) : let h := Result.apply g (.scalar n v)
    SameV [] g h ∧ SameS [n] g h ∧ (n ≠ 0 → h.sreg n = v) := by
  refine ⟨fun k _ => ?_, fun k hk => ?_, fun hn => ?_⟩
  · exact congrArg (fun v => tget {} v k) (Group.setS_v _ _ _)
  · exact (Group.sreg_setS n v g k).trans (if_neg fun h => hk (List.mem_singleton.mpr h.1))
  · exact (Group.sreg_setS n v g n).trans (if_pos ⟨rfl, hn⟩)

/-- A vector result writes the lanes of the threads that have not ended since (R150). -/
theorem Result.apply_vec (g : Group) (n tag : Nat) (ls : List Nat) (f : Nat → Word) :
    let h := Result.apply g (.vec n tag (ls.map (fun l => (l, f l))))
    SameS [] g h ∧ SameV [n] g h ∧ ((∃ l ∈ ls, g.exited.getLsbD l = false) → h.tag n = tag)
      ∧ ∀ l, h.lane n l = if l ∈ ls ∧ g.exited.getLsbD l = false then f l else g.lane n l := by
  intro h
  generalize hlive : ls.filter (fun l => !g.exited.getLsbD l) = live
  have hmem : ∀ l, l ∈ live ↔ l ∈ ls ∧ g.exited.getLsbD l = false := by simp [← hlive]
  have hh : h = g.setV n tag (live.map (fun l => (l, f l))) := by
    show g.setV n tag ((ls.map (fun l => (l, f l))).filter (fun p => !g.exited.getLsbD p.1)) = _
    rw [List.filter_map, ← hlive]
    rfl
  have hvreg : ∀ k, h.vreg k = if k = n ∧ live ≠ [] then
      { tag := tag, slots := tputs 0 (g.vreg n).slots (live.map (fun l => (l, f l))) } else g.vreg k := fun k => by
    rw [hh, Group.vreg_setV]
    simp
  refine ⟨fun k _ => ?_, fun k hk => ?_, fun ⟨l, hl, hx⟩ => ?_, fun l => ?_⟩
  · rw [hh]
    exact congrArg (fun s => if k = 0 then 0 else tget 0 s k) (Group.setV_s _ _ _ _)
  · rw [hvreg, if_neg fun h => hk (List.mem_singleton.mpr h.1)]
  · unfold Group.tag
    rw [hvreg, if_pos ⟨rfl, List.ne_nil_of_mem ((hmem l).mpr ⟨hl, hx⟩)⟩]
  · unfold Group.lane
    simp only [hvreg, ← hmem]
    by_cases hnil : live = []
    · simp [hnil]
    · rw [if_pos ⟨trivial, hnil⟩, tget_tputs_map]

/-! ## TQGET (R234, R235) -/

theorem Group.mem_of_tqWait {g : Group} {p : Nat → Bool} {w : Wait} {sd dl : Nat} (h : g.tqWait p = some (w, sd, dl)) :
    w ∈ g.waits := by
  obtain ⟨x, hx, hxw⟩ := List.mem_filterMap.mp (List.mem_of_find?_eq_some h)
  split at hxw
  · cases hxw; exact hx
  · cases hxw

/-- A TQGET's write of s1 does not reach the register: it is lost, or a frame keeps it (R163, R167; log 40). -/
def Group.tqAway (fate n : Nat) (g : Group) : Prop := n = 1 ∧ (fate = 2 ∨ fate = 0 ∧ g.frame ≠ none)

section
variable (fate n : Nat) (v : Dword) (g : Group)

/-- The four ways of a TQGET's write: to its register, to none, or to what the open frame restores. -/
theorem Group.setTq_cases : let h := g.setTq fate n v
    ¬ g.tqAway fate n ∧ h = g.setS n v ∧ (n ≠ 1 ∨ fate ≠ 0 ∨ g.frame = none)
    ∨ g.tqAway fate n ∧ fate ≠ 0 ∧ h = g
    ∨ ∃ f, g.tqAway fate n ∧ n = 1 ∧ fate = 0 ∧ g.frame = some f ∧ h = { g with frame := some { f with savedS1 := v } } := by
  unfold Group.setTq Group.tqAway
  by_cases hn : n = 1
  · rw [if_neg (not_not_intro hn)]
    by_cases hlost : fate = 2
    · rw [if_pos hlost]
      exact .inr (.inl ⟨⟨hn, .inl hlost⟩, by omega, rfl⟩)
    · rw [if_neg hlost]
      by_cases hkept : fate = 0
      · rw [if_pos hkept]
        cases hf : g.frame with
        | none => exact .inl ⟨by simp [hlost], by rw [hn], .inr (.inr rfl)⟩
        | some f => exact .inr (.inr ⟨f, ⟨hn, .inr ⟨hkept, by simp⟩⟩, hn, hkept, rfl, rfl⟩)
      · rw [if_neg hkept]
        exact .inl ⟨by simp [hlost, hkept], by rw [hn], .inr (.inl hkept)⟩
  · rw [if_pos hn]
    exact .inl ⟨fun h => hn h.1, rfl, .inl hn⟩

/-- The write reaches its register, unless it is lost or a frame keeps it. -/
theorem Group.setTq_sreg_self (hn : n ≠ 0) :
    (¬ g.tqAway fate n → (g.setTq fate n v).sreg n = v) ∧ (g.tqAway fate n → (g.setTq fate n v).sreg n = g.sreg n) := by
  rcases g.setTq_cases fate n v with ⟨haway, e, _⟩ | ⟨haway, _, e⟩ | ⟨f, haway, _, _, _, e⟩
  · exact ⟨fun _ => by rw [e, Group.sreg_setS, if_pos ⟨rfl, hn⟩], fun h => absurd h haway⟩
  · exact ⟨fun h => absurd haway h, fun _ => by rw [e]⟩
  · exact ⟨fun h => absurd haway h, fun _ => by rw [e]; rfl⟩

theorem Group.setTq_sreg_of_ne {k : Nat} (hk : k ≠ n) : (g.setTq fate n v).sreg k = g.sreg k := by
  rcases g.setTq_cases fate n v with ⟨_, e, _⟩ | ⟨_, _, e⟩ | ⟨f, _, _, _, _, e⟩
  · rw [e, Group.sreg_setS, if_neg fun h => hk h.1]
  · rw [e]
  · rw [e]; rfl

theorem Group.setTq_waits : (g.setTq fate n v).waits = g.waits := by
  rcases g.setTq_cases fate n v with ⟨_, e, _⟩ | ⟨_, _, e⟩ | ⟨f, _, _, _, _, e⟩
  · rw [e, Group.setS_waits]
  · rw [e]
  · rw [e]

theorem Group.setTq_outstanding : (g.setTq fate n v).outstanding = g.outstanding := by
  rcases g.setTq_cases fate n v with ⟨_, e, _⟩ | ⟨_, _, e⟩ | ⟨f, _, _, _, _, e⟩
  · rw [e]; exact (Group.setS_control n v g).outstanding
  · rw [e]
  · rw [e]

/-- An open frame keeps a write of s1 that was issued before it opened. -/
theorem Group.setTq_frame {f : Frame} (hf : g.frame = some f) :
    (g.setTq fate n v).frame = some (if n = 1 ∧ fate = 0 then { f with savedS1 := v } else f) := by
  rcases g.setTq_cases fate n v with ⟨haway, e, hwhy⟩ | ⟨_, hfate, e⟩ | ⟨f', _, hn, hfate, hf', e⟩
  · have hnot : ¬ (n = 1 ∧ fate = 0) := fun ⟨h1, h0⟩ => haway ⟨h1, .inr ⟨h0, by simp [hf]⟩⟩
    rw [e, (Group.setS_control n v g).frame, hf, if_neg hnot]
  · rw [e, hf, if_neg fun h => hfate h.2]
  · cases hf.symm.trans hf'
    rw [e, if_pos ⟨hn, hfate⟩]

end

/-- A TQGET that waits is answered: it waits no more, its result is no longer outstanding, and its two words are written. -/
def Group.answerTq (w : Wait) (sd : Nat) (a b : Dword) (g : Group) : Group :=
  if w ∉ g.waits then g
  else
    let h : Group := { g with
      waits := g.waits.filter (fun x => x ≠ w)
      outstanding := g.outstanding.filter (fun o => o.req ≠ w.kind.tqReq) }
    (h.setTq w.kind.tqFate sd a).setTq w.kind.tqFate (sd + 1) b

section
variable {w : Wait} {sd : Nat} (a b : Dword) {g : Group} (hw : w ∈ g.waits) (hsd : 0 < sd)
include hw hsd

theorem Group.answerTq_holds : let h := g.answerTq w sd a b
    w ∉ h.waits ∧ SameS [sd, sd + 1] g h
      ∧ (¬ g.tqAway w.kind.tqFate sd → h.sreg sd = a) ∧ (g.tqAway w.kind.tqFate sd → h.sreg sd = g.sreg sd)
      ∧ h.sreg (sd + 1) = b ∧ h.outstanding = g.outstanding.filter (fun o => o.req ≠ w.kind.tqReq)
      ∧ ∀ f, g.frame = some f → h.frame = some (if sd = 1 ∧ w.kind.tqFate = 0 then { f with savedS1 := a } else f) := by
  intro h
  generalize hu : ({ g with
    waits := g.waits.filter (fun x => x ≠ w)
    outstanding := g.outstanding.filter (fun o => o.req ≠ w.kind.tqReq) } : Group) = u
  generalize hfate : w.kind.tqFate = fate
  have hh : h = (u.setTq fate sd a).setTq fate (sd + 1) b := by
    rw [← hu, ← hfate]
    exact if_neg (not_not_intro hw)
  have hsecond : ¬ (u.setTq fate sd a).tqAway fate (sd + 1) := fun haway => by
    have := haway.1
    omega
  have hus : ∀ k, u.sreg k = g.sreg k := fun k => by rw [← hu]; rfl
  have huf : u.frame = g.frame := by rw [← hu]
  have haway : u.tqAway fate sd = g.tqAway fate sd := by unfold Group.tqAway; rw [huf]
  obtain ⟨hset, hkeep⟩ := u.setTq_sreg_self fate sd a (by omega)
  have hsd' : h.sreg sd = (u.setTq fate sd a).sreg sd := by rw [hh, Group.setTq_sreg_of_ne _ _ _ _ (by omega)]
  rw [haway] at hset hkeep
  refine ⟨?_, fun k hk => ?_, fun hn => hsd'.trans (hset hn), fun hn => (hsd'.trans (hkeep hn)).trans (hus sd), ?_, ?_, fun f hf => ?_⟩
  · rw [hh, Group.setTq_waits, Group.setTq_waits, ← hu]
    simp
  · simp only [List.mem_cons, List.not_mem_nil, or_false, not_or] at hk
    rw [hh, Group.setTq_sreg_of_ne _ _ _ _ hk.2, Group.setTq_sreg_of_ne _ _ _ _ hk.1, hus]
  · rw [hh]
    exact ((u.setTq fate sd a).setTq_sreg_self fate (sd + 1) b (by omega)).1 hsecond
  · rw [hh, Group.setTq_outstanding, Group.setTq_outstanding, ← hu]
  · have hfirst := u.setTq_frame fate sd a (huf.trans hf)
    rw [hh, Group.setTq_frame _ _ _ _ hfirst, if_neg fun h => by omega]

end

theorem State.tqReturn_eq (s : State) (c g : Nat) (w : Wait) (sd : Nat) (a b : Dword) :
    s.tqReturn c g w sd a b = s.modKept c g (Group.answerTq w sd a b) := rfl

theorem Team.group_modKept (t : Team) (g : Nat) (f : Group → Group) : (t.modKept g f).group g = f (t.group g) :=
  (t.group_setGroup g _ g).trans (if_pos rfl)

/-- In a plain grid a result reaches one copy of its team, and no grid and no byte of memory (R445). -/
theorem State.modKept_plain {s : State} {c g : Nat} {tm : Team} (htm : (s.coreAt c).team = some tm) (hg : g ≠ 16)
    (hplain : (s.grid tm.grid).record.getLsbD 88 = false) (f : Group → Group) : let t := s.modKept c g f
    t.groupAt c g = f (tm.group g) ∧ t.mem = s.mem ∧ t.grids = s.grids := by
  have hone : s.bothCopies c = [c] := by
    unfold State.bothCopies
    rw [htm]
    exact if_neg (by rw [hplain]; exact Bool.false_ne_true)
  have ht : s.modKept c g f = s.setCore c { s.coreAt c with team := some (tm.modKept g f) } := by
    unfold State.modKept
    rw [if_neg hg, hone]
    exact State.modTeamAt_of_team htm _
  intro t
  refine ⟨?_, (congrArg State.mem ht).trans rfl, (congrArg State.grids ht).trans rfl⟩
  show (s.modKept c g f).groupAt c g = _
  unfold State.groupAt
  rw [ht, State.coreAt_setCore, if_pos rfl]
  exact tm.group_modKept g f

/-- The answer of a TQGET to a state that differs from s in its grids alone. -/
theorem State.tqReturn_plain {s : State} {c g : Nat} {tm : Team} (htm : (s.coreAt c).team = some tm) (hg : g ≠ 16)
    {grids : Tbl Grid} (hplain : (tget {} grids tm.grid).record.getLsbD 88 = false) (w : Wait) (sd : Nat) (a b : Dword) :
    let t := ({ s with grids := grids } : State).tqReturn c g w sd a b
    t.groupAt c g = (tm.group g).answerTq w sd a b ∧ t.mem = s.mem ∧ t.grids = grids :=
  State.modKept_plain (s := { s with grids := grids }) htm hg hplain _

theorem State.tqAsks_of_tqWait {s : State} {c g : Nat} {tm : Team} (htm : (s.coreAt c).team = some tm) (htwin : tm.twin = false)
    {p : Nat → Bool} {x : Wait × Nat × Nat} (hw : (tm.group g).tqWait p = some x) : s.tqAsks c g p = some (tm, x) := by
  unfold State.tqAsks
  rw [htm]
  dsimp only
  rw [htwin, hw]
  rfl

/-- The grid after a step at its queue took slot k (R234). -/
def Grid.took (now n k : Nat) (x : TqSlot) (g : Grid) : Grid := { g with tq := tput {} g.tq k { x with state := .taken } }.noteTq now n

theorem Grid.noteTq_record (now n : Nat) (g : Grid) : (g.noteTq now n).record = g.record := rfl
theorem Grid.took_record (now n k : Nat) (x : TqSlot) (g : Grid) : (g.took now n k x).record = g.record := rfl
theorem Grid.took_slot (now n k : Nat) (x : TqSlot) (g : Grid) : tget {} (g.took now n k x).tq k = { x with state := .taken } :=
  tget_tput_same {} g.tq k { x with state := .taken }

section
variable {s : State} {c g : Nat} {tm : Team} {w : Wait} {sd dl : Nat} (htm : (s.coreAt c).team = some tm) (htwin : tm.twin = false)
include htm htwin

/-- A waiting TQGET takes the first READY task. -/
theorem exec_tqgetRearrive {k : Nat} {x : TqSlot} (hw : (tm.group g).tqWait (fun _ => true) = some (w, sd, dl))
    (hready : (s.grid tm.grid).firstReady = some (k, x)) (hturn : (s.grid tm.grid).tqTurn s.cycle (waitPlace c) = true) :
    exec (.tqgetRearrive c g) s = .next (({ s with
      grids := tput {} s.grids tm.grid ((s.grid tm.grid).took s.cycle (waitPlace c) k x) } : State).tqReturn c g w sd
        (taskWords k x).1 (taskWords k x).2) := by
  have hasks := State.tqAsks_of_tqWait htm htwin hw
  have hreached : (s.grid tm.grid).reached s.cycle c = some (k, x) := by
    unfold Grid.reached
    rw [if_pos hturn, hready]
  have hgrids : (s.setSlot tm.grid k { x with state := .taken }).modGrid tm.grid (Grid.noteTq s.cycle (waitPlace c)) =
      { s with grids := tput {} s.grids tm.grid ((s.grid tm.grid).took s.cycle (waitPlace c) k x) } := by
    unfold State.setSlot State.modGrid State.setGrid State.grid Grid.took
    dsimp only
    rw [tput_tput, tget_tput_same]
  rw [← hgrids]
  show execTqgetRearrive c g s = _
  unfold execTqgetRearrive
  rw [hasks]
  dsimp only
  rw [hreached]

/-- A TQGET at its deadline, which no task has reached, is answered EMPTY. -/
theorem exec_tqgetDeadline (hw : (tm.group g).tqWait (fun d => d ≤ s.cycle) = some (w, sd, dl))
    (hnone : (s.grid tm.grid).firstReady = none ∨ (s.grid tm.grid).tqTurn s.cycle (waitPlace c) = false) :
    exec (.tqgetDeadline c g) s = .next (({ s with
      grids := tput {} s.grids tm.grid ((s.grid tm.grid).noteTq s.cycle (waitPlace c)) } : State).tqReturn c g w sd
        (s.grid tm.grid).emptyWord 0) := by
  have hasks := State.tqAsks_of_tqWait htm htwin hw
  have hreached : (s.grid tm.grid).reached s.cycle c = none := by
    unfold Grid.reached
    rcases hnone with hfirst | hturn
    · rw [hfirst, ite_self]
    · rw [hturn]; rfl
  show execTqgetDeadline c g s = _
  unfold execTqgetDeadline
  rw [hasks]
  dsimp only
  rw [hreached]
  rfl

end

/-- Settles O35: each step is one change of its group (`Group.release`, `Group.endWait`, `Group.deliverFirst`,
`Group.answerTq`), whose effect a lemma above states. -/
theorem waitsEnd : Obligations.WaitsEnd := by
  unfold Obligations.WaitsEnd
  intro c g s tm htm hlt at' old
  have hg : g ≠ 16 := by omega
  refine ⟨?_, fun w hw hnone => ?_, fun pre ms d r post hout hpre => ?_, fun w sd dl hplain htwin hsd => ?_⟩
  · have hat : at' (s.modGroupAt c g (Group.release (WaitKind.slept s.cycle))) = old.release (WaitKind.slept s.cycle) :=
      State.groupAt_modGroupAt htm hg _
    refine ⟨_, exec_sleepWake c g s, State.modGroupAt_mem _ _ _ _, ?_, ?_, fun w => ?_⟩
    · rw [hat]; exact ⟨fun _ _ => rfl, fun _ _ => rfl, fun _ _ => rfl, fun _ _ => rfl, rfl⟩
    · rw [hat]; rfl
    · rw [hat, Group.mem_release, WaitKind.slept_eq_false]
  · refine ⟨_, exec_sleeptoResume htm hg hw hnone, State.modGroupAt_mem _ _ _ _, ?_⟩
    generalize ht : ({ s with core := c, grp := g } : State).modGroupAt c g
      (Group.endWait w (tm.waitResult w.kind).1 (tm.waitResult w.kind).2) = t
    have hat : at' t = old.endWait w (tm.waitResult w.kind).1 (tm.waitResult w.kind).2 :=
      ht ▸ State.groupAt_modGroupAt (s := { s with core := c, grp := g }) htm hg _
    rw [hat]
    obtain ⟨hpc, hv, hm, hflags, hs⟩ := old.endWait_keeps w (tm.waitResult w.kind).1 (tm.waitResult w.kind).2
    refine ⟨Group.endWait_ended _ _ _ _, hpc, hv, hm, hflags, hs, fun sd pc dl id hk hsd => ?_, fun sd pc id hk hsd => ?_⟩
    · rw [hk, Group.endWait_sreg]
      exact if_pos ⟨rfl, hsd⟩
    · rw [hk, Group.endWait_sreg]
      exact if_pos ⟨rfl, hsd⟩
  · refine ⟨_, exec_loadComplete c g s, State.modGroupAt_mem _ _ _ _, ?_⟩
    have hat : at' (s.modGroupAt c g Group.deliverFirst) = { r.apply old with outstanding := pre ++ post } :=
      (State.groupAt_modGroupAt htm hg _).trans (Group.deliverFirst_eq hout rfl hpre)
    rw [hat]
    obtain ⟨hpc, hflags, hm⟩ := Result.apply_keeps old r
    refine ⟨rfl, hpc, hflags, fun n _ => congrArg (fun m => tget 0 m n) hm, fun n v hr => ?_, fun n tag ls f hr => ?_⟩
    · subst hr
      exact Result.apply_scalar old n v
    · subst hr
      obtain ⟨hs, hv, htag, hlane⟩ := Result.apply_vec old n tag ls f
      exact ⟨hs, hv, htag, fun l _ => hlane l⟩
  · intro away answered
    have hanswer : ∀ (a b : Dword) (grids : Tbl Grid), w ∈ old.waits → (tget {} grids tm.grid).record = (s.grid tm.grid).record →
        answered (({ s with grids := grids } : State).tqReturn c g w sd a b) a b := by
      intro a b grids hw hrec
      obtain ⟨hat, hmem, -⟩ := State.tqReturn_plain htm hg (grids := grids) (by rw [hrec]; exact hplain) w sd a b
      obtain ⟨hgone, hs, hset, hkeep, hnext, hout, hframe⟩ := Group.answerTq_holds a b hw hsd
      change at' _ = _ at hat
      show _ ∧ _
      rw [hat]
      refine ⟨hmem, hgone, hs, ?_, hnext, hout, hframe⟩
      by_cases haway : away
      · rw [if_pos haway]; exact hkeep haway
      · rw [if_neg haway]; exact hset haway
    have hgrid : ∀ (a b : Dword) (x : Grid), x.record = (s.grid tm.grid).record →
        (({ s with grids := tput {} s.grids tm.grid x } : State).tqReturn c g w sd a b).grid tm.grid = x := by
      intro a b x hrec
      obtain ⟨-, -, hgrids⟩ := State.tqReturn_plain htm hg (grids := tput {} s.grids tm.grid x)
        (by rw [tget_tput_same, hrec]; exact hplain) w sd a b
      unfold State.grid
      rw [hgrids, tget_tput_same]
    refine ⟨fun k x hw hready hturn => ?_, fun hw hnone => ?_⟩
    · refine ⟨_, exec_tqgetRearrive htm htwin hw hready hturn, hanswer _ _ _ (Group.mem_of_tqWait hw) ?_, ?_⟩
      · rw [tget_tput_same, Grid.took_record]
      · unfold State.slot
        rw [hgrid _ _ _ (Grid.took_record _ _ _ _ _)]
        exact Grid.took_slot _ _ _ _ _
    · refine ⟨_, exec_tqgetDeadline htm htwin hw hnone, hanswer _ _ _ (Group.mem_of_tqWait hw) ?_, ?_⟩
      · rw [tget_tput_same, Grid.noteTq_record]
      · rw [hgrid _ _ _ (Grid.noteTq_record _ _ _)]; rfl

end Sys2Proof.Machine
end

section
/-! PROOFS. Writes of mask registers; vector logic and compares (O6), lane data and iterator records (O7). -/
namespace Sys2Proof.Machine
open Sys2Proof

/-! ## Mask results (R31, R175) -/

theorem maskWrite_eq (d : Nat) (f : Group → Nat → Bool × Nat) (iss : Issue) (s : State) :
    maskWrite d f iss s = Res.group s (fun g => (g.setMLanes d iss.p
      (maskOf ((lanesOf iss.p).filter (fun l => (f s.group l).1)))).raise (flagsOf iss.p (fun l => (f s.group l).2))) := by
  unfold maskWrite flagsOf
  simp only [List.foldl_map, List.filter_map, List.map_map]
  congr 1
  funext g
  congr 3
  exact List.map_id _

theorem Group.getLsbD_setMLanes (d : Nat) (which v : Dword) (g : Group) {l : Nat} (hl : l < 64) :
    (tget 0 (g.setMLanes d which v).m d).getLsbD l =
      if d ≠ 0 ∧ which.getLsbD l = true then v.getLsbD l else (tget 0 g.m d).getLsbD l := by
  unfold Group.setMLanes
  rw [Group.tget_setM]
  by_cases hd : d = 0
  · simp [hd]
  · rw [if_pos ⟨rfl, hd⟩]
    cases hw : which.getLsbD l <;>
      simp only [BitVec.getLsbD_or, BitVec.getLsbD_and, BitVec.getLsbD_not, hw, hl] <;> simp [hd]

/-- A bit of the lanes of p that a test picks. -/
theorem getLsbD_maskOf_filter (p : Dword) (t : Nat → Bool) {l : Nat} (hl : l < 64) :
    (maskOf ((lanesOf p).filter t)).getLsbD l = (p.getLsbD l && t l) := by
  rw [getLsbD_maskOf, Bool.eq_iff_iff]
  simp [mem_lanesOf, hl]

/-- An instruction that writes the bits of the lanes of P in a mask register. -/
theorem maskWrite_quiet {i : Instr} {body : Body} {s : State} {d : Nat} {f : Group → Nat → Bool × Nat} (hq : s.quiet i = true)
    (hb : body ((s.issueOf (wordsOf i)).by (s.doers i)) s = maskWrite d f ((s.issueOf (wordsOf i)).by (s.doers i)) s) :
    ∃ t, execWord i body s = .next t ∧ Changes i [] [] [d] [] s t
      ∧ RaisedFlags (flagsOf (s.doers i) (fun l => (f s.group l).2)) s.group t.group
      ∧ ∀ l < 64, (tget 0 t.group.m d).getLsbD l =
          if d ≠ 0 ∧ (s.doers i).getLsbD l = true then (f s.group l).1 else (tget 0 s.group.m d).getLsbD l := by
  let v := maskOf ((lanesOf (s.doers i)).filter (fun l => (f s.group l).1))
  obtain ⟨t, he, hc, hr⟩ := execWord_writes hq (hb.trans (maskWrite_eq d f ((s.issueOf (wordsOf i)).by (s.doers i)) s))
    (f := fun g => (g.setMLanes d (s.doers i) v).raise (flagsOf (s.doers i) (fun l => (f s.group l).2))) (by
      rw [Group.raise_eq]
      exact (Group.writes_setM d _ _).trans (Group.writes_flags [] [d] _ _))
  refine ⟨t, he, hc, hr.raisedFlags ?_, fun l hl => ?_⟩
  · rw [Group.raise_flags]
    exact congrArg (· ||| _) (Group.setM_flags _ _ _)
  · rw [hr.m, Group.raise_eq]
    refine (Group.getLsbD_setMLanes d _ _ s.group hl).trans (if_ctx_congr Iff.rfl (fun h => ?_) fun _ => rfl)
    rw [getLsbD_maskOf_filter _ _ hl, h.2, Bool.true_and]

/-! ## Bitwise, shift, select, move (R174) -/

/-- A bitwise code on sources of accepted tags: the result has A's tag. -/
theorem logicBody_quiet {i : Instr} {code : Nat} {o : VOps} {s : State} {f : Bool → Word → Word → Word} {useB : Bool}
    (hex : exec i s = execWord i (logicBody code o) s) (hq : s.quiet i = true) (hA : s.group.tag o.a ≤ 12)
    (hB : useB = true → tagB s.group o anyTag = true) (hmin : code ≠ 7 → useB = true)
    (hf : ∀ m a b, logicFn code m a b = f m a b) :
    ∃ t, exec i s = .next t ∧ Changes i [] [o.d] [] [] s t
      ∧ WroteV (s.doers i) o.d (s.group.tag o.a)
          (fun l => f ((s.group.mreg s.group.issueSet (o.c % 16)).getLsbD l) (vA s.group o l) (vB s.group o l)) s.group t.group
      ∧ t.group.flags = s.group.flags := by
  obtain ⟨t, he, hc, hw, hfl⟩ := vecWrite_quiet (body := logicBody code o) (d := o.d) (tag := s.group.tag o.a)
    (f := fun g l => { w := logicFn code ((g.mreg s.group.issueSet (o.c % 16)).getLsbD l) (vA g o l) (vB g o l) }) hq
    (checkTags_ok (by
      simp only [anyTag, hA, decide_true, Bool.true_and, Bool.or_eq_true, decide_eq_true_eq]
      exact or_iff_not_imp_left.mpr fun h => hB (hmin h)))
  simp only [hf] at hw
  exact ⟨t, hex.trans he, hc, hw, RaisedFlags.of_zero (by simpa using hfl)⟩

/-! ## Compares (R175) -/

theorem condI_iff {cc : Nat} (hcc : cc < 6) (sgn : Bool) (a b : Word) :
    condI cc sgn a b = decide (cc = 0 ∧ a = b ∨ cc = 1 ∧ a ≠ b ∨ cc = 2 ∧ wordInt sgn a < wordInt sgn b
      ∨ cc = 3 ∧ wordInt sgn a ≤ wordInt sgn b ∨ cc = 4 ∧ wordInt sgn b < wordInt sgn a
      ∨ cc = 5 ∧ wordInt sgn b ≤ wordInt sgn a) := by
  have hlt : ∀ x y : Word, (if sgn then x.slt y else x.ult y) = decide (wordInt sgn x < wordInt sgn y) := fun x y => by
    cases sgn with
    | true => simp [wordInt, BitVec.slt]
    | false => simp [wordInt, BitVec.ult]
  rw [Bool.eq_iff_iff]
  obtain rfl | rfl | rfl | rfl | rfl | rfl : cc = 0 ∨ cc = 1 ∨ cc = 2 ∨ cc = 3 ∨ cc = 4 ∨ cc = 5 := by omega
  all_goals simp [condI, hlt]

/-- Settles O6: a bitwise code writes one register (`logicBody_quiet`), a compare the bits of a mask (`maskWrite_quiet`) as its
condition says (`condI_iff`). -/
theorem vectorLogicAndCompare : Obligations.VectorLogicAndCompare := by
  unfold Obligations.VectorLogicAndCompare
  constructor
  · intro mk useB f hmem o s hq hA hB
    simp only [List.mem_cons, List.not_mem_nil, or_false, Prod.mk.injEq] at hmem
    rcases hmem with ⟨rfl, rfl, rfl⟩ | ⟨rfl, rfl, rfl⟩ | ⟨rfl, rfl, rfl⟩ | ⟨rfl, rfl, rfl⟩ | ⟨rfl, rfl, rfl⟩ |
      ⟨rfl, rfl, rfl⟩ | ⟨rfl, rfl, rfl⟩ | ⟨rfl, rfl, rfl⟩
    · exact logicBody_quiet (code := 0) rfl hq hA hB (by decide) (fun _ _ _ => rfl)
    · exact logicBody_quiet (code := 1) rfl hq hA hB (by decide) (fun _ _ _ => rfl)
    · exact logicBody_quiet (code := 2) rfl hq hA hB (by decide) (fun _ _ _ => rfl)
    · exact logicBody_quiet (code := 3) rfl hq hA hB (by decide) (fun _ _ _ => rfl)
    · exact logicBody_quiet (code := 4) rfl hq hA hB (by decide) (fun _ _ _ => rfl)
    · exact logicBody_quiet (code := 5) rfl hq hA hB (by decide) (fun _ _ _ => rfl)
    · exact logicBody_quiet (code := 6) rfl hq hA hB (by decide) (fun _ _ _ => rfl)
    · exact logicBody_quiet (code := 7) rfl hq hA hB (by decide) (fun _ _ _ => rfl)
  · intro sgn cc o s i hcc hq hA hB
    have hex : exec i s = execWord i (cmpBody sgn cc o) s := by cases sgn <;> rfl
    obtain ⟨t, he, hc, hfl, hbits⟩ := maskWrite_quiet (body := cmpBody sgn cc o) hq (checkTags_ok (by simp [hA, hB]))
    refine ⟨t, hex.trans he, hc, RaisedFlags.of_zero (by simpa using hfl), fun l hl => ?_⟩
    rw [hbits l hl]
    simp only [condI_iff hcc]
    rfl

/-! ## Lane data (R176) and tags (R182) -/

/-- A vector write that raises no flag. -/
theorem vecWrite_plain {i : Instr} {body : Body} {s : State} {d tag : Nat} {f : Group → Nat → Word} (hq : s.quiet i = true)
    (hb : body ((s.issueOf (wordsOf i)).by (s.doers i)) s =
      vecWrite d tag (fun g l => { w := f g l }) ((s.issueOf (wordsOf i)).by (s.doers i)) s) :
    ∃ t, execWord i body s = .next t ∧ Changes i [] [d] [] [] s t
      ∧ WroteV (s.doers i) d tag (f s.group) s.group t.group ∧ t.group.flags = s.group.flags := by
  obtain ⟨t, he, hc, hw, hfl⟩ := vecWrite_quiet hq hb
  exact ⟨t, he, hc, hw, RaisedFlags.of_zero (by simpa using hfl)⟩

/-- VEXTR writes its scalar register when P is not empty. -/
theorem vextr_quiet {o : VOps} {s : State} (hq : s.quiet (.vextr o) = true) (hA : s.group.tag o.a ≤ 12) :
    ∃ t, exec (.vextr o) s = .next t ∧ Changes (.vextr o) [o.d] [] [] [] s t ∧ t.group.flags = s.group.flags
      ∧ (o.d ≠ 0 → s.doers (.vextr o) ≠ 0 → t.group.sreg o.d =
          if (s.group.sreg o.b).toNat < 64 then (s.group.lane o.a (s.group.sreg o.b).toNat).setWidth 64 else 0)
      ∧ (s.doers (.vextr o) = 0 → t.group.sreg o.d = s.group.sreg o.d) := by
  have hbody := fun iss => checkTags_ok (iss := iss) (s := s) (ok := fun g => anyTag (g.tag o.a)) (body := uniform (fun g =>
    let i := (g.sreg o.b).toNat
    g.setS o.d (if i < 64 then (g.lane o.a i).setWidth 64 else 0))) (by simpa [anyTag] using hA)
  by_cases hp : s.doers (.vextr o) = 0
  · obtain ⟨t, he, hc, hr⟩ := execWord_skip (vs := []) (body := extrBody o) hq ((hbody _).trans (if_pos hp))
    exact ⟨t, he, { hc with scalars := fun n _ => hr.sreg n }, hr.flags, fun _ h => absurd hp h, fun _ => hr.sreg _⟩
  · obtain ⟨t, he, hc, hr⟩ := execWord_writes (body := extrBody o) hq ((hbody _).trans (if_neg hp)) (s.group.writes_setS _ _)
    refine ⟨t, he, hc, hr.flags.trans (Group.setS_flags _ _ _), fun hd _ => ?_, fun h => absurd h hp⟩
    rw [hr.sreg, Group.sreg_setS, if_pos ⟨rfl, hd⟩]

/-! ## Iterator records (R200) -/

/-- ITSET writes its record when P is not empty. -/
theorem itset_quiet {o : VOps} {s : State} (hq : s.quiet (.itset o) = true) : let g := s.group
    ∃ t, exec (.itset o) s = .next t ∧ Changes (.itset o) [] [] [] [o.d] s t ∧ t.group.flags = g.flags
      ∧ t.group.iter o.d = if s.doers (.itset o) = 0 then g.iter o.d
          else ⟨g.sreg o.a, g.sreg (o.a + 1), g.sreg (o.a + 2), g.sreg (o.a + 3)⟩ := by
  intro g
  by_cases hp : s.doers (.itset o) = 0
  · obtain ⟨t, he, hc, hr⟩ := execWord_skip (vs := []) (body := itsetBody o) hq (if_pos hp)
    exact ⟨t, he, { hc with iters := fun n _ => hr.iter n }, hr.flags, by rw [if_pos hp]; exact hr.iter _⟩
  · let f : Group → Group := fun g => g.setIt o.d ⟨g.sreg o.a, g.sreg (o.a + 1), g.sreg (o.a + 2), g.sreg (o.a + 3)⟩
    obtain ⟨t, he, hfr, hr⟩ := issue_group (perform := State.performReqs) (body := itsetBody o) (f := f) (p := 0) (dest := 0)
      hq (if_neg hp) ⟨rfl, rfl, rfl, rfl, rfl, rfl, rfl⟩ rfl rfl (.inr ⟨rfl, rfl⟩) (fun l h => by simp at h)
    have hit : ∀ n, t.group.iter n = if n = o.d then ⟨g.sreg o.a, g.sreg (o.a + 1), g.sreg (o.a + 2), g.sreg (o.a + 3)⟩
        else g.iter n := fun n => (hr.iter n).trans (tget_tput _ _ _ _ _)
    refine ⟨t, congrArg _ he, ⟨hfr, fun n _ => hr.sreg n, fun n _ => hr.vreg n, fun n _ => by rw [hr.m]; rfl, fun n hn => ?_⟩,
      hr.flags, ?_⟩
    · rw [hit, if_neg (by simpa using hn)]
    · rw [hit, if_pos rfl, if_neg hp]

/-- Settles O7: VBCAST, VLANE and VTAG are vector writes (`vecWrite_plain`); VEXTR and ITSET write when P is not empty, ITRD once
an issue (`perIssue_eq`). -/
theorem laneDataAndIterators : Obligations.LaneDataAndIterators := by
  unfold Obligations.LaneDataAndIterators
  refine ⟨fun o s => ⟨fun hq => ?_, fun hq => ?_, fun hq hA => ?_, fun hq hA => vextr_quiet hq hA⟩, fun o s => ⟨?_, fun hq => ?_⟩⟩
  · exact vecWrite_plain (body := bcastBody o) hq rfl
  · exact vecWrite_plain (body := laneBody o) hq rfl
  · exact vecWrite_plain (body := vtagBody o) hq (checkTags_ok (by simpa [anyTag] using hA))
  · exact itset_quiet
  · obtain ⟨t, he, hc, hr⟩ := execWord_writes (body := itrdBody o) hq
      (perIssue_eq (fun g => g.setS o.d ((g.iter o.a).word o.b)) s rfl) (s.group.writes_setS _ _)
    refine ⟨t, he, hc, hr.flags.trans (Group.setS_flags _ _ _), ?_⟩
    rw [hr.sreg, Group.sreg_setS]
    by_cases h0 : o.d = 0
    · simp [h0, Group.sreg]
    · simp [h0]

end Sys2Proof.Machine
end

section
/-! PROOFS. Floating-point arithmetic, classes and compares (O14), and the dispatch of the special functions (O15). -/
namespace Sys2Proof.Machine
open Sys2Proof

/-! ## Arithmetic (R177, R178) -/

/-- The sources of an arithmetic code have the major's tag (R55, R177): VFMA alone has an addend. -/
def fltTags (tag code : Nat) (o : VOps) (g : Group) : Bool :=
  g.tag o.a = tag && tagB g o (fun t => t = tag) && (code ≠ 3 || g.tag (addendReg o) = tag)

/-- mk is arithmetic code `code` of the major with tag `tag`, which computes F; useC tells whether it has an addend. -/
structure FltCode (mk : VOps → Instr) (tag code : Nat) (useC : Bool) (F : Fmt → Nat → Bool → Nat → Nat → Nat → FRes) : Prop where
  exec : ∀ o s, exec (mk o) s = execWord (mk o) (fltBody tag code o) s
  addend : code = 3 → useC = true
  elem : ∀ f m sat a b c, fltFn f code m sat a b c = F f m sat a b c

/-- A floating-point arithmetic code on sources of the major's tag, element by element. -/
theorem FltCode.quiet {mk : VOps → Instr} {tag code : Nat} {useC : Bool} {F : Fmt → Nat → Bool → Nat → Nat → Nat → FRes}
    (h : FltCode mk tag code useC F) {o : VOps} {s : State} (hq : s.quiet (mk o) = true) (hA : s.group.tag o.a = tag)
    (hB : tagB s.group o (fun t => t = tag) = true) (hC : useC = true → s.group.tag (addendReg o) = tag) :
    let r := fun l => perElem tag (fun i => F (fmtOfTag tag) (modeOf s.group o) o.sat (elemOf tag (vA s.group o l) i)
      (elemOf tag (vB s.group o l) i) (elemOf tag (vC s.group o l) i))
    ∃ t, Machine.exec (mk o) s = .next t ∧ Changes (mk o) [] [o.d] [] [] s t
      ∧ WroteV (s.doers (mk o)) o.d tag (fun l => (r l).w) s.group t.group
      ∧ RaisedFlags (flagsOf (s.doers (mk o)) (fun l => (r l).fl)) s.group t.group := by
  intro r
  have hok : fltTags tag code o s.group = true := by
    simp only [fltTags, hA, hB, decide_true, Bool.true_and, Bool.or_eq_true, decide_eq_true_eq]
    exact or_iff_not_imp_left.mpr fun hn => hC (h.addend (not_not.mp hn))
  obtain ⟨t, he, hc, hw, hfl⟩ := checkedWrite_quiet (d := o.d) (tag := tag)
    (f := fun g l => perElem tag (fun i => fltFn (fmtOfTag tag) code (modeOf g o) o.sat (elemOf tag (vA g o l) i)
      (elemOf tag (vB g o l) i) (elemOf tag (vC g o l) i))) hq hok
  simp only [h.elem] at hw hfl
  exact ⟨t, (h.exec o s).trans he, hc, hw, hfl⟩

/-! ## Classes (R179) -/

/-- The class masks of the one or two elements of a slot. -/
theorem classSum_eq (tag : Nat) (h : elems tag = 1 ∨ elems tag = 2) (c : Nat → Nat) :
    (if elems tag = 1 then 2 ^ c 0 else 2 ^ c 0 + 2 ^ 16 * 2 ^ c 1) =
      (List.range (elems tag)).foldl (fun n i => n + 2 ^ (16 * i + c i)) 0 := by
  obtain h | h := h <;> simp [h, List.range_succ, pow_add]

/-- VFCLASS on a source of the major's tag. -/
theorem classBody_quiet {i : Instr} {tag : Nat} {o : VOps} {s : State} (hex : exec i s = execWord i (classBody tag o) s)
    (hq : s.quiet i = true) (hA : s.group.tag o.a = tag) (he : elems tag = 1 ∨ elems tag = 2) :
    ∃ t, exec i s = .next t ∧ Changes i [] [o.d] [] [] s t ∧ t.group.flags = s.group.flags
      ∧ WroteV (s.doers i) o.d 8 (fun l => BitVec.ofNat 32 ((List.range (elems tag)).foldl
          (fun n i => n + 2 ^ (16 * i + (fmtOfTag tag).classBit (elemOf tag (vA s.group o l) i))) 0)) s.group t.group := by
  obtain ⟨t, ht, hc, hw, hfl⟩ := vecWrite_plain (body := classBody tag o) hq (checkTags_ok (by simpa using hA))
  refine ⟨t, hex.trans ht, hc, hfl, ?_⟩
  simp only [← classSum_eq tag he fun k => (fmtOfTag tag).classBit (elemOf tag (vA s.group o _) k)]
  exact hw

/-! ## Compares (R180) -/

/-- VFCMP in one lane: whether its condition holds for every element, and the flags that the elements raise. -/
def fcmpLane (cc tag : Nat) (o : VOps) (g : Group) (l : Nat) : Bool × Nat :=
  let rs := (List.range (elems tag)).map (fun k => (fmtOfTag tag).cmp cc (elemOf tag (vA g o l) k) (elemOf tag (vB g o l) k))
  (rs.all Prod.fst, rs.foldl (fun a x => a ||| x.2) 0)

theorem fcmpBody_eq (cc : Nat) {o : VOps} {s : State} {iss : Issue} (hA : s.group.tag o.a = o.d / 16 % 4 + 1)
    (hB : tagB s.group o (fun t => t = o.d / 16 % 4 + 1) = true) :
    fcmpBody cc o iss s = maskWrite (o.d % 16) (fcmpLane cc (o.d / 16 % 4 + 1) o) iss s := by
  unfold fcmpBody
  rw [checkTags_ok (by simp only [hA, hB, decide_true, Bool.and_self])]
  rfl

/-- Settles O14: arithmetic and classes are checked vector writes (`FltCode.quiet`, `classBody_quiet`), and VFCMP writes the bits
of a mask (`maskWrite_quiet`). -/
theorem floatInstructions : Obligations.FloatInstructions := by
  unfold Obligations.FloatInstructions
  refine ⟨fun mk tag useC F hmem o s hq hA hB hC => ?_, fun mk tag hmem o s hq hA => ?_, ?_⟩
  · simp only [List.mem_cons, List.not_mem_nil, or_false, Prod.mk.injEq] at hmem
    obtain ⟨code, hcode⟩ : ∃ code, FltCode mk tag code useC F := by
      rcases hmem with ⟨rfl, rfl, rfl, rfl⟩ | ⟨rfl, rfl, rfl, rfl⟩ | ⟨rfl, rfl, rfl, rfl⟩ | ⟨rfl, rfl, rfl, rfl⟩ |
        ⟨rfl, rfl, rfl, rfl⟩ | ⟨rfl, rfl, rfl, rfl⟩ | ⟨rfl, rfl, rfl, rfl⟩ | ⟨rfl, rfl, rfl, rfl⟩ | ⟨rfl, rfl, rfl, rfl⟩ |
        ⟨rfl, rfl, rfl, rfl⟩ | ⟨rfl, rfl, rfl, rfl⟩ | ⟨rfl, rfl, rfl, rfl⟩ | ⟨rfl, rfl, rfl, rfl⟩ | ⟨rfl, rfl, rfl, rfl⟩ |
        ⟨rfl, rfl, rfl, rfl⟩ | ⟨rfl, rfl, rfl, rfl⟩ | ⟨rfl, rfl, rfl, rfl⟩ | ⟨rfl, rfl, rfl, rfl⟩ | ⟨rfl, rfl, rfl, rfl⟩ |
        ⟨rfl, rfl, rfl, rfl⟩ | ⟨rfl, rfl, rfl, rfl⟩
      · exact ⟨0, fun _ _ => rfl, by decide, fun _ _ _ _ _ _ => rfl⟩
      · exact ⟨1, fun _ _ => rfl, by decide, fun _ _ _ _ _ _ => rfl⟩
      · exact ⟨2, fun _ _ => rfl, by decide, fun _ _ _ _ _ _ => rfl⟩
      · exact ⟨3, fun _ _ => rfl, by decide, fun _ _ _ _ _ _ => rfl⟩
      · exact ⟨4, fun _ _ => rfl, by decide, fun _ _ _ _ _ _ => rfl⟩
      · exact ⟨5, fun _ _ => rfl, by decide, fun _ _ _ _ _ _ => rfl⟩
      · exact ⟨6, fun _ _ => rfl, by decide, fun _ _ _ _ _ _ => rfl⟩
      · exact ⟨0, fun _ _ => rfl, by decide, fun _ _ _ _ _ _ => rfl⟩
      · exact ⟨1, fun _ _ => rfl, by decide, fun _ _ _ _ _ _ => rfl⟩
      · exact ⟨2, fun _ _ => rfl, by decide, fun _ _ _ _ _ _ => rfl⟩
      · exact ⟨3, fun _ _ => rfl, by decide, fun _ _ _ _ _ _ => rfl⟩
      · exact ⟨4, fun _ _ => rfl, by decide, fun _ _ _ _ _ _ => rfl⟩
      · exact ⟨5, fun _ _ => rfl, by decide, fun _ _ _ _ _ _ => rfl⟩
      · exact ⟨6, fun _ _ => rfl, by decide, fun _ _ _ _ _ _ => rfl⟩
      · exact ⟨0, fun _ _ => rfl, by decide, fun _ _ _ _ _ _ => rfl⟩
      · exact ⟨1, fun _ _ => rfl, by decide, fun _ _ _ _ _ _ => rfl⟩
      · exact ⟨2, fun _ _ => rfl, by decide, fun _ _ _ _ _ _ => rfl⟩
      · exact ⟨3, fun _ _ => rfl, by decide, fun _ _ _ _ _ _ => rfl⟩
      · exact ⟨4, fun _ _ => rfl, by decide, fun _ _ _ _ _ _ => rfl⟩
      · exact ⟨5, fun _ _ => rfl, by decide, fun _ _ _ _ _ _ => rfl⟩
      · exact ⟨6, fun _ _ => rfl, by decide, fun _ _ _ _ _ _ => rfl⟩
    exact hcode.quiet hq hA hB hC
  · simp only [List.mem_cons, List.not_mem_nil, or_false, Prod.mk.injEq] at hmem
    rcases hmem with ⟨rfl, rfl⟩ | ⟨rfl, rfl⟩ | ⟨rfl, rfl⟩
    · exact classBody_quiet rfl hq hA (.inl rfl)
    · exact classBody_quiet rfl hq hA (.inr rfl)
    · exact classBody_quiet rfl hq hA (.inr rfl)
  · intro cc o s i tag r _ hq hA hB
    obtain ⟨t, he, hc, hfl, hbits⟩ := maskWrite_quiet hq (fcmpBody_eq cc hA hB)
    exact ⟨t, he, hc, hfl, hbits⟩

/-! ## Special functions (R181) -/

/-- Settles O15: each special function is a checked vector write of what `sfu` gives for each element. -/
theorem specialFunctions : Obligations.SpecialFunctions := by
  unfold Obligations.SpecialFunctions
  intro mk fn hmem o s tag r hq hA
  have hex : exec (mk o) s = execWord (mk o) (sfuBody fn o) s := by
    simp only [List.mem_cons, List.not_mem_nil, or_false, Prod.mk.injEq] at hmem
    rcases hmem with ⟨rfl, rfl⟩ | ⟨rfl, rfl⟩ | ⟨rfl, rfl⟩ | ⟨rfl, rfl⟩ | ⟨rfl, rfl⟩ | ⟨rfl, rfl⟩ | ⟨rfl, rfl⟩ | ⟨rfl, rfl⟩ |
      ⟨rfl, rfl⟩ | ⟨rfl, rfl⟩ | ⟨rfl, rfl⟩ <;> rfl
  rw [hex]
  exact checkedWrite_quiet hq (by simpa using hA)

end Sys2Proof.Machine
end

section
/-! PROOFS. Cross-lane moves, ballots, reductions and scans (O18). -/
namespace Sys2Proof.Machine
open Sys2Proof

/-! ## Moves (R187, R188) -/

theorem xlaneBody_quiet {i : Instr} {kind : Nat} {o : VOps} {s : State} (hex : exec i s = execWord i (xlaneBody kind o) s)
    (hq : s.quiet i = true) (hA : s.group.tag o.a ≤ 12) :
    ∃ t, exec i s = .next t ∧ Changes i [] [o.d] [] [] s t ∧ t.group.flags = s.group.flags
      ∧ WroteV (s.doers i) o.d (s.group.tag o.a) (fun l => s.group.lane o.a (xlaneSrc kind o.b l)) s.group t.group := by
  obtain ⟨t, he, hc, hw, hfl⟩ := vecWrite_plain (body := xlaneBody kind o) hq (checkTags_ok (by simpa [anyTag] using hA))
  exact ⟨t, hex.trans he, hc, hfl, hw⟩

/-! ## Ballot (R191) -/

/-- VBALLOT writes its whole mask once an issue. -/
theorem vballot_quiet {o : VOps} {s : State} (hq : s.quiet (.vballot o) = true) (hA : s.group.tag o.a ≤ 12) :
    ∃ t, exec (.vballot o) s = .next t ∧ Changes (.vballot o) [] [] [o.d] [] s t ∧ t.group.flags = s.group.flags
      ∧ ∀ l < 64, (tget 0 t.group.m o.d).getLsbD l =
          if o.d ≠ 0 then (s.doers (.vballot o)).getLsbD l && decide (vA s.group o l ≠ 0)
          else (tget 0 s.group.m o.d).getLsbD l := by
  obtain ⟨t, he, hc, hr⟩ := execWord_writes (body := ballotBody o) hq
    ((checkTags_ok (by simpa [anyTag] using hA)).trans (perIssue_eq _ s rfl)) (s.group.writes_setM o.d _)
  refine ⟨t, he, hc, hr.flags.trans (Group.setM_flags _ _ _), fun l hl => ?_⟩
  rw [hr.m, Group.tget_setM]
  by_cases hd : o.d = 0
  · rw [if_neg (fun h => h.2 hd), if_neg (not_not.mpr hd)]
  · rw [if_pos ⟨rfl, hd⟩, if_pos hd, getLsbD_maskOf_filter _ _ hl]
    rfl

/-! ## Trees (R189, R190) -/

/-- VRED and VSCAN write what the tree over the lanes of P gives, and raise its flags. -/
theorem treeBody_quiet {i : Instr} {scan : Bool} {o : VOps} {s : State} (hex : exec i s = execWord i (treeBody scan o) s)
    (hq : s.quiet i = true) (ht : treeTags o s.group = true) :
    let r := runTree (if scan then scanStep else redStep) s.group o (s.doers i)
    ∃ t, exec i s = .next t ∧ Changes i [] [o.d] [] [] s t
      ∧ WroteV (s.doers i) o.d (o.b / 8 % 16) (fun l => (r.1.getD (if scan then l else 0) none).getD 0) s.group t.group
      ∧ RaisedFlags r.2 s.group t.group := by
  intro r
  let w : Nat → Word := fun l => (r.1.getD (if scan then l else 0) none).getD 0
  obtain ⟨t, he, hc, hr⟩ := execWord_vectors (body := treeBody scan o) (vs := [o.d])
    (f := fun g => (g.setVF o.d (o.b / 8 % 16) (s.doers i) w).raise r.2) hq (checkTags_ok ht)
    (((Group.VecOnly.refl _ _).setVF (by simp) _ _ _).raise _)
  exact ⟨t, hex.trans he, hc, ((s.group.wroteV (s.doers i) o.d _ w).then_same (Group.vreg_raise _ _ _)).congr hr,
    hr.raisedFlags (by rw [Group.raise_flags, Group.setVF_flags])⟩

section
variable {f : Slot → Slot → Slot × Nat} {x : List Slot × Nat} {a : Nat → Word} {s : Nat}

/-- A slot as a summand: an absent lane adds nothing. -/
def slotVal (u : Slot) : Word := u.getD 0

/-- f adds slots and raises no flag. -/
def AddsSlots (f : Slot → Slot → Slot × Nat) : Prop := ∀ u w, slotVal (f u w).1 = slotVal u + slotVal w ∧ (f u w).2 = 0

/-- The combination of integer slots under addition without SAT. -/
theorem combineS_addsSlots {t : Nat} (ht : t = 7 ∨ t = 8) (mode : Nat) : AddsSlots (combineS 0 t mode false) := by
  have hflt : isFlt t = false := by obtain rfl | rfl := ht <;> rfl
  rintro (_ | u) (_ | w)
  · exact ⟨(BitVec.add_zero _).symm, rfl⟩
  · exact ⟨(BitVec.zero_add _).symm, rfl⟩
  · exact ⟨(BitVec.add_zero _).symm, rfl⟩
  · have hc : combine 0 t mode false u w = ⟨u + w, 0⟩ := by
      unfold combine
      rw [hflt]
      show LaneRes.mk (BitVec.ofInt 32 (wordInt _ u + wordInt _ w)) 0 = _
      rw [BitVec.ofInt_add, ofInt_wordInt, ofInt_wordInt]
    simp [combineS, hc, slotVal]

/-- The sum of the lanes below n. -/
def sumBelow (a : Nat → Word) (n : Nat) : Word := ∑ k ∈ Finset.range n, a k

theorem foldl_or_zero {α : Type} {l : List α} {fl : α → Nat} (h : ∀ y ∈ l, fl y = 0) : l.foldl (fun a y => a ||| fl y) 0 = 0 := by
  induction l with
  | nil => rfl
  | cons y l ih => rw [List.foldl_cons, h y (by simp)]; exact ih fun z hz => h z (by simp [hz])

/-- What a list over the first n numbers holds at l; beyond its end, the default. -/
theorem getD_map_range {α : Type} (n : Nat) (v : Nat → α) (d : α) (l : Nat) :
    ((List.range n).map v).getD l d = if l < n then v l else d := by
  by_cases h : l < n <;> simp [List.getD_eq_getElem?_getD, h]

theorem redStep_getD (f : Slot → Slot → Slot × Nat) (s : Nat) (x : List Slot × Nat) (l : Nat) :
    (redStep f s x).1.getD l none = if l < 64 then
      (if l % (2 * s) = 0 then (f (x.1.getD l none) (x.1.getD (l + s) none)).1 else x.1.getD l none) else none := by
  unfold redStep
  simp only [List.map_map, getD_map_range, Function.comp_apply, apply_ite Prod.fst]

theorem scanStep_getD (f : Slot → Slot → Slot × Nat) (s : Nat) (x : List Slot × Nat) (l : Nat) :
    (scanStep f s x).1.getD l none = if l < 64 then
      (if s ≤ l then (f (x.1.getD (l - s) none) (x.1.getD l none)).1 else x.1.getD l none) else none := by
  unfold scanStep
  simp only [List.map_map, getD_map_range, Function.comp_apply, apply_ite Prod.fst]

/-- After the steps below s of the reduction, a lane that is a multiple of s holds the sum of s lanes from it on. -/
def RedSums (a : Nat → Word) (s : Nat) (x : List Slot × Nat) : Prop :=
  x.2 = 0 ∧ ∀ l, l % s = 0 → slotVal (x.1.getD l none) = sumBelow a (l + s) - sumBelow a l

/-- After the steps below s of the scan, a lane holds the sum of the s lanes that end with it. -/
def ScanSums (a : Nat → Word) (s : Nat) (x : List Slot × Nat) : Prop :=
  x.2 = 0 ∧ ∀ l < 64, slotVal (x.1.getD l none) = sumBelow a (l + 1) - sumBelow a (l + 1 - s)

theorem sumBelow_of_ge (ha : ∀ k, 64 ≤ k → a k = 0) {n : Nat} (hn : 64 ≤ n) : sumBelow a n = sumBelow a 64 := by
  induction n, hn using Nat.le_induction with
  | base => rfl
  | succ n hn ih => rw [sumBelow, Finset.sum_range_succ, ha n hn, add_zero]; exact ih

theorem RedSums.step (ha : ∀ k, 64 ≤ k → a k = 0) (hf : AddsSlots f) (h : RedSums a s x) : RedSums a (2 * s) (redStep f s x) := by
  obtain ⟨hfl, hv⟩ := h
  constructor
  · show List.foldl _ x.2 _ = 0
    rw [hfl]
    refine foldl_or_zero fun y hy => ?_
    obtain ⟨l, -, rfl⟩ := List.mem_map.mp hy
    split
    · exact (hf _ _).2
    · rfl
  · intro l hl
    have hl1 : l % s = 0 := Nat.mod_eq_zero_of_dvd ((Dvd.intro_left 2 rfl).trans (Nat.dvd_of_mod_eq_zero hl))
    have hl2 : (l + s) % s = 0 := by rw [Nat.add_mod_right, hl1]
    rw [redStep_getD, if_pos hl]
    split
    · rw [(hf _ _).1, hv l hl1, hv (l + s) hl2, add_assoc, ← two_mul]
      abel
    · next h64 => rw [sumBelow_of_ge ha (by omega), sumBelow_of_ge ha (by omega : 64 ≤ l), sub_self]; rfl

theorem ScanSums.step (hf : AddsSlots f) (h : ScanSums a s x) : ScanSums a (2 * s) (scanStep f s x) := by
  obtain ⟨hfl, hv⟩ := h
  constructor
  · show List.foldl _ x.2 _ = 0
    rw [hfl]
    refine foldl_or_zero fun y hy => ?_
    obtain ⟨l, -, rfl⟩ := List.mem_map.mp hy
    split
    · exact (hf _ _).2
    · rfl
  · intro l hl
    rw [scanStep_getD, if_pos hl]
    split
    · next hs =>
      rw [(hf _ _).1, hv _ (by omega), hv l hl, show l - s + 1 = l + 1 - s by omega, show l + 1 - s - s = l + 1 - 2 * s by omega]
      abel
    · next hs => rw [hv l hl, show l + 1 - s = 0 by omega, show l + 1 - 2 * s = 0 by omega]

end

/-- The summands of a tree: the lanes of p, and nothing elsewhere. -/
def summand (g : Group) (o : VOps) (p : Dword) (l : Nat) : Word := if p.getLsbD l then vA g o l else 0

/-- The slots of a tree before its steps. -/
theorem slotVal_start (g : Group) (o : VOps) (p : Dword) (l : Nat) :
    slotVal (((List.range 64).map (fun l => if p.getLsbD l then some (vA g o l) else none)).getD l none) = summand g o p l := by
  rw [getD_map_range, summand]
  by_cases hl : l < 64
  · rw [if_pos hl]; cases p.getLsbD l <;> rfl
  · rw [if_neg hl, BitVec.getLsbD_of_ge p l (by omega)]; rfl

/-- The tree of an integer addition without SAT: lane 0 of the reduction has the sum of all lanes, a lane of the scan the sum up
to its own; no flag is raised. -/
theorem runTree_sums {g : Group} {o : VOps} (p : Dword) (hop : o.b % 8 = 0) (ht : o.b / 8 % 16 = 7 ∨ o.b / 8 % 16 = 8)
    (hsat : o.sat = false) :
    RedSums (summand g o p) 64 (runTree redStep g o p) ∧ ScanSums (summand g o p) 64 (runTree scanStep g o p) := by
  have hf : AddsSlots (combineS (o.b % 8) (o.b / 8 % 16) (modeOf g o) o.sat) := by
    rw [hop, hsat]; exact combineS_addsSlots ht _
  have ha : ∀ k, 64 ≤ k → summand g o p k = 0 := fun k hk => by rw [summand, BitVec.getLsbD_of_ge p k hk]; rfl
  have hone : ∀ l, slotVal (((List.range 64).map (fun l => if p.getLsbD l then some (vA g o l) else none)).getD l none) =
      sumBelow (summand g o p) (l + 1) - sumBelow (summand g o p) l := fun l => by
    rw [slotVal_start, sumBelow, Finset.sum_range_succ, sumBelow, add_sub_cancel_left]
  constructor
  · have h1 : RedSums (summand g o p) 1 ((List.range 64).map (fun l => if p.getLsbD l then some (vA g o l) else none), 0) :=
      ⟨rfl, fun l _ => hone l⟩
    exact (((((h1.step ha hf).step ha hf).step ha hf).step ha hf).step ha hf).step ha hf
  · have h1 : ScanSums (summand g o p) 1 ((List.range 64).map (fun l => if p.getLsbD l then some (vA g o l) else none), 0) :=
      ⟨rfl, fun l _ => hone l⟩
    exact (((((h1.step hf).step hf).step hf).step hf).step hf).step hf

/-- Adding up the lanes of a list that a test picks. -/
theorem foldl_add_filter_range (n : Nat) (q : Nat → Bool) (v : Nat → Word) :
    ((List.range n).filter q).foldl (fun a k => a + v k) 0 = sumBelow (fun k => if q k then v k else 0) n := by
  induction n with
  | zero => rfl
  | succ n ih =>
    rw [List.range_succ, List.filter_append, List.foldl_append, ih, sumBelow, sumBelow, Finset.sum_range_succ]
    cases h : q n <;> simp [h]

/-- The sum of the lanes of p up to lane l, or of all. -/
theorem foldl_add_lanesOf (scan : Bool) (g : Group) (o : VOps) (p : Dword) {l : Nat} (hl : l < 64) :
    ((lanesOf p).filter (fun k => !scan || k ≤ l)).foldl (fun a k => a + vA g o k) 0 =
      sumBelow (summand g o p) (if scan then l + 1 else 64) := by
  rw [lanesOf, List.filter_filter, foldl_add_filter_range]
  cases scan with
  | false => simp [sumBelow, summand]
  | true =>
    refine (Finset.sum_subset (Finset.range_mono (by omega : l + 1 ≤ 64)) fun k _ hk => ?_).symm.trans
      (Finset.sum_congr rfl fun k hk => ?_)
    · rw [if_neg]
      simp only [Finset.mem_range] at hk
      simp; omega
    · have : k ≤ l := by simpa [Nat.lt_succ_iff] using hk
      simp [summand, this]

theorem WroteV.congr_lanes {p : Dword} {n tag : Nat} {f f' : Nat → Word} {g h : Group} (w : WroteV p n tag f g h)
    (e : ∀ l < 64, f l = f' l) : WroteV p n tag f' g h := by
  unfold WroteV at *
  split
  · next hp => rwa [if_pos hp] at w
  · next hp =>
    rw [if_neg hp] at w
    exact ⟨w.1, fun l hl => by rw [w.2 l hl, e l hl]⟩

/-- Settles O18: moves are checked vector writes, VBALLOT writes once an issue (`vballot_quiet`), VRED and VSCAN write the tree's
slots (`treeBody_quiet`), which for integer addition are sums (`runTree_sums`). -/
theorem crossLane : Obligations.CrossLane := by
  unfold Obligations.CrossLane
  refine ⟨fun o s => ⟨?_, fun hq hA hB => ?_, vballot_quiet⟩, ?_, ?_⟩
  · intro mk src hmem hq hA
    simp only [List.mem_cons, List.not_mem_nil, or_false, Prod.mk.injEq] at hmem
    rcases hmem with ⟨rfl, rfl⟩ | ⟨rfl, rfl⟩ | ⟨rfl, rfl⟩
    · exact xlaneBody_quiet (kind := 0) rfl hq hA
    · exact xlaneBody_quiet (kind := 1) rfl hq hA
    · exact xlaneBody_quiet (kind := 2) rfl hq hA
  · obtain ⟨t, he, hc, hw, hfl⟩ := vecWrite_plain (body := shufBody o) hq (checkTags_ok (by simpa [anyTag] using ⟨hA, hB⟩))
    exact ⟨t, he, hc, hfl, hw⟩
  · intro scan o s i p r hq ht
    exact treeBody_quiet (by cases scan <;> rfl) hq ht
  · intro scan o s i p hq ht hop htag hsat
    obtain ⟨t, he, hc, hw, hfl⟩ := treeBody_quiet (i := i) (scan := scan) (by cases scan <;> rfl) hq ht
    obtain ⟨hred, hscan⟩ := runTree_sums (g := s.group) p hop htag hsat
    have hzero : (runTree (if scan then scanStep else redStep) s.group o p).2 = 0 := by
      cases scan with
      | false => exact hred.1
      | true => exact hscan.1
    rw [hzero] at hfl
    refine ⟨t, he, hc, hfl.of_zero, hw.congr_lanes fun l hl => ?_⟩
    rw [foldl_add_lanesOf scan s.group o p hl]
    cases scan with
    | false => exact (hred.2 0 rfl).trans (sub_zero _)
    | true =>
      refine (hscan.2 l hl).trans ?_
      rw [show l + 1 - 64 = 0 by omega]
      exact sub_zero _

end Sys2Proof.Machine
end

section
/-! PROOFS. The k best entries of VTOPK (O19). -/
namespace Sys2Proof.Machine
open Sys2Proof

/-! ## The order of entries (R192)

Entries are compared through a key of a linear order, so that the insertion sort is judged by that order. -/

/-- The number that a dyadic stands for. -/
def Dy.value (a : Dy) : ℚ := a.m * 2 ^ a.e

theorem Dy.value_add (a b : Dy) : (a.add b).value = a.value + b.value := by
  have scaled : ∀ x : Dy, min a.e b.e ≤ x.e →
      ((x.m * 2 ^ (x.e - min a.e b.e).toNat : Int) : ℚ) * 2 ^ min a.e b.e = x.value := fun x hx => by
    rw [Int.cast_mul, Int.cast_pow, Int.cast_ofNat, ← zpow_natCast, Int.toNat_of_nonneg (by omega), mul_assoc,
      ← zpow_add₀ two_ne_zero, sub_add_cancel, Dy.value]
  show ((_ + _ : Int) : ℚ) * 2 ^ min a.e b.e = _
  rw [Int.cast_add, add_mul, scaled a (min_le_left _ _), scaled b (min_le_right _ _)]

theorem Dy.lt_iff (a b : Dy) : a.lt b = true ↔ a.value < b.value := by
  have hdiff : (a.add b.neg).value = a.value - b.value := by
    rw [Dy.value_add, sub_eq_add_neg]
    simp [Dy.value, Dy.neg]
  have hpos : (0 : ℚ) < 2 ^ (a.add b.neg).e := by positivity
  rw [Dy.lt, decide_eq_true_eq, ← sub_neg (a := a.value), ← hdiff, Dy.value, mul_neg_iff]
  simp [hpos, hpos.not_gt]

/-- The rank of a value: a NaN lowest, then −∞, the finite values by size, +∞. -/
def Fv.rank : Fv → ℕ ×ₗ ℚ
  | .nan _ => toLex (0, 0)
  | .inf true => toLex (1, 0)
  | .fin n m e => toLex (2, (dyOf n m e).value)
  | .inf false => toLex (3, 0)

theorem Fv.less_iff {a b : Fv} (ha : a.isNan = false) (hb : b.isNan = false) : a.less false b = true ↔ a.rank < b.rank := by
  cases a with
  | nan => cases ha
  | inf n =>
    cases b with
    | nan => cases hb
    | inf n' => cases n <;> cases n' <;> simp [Fv.less, Fv.rank, Prod.Lex.toLex_lt_toLex]
    | fin => cases n <;> simp [Fv.less, Fv.rank, Prod.Lex.toLex_lt_toLex]
  | fin n m e =>
    cases b with
    | nan => cases hb
    | inf n' => cases n' <;> simp [Fv.less, Fv.rank, Prod.Lex.toLex_lt_toLex]
    | fin n' m' e' => simp [Fv.less, Fv.rank, Prod.Lex.toLex_lt_toLex, Fv.dy, Dy.lt_iff]

theorem Fv.rank_nan {a : Fv} (h : a.isNan = true) : a.rank = toLex (0, 0) := by
  cases a with
  | nan => rfl
  | inf => cases h
  | fin => cases h

theorem Fv.rank_pos {a : Fv} (h : a.isNan = false) : toLex (0, 0) < a.rank := by
  cases a with
  | nan => cases h
  | inf n => cases n <;> simp [Fv.rank, Prod.Lex.toLex_lt_toLex]
  | fin => simp [Fv.rank, Prod.Lex.toLex_lt_toLex]

/-- The key of an entry: score descending, then index ascending. -/
def TopEntry.key (x : TopEntry) : (ℕ ×ₗ ℚ)ᵒᵈ ×ₗ ℕ := toLex (OrderDual.toDual (F32.val x.score).rank, x.idx)

theorem TopEntry.key_lt_iff (x y : TopEntry) : x.key < y.key ↔
    (F32.val y.score).rank < (F32.val x.score).rank ∨ (F32.val x.score).rank = (F32.val y.score).rank ∧ x.idx < y.idx := by
  simp [TopEntry.key, Prod.Lex.toLex_lt_toLex]

theorem topLess_iff (x y : TopEntry) : topLess x y = true ↔ x.key < y.key := by
  rw [TopEntry.key_lt_iff]
  unfold topLess
  generalize F32.val x.score = a, F32.val y.score = b
  cases ha : a.isNan <;> cases hb : b.isNan
  · have hab := Fv.less_iff ha hb
    have hba := Fv.less_iff hb ha
    rcases lt_trichotomy a.rank b.rank with h | h | h
    · simp [ha, hb, hab.mpr h, Bool.eq_false_iff.mpr (mt hba.mp h.not_gt), h.not_gt, h.ne]
    · simp [ha, hb, Bool.eq_false_iff.mpr (mt hab.mp h.not_lt), Bool.eq_false_iff.mpr (mt hba.mp h.not_gt), h]
    · simp [ha, hb, hba.mpr h, h]
  · simp [ha, hb, Fv.rank_nan hb, Fv.rank_pos ha]
  · simp [ha, hb, Fv.rank_nan ha, (Fv.rank_pos hb).not_gt, (Fv.rank_pos hb).ne]
  · simp [ha, hb, Fv.rank_nan ha, Fv.rank_nan hb]

theorem topLess_eq_false_iff (x y : TopEntry) : topLess y x = false ↔ x.key ≤ y.key := by
  rw [← Bool.not_eq_true, topLess_iff, not_lt]

/-! ## The sort -/

theorem topInsert_perm (x : TopEntry) (l : List TopEntry) : (topInsert x l).Perm (x :: l) := by
  induction l with
  | nil => exact .refl _
  | cons y l ih =>
    unfold topInsert
    split
    · exact .refl _
    · exact (ih.cons y).trans (.swap x y l)

theorem topInsert_sorted (x : TopEntry) {l : List TopEntry} (h : l.Pairwise (fun x y => topLess y x = false)) :
    (topInsert x l).Pairwise (fun x y => topLess y x = false) := by
  induction l with
  | nil => exact List.pairwise_singleton _ _
  | cons y l ih =>
    obtain ⟨hy, hl⟩ := List.pairwise_cons.mp h
    unfold topInsert
    split
    · next hxy =>
      have hlt := (topLess_iff x y).mp hxy
      refine List.pairwise_cons.mpr ⟨fun z hz => (topLess_eq_false_iff x z).mpr ?_, h⟩
      rcases List.mem_cons.mp hz with rfl | hz
      · exact hlt.le
      · exact hlt.le.trans ((topLess_eq_false_iff y z).mp (hy z hz))
    · next hxy =>
      refine List.pairwise_cons.mpr ⟨fun z hz => ?_, ih hl⟩
      rcases List.mem_cons.mp ((topInsert_perm x l).mem_iff.mp hz) with rfl | hz
      · exact Bool.eq_false_iff.mpr hxy
      · exact hy z hz

/-- Sorting keeps the entries and orders them. -/
theorem topSort_spec (l : List TopEntry) : (topSort l).Perm l ∧ (topSort l).Pairwise (fun x y => topLess y x = false) := by
  have key : ∀ acc : List TopEntry, acc.Pairwise (fun x y => topLess y x = false) →
      (l.foldl (fun acc x => topInsert x acc) acc).Perm (l ++ acc)
        ∧ (l.foldl (fun acc x => topInsert x acc) acc).Pairwise (fun x y => topLess y x = false) := by
    induction l with
    | nil => exact fun acc h => ⟨.refl _, h⟩
    | cons x l ih =>
      intro acc h
      obtain ⟨hp, hs⟩ := ih _ (topInsert_sorted x h)
      exact ⟨hp.trans (((topInsert_perm x acc).append_left l).trans List.perm_middle), hs⟩
  simpa [topSort] using key [] List.Pairwise.nil

/-! ## Writes of lanes and tags -/

theorem Group.vreg_retag (n t : Nat) (g : Group) (m : Nat) :
    (g.retag n t).vreg m = if m = n then { g.vreg n with tag := t } else g.vreg m := tget_tput _ _ _ _ _

theorem Group.tag_retag (n t : Nat) (g : Group) (m : Nat) : (g.retag n t).tag m = if m = n then t else g.tag m := by
  unfold Group.tag
  rw [Group.vreg_retag]
  split <;> rfl

theorem Group.lane_retag (n t : Nat) (g : Group) (m l : Nat) : (g.retag n t).lane m l = g.lane m l := by
  unfold Group.lane
  rw [Group.vreg_retag]
  split
  · next h => rw [h]
  · rfl

theorem Group.VecOnly.retag {vs : List Nat} {g h : Group} (e : g.VecOnly vs h) {n : Nat} (hn : n ∈ vs) (t : Nat) :
    g.VecOnly vs (h.retag n t) := by
  obtain ⟨⟨c1, c2, c3, c4, c5, c6, c7⟩, hpc, hrep, hs, hm, hit, hv⟩ := e
  refine ⟨⟨c1, c2, c3, c4, c5, c6, c7⟩, hpc, hrep, hs, hm, hit, fun k hk => ?_⟩
  rw [Group.vreg_retag, if_neg (ne_of_mem_of_not_mem hn hk).symm, hv k hk]

theorem Group.tag_setV_ne (g : Group) {d m : Nat} (h : m ≠ d) (tag : Nat) (vals : List (Nat × Word)) :
    (g.setV d tag vals).tag m = g.tag m := by
  unfold Group.tag
  rw [Group.vreg_setV, if_neg (fun e => h e.1)]

theorem Group.lane_setV_map (g : Group) (d tag : Nat) (ls : List Nat) (f : Nat → Word) (m l : Nat) :
    (g.setV d tag (ls.map (fun l => (l, f l)))).lane m l = if m = d ∧ l ∈ ls then f l else g.lane m l := by
  unfold Group.lane
  rw [Group.vreg_setV]
  cases ls with
  | nil => simp
  | cons a ls =>
    by_cases hm : m = d
    · rw [if_pos ⟨hm, by simp⟩, tget_tputs_map]
      simp [hm]
    · simp [hm]

/-! ## VTOPK -/

section
variable {o : VOps} {k : Nat} {p : Dword} {c : List TopEntry} {g h : Group}

/-- The lanes of P that VTOPK writes in register r of a list of k. -/
def topLanes (k : Nat) (p : Dword) (r : Nat) : List Nat := (lanesOf p).filter (fun l => r * 64 + l < k)

/-- VTOPK's write of registers r of both lists: scores and indices of the sorted entries c. -/
def topPut (o : VOps) (k : Nat) (p : Dword) (c : List TopEntry) (g : Group) (r : Nat) : Group :=
  let entry := fun l => c.getD (r * 64 + l) ⟨0, 0⟩
  (((g.setV (o.d + r) 1 ((topLanes k p r).map (fun l => (l, BitVec.ofNat 32 (entry l).score)))).setV (o.c + r) 8
    ((topLanes k p r).map (fun l => (l, BitVec.ofNat 32 (entry l).idx)))).retag (o.d + r) 1).retag (o.c + r) 8

/-- The list that VTOPK finds, and its candidates. -/
def topFound (o : VOps) (g : Group) (set : Dword) : List TopEntry :=
  (List.range (o.bf % 128 + 1)).map (fun j =>
      (⟨(g.lane (o.d + j / 64) (j % 64)).toNat, (g.lane (o.c + j / 64) (j % 64)).toNat⟩ : TopEntry))
    ++ (lanesOf (g.mreg set o.xf)).map (fun l => (⟨(vA g o l).toNat, (g.lane o.b l).toNat⟩ : TopEntry))

theorem topkBody_eq {iss : Issue} {s : State} {n : Nat} (hn : n = (o.bf % 128 + 1 + 63) / 64) (hD : allTag s.group 1 o.d n = true)
    (hA : s.group.tag o.a = 1) (hB : intTag (s.group.tag o.b) = true) (hC : ∀ r < n, intTag (s.group.tag (o.c + r)) = true) :
    topkBody o iss s = uniform (fun g => (List.range n).foldl
      (topPut o (o.bf % 128 + 1) iss.p (topSort (topFound o s.group iss.set))) g) iss s := by
  subst hn
  unfold topkBody
  simp only
  rw [checkTags_ok (by simp only [hD, hA, hB, decide_true, Bool.true_and, Bool.and_true, List.all_eq_true, List.mem_range]; exact hC)]
  rfl

theorem topPut_tag (r m : Nat) : (topPut o k p c g r).tag m =
    if m = o.c + r then 8 else if m = o.d + r then 1 else g.tag m := by
  unfold topPut
  rw [Group.tag_retag, Group.tag_retag]
  split
  · rfl
  · next h1 =>
    split
    · rfl
    · next h2 => rw [Group.tag_setV_ne _ h1, Group.tag_setV_ne _ h2]

theorem topPut_lane (r m l : Nat) : (topPut o k p c g r).lane m l =
    if m = o.c + r ∧ l ∈ topLanes k p r then BitVec.ofNat 32 (c.getD (r * 64 + l) ⟨0, 0⟩).idx
    else if m = o.d + r ∧ l ∈ topLanes k p r then BitVec.ofNat 32 (c.getD (r * 64 + l) ⟨0, 0⟩).score else g.lane m l := by
  unfold topPut
  rw [Group.lane_retag, Group.lane_retag,
    Group.lane_setV_map (f := fun l => BitVec.ofNat 32 (c.getD (r * 64 + l) ⟨0, 0⟩).idx),
    Group.lane_setV_map (f := fun l => BitVec.ofNat 32 (c.getD (r * 64 + l) ⟨0, 0⟩).score)]

/-- What VTOPK leaves after it has written the first n registers of both lists. -/
structure TopWritten (o : VOps) (k : Nat) (p : Dword) (c : List TopEntry) (n : Nat) (g h : Group) : Prop where
  tags : ∀ r < n, h.tag (o.d + r) = 1 ∧ h.tag (o.c + r) = 8
  scores : ∀ r < n, ∀ l, h.lane (o.d + r) l =
    if l ∈ topLanes k p r then BitVec.ofNat 32 (c.getD (r * 64 + l) ⟨0, 0⟩).score else g.lane (o.d + r) l
  indices : ∀ r < n, ∀ l, h.lane (o.c + r) l =
    if l ∈ topLanes k p r then BitVec.ofNat 32 (c.getD (r * 64 + l) ⟨0, 0⟩).idx else g.lane (o.c + r) l
  others : ∀ m, (∀ r < n, m ≠ o.d + r ∧ m ≠ o.c + r) → ∀ l, h.lane m l = g.lane m l

theorem topPuts_written (n : Nat) (hdc : o.d + n ≤ o.c ∨ o.c + n ≤ o.d) :
    TopWritten o k p c n g ((List.range n).foldl (topPut o k p c) g) := by
  induction n with
  | zero => exact ⟨by simp, by simp, by simp, fun _ _ _ => rfl⟩
  | succ n ih =>
    obtain ⟨htag, hscore, hidx, hother⟩ := ih (by omega)
    rw [List.range_succ, List.foldl_append]
    generalize (List.range n).foldl (topPut o k p c) g = h at *
    show TopWritten o k p c (n + 1) g (topPut o k p c h n)
    refine ⟨fun r hr => ?_, fun r hr l => ?_, fun r hr l => ?_, fun m hm l => ?_⟩
    · rw [topPut_tag, topPut_tag]
      by_cases h1 : r = n
      · subst h1; simp; omega
      · simp [h1, htag r (by omega)]; omega
    · rw [topPut_lane, if_neg (by omega)]
      by_cases h1 : r = n
      · subst h1
        simp [hother (o.d + r) (by omega)]
      · simp [h1, hscore r (by omega)]
    · rw [topPut_lane]
      by_cases h1 : r = n
      · subst h1
        rw [if_neg (fun h : o.c + r = o.d + r ∧ _ => by omega), hother (o.c + r) (by omega)]
        simp
      · rw [if_neg (by omega), if_neg (by omega), hidx r (by omega)]
    · have := hm n (by omega)
      rw [topPut_lane, if_neg (by omega), if_neg (by omega), hother m (fun r hr => hm r (by omega))]

theorem topPut_flags (r : Nat) : (topPut o k p c g r).flags = g.flags := by
  unfold topPut
  show ((g.setV _ _ _).setV _ _ _).flags = _
  rw [Group.setV_flags, Group.setV_flags]

theorem topPuts_flags (n : Nat) : ((List.range n).foldl (topPut o k p c) g).flags = g.flags :=
  List.foldlRecOn (motive := fun h : Group => h.flags = g.flags) _ _ rfl fun _ hh _ _ => (topPut_flags _).trans hh

/-- The registers of both lists. -/
def topDests (o : VOps) (n : Nat) : List Nat := (List.range n).map (o.d + ·) ++ (List.range n).map (o.c + ·)

theorem topPuts_vecOnly (n : Nat) : g.VecOnly (topDests o n) ((List.range n).foldl (topPut o k p c) g) := by
  refine List.foldlRecOn (motive := fun h : Group => g.VecOnly (topDests o n) h) _ _ (.refl _ g) fun h hh r hr => ?_
  have hd : o.d + r ∈ topDests o n := List.mem_append_left _ (List.mem_map_of_mem hr)
  have hc : o.c + r ∈ topDests o n := List.mem_append_right _ (List.mem_map_of_mem hr)
  exact (((hh.setV hd _ _).setV hc _ _).retag hd _).retag hc _

theorem mem_topLanes (r l : Nat) : l ∈ topLanes k p r ↔ p.getLsbD l = true ∧ r * 64 + l < k := by
  simp [topLanes, mem_lanesOf]

/-- The entries of a list in its registers. -/
def topEntry (o : VOps) (g : Group) (j : Nat) : TopEntry :=
  ⟨(g.lane (o.d + j / 64) (j % 64)).toNat, (g.lane (o.c + j / 64) (j % 64)).toNat⟩

/-- The entries that VTOPK has written, of entries that are words. -/
theorem TopWritten.entry {n : Nat} (w : TopWritten o k p c n g h) (hc : k ≤ c.length)
    (hw : ∀ e ∈ c, e.score < 2 ^ 32 ∧ e.idx < 2 ^ 32) {j : Nat} (hj : j < 64 * n) :
    topEntry o h j = if j < k ∧ p.getLsbD (j % 64) = true then c.getD j ⟨0, 0⟩ else topEntry o g j := by
  have hr : j / 64 < n := by omega
  have hjj : j / 64 * 64 + j % 64 = j := by omega
  unfold topEntry
  rw [w.scores _ hr, w.indices _ hr, hjj]
  by_cases hin : j < k ∧ p.getLsbD (j % 64) = true
  · have hmem : c.getD j ⟨0, 0⟩ ∈ c := by
      rw [List.getD_eq_getElem _ _ (by omega)]
      exact List.getElem_mem _
    obtain ⟨h1, h2⟩ := hw _ hmem
    have hl : j % 64 ∈ topLanes k p (j / 64) := (mem_topLanes _ _).mpr ⟨hin.2, by omega⟩
    rw [if_pos hl, if_pos hl, if_pos hin, BitVec.toNat_ofNat, BitVec.toNat_ofNat, Nat.mod_eq_of_lt h1, Nat.mod_eq_of_lt h2]
  · have hl : j % 64 ∉ topLanes k p (j / 64) := fun h => hin (by rw [mem_topLanes, hjj] at h; exact h.symm)
    rw [if_neg hl, if_neg hl, if_neg hin]

theorem topFound_words (g : Group) (set : Dword) : ∀ e ∈ topFound o g set, e.score < 2 ^ 32 ∧ e.idx < 2 ^ 32 := by
  intro e he
  rcases List.mem_append.mp he with he | he
  all_goals
    obtain ⟨x, -, rfl⟩ := List.mem_map.mp he
    exact ⟨BitVec.isLt _, BitVec.isLt _⟩

theorem le_length_topFound (g : Group) (set : Dword) : o.bf % 128 + 1 ≤ (topFound o g set).length := by
  simp [topFound]

end

/-- Settles O19: the entries found are sorted by key (`topSort_spec`), and the lanes of P hold the first k of them
(`TopWritten.entry`). -/
theorem topK : Obligations.TopK := by
  unfold Obligations.TopK
  intro o s i g p k n entry cand hq hp hD hA hB hC hdc
  let c := topSort (topFound o g g.issueSet)
  obtain ⟨hperm, hsorted⟩ := topSort_spec (topFound o g g.issueSet)
  obtain ⟨t, he, hch, hr⟩ := execWord_vectors (f := fun g => (List.range n).foldl (topPut o k p c) g) hq
    ((topkBody_eq rfl hD hA hB hC).trans (if_neg hp)) (topPuts_vecOnly n)
  have w : TopWritten o k p c n g ((List.range n).foldl (topPut o k p c) g) := topPuts_written n hdc
  refine ⟨t, c, he, hch, hr.flags.trans (topPuts_flags n), hperm, hsorted, fun r hr' => ?_, fun j hj => ?_⟩
  · rw [hr.tag, hr.tag]
    exact w.tags r hr'
  · have hlen : k ≤ c.length := hperm.length_eq ▸ le_length_topFound g g.issueSet
    have hent : entry t.group j = topEntry o ((List.range n).foldl (topPut o k p c) g) j := by
      show TopEntry.mk _ _ = TopEntry.mk _ _
      rw [hr.lane, hr.lane]
    exact hent.trans (w.entry hlen (fun e he => topFound_words g g.issueSet e (hperm.mem_iff.mp he)) hj)

end Sys2Proof.Machine
end

section
/-! PROOFS. One tuple of a sweep (O21). -/
namespace Sys2Proof.Machine
open Sys2Proof

/-! ## The issue of a tuple (R201) -/

/-- An instruction of formats A and I has its form's guard (R114). -/
theorem guardOf_vector {maj min : Nat} {o : VOps} {i : Instr} (h : vecInstr maj min o = some i) : guardOf i = o.g := by
  unfold vecInstr ctlInstr intInstr fltInstr sfuInstr cvtInstr lanInstr at h
  dsimp only at h
  repeat' split at h
  all_goals cases h
  all_goals rfl

/-- The guard of the instruction that a sweep performs is the guard of its words. -/
theorem guardOf_swept {itn maj min : Nat} {inner : Instr} {o o' : VOps} (hv : inner.vecForm = some (maj, min, o))
    (hg : o'.g = o.g) : guardOf ((vecInstr maj min o').getD (.sweep itn inner)) = o'.g := by
  cases h : vecInstr maj min o' with
  | some i => exact guardOf_vector h
  | none =>
    have hform : (Instr.sweep itn inner).form = some (.sweep itn maj min o) := by simp only [Instr.form, hv]
    rw [Option.getD_none, hg, guardOf, hform]
    rfl

/-- A tuple whose threads all perform it without a trap: its results, and the record after it (R201). -/
theorem sweepBody_noTrap {itn : Nat} {gd : Guard} {inner : Body} {iss : Issue} {s : State}
    (hp : iss.p = guardSet s.group iss.set gd) (hm : (inner iss s).raised.mask = 0) (hs : (inner iss s).stay = false) :
    let r := inner iss s
    let nxt := (r.s.group.iter itn).next
    sweepBody itn gd inner iss s =
      { r with s := r.s.modGroup (Group.setIt itn nxt.1), moves := if nxt.2 then [] else [(iss.set, iss.pc)] } := by
  unfold sweepBody
  simp [hs, hm, hp]

/-- The body of a format A or I instruction inside a sweep: VFUSE takes its functions from the record (R201). -/
def sweptBody (r : IterRec) (maj min : Nat) (o : VOps) : Body :=
  if maj = 0x1C then fuseWith (bits r.w3.toNat 10 8) (bits r.w3.toNat 12 11) o else vecBody maj min o

theorem exec_sweep {itn maj min : Nat} {inner : Instr} {o o' : VOps} {s : State} (hv : inner.vecForm = some (maj, min, o))
    (hl : sweepLegal (s.group.iter itn) s.regalloc maj min o = true)
    (hf : (s.group.iter itn).form maj min o = .vec maj min o') : let i := Instr.sweep itn inner
    exec i s = .next (runIssue ((vecInstr maj min o').getD i) State.performReqs (s.issueOf (wordsOf i))
      (sweepBody itn o'.g (sweptBody (s.group.iter itn) maj min o')) s) := by
  intro i
  show Host.Outcome.next (sweepStep itn inner s) = _
  unfold sweepStep
  simp only [hv, hl, hf, if_true]
  rfl

/-- A tuple without a trap: the results of the stepped instruction, the next record, and the threads at the sweep again until the
last tuple (R201). -/
theorem sweep_noTrap {itn maj min : Nat} {inner : Instr} {o o' : VOps} {s : State} (hv : inner.vecForm = some (maj, min, o))
    (hl : sweepLegal (s.group.iter itn) s.regalloc maj min o = true)
    (hf : (s.group.iter itn).form maj min o = .vec maj min o') : let i := Instr.sweep itn inner
    let i' := (vecInstr maj min o').getD i
    let iss := s.issueOf (wordsOf i)
    let r := sweptBody (s.group.iter itn) maj min o' (iss.by (s.doers i')) s
    let nxt := (r.s.group.iter itn).next
    s.quiet i' = true → r.raised.mask = 0 → r.stay = false →
    exec i s = .next ((r.s.modGroup (Group.setIt itn nxt.1)).modGroup (s.group.finish iss s.tick r.selfSat 0 r.placed
      (if nxt.2 = true then [] else [(s.group.issueSet, s.group.issuePc)]))) := by
  intro i i' iss r nxt hq hm hs
  have ho : o'.g = o.g := by
    cases hf
    rfl
  have hp : (iss.by (s.doers i')).p = guardSet s.group (iss.by (s.doers i')).set o'.g := by
    show s.doers i' = _
    rw [State.doers, guardOf_swept hv ho]
    rfl
  refine (exec_sweep hv hl hf).trans (congrArg _ ((runIssue_quiet hq).trans ?_))
  have hbody := sweepBody_noTrap (itn := itn) (inner := sweptBody (s.group.iter itn) maj min o') hp hm hs
  exact (congrArg (closeIssue s.group iss 0 s.tick) hbody).trans (closeIssue_noTrap hm hs)

/-! ## VADD.I32 in a sweep -/

theorem Raised.mask_ownAll (m : Dword) (x : Trap) : (ownAll m x).mask = m := by
  have hfst : (ownAll m x).own.map Prod.fst = lanesOf m := by
    rw [ownAll, List.map_map]
    exact List.map_id _
  rw [Raised.mask, hfst]
  show 0#64 ||| maskOf (lanesOf m) = m
  rw [BitVec.zero_or]
  refine BitVec.eq_of_getLsbD_eq fun l hl => ?_
  rw [getLsbD_maskOf, Bool.eq_iff_iff]
  simp [mem_lanesOf, hl]

/-- A check of tags in which no thread traps lets the body run. -/
theorem checkTags_noTrap {ok : Group → Bool} {body : Body} {iss : Issue} {s : State}
    (h : (checkTags ok body iss s).raised.mask = 0) : checkTags ok body iss s = body iss s := by
  unfold checkTags at h ⊢
  split at h
  · next hc => exact absurd ((Raised.mask_ownAll _ _).symm.trans h) hc.1
  · next hc => rw [if_neg hc]

/-- What VADD.I32 does to its group in the lanes of P. -/
def addStep (o : VOps) (p : Dword) (g : Group) : Group :=
  let r := fun l => intResult true o.sat ((vA g o l).toInt + (vB g o l).toInt)
  (g.setVF o.d 7 p (fun l => (r l).w)).raise (flagsOf p (fun l => (r l).fl))

theorem sweptAdd_eq {r : IterRec} {o : VOps} {iss : Issue} {s : State} (h : (sweptBody r 8 0 o iss s).raised.mask = 0) :
    sweptBody r 8 0 o iss s = Res.group s (fun _ => addStep o iss.p s.group) := by
  have e : sweptBody r 8 0 o = intBody 8 0 o := rfl
  rw [e] at h ⊢
  refine (checkTags_noTrap h).trans ((vecWrite_eq _ _ _ _ _).trans ?_)
  exact congrArg (fun u : State => ({ s := u } : Res)) (s.modGroup_congr rfl)

theorem addStep_spec (o : VOps) (p : Dword) (g : Group) : g.VecOnly [o.d] (addStep o p g)
    ∧ WroteV p o.d 7 (fun l => (intResult true o.sat ((vA g o l).toInt + (vB g o l).toInt)).w) g (addStep o p g) :=
  ⟨((Group.VecOnly.refl _ g).setVF (by simp) _ _ _).raise _, (g.wroteV p o.d 7 _).then_same (Group.vreg_raise _ _ _)⟩

/-- A tuple that writes one vector register, with the next record: the threads have gone on or stand at the sweep again. -/
theorem sweptWrite_holds {itn n d tag tick : Nat} {p : Dword} {f : Nat → Word} {s : State} {g h : Group} {nxt : IterRec × Bool}
    (hv : s.group.VecOnly [d] g) (hw : WroteV p d tag f s.group g)
    (hh : h = s.group.finish (s.issueOf n) tick false 0 0 (if nxt.2 = true then [] else [(s.group.issueSet, s.group.issuePc)])
      (g.setIt itn nxt.1)) :
    s.group.Went h n (if nxt.2 = true then 0 else s.group.issueSet) s.group.issuePc
      ∧ h.iter itn = nxt.1 ∧ SameIt [itn] s.group h ∧ SameS [] s.group h ∧ SameM [] s.group h ∧ SameV [d] s.group h
      ∧ WroteV p d tag f s.group h := by
  obtain ⟨-, hpc, hrep, hs, hm, hit, hvec⟩ := hv
  have hr := Group.sameRegs_finish s.group (s.issueOf n) tick false 0 0
    (if nxt.2 = true then [] else [(s.group.issueSet, s.group.issuePc)]) (g.setIt itn nxt.1)
  rw [← hh] at hr
  have hiter : ∀ k, h.iter k = if k = itn then nxt.1 else s.group.iter k := fun k => by
    rw [hr.iter]
    refine (tget_tput _ _ _ _ _).trans ?_
    rw [hit]
    rfl
  have hvreg : ∀ k, h.vreg k = g.vreg k := hr.vreg
  refine ⟨?_, by rw [hiter, if_pos rfl], fun k hk => by rw [hiter, if_neg (by simpa using hk)], fun k _ => ?_, fun k _ => ?_,
    fun k hk => (hvreg k).trans (hvec k hk), hw.then_same (hvreg d)⟩
  · rw [hh]
    refine Group.finish_went s n tick false _ _ _ ?_ (fun l hl => ?_) _ hpc hrep
    · cases nxt.2 <;> simp
    · cases hlast : nxt.2 <;> simp [hlast] at hl
      exact hl
  · rw [hr.sreg]; unfold Group.sreg; rw [Group.setIt_s, hs]
  · rw [hr.m, Group.setIt_m, hm]

/-- Settles O21: the sweep runs its stepped instruction and then writes its record (`sweep_noTrap`); VADD.I32 writes one register
(`addStep_spec`, `sweptWrite_holds`). -/
theorem sweepSteps : Obligations.SweepSteps := by
  unfold Obligations.SweepSteps
  intro itn maj min inner o o' s i rec0 i' n body res nxt hv hl hf hq hm hs
  have hexec := sweep_noTrap hv hl hf hq hm hs
  refine ⟨hexec, fun t hmaj hmin hnext => ?_⟩
  subst hmaj hmin
  obtain ⟨hvec, hw⟩ := addStep_spec o' (s.doers i') s.group
  refine sweptWrite_holds (tick := s.tick) hvec hw ?_
  have hp := State.quiet_present hq
  have hres := sweptAdd_eq hm
  have ht := Host.Outcome.next.inj (hnext.symm.trans hexec)
  rw [hres] at ht
  have hu : (Res.group s (fun _ => addStep o' ((s.issueOf n).by (s.doers i')).p s.group)).s.group =
      addStep o' (s.doers i') s.group := s.group_modGroup _ hp
  have hrec : (addStep o' (s.doers i') s.group).iter itn = rec0 := congrArg (fun it => tget ({} : IterRec) it itn) hvec.it
  rw [ht, State.group_modGroup _ _ (by simp [Res.group, hp]), State.group_modGroup _ _ (by simp [Res.group, hp]), hu, hrec]
  rfl

end Sys2Proof.Machine
end

section
/-! PROOFS. What translations, fault records and the movement of lines leave alone. -/
namespace Sys2Proof.Machine
open Sys2Proof

/-! ## Accesses and translations

An access counts at its channel or goes over a link; a translation walks tables, and keeps descriptors, leaves and table entries. -/

/-- A core but for its TLB. -/
def Core.untabled (c : Core) : Core := { c with tlb := [] }

/-- What accesses and translations leave alone: all but counters, messages, request numbers, and what is kept of tables. -/
def State.steady (s : State) : State × (Nat → Core) :=
  ({ s with cores := [], reqId := 0, counters := [], msgs := [], ports := [], descs := [], dieTlb := [], dieTabs := [], walks := [] },
    fun k => (s.coreAt k).untabled)

theorem State.steady_transmit (s : State) (m : Msg) : (s.transmit m).1.steady = s.steady := by
  unfold State.transmit
  split
  · rfl
  · split <;> rfl

theorem State.steady_post (s : State) (m : Msg) : (s.post m).steady = s.steady := by
  unfold State.post
  split
  · exact s.steady_transmit m
  · rfl

theorem State.steady_postAbroad (s : State) (vc flits ptr ln : Nat) : (s.postAbroad vc flits ptr ln).steady = s.steady := by
  unfold State.postAbroad
  split
  · rfl
  · exact State.steady_post _ _

theorem State.steady_reach (s : State) (die : Nat) (a : Acc) (rd : Bool) : (s.reach die a rd).steady = s.steady := by
  cases a with
  | peer pa => exact s.steady_postAbroad _ _ _ _
  | _ => rfl

theorem Walked.steady_reach (w : Walked) (die : Nat) (s : State) : (w.reach die s).steady = s.steady :=
  List.foldlRecOn (motive := fun t : State => t.steady = s.steady) w.reads _ rfl
    fun t ht a _ => (t.steady_reach die a true).trans ht

theorem State.steady_dieAdd (s : State) (die : Nat) (e : TlbEntry) : (s.dieAdd die e).steady = s.steady := by
  unfold State.dieAdd
  exact (apply_ite State.steady _ _ _).trans (ite_self _)

theorem State.steady_tlbAdd (s : State) (core : Nat) (e : TlbEntry) : (s.tlbAdd core e).steady = s.steady := by
  refine (State.steady_dieAdd _ _ _).trans (Prod.ext rfl (funext fun k => ?_))
  show Core.untabled (State.coreAt (s.modCore core _) k) = _
  rw [State.coreAt_modCore]
  split
  · next h => subst h; split <;> rfl
  · rfl

theorem State.steady_keepWalk (s : State) (die ctx va : Nat) (r : WalkRes) (tabs : List TabEntry) :
    (s.keepWalk die ctx va r tabs).steady = s.steady := by
  unfold State.keepWalk
  split
  · rfl
  · dsimp only
    split <;> exact s.steady_dieAdd _ _

theorem State.steady_startWalks (die n : Nat) (s : State) : (State.startWalks die n s).steady = s.steady := by
  induction n generalizing s with
  | zero => rfl
  | succ n ih =>
    unfold State.startWalks
    split
    · rfl
    split
    · rfl
    · rw [ih]
      split <;> exact Walked.steady_reach _ die s

theorem State.steady_endWalk (s : State) (w : PtWalk) : (s.endWalk w).steady = s.steady := by
  unfold State.endWalk
  rw [State.steady_startWalks]
  split
  · exact State.steady_keepWalk _ _ _ _ _ _
  · rfl

theorem State.steady_walkUntil (die : Nat) (p : State → Bool) (n : Nat) (s : State) :
    (State.walkUntil die p n s).steady = s.steady := by
  induction n generalizing s with
  | zero => rfl
  | succ n ih =>
    unfold State.walkUntil
    split
    · rfl
    split
    · rw [ih, State.steady_endWalk]
    · rfl

theorem State.steady_ownWalk (s : State) (die ctx va : Nat) : (s.ownWalk die ctx va).1.steady = s.steady := by
  unfold State.ownWalk
  rw [State.steady_keepWalk, Walked.steady_reach, State.steady_walkUntil]

theorem State.steady_missWalk (s : State) (core ctx va : Nat) : (s.missWalk core ctx va).1.steady = s.steady := by
  unfold State.missWalk
  split
  · exact s.steady_ownWalk _ _ _
  extract_lets _ t
  have ht : t.steady = s.steady := State.steady_walkUntil _ _ _ _
  split
  · split
    · rw [State.steady_endWalk, ht]
    · rw [State.steady_ownWalk, ht]
  · rw [State.steady_ownWalk, ht]

theorem State.steady_leafOf (s : State) (core ctx va : Nat) : (s.leafOf core ctx va).1.steady = s.steady := by
  have hm := s.steady_missWalk core ctx va
  unfold State.leafOf
  split
  · rfl
  split
  · exact s.steady_tlbAdd _ _
  split
  · next e => rw [State.steady_tlbAdd, ← hm, e]
  · next e => rw [← hm, e]

theorem State.steady_translate (s : State) (core ctx va : Nat) (need : Need) :
    (s.translate core ctx va need).1.steady = s.steady := by
  have hl := s.steady_leafOf core ctx va
  unfold State.translate
  split
  · next e => rw [← hl, e]
  · next e => split <;> rw [← hl, e]

theorem State.steady_desc (s : State) (die ctx i : Nat) : (s.desc die ctx i).1.steady = s.steady := by
  unfold State.desc
  split
  · rfl
  · exact (apply_ite State.steady _ _ _).trans ((ite_self _).trans (s.steady_reach _ _ _))

/-- The checks of a buffer access leave alone what translations do (R213). -/
theorem State.steady_bufCheck (s : State) (idx : Nat) (br : Bool) (off boff size : Nat) (k : AKind) :
    (s.bufCheck idx br off boff size k).1.steady = s.steady := by
  have hd := s.steady_desc (dieOf s.core) s.ctx idx
  unfold State.bufCheck
  split
  · rfl
  split
  next s1 d e =>
  rw [e] at hd
  split
  · exact hd
  split
  · exact hd
  split
  · exact hd
  have ht := s1.steady_translate s1.core s1.ctx (bits d 56 8 * 256 + boff) k.need
  dsimp only
  split <;> next e' => rw [← hd, ← ht, e']

section
variable {s t : State} (h : t.steady = s.steady)
include h

theorem State.mem_of_steady : t.mem = s.mem := congrArg (fun x => x.1.mem) h
theorem State.stores_of_steady : t.stores = s.stores := congrArg (fun x => x.1.stores) h
theorem State.coreAt_of_steady (k : Nat) : (t.coreAt k).untabled = (s.coreAt k).untabled := congrFun (congrArg Prod.snd h) k
theorem State.line_of_steady (c ln : Nat) : t.line c ln = s.line c ln :=
  (congrArg (fun x : Core => tget .i x.lines ln) (State.coreAt_of_steady h c) :)
theorem State.core_of_steady : t.core = s.core := congrArg (fun x => x.1.core) h
theorem State.grp_of_steady : t.grp = s.grp := congrArg (fun x => x.1.grp) h
theorem State.teamAt_of_steady (k : Nat) : (t.coreAt k).team = (s.coreAt k).team :=
  (congrArg Core.team (State.coreAt_of_steady h k) :)

end

/-! ## Fault records (R434 to R438) -/

/-- What a fault record leaves alone: the queued requests, the domain, and the cores but for their TLBs. -/
def State.recordless (s : State) : List MemReq × Domain × (Nat → Core) := (s.stores, s.domain, fun k => (s.coreAt k).untabled)

theorem State.recordless_of_steady {s t : State} (h : t.steady = s.steady) : t.recordless = s.recordless :=
  congrArg (fun x => (x.1.stores, x.1.domain, x.2)) h

theorem State.recordless_putAcc (s : State) (die : Nat) (a : Acc) (bs : List Byte) : (s.putAcc die a bs).recordless = s.recordless := by
  have h : ((s.reach die a false).writeAcc a bs).recordless = (s.reach die a false).recordless := by cases a <;> rfl
  exact h.trans (State.recordless_of_steady (s.steady_reach die a false))

theorem State.recordless_logEvent (s : State) (gridid ctx code sub : Nat) (u : HwUnit) (event arg : Nat) :
    (s.logEvent gridid ctx code sub u event arg).recordless = s.recordless := by
  unfold State.logEvent
  split
  · rfl
  · exact s.recordless_putAcc _ _ _

theorem State.recordless_recordAt (s : State) (core ctx off : Nat) : (s.recordAt core ctx off).1.recordless = s.recordless := by
  have hd := State.recordless_of_steady (s.steady_desc (dieOf core) ctx 4095)
  unfold State.recordAt
  split
  next u d e =>
    rw [e] at hd
    have ht := State.recordless_of_steady (u.steady_translate core ctx (bits d 56 8 * 256 + off) {})
    split <;> next e' => rw [← hd, ← ht, e']

theorem State.recordless_terminal (s : State) (core : Nat) (t : Team) (grp lane pc rep kind : Nat) (x : Trap) :
    (s.terminal core t grp lane pc rep kind x).recordless = s.recordless := by
  unfold State.terminal
  extract_lets s1 r s2
  have h2 : s2.recordless = s.recordless := s1.recordless_logEvent _ _ _ _ _ _ _
  clear_value s2
  have h3 := s2.recordless_recordAt core t.ctx 0
  split
  next s3 hd e =>
    have h3 : s3.recordless = s.recordless := by rw [e] at h3; exact h3.trans h2
    split
    · exact h3
    extract_lets s4 h n lost
    have h4 : s4.recordless = s.recordless := (State.recordless_of_steady (s3.steady_reach _ _ _)).trans h3
    have hlost : ∀ v : State, (lost v).recordless = v.recordless := fun v => v.recordless_putAcc _ _ _
    clear_value s4 lost
    split
    · exact (hlost s4).trans h4
    have h5 := s4.recordless_recordAt core t.ctx (64 * (n + 1))
    split
    next s5 a e =>
      have h5 : s5.recordless = s.recordless := by rw [e] at h5; exact h5.trans h4
      split
      · exact (hlost s5).trans h5
      · exact ((State.recordless_putAcc _ _ _ _).trans (s5.recordless_putAcc _ _ _)).trans h5

theorem State.coreAt_noteFault (s : State) (code detail k : Nat) : (s.noteFault code detail).coreAt k = s.coreAt k := by
  unfold State.noteFault State.noteError
  split
  · dsimp only
    split <;> rfl
  · rfl

theorem State.recordless_noteFault (s : State) (code detail : Nat) : (s.noteFault code detail).recordless = s.recordless := by
  unfold State.noteFault State.noteError
  split
  · dsimp only
    split <;> rfl
  · rfl

theorem State.deferredFault_svc {r : MemReq} (s : State) (va code sub detail : Nat) (h : r.grp = 16) :
    s.deferredFault r va code sub detail = (s.noteFault code detail).modCore r.core (Core.serviceFault ⟨code, sub, r.pc⟩) := if_pos h

/-- The late fault of a team's request is recorded, and its grid marked. -/
theorem State.deferredFault_team {r : MemReq} (s : State) (va code sub detail : Nat) (h : r.grp ≠ 16) :
    ∃ u : State, s.deferredFault r va code sub detail = u.markDeferred r.owner.1 ∧ u.recordless = s.recordless ∧ u.grids = s.grids :=
  ⟨_, if_neg h, (State.recordless_terminal _ _ _ _ _ _ _ _ _).trans (s.recordless_noteFault code detail),
    (State.grids_terminal _ _ _ _ _ _ _ _ _).trans (s.grids_noteFault code detail)⟩

/-- A late fault leaves the queued requests and the domain alone; a core at most takes a service fault (R216, R391). -/
theorem State.deferredFault_leaves (s : State) (r : MemReq) (va code sub detail : Nat) : let t := s.deferredFault r va code sub detail
    t.stores = s.stores ∧ t.domain = s.domain
      ∧ ∀ k, (t.coreAt k).untabled = (s.coreAt k).untabled ∨ ∃ f, t.coreAt k = (s.coreAt k).serviceFault f := by
  have h1 := s.recordless_noteFault code detail
  by_cases hg : r.grp = 16
  · rw [s.deferredFault_svc va code sub detail hg]
    refine ⟨congrArg Prod.fst h1, congrArg (·.2.1) h1, fun k => ?_⟩
    rw [State.coreAt_modCore, s.coreAt_noteFault, s.coreAt_noteFault]
    split
    · next e => exact .inr ⟨_, by rw [e]⟩
    · exact .inl rfl
  · obtain ⟨u, he, ht, -⟩ := s.deferredFault_team va code sub detail hg
    rw [he]
    exact ⟨congrArg Prod.fst ht, congrArg (·.2.1) ht, fun k => .inl (congrFun (congrArg (·.2.2) ht) k)⟩

/-- A grid but for whether a deferred fault has been detected for it (R439). -/
def Grid.undeferred (g : Grid) : Grid := { g with deferred := false }

theorem State.undeferred_markDeferred (s : State) (g k : Nat) :
    ((s.markDeferred g).grid k).undeferred = (s.grid k).undeferred := by
  show (tget ({} : Grid) (tput {} s.grids g { s.grid g with deferred := true }) k).undeferred = _
  rw [tget_tput]
  split
  · next e => subst e; rfl
  · rfl

theorem State.grid_congr {s t : State} (h : t.grids = s.grids) (g : Nat) : t.grid g = s.grid g := by
  unfold State.grid; rw [h]

/-- A late fault marks its grid deferred and changes nothing else of any grid (R439). -/
theorem State.deferredFault_grid (s : State) (r : MemReq) (va code sub detail g : Nat) :
    ((s.deferredFault r va code sub detail).grid g).undeferred = (s.grid g).undeferred := by
  have h1 := s.grids_noteFault code detail
  by_cases hg : r.grp = 16
  · rw [s.deferredFault_svc va code sub detail hg]
    exact congrArg _ (State.grid_congr h1 g)
  · obtain ⟨u, he, -, hu⟩ := s.deferredFault_team va code sub detail hg
    rw [he, State.undeferred_markDeferred]
    exact congrArg _ (State.grid_congr hu g)

end Sys2Proof.Machine
end

section
/-! PROOFS. Lines move: what the directories and the near caches do is a chain of three kinds of step. -/
namespace Sys2Proof.Machine
open Sys2Proof

/-! ## The movement of lines (R453 to R464, R472)

What a request sets going at the directories only moves lines, entries and messages, but for two things: partials that a home
combines, and steps of a failure that are logged. So every operation on the way is a chain of `State.Move`; `moves_f` says so of f,
in the order of the model, and what a chain keeps is read off its three kinds of step. -/

/-- A core but for its lines and its TLB. -/
def Core.lineless (c : Core) : Core := { c with lines := [], tlb := [] }

/-- The domain but for its home table and the failure that is being handled. -/
def Domain.unhomed (d : Domain) : Domain :=
  { d with ht := [], safeOf := none, rebuilt := false, rehash := 0, rest := [], moved := 0, frozen := none }

/-- What the movement of lines leaves alone: all but lines, entries, messages, refused requests, counters, what is kept of tables, and how
many events the log has dropped. -/
def State.ground (s : State) : State × (Nat → Core) :=
  ({ s with cores := [], reqId := 0, counters := [], msgs := [], ports := [], descs := [], dieTlb := [], dieTabs := [], walks := [],
            folds := [], xdies := [], dirWaits := [], retries := [], logDrop := 0, domain := s.domain.unhomed },
    fun k => (s.coreAt k).lineless)

theorem State.ground_of_steady {s t : State} (h : t.steady = s.steady) : t.ground = s.ground :=
  congrArg (fun x : State × (Nat → Core) => ({ x.1 with folds := [], xdies := [], dirWaits := [], retries := [], logDrop := 0,
                                                         domain := x.1.domain.unhomed }, fun k => (x.2 k).lineless)) h

theorem State.ground_domain {s : State} {d : Domain} (h : d.unhomed = s.domain.unhomed) :
    ({ s with domain := d } : State).ground = s.ground := by
  unfold State.ground
  dsimp only
  rw [h]
  rfl

/-- One step of the movement of lines: lines, entries and messages change; a partial of a core is combined; or a step of a failure is
logged. -/
inductive State.Move : State → State → Prop
  | lines {s t : State} (h : t.ground = s.ground) : Move s t
  | sends {s : State} (core pa : Nat) (p : Partial) (h : tget none (s.coreAt core).partials (pa / 4) = some p) :
      Move s ((s.modCore core (fun c => { c with partials := tput none c.partials (pa / 4) none })).combinePartial core pa p)
  | logs {s : State} (f n : Nat) (h : s.domain.failed ≠ []) : Move s (s.foldStep f n)

/-- State s comes from s₀ by the movement of lines. -/
abbrev State.Moves (s₀ s : State) : Prop := Relation.ReflTransGen State.Move s₀ s

/-! ### What stays -/

theorem State.combineAt_leaves (s : State) (r : MemReq) (pa va op ty : Nat) (v : Word) (mixed : Bool) :
    (s.combineAt r pa va op ty v mixed).stores = s.stores ∧ (s.combineAt r pa va op ty v mixed).domain = s.domain
      ∧ ∀ k, ((s.combineAt r pa va op ty v mixed).coreAt k).untabled = (s.coreAt k).untabled
        ∨ ∃ f, (s.combineAt r pa va op ty v mixed).coreAt k = (s.coreAt k).serviceFault f := by
  unfold State.combineAt
  extract_lets a
  split
  · exact s.deferredFault_leaves _ _ _ _ _
  · have h := s.recordless_putAcc (dieOf r.core) a (leBytes 4 (if mixed then s.openWord (2 + pa)
      else atomOp op ty (BitVec.ofNat 32 (leNat (s.readAcc a 4))) v).toNat)
    exact ⟨congrArg Prod.fst h, congrArg (·.2.1) h, fun k => .inl (congrFun (congrArg (·.2.2) h) k)⟩

section
variable {s₀ s : State}

/-- The movement of lines neither queues nor performs a request, and of the domain changes the home table alone. -/
theorem State.Moves.leaves (h : s₀.Moves s) : s.stores = s₀.stores ∧ s.domain.unhomed = s₀.domain.unhomed := by
  induction h with
  | refl => exact ⟨rfl, rfl⟩
  | @tail u _ _ hm ih =>
    obtain ⟨ihs, ihd⟩ := ih
    cases hm with
    | lines e => exact ⟨(congrArg (fun x => x.1.stores) e).trans ihs, (congrArg (fun x => x.1.domain) e).trans ihd⟩
    | sends core pa p _ =>
      obtain ⟨hs, hd, _⟩ := State.combineAt_leaves _ _ _ _ _ _ _ _
      exact ⟨hs.trans ihs, (congrArg Domain.unhomed hd).trans ihd⟩
    | logs f n _ =>
      have e : (u.foldStep f n).recordless = u.recordless := State.recordless_logEvent _ _ _ _ _ _ _ _
      exact ⟨(congrArg Prod.fst e).trans ihs, (congrArg (·.2.1.unhomed) e).trans ihd⟩

theorem State.Moves.failed (h : s₀.Moves s) : s.domain.failed = s₀.domain.failed := (congrArg Domain.failed h.leaves.2 :)

/-- No gathering partial stands at any core, and no step of a failure can be written to the log: no fold die has failed, or the log is
full. -/
structure State.Calm (s : State) : Prop where
  partials : ∀ k, (s.coreAt k).partials = []
  log : s.domain.failed = [] ∨ (s.logTail + 1) % 4096 = s.logHead

theorem State.Calm.of_ground {t : State} (h : s.Calm) (e : t.ground = s.ground) : t.Calm := by
  refine ⟨fun k => ?_, h.log.imp (fun hf => ?_) (fun hl => ?_)⟩
  · exact (congrArg (fun c : Core => c.partials) (congrFun (congrArg Prod.snd e) k) :).trans (h.partials k)
  · exact (congrArg (fun x => x.1.domain.failed) e).trans hf
  · have h1 : t.logTail = s.logTail := congrArg (fun x => x.1.logTail) e
    have h2 : t.logHead = s.logHead := congrArg (fun x => x.1.logHead) e
    rw [h1, h2, hl]

/-- Without partials and with nothing to log, the movement of lines leaves all else alone. -/
theorem State.Moves.ground (h : s₀.Moves s) (hc : s₀.Calm) : s.ground = s₀.ground := by
  induction h with
  | refl => rfl
  | tail _ hm ih =>
    have hu := hc.of_ground ih
    cases hm with
    | lines e => exact e.trans ih
    | sends core pa p hp => rw [hu.partials] at hp; cases hp
    | logs f n hf =>
      have hl := hu.log.resolve_left hf
      refine Eq.trans ?_ ih
      unfold State.foldStep State.logEvent
      rw [if_pos hl]
      rfl

/-! ### Branches, folds -/

theorem State.moves_of_ground {t : State} (h : s₀.Moves s) (e : t.ground = s.ground) : s₀.Moves t := h.tail (.lines e)

theorem moves_ite {c : Prop} [Decidable c] {a b : State} (ha : s₀.Moves a) (hb : s₀.Moves b) : s₀.Moves (if c then a else b) := by
  split
  · exact ha
  · exact hb

theorem moves_foldl {α : Type} {l : List α} {f : State → α → State} (h : s₀.Moves s)
    (hf : ∀ t a, s₀.Moves t → s₀.Moves (f t a)) : s₀.Moves (l.foldl f s) :=
  List.foldlRecOn l f h fun t ht a _ => hf t a ht

/-! ### Lines, messages, entries -/

theorem State.moves_setLine {core ln : Nat} {x : LineState} (h : s₀.Moves s) : s₀.Moves (s.setLine core ln x) := by
  refine State.moves_of_ground h (Prod.ext rfl (funext fun k => ?_))
  show ((s.setLine core ln x).coreAt k).lineless = _
  unfold State.setLine
  rw [State.coreAt_modCore]
  split
  · next e => rw [e]; rfl
  · rfl

theorem State.moves_mapLine {ln : Nat} {p : Nat → Bool} {f : LineState → LineState} (h : s₀.Moves s) : s₀.Moves (s.mapLine ln p f) := by
  refine State.moves_of_ground h (Prod.ext rfl (funext fun k => ?_))
  refine tget_map_view (v := Core.lineless) (w := Core.lineless) (fun c => ?_) (fun c => ?_) rfl s.cores k <;> split <;> rfl

theorem State.moves_post {m : Msg} (h : s₀.Moves s) : s₀.Moves (s.post m) :=
  State.moves_of_ground h (State.ground_of_steady (s.steady_post m))
theorem State.moves_postAbroad {vc flits ptr ln : Nat} (h : s₀.Moves s) : s₀.Moves (s.postAbroad vc flits ptr ln) :=
  State.moves_of_ground h (State.ground_of_steady (s.steady_postAbroad _ _ _ _))
theorem State.moves_reach {die : Nat} {a : Acc} {rd : Bool} (h : s₀.Moves s) : s₀.Moves (s.reach die a rd) :=
  State.moves_of_ground h (State.ground_of_steady (s.steady_reach _ _ _))
theorem State.moves_setX {ln d : Nat} (h : s₀.Moves s) : s₀.Moves (s.setX ln d) := State.moves_of_ground h rfl
theorem State.moves_modFold {f : Nat} {g : Fold → Fold} (h : s₀.Moves s) : s₀.Moves (s.modFold f g) := State.moves_of_ground h rfl
theorem State.moves_dropX {die ln : Nat} (h : s₀.Moves s) : s₀.Moves (s.dropX die ln) := moves_ite (State.moves_setX h) h
theorem State.moves_takeX {core ln : Nat} {x : LineState} (h : s₀.Moves s) : s₀.Moves (s.takeX core ln x) :=
  moves_ite (State.moves_setX h) (moves_ite h (State.moves_setX h))

theorem State.moves_leaveDie {die ln : Nat} (h : s₀.Moves s) : s₀.Moves (s.leaveDie die ln) := by
  unfold State.leaveDie
  extract_lets s1 _
  have h1 : s₀.Moves s1 := State.moves_dropX h
  split
  · exact h
  split
  · exact h1
  · exact moves_ite h1 (moves_ite (State.moves_modFold h1) (State.moves_modFold h1))

/-- Partials are combined where there are any. -/
theorem State.moves_sendPartials {core ln : Nat} (h : s₀.Moves s) : s₀.Moves (s.sendPartials core ln) := by
  unfold State.sendPartials
  refine moves_foldl h (fun t w ht => ?_)
  extract_lets pa
  split
  · exact ht
  · next p hp => exact ht.tail (.sends core pa p hp)

theorem State.moves_endEpoch {ln : Nat} (h : s₀.Moves s) : s₀.Moves (s.endEpoch ln) :=
  State.moves_mapLine (moves_foldl h (fun _ _ ht => State.moves_sendPartials ht))

theorem State.moves_sendInv {dies : List Nat} {ln core kind want : Nat} {safe : Bool} (h : s₀.Moves s) :
    s₀.Moves (s.sendInv dies ln core kind want safe) :=
  moves_foldl (State.moves_of_ground h rfl) (fun _ _ ht => State.moves_post ht)

theorem State.moves_lineAccess {die ln : Nat} {rd : Bool} (h : s₀.Moves s) : s₀.Moves (s.lineAccess die ln rd) := State.moves_reach h
theorem State.moves_backFrom {die ln : Nat} (h : s₀.Moves s) : s₀.Moves (s.backFrom die ln) := moves_ite (State.moves_lineAccess h) h

theorem State.moves_writeBack {core ln : Nat} (h : s₀.Moves s) : s₀.Moves (s.writeBack core ln) := by
  unfold State.writeBack
  split
  · extract_lets _ s1
    have h1 : s₀.Moves s1 := State.moves_lineAccess (State.moves_setX (State.moves_setLine h))
    split
    · exact moves_ite (State.moves_modFold h1) h1
    · exact h1
  · exact h

theorem State.moves_giveUp {core ln : Nat} (h : s₀.Moves s) : s₀.Moves (s.giveUp core ln) := by
  unfold State.giveUp
  extract_lets s1
  have h1 : s₀.Moves s1 := State.moves_sendPartials (State.moves_writeBack h)
  clear_value s1
  exact State.moves_leaveDie (State.moves_setLine h1)
theorem State.moves_makeRoom {core ln : Nat} (h : s₀.Moves s) : s₀.Moves (s.makeRoom core ln) := moves_ite h (State.moves_giveUp h)

theorem State.moves_take {core ln : Nat} {x : LineState} (h : s₀.Moves s) : s₀.Moves (s.take core ln x) := by
  unfold State.take
  extract_lets s1
  have h1 : s₀.Moves s1 := State.moves_takeX h
  exact moves_ite (State.moves_setLine (State.moves_makeRoom h1)) (State.moves_postAbroad (State.moves_setLine h1))

theorem State.moves_grantNow {core kind ln : Nat} (h : s₀.Moves s) : s₀.Moves (s.grantNow core kind ln) :=
  moves_ite (State.moves_take (State.moves_mapLine h)) (moves_ite (State.moves_take (State.moves_mapLine h)) h)

/-! ### Requests at the directory home -/

theorem State.moves_recall {f : Nat} {e : DirEntry} {core want : Nat} (h : s₀.Moves s) : s₀.Moves (s.recall f e core want) :=
  State.moves_sendInv (State.moves_modFold (moves_ite (State.moves_endEpoch h) h))

theorem State.moves_refuse {core ln kind : Nat} (h : s₀.Moves s) : s₀.Moves (s.refuse core ln kind) := by
  unfold State.refuse
  split <;> exact State.moves_of_ground h rfl

theorem State.moves_forward {ptr ln : Nat} (h : s₀.Moves s) : s₀.Moves (s.forward ptr ln) := State.moves_postAbroad h

theorem State.moves_serveRead {f core ln : Nat} {e : DirEntry} {safe : Bool} (h : s₀.Moves s) :
    s₀.Moves (s.serveRead f core ln e safe) := by
  unfold State.serveRead
  extract_lets _ s1 _
  have h1 : s₀.Moves s1 := moves_ite (State.moves_endEpoch h) h
  split
  · exact State.moves_take (State.moves_modFold (State.moves_lineAccess h1))
  split
  · exact State.moves_take (State.moves_modFold (State.moves_setX (State.moves_mapLine (State.moves_forward h1))))
  · exact State.moves_take (State.moves_modFold (moves_ite h1 (moves_ite (State.moves_lineAccess h1) (State.moves_forward h1))))

theorem State.moves_serveOwn {f core ln kind : Nat} {e : DirEntry} {asked : List Nat} {safe : Bool} (h : s₀.Moves s) :
    s₀.Moves (s.serveOwn f core ln kind e asked safe) := by
  unfold State.serveOwn
  extract_lets _ _ s1 s2 _ s3 s4 _ s5
  have h1 : s₀.Moves s1 := moves_ite (State.moves_endEpoch h) h
  have h2 : s₀.Moves s2 := moves_ite (State.moves_lineAccess h1) h1
  have h3 : s₀.Moves s3 := moves_ite (State.moves_backFrom h2) h2
  have h4 : s₀.Moves s4 := moves_ite h3 (State.moves_mapLine h3)
  have h5 : s₀.Moves s5 := State.moves_modFold h4
  exact moves_ite (State.moves_grantNow h5) (State.moves_sendInv h5)

theorem State.moves_serve {f core ln kind : Nat} {e : DirEntry} {asked : List Nat} {safe : Bool} (h : s₀.Moves s) :
    s₀.Moves (s.serve f core ln kind e asked safe) := moves_ite (State.moves_serveRead h) (State.moves_serveOwn h)

theorem State.moves_serveSafe {f core ln kind : Nat} (h : s₀.Moves s) : s₀.Moves (s.serveSafe f core ln kind) := by
  unfold State.serveSafe
  extract_lets s1 s2
  have h1 : s₀.Moves s1 := moves_ite (moves_foldl h (fun _ _ ht => State.moves_forward ht)) h
  exact State.moves_modFold (State.moves_serve (State.moves_endEpoch h1))

theorem State.moves_askHome {ln : Nat} (h : s₀.Moves s) : s₀.Moves (s.askHome ln) := moves_ite (State.moves_postAbroad h) h

theorem State.moves_dirRequest {core ln kind : Nat} (h : s₀.Moves s) : s₀.Moves (s.dirRequest core ln kind) := by
  unfold State.dirRequest
  extract_lets _ _ _ s1 drop
  have h1 : s₀.Moves s1 := State.moves_askHome h
  have hdrop : ∀ t, s₀.Moves t → s₀.Moves (drop t) := fun _ ht => State.moves_of_ground ht rfl
  clear_value s1 drop
  split
  · exact State.moves_refuse h1
  split
  · exact State.moves_serveSafe (hdrop _ h1)
  split
  · exact moves_ite (State.moves_refuse h1) (State.moves_serve (hdrop _ h1))
  split
  · split
    · exact State.moves_refuse (State.moves_recall h1)
    · exact State.moves_refuse h1
  · exact State.moves_serve (State.moves_modFold (hdrop _ h1))

theorem State.moves_invalidateDie {die ln : Nat} (h : s₀.Moves s) : s₀.Moves (s.invalidateDie die ln) := by
  unfold State.invalidateDie
  extract_lets s1 s2
  have h1 : s₀.Moves s1 := moves_ite (State.moves_endEpoch h) h
  have h2 : s₀.Moves s2 := by
    unfold s2
    split
    · exact moves_ite (State.moves_postAbroad h1) h1
    · exact State.moves_backFrom h1
  exact State.moves_dropX (State.moves_mapLine h2)

theorem State.moves_clearLine {ln : Nat} (h : s₀.Moves s) : s₀.Moves (s.clearLine ln) := by
  unfold State.clearLine
  extract_lets _ _ s1 s2
  have h1 : s₀.Moves s1 :=
    moves_foldl h (fun _ _ ht => moves_ite (State.moves_postAbroad ht) (moves_ite (State.moves_postAbroad ht) ht))
  have h2 : s₀.Moves s2 := moves_foldl (State.moves_endEpoch h1) (fun _ _ ht => State.moves_backFrom ht)
  exact State.moves_modFold (State.moves_setX (State.moves_mapLine h2))

/-! ### Entries that come and go -/

theorem State.moves_enterAt {f : Nat} {e : DirEntry} {stored : Bool} (h : s₀.Moves s) : s₀.Moves (s.enterAt f e stored) := by
  unfold State.enterAt
  extract_lets _ put
  have hput : ∀ (s : State), s₀.Moves s → s₀.Moves (put s) := fun _ ht => State.moves_modFold ht
  clear_value put
  split
  · split <;> exact State.moves_recall (hput _ h)
  · exact hput _ h

theorem State.moves_reenter {ln : Nat} (h : s₀.Moves s) : s₀.Moves (s.reenter ln) := moves_ite h (State.moves_enterAt h)
theorem State.moves_entryFor {ln : Nat} (h : s₀.Moves s) : s₀.Moves (s.entryFor ln) := moves_ite h (State.moves_reenter h)
theorem State.moves_regain {ln : Nat} (h : s₀.Moves s) : s₀.Moves (s.regain ln) :=
  moves_ite h (moves_ite (State.moves_modFold h) (State.moves_reenter h))

theorem State.moves_acknowledge {id : Nat} (h : s₀.Moves s) : s₀.Moves (s.acknowledge id) := by
  unfold State.acknowledge
  extract_lets s1 _ _ s2
  have h2 : s₀.Moves s2 := State.moves_of_ground h rfl
  exact moves_foldl h2 (fun _ _ ht =>
    moves_ite (State.moves_regain (State.moves_grantNow ht)) (State.moves_entryFor (State.moves_grantNow ht)))

theorem State.moves_settle {ln : Nat} (h : s₀.Moves s) : s₀.Moves (s.settle ln) :=
  moves_foldl h (fun _ _ ht => State.moves_acknowledge (State.moves_invalidateDie ht))

theorem State.moves_recallDone {f ln : Nat} (h : s₀.Moves s) : s₀.Moves (s.recallDone f ln) := by
  unfold State.recallDone
  split
  · exact moves_ite (State.moves_of_ground h rfl) h
  · exact h

theorem State.moves_settleSet {f ln : Nat} (h : s₀.Moves s) : s₀.Moves (s.settleSet f ln) :=
  moves_foldl h (fun _ _ ht => State.moves_recallDone (State.moves_settle ht))

theorem State.moves_of_onDie {t : State} {core ln kind : Nat} (h : s₀.Moves s) (e : s.onDie core ln kind = some t) : s₀.Moves t := by
  unfold State.onDie at e
  split at e
  · cases e
    exact State.moves_take (State.moves_mapLine h)
  split at e
  · cases e
    exact State.moves_take (State.moves_mapLine h)
  · cases e

theorem State.moves_dropLine {ln : Nat} (h : s₀.Moves s) : s₀.Moves (s.dropLine ln) := by
  unfold State.dropLine
  extract_lets s1
  have h1 : s₀.Moves s1 := State.moves_settle h
  clear_value s1
  exact moves_ite h1 (State.moves_of_ground (State.moves_clearLine h1) rfl)

theorem State.moves_peersReport {p : Nat → Bool} (h : s₀.Moves s) : s₀.Moves (s.peersReport p) :=
  moves_foldl h (fun _ _ ht => moves_ite (State.moves_regain (State.moves_takeX (State.moves_setLine ht))) ht)

theorem State.moves_moveEntries {old : Nat} {p : Nat → Bool} (h : s₀.Moves s) : s₀.Moves (s.moveEntries old p) := by
  unfold State.moveEntries
  extract_lets _ s1 s2 s3 s4
  have h1 : s₀.Moves s1 := State.moves_modFold h
  have h2 : s₀.Moves s2 := moves_foldl h1 (fun _ _ ht => moves_ite (State.moves_enterAt ht) ht)
  have h3 : s₀.Moves s3 := moves_ite (State.moves_peersReport h2) h2
  have h4 : s₀.Moves s4 := moves_foldl h3 (fun _ _ ht => State.moves_entryFor ht)
  exact moves_foldl h4 (fun _ _ ht => State.moves_modFold ht)

theorem State.moves_thaw (h : s₀.Moves s) : s₀.Moves s.thaw := by
  unfold State.thaw
  split
  · exact State.moves_moveEntries (State.moves_of_ground h rfl)
  · exact h

/-! ### Failures of fold dies, which are logged -/

theorem State.moves_beginFailure (h : s₀.Moves s) : s₀.Moves s.beginFailure := by
  unfold State.beginFailure
  split
  · exact h
  split
  · exact h
  · next f hf =>
    have hne : s₀.domain.failed ≠ [] := by
      intro he
      unfold Domain.nextFailed at hf
      have := List.find?_some hf
      rw [h.failed, he] at this
      simp at this
    have hstep : ∀ {t : State} (n : Nat), s₀.Moves t → s₀.Moves (t.foldStep f n) := fun n ht =>
      ht.tail (.logs f n (by rw [ht.failed]; exact hne))
    exact State.moves_of_ground (hstep 2 (hstep 1 h)) rfl

section
variable (hf : s₀.domain.failed ≠ [])
include hf

theorem State.moves_foldStep {f n : Nat} (h : s₀.Moves s) : s₀.Moves (s.foldStep f n) :=
  h.tail (.logs f n (by rw [h.failed]; exact hf))

theorem State.moves_rebuild {f : Nat} (h : s₀.Moves s) : s₀.Moves (s.rebuild f) := by
  unfold State.rebuild
  extract_lets ls
  have hu : s₀.Moves (ls.foldl State.reenter s) := moves_foldl h (fun _ _ ht => State.moves_reenter ht)
  refine moves_ite h (State.moves_foldStep hf (State.moves_of_ground hu (State.ground_domain ?_)))
  exact (h.leaves.2.trans hu.leaves.2.symm : s.domain.unhomed = _)

theorem State.moves_slotMoved {f i : Nat} (h : s₀.Moves s) : s₀.Moves (s.slotMoved f i) := by
  unfold State.slotMoved
  extract_lets _ s1 s2
  have h1 : s₀.Moves s1 := State.moves_of_ground h rfl
  have h2 : s₀.Moves s2 := State.moves_foldStep hf h1
  clear_value s1 s2
  exact moves_ite h1 (State.moves_beginFailure (State.moves_of_ground h2 rfl))

theorem State.moves_endFailure (h : s₀.Moves s) : s₀.Moves s.endFailure := by
  unfold State.endFailure
  split
  · exact State.moves_beginFailure h
  split
  · exact h
  · extract_lets s1 _ s2
    have h1 : s₀.Moves s1 := State.moves_rebuild hf h
    exact State.moves_moveEntries (moves_foldl (State.moves_of_ground h1 rfl) (fun _ _ ht => State.moves_slotMoved hf ht))

end

theorem State.moves_untilLive {ln n : Nat} (hn : n = 0 ∨ s₀.domain.failed ≠ []) (h : s₀.Moves s) :
    s₀.Moves (State.untilLive ln n s) := by
  induction n generalizing s with
  | zero => exact h
  | succ n ih =>
    have hf := hn.resolve_left (Nat.succ_ne_zero n)
    unfold State.untilLive
    exact moves_ite h (ih (.inr hf) (State.moves_endFailure hf h))

/-! ### Access to a line -/

theorem State.moves_serveReserved {f ln : Nat} (h : s₀.Moves s) : s₀.Moves (s.serveReserved f ln) := by
  unfold State.serveReserved
  refine moves_foldl h (fun _ _ ht => ?_)
  split
  · exact State.moves_settle (State.moves_dirRequest ht)
  · exact State.moves_modFold ht

theorem State.moves_clearWay {ln : Nat} (h : s₀.Moves s) : s₀.Moves (s.clearWay ln) := by
  unfold State.clearWay
  extract_lets s1 s2
  have h1 : s₀.Moves s1 := by
    refine State.moves_untilLive ?_ h
    rw [h.failed, List.length_eq_zero_iff]
    exact Decidable.em _
  have h2 : s₀.Moves s2 := moves_ite (State.moves_thaw h1) h1
  exact State.moves_settleSet (State.moves_settle h2)

theorem State.moves_enter {core ln kind : Nat} (h : s₀.Moves s) : s₀.Moves (s.enter core ln kind) := moves_ite (State.moves_setLine h) h

theorem State.moves_ask {core ln kind n : Nat} (h : s₀.Moves s) : s₀.Moves (State.ask core ln kind n s) := by
  induction n generalizing s with
  | zero => exact h
  | succ n ih =>
    unfold State.ask
    extract_lets s1
    have h1 : s₀.Moves s1 := State.moves_clearWay h
    split
    · exact State.moves_enter h1
    split
    · exact State.moves_of_onDie h1 ‹_›
    split
    · exact State.moves_enter (State.moves_clearWay (State.moves_dirRequest h1))
    · exact ih (State.moves_serveReserved (State.moves_clearWay (State.moves_dirRequest h1)))

theorem State.moves_obtain {core ln kind : Nat} (h : s₀.Moves s) : s₀.Moves (s.obtain core ln kind) :=
  moves_ite (State.moves_enter h) (State.moves_ask h)

theorem State.moves_uncache {ln : Nat} (h : s₀.Moves s) : s₀.Moves (s.uncache ln) :=
  State.moves_dropLine (State.moves_clearWay (State.moves_askHome h))

end

end Sys2Proof.Machine
end

section
/-! PROOFS. The oldest queued request is performed. -/
namespace Sys2Proof.Machine
open Sys2Proof

/-! ## Results that reach a group -/

/-- What a change of a group leaves alone: all but the groups and teams of the cores. -/
def State.ungrouped (s : State) : State × (Nat → Core) :=
  ({ s with cores := [] }, fun k => { s.coreAt k with team := none, svc := {} })

theorem State.ungrouped_modCore (s : State) (c : Nat) {f : Core → Core}
    (hf : ∀ x : Core, ({ f x with team := none, svc := {} } : Core) = { x with team := none, svc := {} }) :
    (s.modCore c f).ungrouped = s.ungrouped := by
  refine Prod.ext rfl (funext fun k => ?_)
  show ({ (s.modCore c f).coreAt k with team := none, svc := {} } : Core) = _
  rw [State.coreAt_modCore]
  split
  · next e => rw [hf, e]; rfl
  · rfl

theorem State.ungrouped_modTeamAt (s : State) (c : Nat) (f : Team → Team) : (s.modTeamAt c f).ungrouped = s.ungrouped :=
  s.ungrouped_modCore c fun _ => rfl

theorem State.ungrouped_modKept (s : State) (c g : Nat) (f : Group → Group) : (s.modKept c g f).ungrouped = s.ungrouped := by
  unfold State.modKept
  split
  · next e =>
    unfold State.modGroupAt
    rw [if_pos e]
    exact s.ungrouped_modCore c fun _ => rfl
  · refine List.foldlRecOn (motive := fun t : State => t.ungrouped = s.ungrouped) _ _ rfl fun t ht _ _ => ?_
    exact (State.ungrouped_modTeamAt t _ _).trans ht

theorem State.ungrouped_settleReq (s : State) (r : MemReq) : (s.settleReq r).ungrouped = s.ungrouped :=
  (apply_ite State.ungrouped _ _ _).trans ((congrArg (ite _ _) (s.ungrouped_modKept _ _ _)).trans (ite_self _))

theorem State.ungrouped_returns (s : State) (r : MemReq) (v : Word) : (s.returns r v).ungrouped = s.ungrouped := s.ungrouped_modKept _ _ _

section
variable {s t : State} (h : t.ungrouped = s.ungrouped)
include h

theorem State.mem_of_ungrouped : t.mem = s.mem := congrArg (fun x => x.1.mem) h
theorem State.stores_of_ungrouped : t.stores = s.stores := congrArg (fun x => x.1.stores) h
theorem State.line_of_ungrouped (c ln : Nat) : t.line c ln = s.line c ln :=
  (congrArg (fun x : Core => tget .i x.lines ln) (congrFun (congrArg Prod.snd h) c) :)
theorem State.partials_of_ungrouped (c : Nat) : (t.coreAt c).partials = (s.coreAt c).partials :=
  (congrArg Core.partials (congrFun (congrArg Prod.snd h) c) :)

end

/-- In a plain grid a result reaches one copy of its team, and no grid (R445). -/
theorem State.modKept_team {s : State} {c g : Nat} {tm : Team} (htm : (s.coreAt c).team = some tm) (hg : g ≠ 16)
    (hplain : (s.grid tm.grid).record.getLsbD 88 = false) (f : Group → Group) :
    ((s.modKept c g f).coreAt c).team = some (tm.modKept g f) ∧ (s.modKept c g f).grids = s.grids := by
  have hone : s.bothCopies c = [c] := by
    unfold State.bothCopies
    rw [htm]
    exact if_neg (by rw [hplain]; exact Bool.false_ne_true)
  have ht : s.modKept c g f = s.setCore c { s.coreAt c with team := some (tm.modKept g f) } := by
    unfold State.modKept
    rw [if_neg hg, hone]
    exact State.modTeamAt_of_team htm _
  rw [ht, State.coreAt_setCore, if_pos rfl]
  exact ⟨rfl, rfl⟩

/-! ## The oldest request -/

/-- The state in which the oldest request is performed: it has left the queue. -/
def State.queue (s : State) (rest : List MemReq) : State := { s with stores := rest }

theorem State.stores_queue (s : State) (rest : List MemReq) : (s.queue rest).stores = rest := rfl
theorem State.mem_queue (s : State) (rest : List MemReq) : (s.queue rest).mem = s.mem := rfl

theorem State.performHead_cons {s : State} {r : MemReq} {rest : List MemReq} (h : s.stores = r :: rest) :
    s.performHead = ((s.queue rest).performReq r).settleReq r := by
  unfold State.performHead
  rw [h]
  rfl

/-- A request that stands in the queue has not been performed. -/
theorem State.settleReq_queue_cons (s : State) (r : MemReq) (rest : List MemReq) :
    (s.queue (r :: rest)).settleReq r = s.queue (r :: rest) := by
  unfold State.settleReq State.queue
  simp

theorem execStorePerform_of_store {s : State} {r : MemReq} {rest : List MemReq} {pa va : Nat} {bs : List Byte}
    (h : s.stores = r :: rest) (hk : r.kind = .store pa va bs) :
    exec .storePerform s = .next (((s.queue rest).performReq r).settleReq r) := by
  have hn : s.storeNext = true := by unfold State.storeNext; simp [h, hk]
  show Host.Outcome.next (if s.storeNext then s.performHead else s) = _
  rw [if_pos hn, State.performHead_cons h]

theorem execMscAtomicStep_of_other {s : State} {r : MemReq} {rest : List MemReq}
    (h : s.stores = r :: rest) (hk : ∀ pa va bs, r.kind ≠ .store pa va bs) :
    exec .mscAtomicStep s = .next (((s.queue rest).performReq r).settleReq r) := by
  have hn : s.storeNext = false := by
    unfold State.storeNext
    rw [h]
    dsimp only
    split
    · next e => exact absurd e (hk _ _ _)
    · rfl
  show Host.Outcome.next (if s.storeNext then s else s.performHead) = _
  rw [hn, State.performHead_cons h]
  rfl

section
variable {s t : State} (h : t.ground = s.ground)
include h

theorem State.mem_of_ground : t.mem = s.mem := congrArg (fun x => x.1.mem) h
theorem State.stores_of_ground : t.stores = s.stores := congrArg (fun x => x.1.stores) h
theorem State.grids_of_ground : t.grids = s.grids := congrArg (fun x => x.1.grids) h
theorem State.homeOf_of_ground (pa : Nat) : t.homeOf pa = s.homeOf pa := congrArg (fun x => x.1.homeOf pa) h
theorem State.lateFault_of_ground (a : Acc) : t.lateFault a = s.lateFault a := by
  cases a with
  | mem k => exact (congrArg (fun x => x.1.lateFault (.mem k)) h :)
  | _ => rfl
theorem State.bytesAt_of_ground (k n : Nat) : t.bytesAt k n = s.bytesAt k n := congrArg (fun x => x.1.bytesAt k n) h
theorem State.team_of_ground (c : Nat) : (t.coreAt c).team = (s.coreAt c).team :=
  (congrArg Core.team (congrFun (congrArg Prod.snd h) c) :)
theorem State.partials_of_ground (c : Nat) : (t.coreAt c).partials = (s.coreAt c).partials :=
  (congrArg Core.partials (congrFun (congrArg Prod.snd h) c) :)

end

theorem State.byte_of_mem {s t : State} (h : t.mem = s.mem) (a : Nat) : t.byte a = s.byte a := congrArg (fun m => tget 0 m a) h
theorem State.bytesAt_of_mem {s t : State} (h : t.mem = s.mem) (k n : Nat) : t.bytesAt k n = s.bytesAt k n := by
  unfold State.bytesAt State.byte
  rw [h]

theorem State.byte_setBytes_outside (s : State) {k : Nat} {bs : List Byte} {a : Nat} (h : a < k ∨ k + bs.length ≤ a) :
    (s.setBytes k bs).byte a = s.byte a := by
  rw [State.byte_setBytes, if_neg (by omega)]

/-- t is s with the bytes bs at key and no other byte changed. -/
structure State.Wrote (s : State) (key : Nat) (bs : List Byte) (t : State) : Prop where
  inside : t.bytesAt key bs.length = bs
  outside : ∀ a, a < key ∨ key + bs.length ≤ a → t.byte a = s.byte a

theorem State.wrote_setBytes {s u t : State} {key : Nat} {bs : List Byte} (hu : u.mem = s.mem) (ht : t.mem = (u.setBytes key bs).mem) :
    s.Wrote key bs t where
  inside := (State.bytesAt_of_mem ht _ _).trans (u.bytesAt_setBytes key bs)
  outside a ha := ((State.byte_of_mem ht a).trans (u.byte_setBytes_outside ha)).trans (State.byte_of_mem hu a)

/-- What every entry of a table and its default have, each entry that is read has. -/
theorem tget_all {α : Type} {d : α} {P : α → Prop} (hd : P d) {l : Tbl α} (h : ∀ x ∈ l, P x.2) (k : Nat) : P (tget d l k) := by
  induction l with
  | nil => exact hd
  | cons x l ih =>
    unfold tget
    split
    · exact h x List.mem_cons_self
    · exact ih fun y hy => h y (List.mem_cons_of_mem x hy)

theorem State.partials_eq_nil {s : State} (h : ∀ c ∈ s.cores, c.2.partials = []) (k : Nat) : (s.coreAt k).partials = [] :=
  tget_all (P := fun c : Core => c.partials = []) rfl h k

/-! ### What a request finds, and where it stays -/

section
variable {s : State} {r : MemReq} {rest : List MemReq} {key pa : Nat}

/-- A write that its home lets through goes to its byte of memory. -/
theorem State.target_of_mem (va : Nat) (ha : s.access? (dieOf r.core) pa { w := true } = .mem key) (hp : s.poisoned key = false) :
    s.target r pa va = (s, some (.mem key)) := by
  have hf : s.lateFault (.mem key) = none := if_neg (by rw [hp]; exact Bool.false_ne_true)
  unfold State.target
  dsimp only
  rw [ha, hf]

theorem State.homeOf_of_access {m : Nat} {need : Need} (h : s.access? m pa need = .mem key) : s.homeOf pa = .mem key := by
  unfold State.access? at h
  unfold State.homeOf
  split at h
  · cases h
  split at h
  · cases h
  · cases h
  · cases h
  · next e =>
    rw [e]
    split at h
    · exact h
    · cases h

/-- A line can be sought without any other effect: the movement of lines leaves all else alone. -/
theorem State.calm_queue (hpart : ∀ c ∈ s.cores, c.2.partials = [])
    (hlog : s.domain.failed = [] ∨ (s.logTail + 1) % 4096 = s.logHead) (rest : List MemReq) : (s.queue rest).Calm :=
  ⟨State.partials_eq_nil (s := s) hpart, hlog⟩

/-- Where a request for a line that its core cannot have yet leaves things (R464). -/
theorem State.queued_stays {u : State} (hu : u.ground = (s.queue rest).ground) :
    ((u.queue (r :: u.stores)).settleReq r).stores = r :: rest ∧ ((u.queue (r :: u.stores)).settleReq r).mem = s.mem
      ∧ ∀ c ln, ((u.queue (r :: u.stores)).settleReq r).line c ln = u.line c ln := by
  rw [State.settleReq_queue_cons]
  exact ⟨congrArg (List.cons r) (State.stores_of_ground hu), (State.mem_of_ground hu : u.mem = _), fun _ _ => rfl⟩

variable (hc : (s.queue rest).Calm)
include hc

theorem State.ground_obtain (core ln kind : Nat) : ((s.queue rest).obtain core ln kind).ground = (s.queue rest).ground :=
  (State.moves_obtain .refl).ground hc
theorem State.ground_uncache (ln : Nat) : ((s.queue rest).uncache ln).ground = (s.queue rest).ground :=
  (State.moves_uncache .refl).ground hc

/-- Where a step at memory that cannot be made yet leaves things (R464). -/
theorem State.atMemory_stays {rd : Bool} {a : Acc} {f : State → State}
    (hl : ((s.queue rest).uncache (pa / 128)).uncached (pa / 128) = false) :
    (((s.queue rest).atMemory r pa rd a f).settleReq r).stores = r :: rest
      ∧ (((s.queue rest).atMemory r pa rd a f).settleReq r).mem = s.mem := by
  obtain ⟨hstores, hmem, -⟩ := State.queued_stays (r := r) (State.ground_uncache hc (pa / 128))
  have e : (s.queue rest).atMemory r pa rd a f =
      ((s.queue rest).uncache (pa / 128)).queue (r :: ((s.queue rest).uncache (pa / 128)).stores) := by
    unfold State.atMemory
    dsimp only
    rw [hl]
    rfl
  rw [e]
  exact ⟨hstores, hmem⟩

/-- What a step at memory finds once its line is cached nowhere. -/
theorem State.atMemory_runs {rd : Bool} {f : State → State}
    (hl : ((s.queue rest).uncache (pa / 128)).uncached (pa / 128) = true) :
    ∃ u : State, (s.queue rest).atMemory r pa rd (.mem key) f = f u ∧ u.ground = (s.queue rest).ground := by
  unfold State.atMemory
  extract_lets t
  have hg : t.ground = (s.queue rest).ground := State.ground_uncache hc (pa / 128)
  have hl : t.uncached (pa / 128) = true := hl
  clear_value t
  refine ⟨t.reach (dieOf r.core) (.mem key) rd, ?_, ?_⟩
  · rw [if_pos hl]
  exact (State.ground_of_steady (t.steady_reach (dieOf r.core) (.mem key) rd)).trans hg

end

end Sys2Proof.Machine
end

section
/-! PROOFS. A store, a reduction, a nibble store and an atomic, each as the oldest request (O37). -/
namespace Sys2Proof.Machine
open Sys2Proof

section
variable {s : State} {r : MemReq} {rest : List MemReq} {key pa : Nat}

/-- The four bytes of an element as a word. -/
def State.wordAt (s : State) (key : Nat) : Word := BitVec.ofNat 32 (leNat (s.bytesAt key 4))

/-- What performing the oldest request leaves: the request has gone, and its group may have had a result. -/
theorem State.settled_frame (u : State) (r : MemReq) :
    (u.settleReq r).stores = u.stores ∧ (u.settleReq r).mem = u.mem ∧ ∀ c ln, (u.settleReq r).line c ln = u.line c ln :=
  have h := u.ungrouped_settleReq r
  ⟨State.stores_of_ungrouped h, State.mem_of_ungrouped h, State.line_of_ungrouped h⟩

theorem State.mem_of_queue {u : State} (hg : u.ground = (s.queue rest).ground) : u.mem = s.mem := (State.mem_of_ground hg :)
theorem State.stores_of_queue {u : State} (hg : u.ground = (s.queue rest).ground) : u.stores = rest := (State.stores_of_ground hg :)
theorem State.wordAt_of_mem {s t : State} (h : t.mem = s.mem) (k : Nat) : t.wordAt k = s.wordAt k :=
  congrArg (fun l => BitVec.ofNat 32 (leNat l)) (State.bytesAt_of_mem h k 4)

/-- A store of a core that has its line in M writes its bytes, and no other (R461). -/
theorem State.storeAt_held {u : State} {bs : List Byte} (hg : u.ground = (s.queue rest).ground) :
    let t := (u.setBytes key bs).settleReq r
    t.stores = rest ∧ s.Wrote key bs t ∧ ∀ c ln, t.line c ln = u.line c ln := by
  intro t
  obtain ⟨hs, hm, hl⟩ := (u.setBytes key bs).settled_frame r
  have hu : (u.setBytes key bs).stores = rest := (State.stores_of_queue hg : u.stores = rest)
  exact ⟨hs.trans hu, State.wrote_setBytes (State.mem_of_queue hg) hm, hl⟩

theorem State.storeAt_mem (s : State) (r : MemReq) (pa key : Nat) (bs : List Byte) :
    s.storeAt r pa (.mem key) bs =
      if permits ((s.obtain r.core (pa / 128) 0).line r.core (pa / 128)) 0 then (s.obtain r.core (pa / 128) 0).setBytes key bs
      else (s.obtain r.core (pa / 128) 0).queue (r :: (s.obtain r.core (pa / 128) 0).stores) := rfl

theorem State.redAt_eq (s : State) (r : MemReq) (pa va op ty : Nat) (v : Word) :
    s.redAt r pa va op ty v =
      if permits ((s.obtain r.core (pa / 128) 1).line r.core (pa / 128)) 1 then (s.obtain r.core (pa / 128) 1).redPartial r pa va op ty v
      else (s.obtain r.core (pa / 128) 1).queue (r :: (s.obtain r.core (pa / 128) 1).stores) := rfl

theorem State.performReq_store {va : Nat} {bs : List Byte} (hk : r.kind = .store pa va bs)
    (ha : s.access? (dieOf r.core) pa { w := true } = .mem key) (hp : s.poisoned key = false) :
    s.performReq r = s.storeAt r pa (.mem key) bs := by
  unfold State.performReq
  rw [hk]
  dsimp only
  rw [State.target_of_mem va ha hp]

/-- What writes 4 bits of a byte (R207). -/
def nibbleOf (high : Bool) (v : Byte) (b : Nat) : Nat := if high then v.toNat % 16 * 16 + b % 16 else b / 16 * 16 + v.toNat % 16

theorem State.performReq_nibble {va : Nat} {high : Bool} {v : Byte} (hk : r.kind = .nibble pa va high v)
    (ha : s.access? (dieOf r.core) pa { w := true } = .mem key) (hp : s.poisoned key = false) :
    s.performReq r = s.atMemory r pa false (.mem key)
      (fun s => s.setBytes key [BitVec.ofNat 8 (nibbleOf high v (((s.readAcc (.mem key) 1).headD 0).toNat))]) := by
  unfold State.performReq
  rw [hk]
  dsimp only
  rw [State.target_of_mem va ha hp]
  rfl

theorem State.performReq_combine {va op ty : Nat} {v : Word} (hk : r.kind = .combine pa va op ty v)
    (ha : s.access? (dieOf r.core) pa { w := true } = .mem key) (hp : s.poisoned key = false) :
    s.performReq r =
      if 16 ≤ op then s.atMemory r pa false (.mem key) (fun s => s.combineAt r pa va op ty v) else s.redAt r pa va op ty v := by
  unfold State.performReq
  rw [hk]
  dsimp only
  rw [State.target_of_mem va ha hp]

/-- What an AMO or a CAS writes (R218, R219). -/
def amoOf (op ty : Nat) (v c m : Word) : Word := if op = 7 then (if m = c then v else m) else atomOp op ty m v

theorem State.performReq_amo {op ty va : Nat} {v c : Word} (hk : r.kind = .amo op ty pa va v c) (ha : s.atomicAt pa = .mem key) :
    s.performReq r = s.atMemory r pa true (.mem key)
      (fun s => (s.setBytes key (leBytes 4 (amoOf op ty v c (s.wordAt key)).toNat)).returns r (s.wordAt key)) := by
  unfold State.performReq
  rw [hk]
  dsimp only
  rw [ha]
  rfl

theorem nibbleOf_lt {b : Nat} (hb : b < 256) (high : Bool) (v : Byte) : nibbleOf high v b < 256 := by
  unfold nibbleOf
  split <;> omega

/-- A reduction with its home writes the combined value of its element (R219, R220). -/
theorem State.combineAt_mem {u : State} {va op ty : Nat} {v : Word} (hg : u.homeOf pa = .mem key) (hp : u.poisoned key = false) :
    ∃ w : State, u.combineAt r pa va op ty v = w.setBytes key (leBytes 4 (atomOp op ty (u.wordAt key) v).toNat)
      ∧ w.steady = u.steady := by
  have hf : u.lateFault (.mem key) = none := if_neg (by rw [hp]; exact Bool.false_ne_true)
  refine ⟨u.reach (dieOf r.core) (.mem key) false, ?_, u.steady_reach _ _ _⟩
  unfold State.combineAt
  dsimp only
  rw [hg, hf]
  rfl

/-- A core's first contribution to an element is its partial (R220). -/
theorem State.redPartial_first {u : State} {va op ty : Nat} {v : Word} (hn : (u.coreAt r.core).partials = []) :
    ∃ p, tget none ((u.redPartial r pa va op ty v).coreAt r.core).partials (pa / 4) = some p
      ∧ p.op = op ∧ p.ty = ty ∧ p.val = v ∧ p.mixed = false := by
  unfold State.redPartial
  rw [State.coreAt_modCore, if_pos rfl]
  dsimp only
  rw [tget_tput, if_pos rfl, hn]
  exact ⟨_, rfl, rfl, rfl, rfl, rfl⟩

/-- A request has been performed: its outstanding results wait for nothing more. -/
def Group.unwait (id : Nat) (g : Group) : Group :=
  { g with outstanding := g.outstanding.map (fun o => if o.req = id then { o with req := 0 } else o) }
/-- A value joins the outstanding results of a request. -/
def Group.receive (id lane : Nat) (v : Word) (g : Group) : Group :=
  { g with outstanding := g.outstanding.map (fun o =>
      if o.req = id then { o with results := o.results.map (fun x => match x with
        | .vec n t vs => .vec n t (vs ++ [(lane, v)]) | x => x) } else o) }

theorem State.returns_eq (s : State) (r : MemReq) (v : Word) : s.returns r v = s.modKept r.core r.grp (Group.receive r.id r.lane v) := by
  unfold State.returns Group.receive
  rfl
theorem State.settleReq_last {s : State} {r : MemReq} (h : ∀ x ∈ s.stores, x.id ≠ r.id) :
    s.settleReq r = s.modKept r.core r.grp (Group.unwait r.id) := by
  unfold State.settleReq
  rw [if_neg]
  · rfl
  · simpa using h

/-- The result of an AMO or a CAS joins the one outstanding result that waits for its request, which then waits for nothing more
(R218, R219). -/
theorem State.amo_returns {u : State} {tm : Team} {m : Word} {d : List Dest} {q w : Nat} (htm : (u.coreAt r.core).team = some tm)
    (hg : r.grp ≠ 16) (hplain : (u.grid tm.grid).record.getLsbD 88 = false)
    (ho : (tm.group r.grp).outstanding = [{ req := r.id, dests := d, results := [.vec q w []] }])
    (hlast : ∀ x ∈ u.stores, x.id ≠ r.id) :
    (((((u.returns r m).settleReq r).coreAt r.core).team.getD {}).group r.grp).outstanding =
      [{ req := 0, dests := d, results := [.vec q w [(r.lane, m)]] }] := by
  obtain ⟨ht1, hgr⟩ := State.modKept_team htm hg hplain (Group.receive r.id r.lane m)
  rw [← State.returns_eq] at ht1 hgr
  have hlast' : ∀ x ∈ (u.returns r m).stores, x.id ≠ r.id := by
    rwa [State.stores_of_ungrouped (u.ungrouped_returns r m)]
  have hplain' : ((u.returns r m).grid tm.grid).record.getLsbD 88 = false := by rwa [State.grid_congr (s := u) hgr]
  obtain ⟨ht2, -⟩ := State.modKept_team (tm := tm.modKept r.grp _) ht1 hg hplain' (Group.unwait r.id)
  rw [State.settleReq_last hlast', ht2]
  simp [Team.group_modKept, Group.unwait, Group.receive, ho]

/-! ## Each kind of request as the oldest one -/

section
variable (hs : s.stores = r :: rest) (hc : (s.queue rest).Calm)
include hs hc

theorem execStorePerform_result {va : Nat} {bs : List Byte} (hp : s.poisoned key = false) (hk : r.kind = .store pa va bs)
    (ha : s.access? (dieOf r.core) pa { w := true } = .mem key) :
    ∃ t, exec .storePerform s = .next t
      ∧ t.line r.core (pa / 128) = ((s.queue rest).obtain r.core (pa / 128) 0).line r.core (pa / 128)
      ∧ (permits (((s.queue rest).obtain r.core (pa / 128) 0).line r.core (pa / 128)) 0 = true → t.stores = rest ∧ s.Wrote key bs t)
      ∧ (permits (((s.queue rest).obtain r.core (pa / 128) 0).line r.core (pa / 128)) 0 = false → t.stores = r :: rest ∧ t.mem = s.mem) := by
  refine ⟨_, execStorePerform_of_store hs hk, ?_⟩
  rw [State.performReq_store (s := s.queue rest) hk ha hp, State.storeAt_mem]
  have hg := State.ground_obtain hc r.core (pa / 128) 0
  generalize (s.queue rest).obtain r.core (pa / 128) 0 = u at hg ⊢
  obtain ⟨hstores, hwrote, hline⟩ := State.storeAt_held (r := r) (key := key) (bs := bs) hg
  obtain ⟨hqs, hqm, hql⟩ := State.queued_stays (r := r) hg
  cases hh : permits (u.line r.core (pa / 128)) 0 with
  | true =>
    rw [if_pos rfl]
    exact ⟨hline _ _, fun _ => ⟨hstores, hwrote⟩, nofun⟩
  | false =>
    rw [if_neg Bool.false_ne_true]
    exact ⟨hql _ _, nofun, fun _ => ⟨hqs, hqm⟩⟩

theorem execMscAtomicStep_nibble {va : Nat} {high : Bool} {v : Byte} (hp : s.poisoned key = false) (hk : r.kind = .nibble pa va high v)
    (ha : s.access? (dieOf r.core) pa { w := true } = .mem key) :
    ∃ t, exec .mscAtomicStep s = .next t
      ∧ (((s.queue rest).uncache (pa / 128)).uncached (pa / 128) = false → t.stores = r :: rest ∧ t.mem = s.mem)
      ∧ (((s.queue rest).uncache (pa / 128)).uncached (pa / 128) = true →
          t.stores = rest ∧ s.Wrote key [BitVec.ofNat 8 (nibbleOf high v (s.byte key).toNat)] t) := by
  refine ⟨_, execMscAtomicStep_of_other hs (fun _ _ _ h => by rw [hk] at h; cases h), ?_⟩
  rw [State.performReq_nibble (s := s.queue rest) hk ha hp]
  refine ⟨fun hl => State.atMemory_stays hc hl, fun hl => ?_⟩
  obtain ⟨u, hu, hg⟩ := State.atMemory_runs (r := r) (rd := false) (key := key)
    (f := fun s => s.setBytes key [BitVec.ofNat 8 (nibbleOf high v (((s.readAcc (.mem key) 1).headD 0).toNat))]) hc hl
  have hb : ((u.readAcc (.mem key) 1).headD 0).toNat = (s.byte key).toNat := by
    show (u.byte (key + 0)).toNat = _
    rw [Nat.add_zero, State.byte_of_mem (State.mem_of_queue hg)]
  rw [hu, hb]
  obtain ⟨hstores, hwrote, -⟩ := State.storeAt_held (r := r) (key := key)
    (bs := [BitVec.ofNat 8 (nibbleOf high v (s.byte key).toNat)]) hg
  exact ⟨hstores, hwrote⟩

/-- A reduction with its home (R219). -/
theorem execMscAtomicStep_home {va op ty : Nat} {v : Word} (hp : s.poisoned key = false) (hk : r.kind = .combine pa va op ty v)
    (ha : s.access? (dieOf r.core) pa { w := true } = .mem key) (hop : 16 ≤ op) :
    ∃ t, exec .mscAtomicStep s = .next t
      ∧ (((s.queue rest).uncache (pa / 128)).uncached (pa / 128) = false → t.stores = r :: rest ∧ t.mem = s.mem)
      ∧ (((s.queue rest).uncache (pa / 128)).uncached (pa / 128) = true →
          t.stores = rest ∧ s.Wrote key (leBytes 4 (atomOp op ty (s.wordAt key) v).toNat) t) := by
  refine ⟨_, execMscAtomicStep_of_other hs (fun _ _ _ h => by rw [hk] at h; cases h), ?_⟩
  rw [State.performReq_combine (s := s.queue rest) hk ha hp, if_pos hop]
  refine ⟨fun hl => State.atMemory_stays hc hl, fun hl => ?_⟩
  obtain ⟨u, hu, hg⟩ := State.atMemory_runs (r := r) (rd := false) (key := key) (f := fun s => s.combineAt r pa va op ty v) hc hl
  obtain ⟨w, hw, hws⟩ := State.combineAt_mem (r := r) (u := u) (va := va) (op := op) (ty := ty) (v := v)
    ((State.homeOf_of_ground hg pa).trans (State.homeOf_of_access (s := s) ha)) ((congrArg (fun x => x.1.poisoned key) hg :).trans hp)
  rw [hu, hw, State.wordAt_of_mem (State.mem_of_queue hg)]
  obtain ⟨hstores, hm, -⟩ := (w.setBytes key (leBytes 4 (atomOp op ty (s.wordAt key) v).toNat)).settled_frame r
  exact ⟨hstores.trans ((State.stores_of_steady hws).trans (State.stores_of_queue hg)),
    State.wrote_setBytes ((State.mem_of_steady hws).trans (State.mem_of_queue hg)) hm⟩

/-- A reduction with its core's partial (R220). -/
theorem execMscAtomicStep_partial {va op ty : Nat} {v : Word} (hp : s.poisoned key = false) (hk : r.kind = .combine pa va op ty v)
    (ha : s.access? (dieOf r.core) pa { w := true } = .mem key) (hop : ¬ 16 ≤ op) :
    ∃ t, exec .mscAtomicStep s = .next t
      ∧ (permits (((s.queue rest).obtain r.core (pa / 128) 1).line r.core (pa / 128)) 1 = false → t.stores = r :: rest ∧ t.mem = s.mem)
      ∧ (permits (((s.queue rest).obtain r.core (pa / 128) 1).line r.core (pa / 128)) 1 = true → t.stores = rest ∧ t.mem = s.mem
          ∧ ∃ p, tget none (t.coreAt r.core).partials (pa / 4) = some p ∧ p.op = op ∧ p.ty = ty ∧ p.val = v ∧ p.mixed = false) := by
  refine ⟨_, execMscAtomicStep_of_other hs (fun _ _ _ h => by rw [hk] at h; cases h), ?_⟩
  rw [State.performReq_combine (s := s.queue rest) hk ha hp, if_neg hop, State.redAt_eq]
  have hg := State.ground_obtain hc r.core (pa / 128) 1
  generalize (s.queue rest).obtain r.core (pa / 128) 1 = u at hg ⊢
  obtain ⟨hqs, hqm, -⟩ := State.queued_stays (r := r) hg
  refine ⟨fun hh => ?_, fun hh => ?_⟩
  · rw [hh]
    exact ⟨hqs, hqm⟩
  · rw [hh]
    obtain ⟨hstores, hm, -⟩ := (u.redPartial r pa va op ty v).settled_frame r
    obtain ⟨p, hpp, hkinds⟩ := State.redPartial_first (r := r) (pa := pa) (va := va) (op := op) (ty := ty) (v := v)
      ((State.partials_of_ground hg r.core).trans (hc.partials r.core))
    have hs' : u.stores = rest := State.stores_of_queue hg
    have hm' : u.mem = s.mem := State.mem_of_queue hg
    refine ⟨hstores.trans hs', hm.trans hm', p, ?_, hkinds⟩
    exact (congrArg (fun l => tget none l (pa / 4)) (State.partials_of_ungrouped (State.ungrouped_settleReq _ r) r.core)).trans hpp

theorem execMscAtomicStep_amo {op ty va : Nat} {v c : Word} (hk : r.kind = .amo op ty pa va v c) (ha : s.atomicAt pa = .mem key) :
    ∃ t, exec .mscAtomicStep s = .next t
      ∧ (((s.queue rest).uncache (pa / 128)).uncached (pa / 128) = false → t.stores = r :: rest ∧ t.mem = s.mem)
      ∧ (((s.queue rest).uncache (pa / 128)).uncached (pa / 128) = true →
          t.stores = rest ∧ s.Wrote key (leBytes 4 (amoOf op ty v c (s.wordAt key)).toNat) t
          ∧ ∀ tm d q w, (s.coreAt r.core).team = some tm → r.grp < 16 → (s.grid tm.grid).record.getLsbD 88 = false →
            (tm.group r.grp).outstanding = [{ req := r.id, dests := d, results := [.vec q w []] }] → (∀ x ∈ rest, x.id ≠ r.id) →
            (((t.coreAt r.core).team.getD {}).group r.grp).outstanding =
              [{ req := 0, dests := d, results := [.vec q w [(r.lane, s.wordAt key)]] }]) := by
  refine ⟨_, execMscAtomicStep_of_other hs (fun _ _ _ h => by rw [hk] at h; cases h), ?_⟩
  rw [State.performReq_amo (s := s.queue rest) hk ha]
  refine ⟨fun hl => State.atMemory_stays hc hl, fun hl => ?_⟩
  obtain ⟨u, hu, hg⟩ := State.atMemory_runs (r := r) (rd := true) (key := key)
    (f := fun s => (s.setBytes key (leBytes 4 (amoOf op ty v c (s.wordAt key)).toNat)).returns r (s.wordAt key)) hc hl
  rw [hu, State.wordAt_of_mem (State.mem_of_queue hg)]
  have hw : (u.setBytes key (leBytes 4 (amoOf op ty v c (s.wordAt key)).toNat)).stores = rest := (State.stores_of_queue hg : u.stores = rest)
  have hun := (State.ungrouped_settleReq _ r).trans
    ((u.setBytes key (leBytes 4 (amoOf op ty v c (s.wordAt key)).toNat)).ungrouped_returns r (s.wordAt key))
  refine ⟨(State.stores_of_ungrouped hun).trans hw,
    State.wrote_setBytes (State.mem_of_queue hg) (State.mem_of_ungrouped hun), fun tm d q w htm hlt hplain ho hlast => ?_⟩
  refine State.amo_returns ((State.team_of_ground hg r.core).trans htm) (by omega) ?_ ho (by rwa [hw])
  exact (congrArg (fun g => g.record.getLsbD 88) (State.grid_congr (State.grids_of_ground hg) tm.grid)).trans hplain

end

end

/-- Settles O37: the lines that a request needs move without any other effect, and each kind of request then does its own write, or goes
back to the head of the queue. -/
theorem requestsPerform : Obligations.RequestsPerform := by
  unfold Obligations.RequestsPerform
  intro s r rest key hs hpart hp hlog v0 stays
  have hc : (s.queue rest).Calm := State.calm_queue hpart hlog rest
  refine ⟨fun pa va bs hk ha => ?_, fun pa va high v hk ha => ?_, fun pa va op ty v hk ha => ?_, fun op ty pa va v c hk ha => ?_⟩
  · obtain ⟨t, he, hline, hheld, hnot⟩ := execStorePerform_result hs hc hp hk ha
    exact ⟨t, he, hline, fun h => ⟨(hheld h).1, (hheld h).2.inside, (hheld h).2.outside⟩, hnot⟩
  · obtain ⟨t, he, hnot, hlive⟩ := execMscAtomicStep_nibble hs hc hp hk ha
    refine ⟨t, he, hnot, fun h => ?_⟩
    obtain ⟨hstores, hwrote⟩ := hlive h
    have hb : some (t.byte key) = _ := congrArg List.head? hwrote.inside
    rw [List.head?_cons, Option.some_inj] at hb
    refine ⟨hstores, fun a ha => hwrote.outside a (by simp only [List.length_singleton]; omega), ?_⟩
    rw [hb, BitVec.toNat_ofNat, Nat.mod_eq_of_lt (nibbleOf_lt (s.byte key).isLt high v)]
    rfl
  · by_cases hop : 16 ≤ op
    · obtain ⟨t, he, hnot, hlive⟩ := execMscAtomicStep_home hs hc hp hk ha hop
      refine ⟨t, he, fun h => absurd hop (by omega), fun h => absurd hop (by omega), fun _ => hnot, fun _ h => ?_⟩
      obtain ⟨hstores, hin, hout⟩ := hlive h
      rw [leBytes_length] at hin hout
      exact ⟨hstores, hout, hin⟩
    · obtain ⟨t, he, hnot, hheld⟩ := execMscAtomicStep_partial hs hc hp hk ha hop
      exact ⟨t, he, fun _ => hnot, fun _ => hheld, fun h => absurd h hop, fun h => absurd h hop⟩
  · obtain ⟨t, he, hnot, hlive⟩ := execMscAtomicStep_amo hs hc hk ha
    refine ⟨t, he, hnot, fun h => ?_⟩
    obtain ⟨hstores, ⟨hin, hout⟩, hres⟩ := hlive h
    rw [leBytes_length] at hin hout
    exact ⟨hstores, hin, hout, hres⟩

end Sys2Proof.Machine
end

section
/-! PROOFS. Where lines, entries and messages stand. -/
namespace Sys2Proof.Machine
open Sys2Proof

/-! ## Sending

A message that is sent, and an access that is counted, change request numbers, counters, messages and ports alone. -/

/-- All but what sending changes. -/
def State.unposted (s : State) : State := { s with reqId := 0, counters := [], msgs := [], ports := [] }

theorem State.unposted_transmit (s : State) (m : Msg) : (s.transmit m).1.unposted = s.unposted := by
  unfold State.transmit
  split
  · rfl
  · split <;> rfl

theorem State.unposted_post (s : State) (m : Msg) : (s.post m).unposted = s.unposted := by
  unfold State.post
  split
  · exact s.unposted_transmit m
  · rfl

theorem State.unposted_postAbroad (s : State) (vc flits ptr ln : Nat) : (s.postAbroad vc flits ptr ln).unposted = s.unposted := by
  unfold State.postAbroad
  split
  · rfl
  · exact State.unposted_post _ _

theorem State.unposted_reach (s : State) (die : Nat) (a : Acc) (rd : Bool) : (s.reach die a rd).unposted = s.unposted := by
  cases a with
  | peer pa => exact s.unposted_postAbroad _ _ _ _
  | _ => rfl

theorem State.unposted_lineAccess (s : State) (die ln : Nat) (rd : Bool) : (s.lineAccess die ln rd).unposted = s.unposted :=
  s.unposted_reach _ _ _

theorem State.unposted_backFrom (s : State) (die ln : Nat) : (s.backFrom die ln).unposted = s.unposted :=
  (apply_ite State.unposted _ _ _).trans ((congrArg (ite _ · _) (s.unposted_lineAccess _ _ _)).trans (ite_self _))

section
variable {s t : State} (h : t.unposted = s.unposted)
include h

theorem State.mem_of_unposted : t.mem = s.mem := (congrArg State.mem h :)
theorem State.cores_of_unposted : t.cores = s.cores := (congrArg State.cores h :)
theorem State.folds_of_unposted : t.folds = s.folds := (congrArg State.folds h :)
theorem State.domain_of_unposted : t.domain = s.domain := (congrArg State.domain h :)
theorem State.dirWaits_of_unposted : t.dirWaits = s.dirWaits := (congrArg State.dirWaits h :)

end

/-- A message for another module joins those that their sender holds. -/
theorem State.mem_msgs_postAbroad (s : State) {vc flits ptr ln : Nat} (h : ptr / 8 ≠ s.domain.module) :
    ∃ m ∈ (s.postAbroad vc flits ptr ln).msgs, m.line = ln ∧ m.vc = vc ∧ m.flits = flits ∧ m.dst = ptr := by
  have ht : ∀ (u : State) (m : Msg), (u.transmit m).2.line = m.line ∧ (u.transmit m).2.vc = m.vc
      ∧ (u.transmit m).2.flits = m.flits ∧ (u.transmit m).2.dst = m.dst := by
    intro u m
    unfold State.transmit
    split
    · exact ⟨rfl, rfl, rfl, rfl⟩
    · split <;> exact ⟨rfl, rfl, rfl, rfl⟩
  unfold State.postAbroad State.post
  rw [if_neg h]
  split
  · exact ⟨_, List.mem_append_right _ List.mem_cons_self, ht _ _⟩
  · exact ⟨_, List.mem_append_right _ List.mem_cons_self, rfl, rfl, rfl, rfl⟩

/-! ## Lines -/

theorem State.line_of_cores {s t : State} (h : t.cores = s.cores) (c ln : Nat) : t.line c ln = s.line c ln :=
  congrArg (fun x => tget LineState.i (tget {} x c : Core).lines ln) h

theorem State.line_setLine (s : State) (core ln : Nat) (x : LineState) (c l : Nat) :
    (s.setLine core ln x).line c l = if c = core ∧ l = ln then x else s.line c l := by
  unfold State.line State.setLine
  rw [State.coreAt_modCore]
  by_cases hc : c = core
  · rw [if_pos hc]
    show tget .i (tput .i (s.coreAt core).lines ln x) l = _
    rw [tget_tput, hc]
    exact if_congr (by simp) rfl rfl
  · rw [if_neg hc, if_neg fun h => hc h.1]

/-- A line changes at every core of some dies; one that is cached nowhere stays so. -/
theorem State.line_mapLine (s : State) (ln : Nat) (p : Nat → Bool) {f : LineState → LineState} (hf : f .i = .i) (c l : Nat) :
    (s.mapLine ln p f).line c l = if p c = true ∧ l = ln then f (s.line c l) else s.line c l := by
  unfold State.line State.coreAt State.mapLine
  dsimp only
  induction s.cores with
  | nil =>
    have h : (tget ({} : Core) [] c).lines = [] := rfl
    rw [List.map_nil, h]
    exact (ite_eq_right_iff.mpr fun _ => hf).symm
  | cons x r ih =>
    rw [List.map_cons]
    by_cases hx : x.1 = c
    · subst hx
      by_cases hp : p x.1 = true
      · rw [if_pos hp]
        simp only [tget, if_true, hp, true_and]
        rw [tget_tput]
        by_cases hl : l = ln
        · rw [if_pos hl, if_pos hl, hl]
        · rw [if_neg hl, if_neg hl]
      · rw [if_neg hp]
        simp [tget, hp]
    · have hk : (if p x.1 = true then (x.1, { x.2 with lines := tput .i x.2.lines ln (f (tget .i x.2.lines ln)) }) else x).1 ≠ c := by
        split <;> exact hx
      simp only [tget, if_neg hx, if_neg hk]
      exact ih

/-- A core of another die keeps its lines. -/
theorem State.coreAt_mapLine_other (s : State) (ln : Nat) {p : Nat → Bool} (f : LineState → LineState) {c : Nat} (h : p c = false) :
    (s.mapLine ln p f).coreAt c = s.coreAt c := by
  unfold State.coreAt State.mapLine
  dsimp only
  induction s.cores with
  | nil => rfl
  | cons x r ih =>
    rw [List.map_cons]
    by_cases hx : x.1 = c
    · rw [if_neg (by rw [hx, h]; exact Bool.false_ne_true)]
      simp only [tget, if_pos hx]
    · have hk : (if p x.1 = true then (x.1, { x.2 with lines := tput .i x.2.lines ln (f (tget .i x.2.lines ln)) }) else x).1 ≠ c := by
        split <;> exact hx
      simp only [tget, if_neg hx, if_neg hk]
      exact ih

theorem State.cores_setX (s : State) (ln d : Nat) : (s.setX ln d).cores = s.cores := rfl
theorem State.cores_dropX (s : State) (die ln : Nat) : (s.dropX die ln).cores = s.cores := by unfold State.dropX; split <;> rfl
theorem State.folds_dropX (s : State) (die ln : Nat) : (s.dropX die ln).folds = s.folds := by unfold State.dropX; split <;> rfl
theorem State.domain_dropX (s : State) (die ln : Nat) : (s.dropX die ln).domain = s.domain := by unfold State.dropX; split <;> rfl
theorem State.dirWaits_dropX (s : State) (die ln : Nat) : (s.dropX die ln).dirWaits = s.dirWaits := by unfold State.dropX; split <;> rfl

/-- What leaving a die changes: the fold level alone. -/
def State.unfolded (s : State) : State := { s with folds := [], xdies := [] }

theorem State.unfolded_dropX (s : State) (die ln : Nat) : (s.dropX die ln).unfolded = s.unfolded := by
  unfold State.dropX
  split <;> rfl

theorem State.unfolded_leaveDie (s : State) (die ln : Nat) : (s.leaveDie die ln).unfolded = s.unfolded := by
  unfold State.leaveDie
  extract_lets s1 f
  have h1 : s1.unfolded = s.unfolded := s.unfolded_dropX die ln
  clear_value s1 f
  split
  · rfl
  split
  · exact h1
  split
  · exact h1
  split
  · exact h1
  · exact h1

theorem State.unfolded_sharedFrom (s : State) (die ln : Nat) (dirty : Bool) : (s.sharedFrom die ln dirty).unfolded = s.unfolded := by
  unfold State.sharedFrom
  split
  · split <;> rfl
  · rfl

section
variable {s t : State} (h : t.unfolded = s.unfolded)
include h

theorem State.mem_of_unfolded : t.mem = s.mem := (congrArg State.mem h :)
theorem State.cores_of_unfolded : t.cores = s.cores := (congrArg State.cores h :)
theorem State.domain_of_unfolded : t.domain = s.domain := (congrArg State.domain h :)

end

/-! ## Entries -/

theorem State.fold_modFold (s : State) (f : Nat) (g : Fold → Fold) (k : Nat) :
    (s.modFold f g).fold k = if k = f then g (s.fold f) else s.fold k := tget_tput _ _ _ _ _

theorem Fold.entry_putEntry (x : Fold) (e : DirEntry) : (x.putEntry e).entry e.line = some e := by
  simp [Fold.putEntry, Fold.entry]

theorem Fold.entry_dropEntry (x : Fold) (ln : Nat) : (x.dropEntry ln).entry ln = none := by
  unfold Fold.dropEntry Fold.entry
  dsimp only
  rw [List.find?_filter]
  exact List.find?_eq_none.mpr fun e _ => by simp

theorem Fold.line_of_entry {x : Fold} {ln : Nat} {e : DirEntry} (h : x.entry ln = some e) : e.line = ln := by
  simpa using List.find?_some h

section
variable {s t : State}

theorem State.dirOf_of_domain (h : t.domain = s.domain) (ln : Nat) : t.dirOf ln = s.dirOf ln := by
  unfold State.dirOf State.foldIx
  rw [h]
theorem State.pendingAt_of_dirWaits (h : t.dirWaits = s.dirWaits) (ln : Nat) : t.pendingAt ln = s.pendingAt ln := by
  unfold State.pendingAt
  rw [h]
theorem State.fold_of_folds (h : t.folds = s.folds) (f : Nat) : t.fold f = s.fold f := by
  unfold State.fold
  rw [h]

end

end Sys2Proof.Machine
end

section
/-! PROOFS. Copies, messages, recalls, reservations and retries (O48). -/
namespace Sys2Proof.Machine
open Sys2Proof

section
variable {s : State} {ln : Nat}

/-! ## A gathered line leaves (R220) -/

/-- A core's partial of element w of a line goes to the home, if it has one. -/
def State.sendPartial (core ln : Nat) (s : State) (w : Nat) : State :=
  match tget none (s.coreAt core).partials ((ln * 128 + 4 * w) / 4) with
  | none => s
  | some p => (s.modCore core (fun c => { c with partials := tput none c.partials ((ln * 128 + 4 * w) / 4) none })).combinePartial core
      (ln * 128 + 4 * w) p

theorem State.sendPartials_eq (s : State) (core ln : Nat) : s.sendPartials core ln = (List.range 32).foldl (State.sendPartial core ln) s := rfl

theorem State.sendPartial_none {core w : Nat} (h : tget none (s.coreAt core).partials (ln * 32 + w) = none) :
    State.sendPartial core ln s w = s := by
  unfold State.sendPartial
  rw [show (ln * 128 + 4 * w) / 4 = ln * 32 + w by omega, h]

theorem State.foldl_sendPartial_none {core : Nat} {l : List Nat}
    (h : ∀ w ∈ l, tget none (s.coreAt core).partials (ln * 32 + w) = none) : l.foldl (State.sendPartial core ln) s = s := by
  induction l with
  | nil => rfl
  | cons w l ih =>
    rw [List.foldl_cons, State.sendPartial_none (h w List.mem_cons_self)]
    exact ih fun x hx => h x (List.mem_cons_of_mem w hx)

/-- The home combines a partial with the value of its element, and it is a partial no longer. -/
theorem State.sendPartial_some {core w key : Nat} {p : Partial} (h : tget none (s.coreAt core).partials (ln * 32 + w) = some p)
    (hloc : s.locate (4 * (ln * 32 + w)) = .at key) (hpois : s.poisoned key = false) (hmix : p.mixed = false) :
    let t := State.sendPartial core ln s w
    s.Wrote key (leBytes 4 (atomOp p.op p.ty (s.wordAt key) p.val).toNat) t
      ∧ (t.coreAt core).partials = tput none (s.coreAt core).partials (ln * 32 + w) none := by
  intro t
  let u := s.modCore core (fun c => { c with partials := tput none c.partials (ln * 32 + w) none })
  have ht : t = u.combinePartial core (ln * 128 + 4 * w) p := by
    unfold t State.sendPartial
    rw [show (ln * 128 + 4 * w) / 4 = ln * 32 + w by omega, h]
  have hhome : u.homeOf (ln * 128 + 4 * w) = .mem key := by
    have e : u.homeOf (ln * 128 + 4 * w) = s.homeOf (ln * 128 + 4 * w) := rfl
    rw [e, show ln * 128 + 4 * w = 4 * (ln * 32 + w) by omega]
    unfold State.homeOf
    rw [hloc]
  unfold State.combinePartial at ht
  rw [hmix] at ht
  obtain ⟨v, hv, hvs⟩ := State.combineAt_mem (u := u) (r := { id := 0, core := core, grp := p.grp, lane := p.lane, pc := p.pc, bt := p.bt
                                                              off := p.off, rep := p.rep, owner := p.owner
                                                              kind := .combine (ln * 128 + 4 * w) p.va p.op p.ty p.val })
    (va := p.va) (op := p.op) (ty := p.ty) (v := p.val) hhome hpois
  rw [ht, hv]
  refine ⟨State.wrote_setBytes (State.mem_of_steady hvs : v.mem = u.mem) rfl, ?_⟩
  have hpart : (v.coreAt core).partials = (u.coreAt core).partials := (congrArg Core.partials (State.coreAt_of_steady hvs core) :)
  refine Eq.trans hpart ?_
  rw [State.coreAt_modCore, if_pos rfl]

/-- A core's one partial of a line goes to the home with the line. -/
theorem State.sendPartials_one {core k key : Nat} {p : Partial} (hpart : (s.coreAt core).partials = [(k, some p)]) (hk : k / 32 = ln)
    (hloc : s.locate (4 * k) = .at key) (hpois : s.poisoned key = false) (hmix : p.mixed = false) :
    s.Wrote key (leBytes 4 (atomOp p.op p.ty (s.wordAt key) p.val).toNat) (s.sendPartials core ln)
      ∧ ∀ j, tget none ((s.sendPartials core ln).coreAt core).partials j = none := by
  have hkw : k = ln * 32 + k % 32 := by omega
  have hget : ∀ j, tget none (s.coreAt core).partials j = if k = j then some p else none := fun j => by rw [hpart]; rfl
  obtain ⟨pre, post, hl, hpre⟩ := List.eq_append_cons_of_mem (List.mem_range.mpr (Nat.mod_lt k (by decide : 0 < 32)))
  obtain ⟨hwrote, hparts⟩ := State.sendPartial_some (s := s) (core := core) (ln := ln) (w := k % 32) (key := key) (p := p)
    (by rw [hget, if_pos hkw]) (by rwa [← hkw]) hpois hmix
  have hnone : ∀ j, tget none ((State.sendPartial core ln s (k % 32)).coreAt core).partials j = none := by
    intro j
    rw [hparts, tget_tput, hget]
    split
    · rfl
    · next hj => exact if_neg fun h => hj (by omega)
  have he : s.sendPartials core ln = State.sendPartial core ln s (k % 32) := by
    rw [State.sendPartials_eq, hl, List.foldl_append, List.foldl_cons, State.foldl_sendPartial_none (l := pre),
      State.foldl_sendPartial_none (l := post)]
    · exact fun w _ => hnone _
    · intro w hw
      rw [hget]
      exact if_neg fun h => hpre (by rwa [show k % 32 = w by omega])
  rw [he]
  exact ⟨hwrote, hnone⟩

/-- A line in G that a near cache gives up: its partials have gone, and nothing else is written. -/
theorem State.giveUp_g {core : Nat} (hline : s.line core ln = .g) :
    s.giveUp core ln = ((s.sendPartials core ln).setLine core ln .i).leaveDie (dieOf core) ln := by
  have hw : s.writeBack core ln = s := by
    unfold State.writeBack
    rw [hline]
    rfl
  unfold State.giveUp
  rw [hw]

theorem execGLineEvict_result {core k key : Nat} {p : Partial} (hline : s.line core ln = .g)
    (hpart : (s.coreAt core).partials = [(k, some p)]) (hk : k / 32 = ln)
    (hloc : s.locate (4 * k) = .at key) (hpois : s.poisoned key = false) (hmix : p.mixed = false) :
    ∃ t, exec (.gLineEvict core ln) s = .next t ∧ t.line core ln = .i ∧ tget none (t.coreAt core).partials k = none
      ∧ s.Wrote key (leBytes 4 (atomOp p.op p.ty (s.wordAt key) p.val).toNat) t := by
  obtain ⟨hwrote, hnone⟩ := State.sendPartials_one hpart hk hloc hpois hmix
  refine ⟨s.giveUp core ln, ?_, ?_⟩
  · show Host.Outcome.next (if s.line core ln = .g then s.giveUp core ln else s) = _
    rw [if_pos hline]
  rw [State.giveUp_g hline]
  generalize s.sendPartials core ln = u at hwrote hnone ⊢
  have hl := (u.setLine core ln .i).unfolded_leaveDie (dieOf core) ln
  have hc := State.cores_of_unfolded hl
  have hm : ((u.setLine core ln .i).leaveDie (dieOf core) ln).mem = u.mem :=
    (State.mem_of_unfolded hl : _ = (u.setLine core ln .i).mem)
  refine ⟨?_, ?_, ?_, ?_⟩
  · rw [State.line_of_cores hc, State.line_setLine, if_pos ⟨rfl, rfl⟩]
  · have hcore : ((u.setLine core ln .i).leaveDie (dieOf core) ln).coreAt core = (u.setLine core ln .i).coreAt core :=
      congrArg (fun x => tget ({} : Core) x core) hc
    rw [hcore]
    unfold State.setLine
    rw [State.coreAt_modCore, if_pos rfl]
    exact hnone k
  · rw [State.bytesAt_of_mem hm]
    exact hwrote.inside
  · intro a ha
    rw [State.byte_of_mem hm]
    exact hwrote.outside a ha

/-! ## A line is written back (R461) -/

theorem State.entry_modFold_put {f : Nat} {e : DirEntry} : ((s.modFold f (fun x => x.putEntry e)).fold f).entry e.line = some e := by
  rw [State.fold_modFold, if_pos rfl]
  exact Fold.entry_putEntry _ e

/-- Without a dirty copy there is nothing to write back. -/
theorem State.writeBack_clean {core : Nat} (h : isDirty (s.line core ln) = false) : s.writeBack core ln = s := by
  unfold State.writeBack
  rw [h]
  rfl

/-- A written-back copy stays shared, and its entry falls to 1 unless a grant waits. -/
theorem State.writeBack_dirty {core : Nat} (h : isDirty (s.line core ln) = true) :
    (s.writeBack core ln).mem = s.mem ∧ (s.writeBack core ln).line core ln = .s
      ∧ ∀ e, (s.fold (s.dirOf ln)).entry ln = some e → e.fst = 2 ∨ e.fst = 3 →
        ((s.writeBack core ln).fold (s.dirOf ln)).entry ln = some (if s.pendingAt ln = true then e else { e with fst := 1 }) := by
  have hu := ((s.setLine core ln .s).setX ln 0).unposted_lineAccess (dieOf core) ln false
  unfold State.writeBack
  rw [if_pos h]
  extract_lets f u
  have hu : u.unposted = ((s.setLine core ln .s).setX ln 0).unposted := hu
  have hmem : u.mem = s.mem := (State.mem_of_unposted hu : u.mem = ((s.setLine core ln .s).setX ln 0).mem)
  have hline : u.line core ln = .s := by
    rw [State.line_of_cores (State.cores_of_unposted hu), State.line_of_cores (State.cores_setX _ _ _), State.line_setLine,
      if_pos ⟨rfl, rfl⟩]
  have hfold : u.fold f = s.fold f := (State.fold_of_folds (State.folds_of_unposted hu) f :)
  have hpend : u.pendingAt ln = s.pendingAt ln := (State.pendingAt_of_dirWaits (State.dirWaits_of_unposted hu) ln :)
  clear_value u
  rw [hfold, hpend]
  cases he : (s.fold f).entry ln with
  | none => exact ⟨hmem, hline, nofun⟩
  | some e =>
    cases hp : s.pendingAt ln with
    | true =>
      simp only [Bool.not_true, Bool.false_eq_true, and_false, if_false, if_true]
      exact ⟨hmem, hline, fun x hx _ => by rw [hfold, he, hx]⟩
    | false =>
      dsimp only
      by_cases hf : e.fst = 2 ∨ e.fst = 3
      · rw [if_pos ⟨hf, rfl⟩]
        refine ⟨hmem, hline, fun x hx _ => ?_⟩
        cases hx
        have hput := State.entry_modFold_put (s := u) (f := f) (e := { e with fst := 1 })
        have hl : ({ e with fst := 1 } : DirEntry).line = ln := (Fold.line_of_entry he :)
        exact (congrArg (Fold.entry _) hl.symm).trans hput
      · rw [if_neg fun h => hf h.1]
        exact ⟨hmem, hline, fun x hx h => absurd (Option.some.inj hx ▸ h) hf⟩

theorem isDirty_iff (x : LineState) : isDirty x = true ↔ x = .m ∨ x = .o := by cases x <;> decide

/-! ## Invalidations and forwards (R460, R461, R468) -/

/-- A die that holds no line in G gives a line up: no partial moves. -/
theorem State.invalidateDie_result {die : Nat} (h : s.dieHolds die ln (fun l => l = .g) = false) : let t := s.invalidateDie die ln
    ∃ u : State, u.unposted = s.unposted ∧ t = (u.mapLine ln (fun c => dieOf c = die) (fun _ => .i)).dropX die ln := by
  unfold State.invalidateDie
  rw [h]
  dsimp only
  rw [if_neg Bool.false_ne_true]
  split
  · next w _ =>
    refine ⟨_, ?_, rfl⟩
    split
    · exact s.unposted_postAbroad _ _ _ _
    · rfl
  · exact ⟨_, s.unposted_backFrom _ _, rfl⟩

/-- The lines of a die have left, and no other. -/
theorem State.line_invalidateDie {die : Nat} (h : s.dieHolds die ln (fun l => l = .g) = false) : let t := s.invalidateDie die ln
    t.mem = s.mem ∧ t.domain = s.domain ∧ t.folds = s.folds ∧ t.dirWaits = s.dirWaits
      ∧ ∀ c l, t.line c l = if dieOf c = die ∧ l = ln then .i else s.line c l := by
  obtain ⟨u, hu, ht⟩ := State.invalidateDie_result h
  dsimp only
  rw [ht]
  refine ⟨(State.mem_dropX _ _ _).trans (State.mem_of_unposted hu :), (State.domain_dropX _ _ _).trans (State.domain_of_unposted hu :),
    (State.folds_dropX _ _ _).trans (State.folds_of_unposted hu :),
    (State.dirWaits_dropX _ _ _).trans (State.dirWaits_of_unposted hu :), fun c l => ?_⟩
  rw [State.line_of_cores (State.cores_dropX _ _ _), State.line_mapLine _ _ _ rfl, State.line_of_cores (State.cores_of_unposted hu)]
  exact if_congr (by simp) rfl rfl

/-- The home of a line of directory 2 is on another module. -/
theorem State.home_abroad (h : s.dirOf ln = 2) : (s.domain.home ln).1 / 2 ≠ s.domain.module := by
  intro hm
  unfold State.dirOf State.foldIx at h
  rw [if_pos hm] at h
  omega

theorem State.mem_leaveDie_postAbroad (u : State) (die vc flits ptr : Nat) :
    ((u.leaveDie die ln).postAbroad vc flits ptr ln).mem = u.mem :=
  (State.mem_postAbroad _ _ _ _ _).trans (u.mem_leaveDie die ln)

/-- A die whose last copies have left is not named any more: the line's entry is free once no core holds it. -/
theorem State.entry_leaveDie_none {u : State} {die f : Nat} (hall : ∀ c ∈ u.cores, tget .i c.2.lines ln = .i) (hf : u.dirOf ln = f)
    (hp : u.pendingAt ln = false) (he : ∀ e, (u.fold f).entry ln = some e → e.fst ≠ 5) : ((u.leaveDie die ln).fold f).entry ln = none := by
  have hholds : u.dieHolds die ln (fun l => l ≠ .i) = false := by
    unfold State.dieHolds
    rw [List.any_eq_false]
    intro c hc
    simp [hall c hc]
  have hfold : (u.dropX die ln).fold f = u.fold f := State.fold_of_folds (u.folds_dropX die ln) f
  have hdir : (u.dropX die ln).dirOf ln = f := (State.dirOf_of_domain (u.domain_dropX die ln) ln).trans hf
  have hpend : (u.dropX die ln).pendingAt ln = false := (State.pendingAt_of_dirWaits (u.dirWaits_dropX die ln) ln).trans hp
  have hcores : (u.dropX die ln).cores = u.cores := u.cores_dropX die ln
  unfold State.leaveDie
  rw [hholds]
  dsimp only
  rw [if_neg Bool.false_ne_true, hdir, hpend]
  split
  · next h => exact h
  · next e h =>
    rw [hfold] at h
    rw [if_neg (by simpa using he e h), if_pos, State.fold_modFold, if_pos rfl]
    · exact Fold.entry_dropEntry _ _
    · rw [hcores, List.all_eq_true]
      intro c hc
      simp [hall c hc]

/-- A die that no invalidation is on its way to acknowledges one to the home elsewhere. -/
theorem execDieInvalidate_abroad {die : Nat} (hd : die < 8) (hf : s.dirOf ln = 2)
    (hm : ∀ m ∈ s.msgs, ¬ (m.line = ln ∧ s.isInv m = true ∧ s.sent m = true ∧ m.dst = s.diePtr die)) :
    exec (.dieInvalidate die ln) s =
      .next (((s.invalidateDie die ln).leaveDie die ln).postAbroad 2 1 (8 * ((s.domain.home ln).1 / 2)) ln) := by
  have hno : s.msgs.any (fun m => m.line = ln && s.isInv m && s.sent m && m.dst = s.diePtr die) = false := by
    rw [List.any_eq_false]
    intro m hmem
    have := hm m hmem
    simp only [Bool.and_eq_true, decide_eq_true_eq]
    tauto
  show Host.Outcome.next (if s.msgs.any (fun m => m.line = ln && s.isInv m && s.sent m && m.dst = s.diePtr die) then _ else _) = _
  rw [hno, if_neg Bool.false_ne_true, if_pos ⟨hf, hd⟩]

/-- What a forward leaves of a die's copy (R461). -/
def forwarded (write : Bool) (l : LineState) : LineState :=
  if l = .g then l else if write then .i else if l = .m then .o else if l = .e then .s else l

/-- A die takes a forward: its copies change, its entry follows, and nothing else. -/
theorem State.forward_result (die : Nat) (write : Bool) : let u := (s.mapLine ln (fun c => dieOf c = die) (forwarded write)).dropX die ln
    let t := if write then u.leaveDie die ln else u.sharedFrom die ln (s.dieHolds die ln isDirty)
    t.mem = s.mem ∧ t.domain = s.domain ∧ t.cores = (s.mapLine ln (fun c => dieOf c = die) (forwarded write)).cores := by
  intro u t
  have hu := (s.mapLine ln (fun c => dieOf c = die) (forwarded write)).unfolded_dropX die ln
  have ht : t.unfolded = (s.mapLine ln (fun c => dieOf c = die) (forwarded write)).unfolded := by
    unfold t
    split
    · exact (u.unfolded_leaveDie die ln).trans hu
    · exact (u.unfolded_sharedFrom die ln _).trans hu
  exact ⟨(State.mem_of_unfolded ht :), (State.domain_of_unfolded ht :), State.cores_of_unfolded ht⟩

theorem execOwnerForward_eq (die : Nat) (write : Bool) (s : State) :
    let u := (s.mapLine ln (fun c => dieOf c = die) (forwarded write)).dropX die ln
    let t := if write then u.leaveDie die ln else u.sharedFrom die ln (s.dieHolds die ln isDirty)
    let m := s.domain.peers.getD (s.choice 11 % s.domain.peers.length) ((s.domain.home ln).1 / 2)
    exec (.ownerForward die ln write) s =
      .next (if s.dieHolds die ln (fun l => permits l 3) ∧ s.dirOf ln = 2 ∧ die < 8 then t.postAbroad 2 3 (8 * m) ln else t) := rfl

/-- The module to which forwarded data goes is another than this. -/
theorem State.forward_peer (hf : s.dirOf ln = 2) (hp : s.domain.module ∉ s.domain.peers) :
    s.domain.peers.getD (s.choice 11 % s.domain.peers.length) ((s.domain.home ln).1 / 2) ≠ s.domain.module := by
  rw [List.getD_eq_getElem?_getD]
  cases h : s.domain.peers[s.choice 11 % s.domain.peers.length]? with
  | none => exact State.home_abroad hf
  | some m => exact fun e => hp (e ▸ List.mem_of_getElem? h)

/-! ## Acknowledgements (R461, R470) -/

/-- What the movement of copies between cores leaves alone. -/
def State.coreless (s : State) : State := { s with cores := [], xdies := [] }

/-- What a grant leaves of the other copies on its die. -/
def mateLine (kind : Nat) (l : LineState) : LineState := if kind = 1 ∧ l = .g then .g else .i

/-- A grant takes the line for its core alone on its die, but for G beside G. -/
theorem State.grantNow_result {core kind : Nat} (hk : kind = 0 ∨ kind = 1) (hc : core < numCores) (hroom : s.roomFor core ln = true) :
    ∃ u : State, s.grantNow core kind ln = u.setLine core ln (if kind = 0 then .m else .g)
      ∧ u.coreless = s.coreless
      ∧ ∀ c l, u.line c l = if (c ≠ core ∧ dieOf c = dieOf core) ∧ l = ln then mateLine kind (s.line c l) else s.line c l := by
  let u := s.mapLine ln (fun c => c ≠ core && dieOf c = dieOf core) (mateLine kind)
  have hother : u.coreAt core = s.coreAt core := State.coreAt_mapLine_other s ln _ (by simp)
  have hroom' : ∀ v : State, v.cores = u.cores → v.roomFor core ln = true := by
    intro v hv
    have e : v.coreAt core = s.coreAt core := (congrArg (fun x => tget ({} : Core) x core) hv).trans hother
    unfold State.roomFor State.nearWays at hroom ⊢
    rw [e, hroom]
  have htake : ∀ x : LineState, u.take core ln x = (u.takeX core ln x).setLine core ln x := by
    intro x
    have hcores : (u.takeX core ln x).cores = u.cores := by
      unfold State.takeX
      split
      · rfl
      · split <;> rfl
    unfold State.take State.makeRoom
    dsimp only
    rw [if_pos hc, if_pos (.inr (hroom' _ hcores))]
  have hgrant : s.grantNow core kind ln = u.take core ln (if kind = 0 then .m else .g) := by
    rcases hk with rfl | rfl <;> rfl
  have hx : ∀ x, ∃ d, u.takeX core ln x = u.setX ln d ∨ u.takeX core ln x = u := by
    intro x
    unfold State.takeX
    split
    · exact ⟨_, .inl rfl⟩
    · split
      · exact ⟨0, .inr rfl⟩
      · exact ⟨_, .inl rfl⟩
  have hline : ∀ c l, u.line c l = if (c ≠ core ∧ dieOf c = dieOf core) ∧ l = ln then mateLine kind (s.line c l) else s.line c l := by
    intro c l
    rw [State.line_mapLine s ln _ (f := mateLine kind) (by simp [mateLine])]
    exact if_congr (by simp) rfl rfl
  rw [hgrant, htake]
  obtain ⟨d, hd | hd⟩ := hx (if kind = 0 then .m else .g)
  · exact ⟨_, rfl, by rw [hd]; rfl, fun c l => by rw [hd]; exact hline c l⟩
  · exact ⟨_, rfl, by rw [hd]; rfl, fun c l => by rw [hd]; exact hline c l⟩

/-- A state whose home has the entry of a line needs none. -/
theorem State.entryFor_of_entry {e : DirEntry} (h : (s.fold (s.dirOf ln)).entry ln = some e) : s.entryFor ln = s := by
  unfold State.entryFor
  rw [if_pos (.inr (by rw [h]; rfl))]

/-- A message has been acknowledged, the last that anything waited for. -/
def State.released (s : State) (id : Nat) : State := { s.forget [id] with dirWaits := [] }

/-- The acknowledgement that the only wait of all is for grants it. -/
theorem State.acknowledge_last {id core kind want : Nat}
    (hw : s.dirWaits = [{ line := ln, core := core, kind := kind, msgs := [id], want := want }]) (hk : kind ≠ 2) :
    s.acknowledge id = ((s.released id).grantNow core kind ln).entryFor ln := by
  unfold State.acknowledge
  have hf : (s.forget [id]).dirWaits = s.dirWaits := rfl
  simp [hf, hw, hk, State.released]

/-- Flits of some messages leave a port's replay buffer. -/
def Port.dropFlits (ids : List Nat) (p : Port) : Port := { p with replay := p.replay.filter (fun x => !ids.contains x.2) }

theorem State.port_unload (s : State) (ids : List Nat) (k : Nat) : (s.unload ids).port k = (s.port k).dropFlits ids :=
  tget_map (d := ({} : Port)) (e := ({} : Port)) (f := Port.dropFlits ids) rfl s.ports k

section
variable {s t : State} (h : t.coreless = s.coreless)
include h

theorem State.mem_of_coreless : t.mem = s.mem := (congrArg State.mem h :)
theorem State.dirWaits_of_coreless : t.dirWaits = s.dirWaits := (congrArg State.dirWaits h :)
theorem State.msgs_of_coreless : t.msgs = s.msgs := (congrArg State.msgs h :)
theorem State.ports_of_coreless : t.ports = s.ports := (congrArg State.ports h :)
theorem State.folds_of_coreless : t.folds = s.folds := (congrArg State.folds h :)
theorem State.domain_of_coreless : t.domain = s.domain := (congrArg State.domain h :)

end

theorem execAcknowledgement_last {id core kind want : Nat}
    (hw : s.dirWaits = [{ line := ln, core := core, kind := kind, msgs := [id], want := want }]) (hk : kind = 0 ∨ kind = 1)
    (hheld : s.ackHeld id = false) (hsent : s.unsent id = false) (hc : core < numCores) (hroom : s.roomFor core ln = true)
    (he : (s.fold (s.dirOf ln)).entry ln ≠ none) :
    ∃ t, exec (.acknowledgement id) s = .next t ∧ t.mem = s.mem ∧ t.dirWaits = [] ∧ (∀ m ∈ t.msgs, m.id ≠ id)
      ∧ (∀ k, ∀ x ∈ (t.port k).replay, x.2 ≠ id) ∧ t.line core ln = (if kind = 0 then .m else .g)
      ∧ (∀ c, c ≠ core → t.line c ln = if dieOf c ≠ dieOf core ∨ kind = 1 ∧ s.line c ln = .g then s.line c ln else .i)
      ∧ ∀ c l, l ≠ ln → t.line c l = s.line c l := by
  obtain ⟨u, hu, hsame, hline⟩ := State.grantNow_result (s := s.released id) (ln := ln) hk hc hroom
  obtain ⟨e, he⟩ := Option.ne_none_iff_exists'.mp he
  have hsame : (u.setLine core ln (if kind = 0 then .m else .g)).coreless = (s.released id).coreless := hsame
  have hent : (u.setLine core ln (if kind = 0 then .m else .g)).entryFor ln = u.setLine core ln (if kind = 0 then .m else .g) := by
    refine State.entryFor_of_entry (e := e) ?_
    rw [State.fold_of_folds (State.folds_of_coreless hsame), State.dirOf_of_domain (State.domain_of_coreless hsame)]
    exact he
  refine ⟨u.setLine core ln (if kind = 0 then .m else .g), ?_, (State.mem_of_coreless hsame :), (State.dirWaits_of_coreless hsame :),
    ?_, ?_, ?_, ?_, ?_⟩
  · show Host.Outcome.next (if s.ackHeld id || s.unsent id then s else s.acknowledge id) = _
    rw [hheld, hsent, State.acknowledge_last hw (by omega), hu, hent]
    rfl
  · intro m hm
    rw [State.msgs_of_coreless hsame] at hm
    simpa using (List.mem_filter.mp (hm : m ∈ (s.forget [id]).msgs)).2
  · intro k x hx
    have hp : (u.setLine core ln (if kind = 0 then .m else .g)).port k = (s.unload [id]).port k :=
      (congrArg (fun l => tget ({} : Port) l k) (State.ports_of_coreless hsame) :)
    rw [hp, State.port_unload] at hx
    simpa using (List.mem_filter.mp hx).2
  · rw [State.line_setLine, if_pos ⟨rfl, rfl⟩]
  · intro c hcc
    have hs : (s.released id).line c ln = s.line c ln := rfl
    rw [State.line_setLine, if_neg fun h => hcc h.1, hline, hs]
    unfold mateLine
    by_cases hd : dieOf c = dieOf core
    · rw [if_pos ⟨⟨hcc, hd⟩, rfl⟩]
      by_cases hg : kind = 1 ∧ s.line c ln = .g
      · rw [if_pos hg, if_pos (.inr hg), hg.2]
      · rw [if_neg hg, if_neg fun h => h.elim (fun h => h hd) hg]
    · rw [if_neg fun h => hd h.1.2, if_pos (.inl hd)]
  · intro c l hl
    rw [State.line_setLine, if_neg fun h => hl h.2, hline, if_neg fun h => hl h.2]
    rfl

/-! ## Messages that go again (R470, R471) -/

theorem State.sendAgain_result (m : Msg) : let t := s.sendAgain m
    t.mem = s.mem ∧ t.cores = s.cores ∧ t.dirWaits = s.dirWaits ∧ (∀ x ∈ t.msgs, x.id = m.id → x.sent = s.cycle)
      ∧ t.msgs.map Msg.id = s.msgs.map Msg.id := by
  have hids : ∀ (g : Msg → Msg), (∀ x, (g x).id = x.id) → (s.msgs.map g).map Msg.id = s.msgs.map Msg.id := by
    intro g hg
    rw [List.map_map]
    exact List.map_congr_left fun x _ => hg x
  have hsent : ∀ (g : Msg → Msg), (∀ x, (g x).id = x.id) → (∀ x, x.id = m.id → (g x).sent = s.cycle) →
      ∀ y ∈ s.msgs.map g, y.id = m.id → y.sent = s.cycle := by
    intro g hg hc y hy hid
    obtain ⟨x, -, rfl⟩ := List.mem_map.mp hy
    exact hc x ((hg x).symm.trans hid)
  unfold State.sendAgain
  split
  · have ht := ((s.unload [m.id]).unposted_transmit { m with sent := s.cycle })
    have hmsgs : ((s.unload [m.id]).transmit { m with sent := s.cycle }).1.msgs = s.msgs := by
      unfold State.transmit
      split
      · rfl
      · split <;> rfl
    have hm : ((s.unload [m.id]).transmit { m with sent := s.cycle }).2.id = m.id
        ∧ ((s.unload [m.id]).transmit { m with sent := s.cycle }).2.sent = s.cycle := by
      unfold State.transmit
      split
      · exact ⟨rfl, rfl⟩
      · split <;> exact ⟨rfl, rfl⟩
    generalize (s.unload [m.id]).transmit { m with sent := s.cycle } = tm at ht hmsgs hm
    obtain ⟨t, m'⟩ := tm
    obtain ⟨hid, hcyc⟩ := hm
    dsimp only at ht hmsgs hid hcyc ⊢
    rw [hmsgs]
    refine ⟨(State.mem_of_unposted ht :), (State.cores_of_unposted ht :), (State.dirWaits_of_unposted ht :), hsent _ ?_ ?_, hids _ ?_⟩
    · intro x
      split
      · next h => exact h.symm
      · rfl
    · intro x hx
      rw [if_pos (hx.trans hid.symm), hcyc]
    · intro x
      split
      · next h => exact h.symm
      · rfl
  · refine ⟨rfl, rfl, rfl, hsent _ ?_ ?_, hids _ ?_⟩
    · intro x
      split <;> rfl
    · intro x hx
      rw [if_pos hx]
    · intro x
      split <;> rfl

/-- Where a message goes does not depend on the flits that stand in replay buffers. -/
theorem State.portTo_unload (ids : List Nat) (m : Nat) : (s.unload ids).portTo m = s.portTo m := by
  have hlive : (s.unload ids).liveTo = s.liveTo := by
    funext k m
    unfold State.liveTo
    rw [State.port_unload]
    rfl
  have hlink : (s.unload ids).linkTo = s.linkTo := by
    unfold State.linkTo
    rw [hlive]
  unfold State.portTo
  rw [hlink]
  rfl

/-- A message that leaves by a port on which its channel is not stopped stands in the replay buffer there (R470). -/
theorem State.sendAgain_replay {m : Msg} {p : Nat} (hb : m.bound = none) (hd : m.dst / 8 ≠ s.domain.module) (hf : 0 < m.flits)
    (hp : s.portTo (m.dst / 8) = some p) (hh : (s.port p).held.contains m.vc = false) :
    (m.vc, m.id) ∈ ((s.sendAgain m).port p).replay := by
  have hl : s.leaves m = true := by simp [State.leaves, hd]
  have hof : (s.unload [m.id]).portOf { m with sent := s.cycle } = some p := by
    unfold State.portOf
    dsimp only
    rw [hb]
    exact (State.portTo_unload _ _).trans hp
  have hheld : ((s.unload [m.id]).port p).held.contains m.vc = false := by
    rw [State.port_unload]
    exact hh
  have ht : (s.unload [m.id]).transmit { m with sent := s.cycle } =
      ((s.unload [m.id]).modPort p (Port.load { m with sent := s.cycle }), { m with sent := s.cycle, port := some p }) := by
    unfold State.transmit
    rw [hof]
    dsimp only
    rw [hheld]
    rfl
  unfold State.sendAgain
  rw [if_pos hl, ht]
  show (m.vc, m.id) ∈ (tget {} (tput {} _ p _) p : Port).replay
  rw [tget_tput, if_pos rfl]
  exact List.mem_append_right _ (List.mem_replicate.mpr ⟨by simpa using Nat.ne_of_gt hf, rfl⟩)

/-! ## Recalls (R463) -/

/-- The ways of a fold directory once a recall is complete. -/
def Fold.recalled (ln : Nat) (keep : List Reserve) (x : Fold) : Fold := { x.dropEntry ln with reserves := x.reserves ++ keep }

/-- A recall whose one wait is over frees the entry, and keeps its way for the request that caused it, unless that has one. -/
theorem State.recallDone_eq {fd core want : Nat} {e : DirEntry} (he : (s.fold fd).entry ln = some e) (h5 : e.fst = 5)
    (hw : s.dirWaits = [{ line := ln, core := core, kind := 2, msgs := [], want := want }]) :
    s.recallDone fd ln = { (s.modFold fd (Fold.recalled ln
      (if ((s.fold fd).entry want).isSome then [] else [⟨foldSet ln, core, want, s.cycle + 4096⟩]))) with dirWaits := [] } := by
  unfold State.recallDone
  rw [he]
  simp [h5, hw]
  rfl

theorem State.fold_recallDone {fd core want : Nat} {e : DirEntry} (he : (s.fold fd).entry ln = some e) (h5 : e.fst = 5)
    (hw : s.dirWaits = [{ line := ln, core := core, kind := 2, msgs := [], want := want }]) :
    (s.recallDone fd ln).fold fd = (s.fold fd).recalled ln
      (if ((s.fold fd).entry want).isSome then [] else [⟨foldSet ln, core, want, s.cycle + 4096⟩]) := by
  rw [State.recallDone_eq he h5 hw]
  have h := s.fold_modFold fd (Fold.recalled ln
    (if ((s.fold fd).entry want).isSome then [] else [⟨foldSet ln, core, want, s.cycle + 4096⟩])) fd
  rw [if_pos rfl] at h
  exact h

/-! ## The family -/

theorem execWriteback_result (core : Nat) : ∃ t, exec (.writeback core ln) s = .next t ∧ t.mem = s.mem
    ∧ (s.line core ln = .m ∨ s.line core ln = .o → t.line core ln = .s ∧ ∀ e, (s.fold (s.dirOf ln)).entry ln = some e → e.fst = 2 ∨ e.fst = 3 →
        (t.fold (s.dirOf ln)).entry ln = some (if s.pendingAt ln = true then e else { e with fst := 1 }))
    ∧ (s.line core ln ≠ .m → s.line core ln ≠ .o → t = s) := by
  refine ⟨s.writeBack core ln, rfl, ?_⟩
  cases h : isDirty (s.line core ln) with
  | true =>
    obtain ⟨hmem, hres⟩ := State.writeBack_dirty h
    exact ⟨hmem, fun _ => hres, fun hm ho => absurd ((isDirty_iff _).mp h) (by tauto)⟩
  | false =>
    rw [State.writeBack_clean h]
    have hno : ¬ (s.line core ln = .m ∨ s.line core ln = .o) := fun hd => by
      rw [(isDirty_iff _).mpr hd] at h
      cases h
    exact ⟨rfl, fun hd => absurd hd hno, fun _ _ => rfl⟩

/-- An E line that is written is M at its core (R455). -/
theorem execDieDirectoryReport_m (core : Nat) : ∃ t, exec (.dieDirectoryReport core ln .m) s = .next t ∧ t.mem = s.mem
    ∧ t.line core ln = (if s.line core ln = .e then .m else s.line core ln) ∧ ∀ d l, d ≠ core ∨ l ≠ ln → t.line d l = s.line d l := by
  refine ⟨if s.line core ln = .e then s.setLine core ln .m else s, rfl, ?_⟩
  split
  · refine ⟨rfl, ?_, fun d l h => ?_⟩
    · rw [State.line_setLine, if_pos ⟨rfl, rfl⟩]
    · rw [State.line_setLine, if_neg (by tauto)]
  · exact ⟨rfl, rfl, fun _ _ _ => rfl⟩

/-- A die that an invalidation is on its way to gives its line up. -/
theorem execDieInvalidate_sent {die : Nat} (hm : ∃ m ∈ s.msgs, m.line = ln ∧ s.isInv m = true ∧ s.sent m = true ∧ m.dst = s.diePtr die) :
    exec (.dieInvalidate die ln) s = .next (s.invalidateDie die ln) := by
  obtain ⟨m, hmem, h1, h2, h3, h4⟩ := hm
  have hyes : s.msgs.any (fun m => m.line = ln && s.isInv m && s.sent m && m.dst = s.diePtr die) = true :=
    List.any_eq_true.mpr ⟨m, hmem, by simp [h1, h2, h3, h4]⟩
  show Host.Outcome.next (if s.msgs.any (fun m => m.line = ln && s.isInv m && s.sent m && m.dst = s.diePtr die) then _ else _) = _
  rw [if_pos hyes]

theorem execDieInvalidate_abroad_result {die : Nat} (hd : die < 8)
    (hm : ∀ m ∈ s.msgs, ¬ (m.line = ln ∧ s.isInv m = true ∧ s.sent m = true ∧ m.dst = s.diePtr die))
    (hg : s.dieHolds die ln (fun l => l = .g) = false) (hf : s.dirOf ln = 2) :
    ∃ t m, exec (.dieInvalidate die ln) s = .next t ∧ t.mem = s.mem
      ∧ (∀ c l, t.line c l = if dieOf c = die ∧ l = ln then .i else s.line c l)
      ∧ m ∈ t.msgs ∧ m.line = ln ∧ m.vc = 2 ∧ m.flits = 1 ∧ m.dst = 8 * ((s.domain.home ln).1 / 2)
      ∧ ((∀ c ∈ s.cores, dieOf c.1 ≠ die → tget .i c.2.lines ln = .i) → s.pendingAt ln = false →
          (∀ e, (s.fold 2).entry ln = some e → e.fst ≠ 5) → (t.fold 2).entry ln = none) := by
  obtain ⟨hmem, hdom, hfolds, hwaits, hline⟩ := State.line_invalidateDie hg
  obtain ⟨v, hv, hcores⟩ := State.invalidateDie_result hg
  have hleave := (s.invalidateDie die ln).unfolded_leaveDie die ln
  have hlmem : ((s.invalidateDie die ln).leaveDie die ln).mem = (s.invalidateDie die ln).mem := State.mem_of_unfolded hleave
  have hldom : ((s.invalidateDie die ln).leaveDie die ln).domain = (s.invalidateDie die ln).domain := State.domain_of_unfolded hleave
  have hlcores : ((s.invalidateDie die ln).leaveDie die ln).cores = (s.invalidateDie die ln).cores := State.cores_of_unfolded hleave
  obtain ⟨m, hin, hmsg⟩ := ((s.invalidateDie die ln).leaveDie die ln).mem_msgs_postAbroad (vc := 2) (flits := 1)
    (ptr := 8 * ((s.domain.home ln).1 / 2)) (ln := ln) (by
      rw [hldom, hdom, Nat.mul_div_cancel_left _ (by decide)]
      exact State.home_abroad hf)
  obtain ⟨h1, h2, h3, h4⟩ := hmsg
  have hpost := ((s.invalidateDie die ln).leaveDie die ln).unposted_postAbroad 2 1 (8 * ((s.domain.home ln).1 / 2)) ln
  refine ⟨_, m, execDieInvalidate_abroad hd hf hm, ?_, fun c l => ?_, hin, h1, h2, h3, h4, fun hothers hp he => ?_⟩
  · rw [State.mem_of_unposted hpost, hlmem, hmem]
  · rw [State.line_of_cores (State.cores_of_unposted hpost), State.line_of_cores hlcores, hline]
  · rw [State.fold_of_folds (State.folds_of_unposted hpost)]
    refine State.entry_leaveDie_none ?_ ((State.dirOf_of_domain hdom ln).trans hf) ((State.pendingAt_of_dirWaits hwaits ln).trans hp) ?_
    · intro c hc
      rw [hcores, State.cores_dropX] at hc
      obtain ⟨x, hx, rfl⟩ := List.mem_map.mp hc
      rw [State.cores_of_unposted hv] at hx
      split
      · dsimp only
        rw [tget_tput, if_pos rfl]
      · next hdie => exact hothers x hx (by simpa using hdie)
    · rw [State.fold_of_folds hfolds]
      exact he

theorem execOwnerForward_result (die : Nat) (write : Bool) : ∃ t, exec (.ownerForward die ln write) s = .next t ∧ t.mem = s.mem
    ∧ (∀ c l, t.line c l = if dieOf c = die ∧ l = ln then forwarded write (s.line c l) else s.line c l)
    ∧ (die < 8 → s.dirOf ln = 2 → s.domain.module ∉ s.domain.peers → s.dieHolds die ln (fun l => permits l 3) = true →
        ∃ m ∈ t.msgs, m.line = ln ∧ m.vc = 2 ∧ m.flits = 3 ∧ m.dst / 8 ≠ s.domain.module) := by
  obtain ⟨hmem, hdom, hcores⟩ := s.forward_result (ln := ln) die write
  refine ⟨_, execOwnerForward_eq die write s, ?_⟩
  generalize hu : (if write = true then (((s.mapLine ln (fun c => dieOf c = die) (forwarded write)).dropX die ln).leaveDie die ln) else
    (((s.mapLine ln (fun c => dieOf c = die) (forwarded write)).dropX die ln).sharedFrom die ln (s.dieHolds die ln isDirty))) = u
    at hmem hdom hcores ⊢
  have hline : ∀ c l, u.line c l = if dieOf c = die ∧ l = ln then forwarded write (s.line c l) else s.line c l := by
    intro c l
    rw [State.line_of_cores hcores, State.line_mapLine s ln _ (f := forwarded write) (by cases write <;> rfl)]
    exact if_congr (by simp) rfl rfl
  split
  · have hpost := u.unposted_postAbroad 2 3
      (8 * s.domain.peers.getD (s.choice 11 % s.domain.peers.length) ((s.domain.home ln).1 / 2)) ln
    refine ⟨(State.mem_of_unposted hpost).trans hmem, fun c l => (State.line_of_cores (State.cores_of_unposted hpost) c l).trans (hline c l),
      fun _ hf hp _ => ?_⟩
    have hne := State.forward_peer hf hp
    obtain ⟨m, hm, h1, h2, h3, h4⟩ := u.mem_msgs_postAbroad (vc := 2) (flits := 3) (ln := ln)
      (ptr := 8 * s.domain.peers.getD (s.choice 11 % s.domain.peers.length) ((s.domain.home ln).1 / 2)) (by
        rw [hdom, Nat.mul_div_cancel_left _ (by decide)]
        exact hne)
    exact ⟨m, hm, h1, h2, h3, by rw [h4, Nat.mul_div_cancel_left _ (by decide)]; exact hne⟩
  · next hno => exact ⟨hmem, hline, fun hd hf _ hh => absurd ⟨hh, hf, hd⟩ hno⟩

end

/-- Settles O48: each step of the directories moves the lines, the entries and the messages that it names. -/
theorem copiesAndMessages : Obligations.CopiesAndMessages := by
  unfold Obligations.CopiesAndMessages
  intro ln s f
  refine ⟨fun c key k p hline hpart hk hloc hpois hmix => ?_, execWriteback_result, execDieDirectoryReport_m, fun die hm hg => ?_,
    fun die hd hm hg hf => ?_, fun die hd write hf hp hh => ?_, fun die write => ?_,
    fun id core kind want hw hk hheld hsent hc hroom he => execAcknowledgement_last hw hk hheld hsent hc hroom he, fun id h => ?_,
    fun id m hm hold => ?_, fun fd e core want he h5 hw => ?_, fun fd set => ?_, fun c r hr hc hk => ?_⟩
  · obtain ⟨t, he, hl, hn, hin, hout⟩ := execGLineEvict_result hline hpart hk hloc hpois hmix
    rw [leBytes_length] at hin hout
    exact ⟨t, he, hl, hn, hin, hout⟩
  · obtain ⟨hmem, -, -, -, hline⟩ := State.line_invalidateDie hg
    refine ⟨_, execDieInvalidate_sent hm, hmem, fun c => ?_, fun c l hl => ?_⟩
    · rw [hline]
      exact if_congr (and_iff_left rfl) rfl rfl
    · rw [hline, if_neg fun h => hl h.2]
  · obtain ⟨t, m, he, hmem, hline, hrest⟩ := execDieInvalidate_abroad_result hd hm hg hf
    refine ⟨t, m, he, hmem, fun c => ?_, fun c l hl => ?_, hrest⟩
    · rw [hline]
      exact if_congr (and_iff_left rfl) rfl rfl
    · rw [hline, if_neg fun h => hl h.2]
  · obtain ⟨t, he, -, -, hmsg⟩ := execOwnerForward_result (s := s) (ln := ln) die write
    obtain ⟨m, hm, hrest⟩ := hmsg hd hf hp hh
    exact ⟨t, m, he, hm, hrest⟩
  · obtain ⟨t, he, hmem, hline, -⟩ := execOwnerForward_result (s := s) (ln := ln) die write
    refine ⟨t, he, hmem, fun c => ?_, fun c l hl => ?_⟩
    · rw [hline]
      unfold forwarded
      by_cases hd : dieOf c = die
      · by_cases hg : s.line c ln = .g
        · rw [if_pos ⟨hd, rfl⟩, if_pos hg, if_pos (.inr hg)]
        · rw [if_pos ⟨hd, rfl⟩, if_neg hg]
          exact (if_neg fun h => h.elim (fun h => h hd) hg).symm
      · rw [if_neg fun h => hd h.1, if_pos (.inl hd)]
    · rw [hline, if_neg fun h => hl h.2]
  · show Host.Outcome.next (if s.ackHeld id || s.unsent id then s else s.acknowledge id) = _
    rw [if_pos (by simpa using h)]
  · have hid : m.id = id := by simpa using List.find?_some hm
    have hexec : exec (.messageResend id) s = .next (s.sendAgain m) := by
      show Host.Outcome.next (match s.msgs.find? (fun m => m.id = id) with
        | none => s | some m => if s.cycle < m.sent + 2 ^ 16 then s else s.sendAgain m) = _
      rw [hm]
      exact congrArg _ (if_neg (by omega))
    obtain ⟨hmem, hcores, hwaits, hsent, hids⟩ := s.sendAgain_result m
    exact ⟨_, hexec, hmem, hcores, hwaits, fun x hx h => hsent x hx (h.trans hid.symm), hids,
      fun p hb hd hf hp hh => hid ▸ State.sendAgain_replay hb hd hf hp hh⟩
  · have hfold := State.fold_recallDone he h5 hw
    have heq := State.recallDone_eq he h5 hw
    refine ⟨_, rfl, (congrArg State.mem heq :), (congrArg State.cores heq :), (congrArg State.dirWaits heq :), ?_, fun hn => ?_, fun hn => ?_⟩
    · rw [hfold]
      exact (s.fold fd).entry_dropEntry ln
    · rw [hfold, hn]
      exact ⟨_, List.mem_append_right _ List.mem_cons_self, rfl, rfl, rfl, rfl⟩
    · obtain ⟨x, hx⟩ := Option.ne_none_iff_exists'.mp hn
      rw [hfold, hx]
      exact List.append_nil _
  · refine ⟨_, rfl, rfl, rfl, fun r => ?_⟩
    rw [State.fold_modFold, if_pos rfl]
    simp only [List.mem_filter, Bool.not_eq_true', Bool.and_eq_false_iff, decide_eq_false_iff_not, not_and_or]
  · have hexec : exec (.requestRetry c) s = .next (s.request r.core r.line r.kind) := by
      show Host.Outcome.next (match s.retryDue c with | some r => s.request r.core r.line r.kind | none => s) = _
      rw [hr]
    refine ⟨_, hexec, ?_⟩
    rw [hc]
    rcases hk with h | h | h <;> rw [h] <;> rfl

end Sys2Proof.Machine
end

section
/-! PROOFS. FENCE: a state that lists its issuing core twice refutes O26. -/
namespace Sys2Proof.Machine
open Sys2Proof

/-! ## A machine that lists core 0 twice

A store of the state is any list of pairs, and what stands at a key is the first pair of it (`tget`). `State.uncached` reads every
pair, and a write (`tput`) drops the later ones. So a copy of a line in a pair that nothing else reads keeps an atomic waiting while
FENCE performs the queue, and is gone when the issue has written its group back: the atomic stays in the queue, and its line is cached
nowhere. -/

/-- An AMO of group 0 of core 0 on an element of line 0x4000. -/
def queuedAmo : MemReq := { id := 1, core := 0, grp := 0, lane := 0, pc := 0, kind := .amo 0 0 0x200010 0x200010 0 0 }

/-- One thread stands in group 0 of core 0, whose AMO on a line is queued; a second pair of core 0 holds a copy of that line. The
line's home is a fold die of module 1, which no port reaches, so the copy cannot be called in. -/
def coreTwiceListed : State :=
  { chsets := [(0, { chmask := 1, nlive := 1, state := 1, csize := 24576, en := true })]
    stores := [queuedAmo]
    domain := { live := [2] }
    cores := [(0, { team := some { groups := [(0, { exited := BitVec.allOnes 64 - 1 })] } }), (0, { lines := [(0x4000, .s)] })] }

/-- The queue after an outcome, and whether a line is then cached nowhere. -/
def queueAndUncached (ln : Nat) : Host.Outcome State Fault Refusal → List MemReq × Bool
  | .next t => (t.stores, t.uncached ln)
  | _ => ([], false)

/-- FENCE leaves the AMO in the queue, and its line cached nowhere. -/
theorem fence_coreTwiceListed : queueAndUncached 0x4000 (exec (.fence {}) coreTwiceListed) = ([queuedAmo], true) := by
  decide +kernel

/-- Refutes O26: in `coreTwiceListed` an AMO of the group stays in the queue after FENCE, though its line is cached nowhere. -/
theorem not_fenceAndBarrierSetup : ¬ Obligations.FenceAndBarrierSetup := by
  unfold Obligations.FenceAndBarrierSetup
  rintro ⟨hfence, -⟩
  obtain ⟨t, he, -, -, hstays⟩ := hfence {} coreTwiceListed (by decide +kernel) (by decide +kernel) (fun h => absurd h (by decide))
    (fun h => absurd h (by decide +kernel))
  have hq := fence_coreTwiceListed
  rw [he] at hq
  obtain ⟨hstores, hun⟩ : t.stores = [queuedAmo] ∧ t.uncached 0x4000 = true := Prod.mk.inj hq
  obtain ⟨q, hhead, hblocked⟩ := hstays _ (by rw [hstores]; exact List.mem_cons_self) rfl rfl
  rw [hstores] at hhead
  obtain rfl : queuedAmo = q := Option.some.inj hhead
  have hblocked : t.uncached 0x4000 = false := hblocked
  rw [hun] at hblocked
  cases hblocked

end Sys2Proof.Machine
end

section
/-! PROOFS. Queued requests leave every grid as it was, but for a deferred fault; TQDEF and TQDONE (O28). -/
namespace Sys2Proof.Machine
open Sys2Proof

/-! ## Grids while queued requests are performed -/

/-- The grids, but for whether a deferred fault has been detected for them (R439). -/
def State.duties (s : State) : Nat → Grid := fun g => (s.grid g).undeferred

theorem State.duties_of_grids {s t : State} (h : t.grids = s.grids) : t.duties = s.duties :=
  funext fun g => congrArg Grid.undeferred (State.grid_congr h g)

theorem State.duties_deferredFault (s : State) (r : MemReq) (va code sub detail : Nat) :
    (s.deferredFault r va code sub detail).duties = s.duties := funext fun g => s.deferredFault_grid r va code sub detail g

theorem State.duties_combineAt (s : State) (r : MemReq) (pa va op ty : Nat) (v : Word) (mixed : Bool) :
    (s.combineAt r pa va op ty v mixed).duties = s.duties := by
  unfold State.combineAt
  extract_lets a
  split
  · exact s.duties_deferredFault _ _ _ _ _
  · exact State.duties_of_grids (s.grids_putAcc _ _ _)

theorem State.Moves.duties {s₀ s : State} (h : s₀.Moves s) : s.duties = s₀.duties := by
  induction h with
  | refl => rfl
  | @tail u _ _ hm ih =>
    refine Eq.trans ?_ ih
    cases hm with
    | lines e => exact State.duties_of_grids (State.grids_of_ground e)
    | sends core pa p _ => exact State.duties_combineAt _ _ _ _ _ _ _ _
    | logs f n _ => exact State.duties_of_grids (u.grids_logEvent _ _ _ _ _ _ _)

section
variable {s₀ s : State}

/-- A change of the state that neither moves lines nor touches a grid. -/
theorem State.duties_queue (h : s.duties = s₀.duties) (rest : List MemReq) : (s.queue rest).duties = s₀.duties := h

theorem State.duties_target {r : MemReq} {pa va : Nat} (h : s.duties = s₀.duties) : (s.target r pa va).1.duties = s₀.duties := by
  unfold State.target
  extract_lets a
  split
  · exact (s.duties_deferredFault _ _ _ _ _).trans h
  · exact h

theorem State.duties_writeAcc {a : Acc} {bs : List Byte} (h : s.duties = s₀.duties) : (s.writeAcc a bs).duties = s₀.duties := by
  cases a <;> exact h

theorem State.duties_modKept {c g : Nat} {f : Group → Group} (h : s.duties = s₀.duties) : (s.modKept c g f).duties = s₀.duties :=
  (State.duties_of_grids (congrArg (fun x => x.1.grids) (s.ungrouped_modKept c g f) :)).trans h

theorem State.duties_settleReq {r : MemReq} (h : s.duties = s₀.duties) : (s.settleReq r).duties = s₀.duties := by
  unfold State.settleReq
  split
  · exact h
  · exact State.duties_modKept h

theorem State.duties_storeAt {r : MemReq} {pa : Nat} {a : Acc} {bs : List Byte} (h : s.duties = s₀.duties) :
    (s.storeAt r pa a bs).duties = s₀.duties := by
  unfold State.storeAt
  split
  · exact h
  · extract_lets s1
    have h1 : s1.duties = s₀.duties := (State.moves_obtain .refl).duties.trans h
    clear_value s1
    split
    · exact State.duties_writeAcc h1
    · exact h1

theorem State.duties_redAt {r : MemReq} {pa va op ty : Nat} {v : Word} (h : s.duties = s₀.duties) :
    (s.redAt r pa va op ty v).duties = s₀.duties := by
  unfold State.redAt
  extract_lets s1
  have h1 : s1.duties = s₀.duties := (State.moves_obtain .refl).duties.trans h
  clear_value s1
  split <;> exact h1

theorem State.duties_atMemory {r : MemReq} {pa : Nat} {rd : Bool} {a : Acc} {f : State → State} (h : s.duties = s₀.duties)
    (hf : ∀ t, t.duties = s₀.duties → (f t).duties = s₀.duties) : (s.atMemory r pa rd a f).duties = s₀.duties := by
  unfold State.atMemory
  extract_lets s1
  have h1 : s1.duties = s₀.duties := (State.moves_uncache .refl).duties.trans h
  clear_value s1
  split
  · exact hf _ ((State.duties_of_grids (congrArg (fun x => x.1.grids) (s1.steady_reach _ _ _) :)).trans h1)
  · exact h1

/-- The state of a pair that a match has taken apart. -/
theorem duties_fst {α : Type} {p : State × α} {t : State} {x : α} (e : p = (t, x)) (h : p.1.duties = s₀.duties) : t.duties = s₀.duties := by
  subst e
  exact h

theorem State.duties_performReq {r : MemReq} (h : s.duties = s₀.duties) : (s.performReq r).duties = s₀.duties := by
  unfold State.performReq
  split
  · split
    · exact State.duties_storeAt (duties_fst ‹_› (State.duties_target h))
    · exact duties_fst ‹_› (State.duties_target h)
  · split
    · exact State.duties_atMemory (duties_fst ‹_› (State.duties_target h)) (fun _ ht => State.duties_writeAcc ht)
    · exact duties_fst ‹_› (State.duties_target h)
  · exact State.duties_atMemory h (fun _ ht => State.duties_modKept (State.duties_writeAcc ht))
  split
  · next s1 _ e1 =>
      have h1 : s1.duties = s₀.duties := duties_fst e1 (State.duties_target h)
      split
      · exact State.duties_atMemory h1 (fun t ht => (t.duties_combineAt _ _ _ _ _ _ _).trans ht)
      · exact State.duties_redAt h1
  · exact duties_fst ‹_› (State.duties_target h)

theorem State.duties_performHead (h : s.duties = s₀.duties) : s.performHead.duties = s₀.duties := by
  unfold State.performHead
  split
  · exact h
  · exact State.duties_settleReq (State.duties_performReq h)

theorem State.duties_drain {p : MemReq → Bool} {n : Nat} (h : s.duties = s₀.duties) : (State.drain p n s).duties = s₀.duties := by
  induction n generalizing s with
  | zero => exact h
  | succ n ih =>
    unfold State.drain
    have ht := State.duties_performHead h
    split
    · dsimp only
      split
      · exact ih ht
      · exact ht
    · exact h

end

/-- Performing what a group has queued changes no grid, but for a deferred fault. -/
theorem State.duties_drainGroup (s : State) : s.drainGroup.duties = s.duties := State.duties_drain rfl

/-! ## Slots of the task queue (R230 to R233) -/

theorem State.slot_of_duties {s t : State} (h : t.duties = s.duties) (g k : Nat) : t.slot g k = s.slot g k :=
  (congrArg (fun x : Grid => tget ({} : TqSlot) x.tq k) (congrFun h g :) :)

theorem State.slot_setSlot (s : State) (g k : Nat) (x : TqSlot) (j : Nat) :
    (s.setSlot g k x).slot g j = if j = k then x else s.slot g j := by
  have hg : (s.setSlot g k x).grid g = { s.grid g with tq := tput {} (s.grid g).tq k x } := tget_tput_same ({} : Grid) _ _ _
  unfold State.slot
  rw [hg]
  exact tget_tput ({} : TqSlot) _ _ _ _

/-- What TQDEF writes in its slot (R232). -/
def definedTask (w cycle : Nat) : TqSlot :=
  { state := if bits w 27 12 = 0 then .ready else .waiting, count := bits w 27 12, prio := bits w 30 28
    payload := BitVec.ofNat 32 (bits w 63 32), readyCycle := if bits w 27 12 = 0 then cycle else 0 }

/-- A task that one entry of a TQDONE has counted down (R233). -/
def countedDown (x : TqSlot) (cycle : Nat) : TqSlot :=
  if x.count = 1 then { x with count := 0, state := .ready, readyCycle := cycle } else { x with count := x.count - 1 }

section
variable {o : QOps} {s : State} {iss : Issue}

theorem tqdefBody_eq (hp : iss.p ≠ 0) (hs : s.isSvc = false) {w : Nat} (hw : w = (s.group.sreg o.sa).toNat)
    (h1 : (s.slot s.team.grid (bits w 11 0)).state ≠ .waiting) (h2 : (s.slot s.team.grid (bits w 11 0)).state ≠ .ready)
    (h31 : bit w 31 = false) :
    tqdefBody o iss s = Res.group (s.irrevocable.setSlot s.team.grid (bits w 11 0) (definedTask w s.cycle))
      (tqWritten o iss.p 1 [if bits w 27 12 = 0 then 1 else 0]) := by
  subst hw
  unfold tqdefBody
  rw [teamOnly_team hs]
  dsimp only
  rw [if_neg hp, if_neg (by simp [h1, h2, h31])]
  rfl

/-- Only the first entry of a word below 2^16 can be valid. -/
theorem bit_entry_of_lt {w j : Nat} (hw : w < 2 ^ 16) (hj : 0 < j) : bit w (16 * j + 15) = false := by
  rw [bit_eq_bits, bits_eq_zero w _ _ (Nat.lt_of_lt_of_le hw (Nat.pow_le_pow_right (by decide) (by omega)))]
  rfl

/-- A TQDONE whose first entry alone is valid counts one task down. -/
theorem State.tqDone_first {g w : Nat} (hw : w < 2 ^ 16) (hv : bit w 15 = true) (hc : 0 < (s.slot g (bits w 11 0)).count) :
    s.tqDone g w [0, 1, 2, 3] = (s.setSlot g (bits w 11 0) (countedDown (s.slot g (bits w 11 0)) s.cycle),
      if (s.slot g (bits w 11 0)).count = 1 then 1 else 0, none) := by
  have h1 := bit_entry_of_lt hw (j := 1) (by decide)
  have h2 := bit_entry_of_lt hw (j := 2) (by decide)
  have h3 := bit_entry_of_lt hw (j := 3) (by decide)
  have h0 : bit w (16 * 0 + 15) = true := hv
  simp only [State.tqDone, h0, h1, h2, h3, Bool.not_true, Bool.not_false, Bool.false_eq_true, if_false, if_true]
  rw [if_neg (Nat.ne_of_gt hc)]
  simp only [Nat.zero_add]
  rfl

theorem tqdoneBody_eq (hp : iss.p ≠ 0) (hs : s.isSvc = false) {w : Nat} (hw : w = (s.group.sreg o.sa).toNat) (hlt : w < 2 ^ 16)
    (hv : bit w 15 = true) (hz : bits w 14 12 = 0) {x : TqSlot} (hx : x = s.drainGroup.irrevocable.slot s.team.grid (bits w 11 0))
    (hc : 0 < x.count) :
    tqdoneBody o iss s = Res.group (s.drainGroup.irrevocable.setSlot s.team.grid (bits w 11 0) (countedDown x s.drainGroup.cycle))
      (tqWritten o iss.p 1 [BitVec.ofNat 64 (if x.count = 1 then 1 else 0)]) := by
  subst hx
  have hbits : (List.range 4).any (fun j => bits w (16 * j + 14) (16 * j + 12) ≠ 0) = false := by
    rw [List.any_eq_false]
    intro j _
    rcases Nat.eq_zero_or_pos j with rfl | hj
    · simpa using hz
    · rw [bits_eq_zero w _ _ (Nat.lt_of_lt_of_le hlt (Nat.pow_le_pow_right (by decide) (by omega)))]
      simp
  subst hw
  unfold tqdoneBody
  rw [teamOnly_team hs]
  dsimp only
  rw [if_neg hp, hbits, if_neg Bool.false_ne_true, State.tqDone_first hlt hv hc]
  rfl

theorem tqdef_answers (hq : s.quiet (.tqdef o) = true) (hp : s.doers (.tqdef o) ≠ 0) (hs : s.isSvc = false) (hr : s.isRedundant = false)
    {w : Nat} (hw : w = (s.group.sreg o.sa).toNat) (h1 : (s.slot s.team.grid (bits w 11 0)).state ≠ .waiting)
    (h2 : (s.slot s.team.grid (bits w 11 0)).state ≠ .ready) (h31 : bit w 31 = false) :
    ∃ t, exec (.tqdef o) s = .next t ∧ Answers (.tqdef o) [o.x] s t ∧ t.mem = s.mem
      ∧ (o.x ≠ 0 → t.group.sreg o.x = if bits w 27 12 = 0 then 1 else 0)
      ∧ ∀ k, t.slot s.team.grid k = if k = bits w 11 0 then definedTask w s.cycle else s.slot s.team.grid k := by
  have hv : (s.irrevocable.setSlot s.team.grid (bits w 11 0) (definedTask w s.cycle)).present = true :=
    (State.irrevocable_present s).trans (State.quiet_present hq)
  have hg : (s.irrevocable.setSlot s.team.grid (bits w 11 0) (definedTask w s.cycle)).group = s.group := State.irrevocable_group s
  obtain ⟨t, he, ha, hm, hgr, _, hregs, _⟩ := compared_answers hq hr (tqdefBody_eq hp hs hw h1 h2 h31) hv
    (by rw [hg]; exact .refl _ _) (tqWritten_one_sameBut o _ _ _)
  refine ⟨t, he, ha, hm, fun hx => (hregs.sreg _).trans (tqWritten_one_sreg o _ _ _ hx), fun k => ?_⟩
  exact (State.slot_congr hgr _ _).trans (State.slot_setSlot _ _ _ _ _)

/-- What stands of the issuing group when what it has queued has been performed. -/
theorem State.drainGroup_sameBut (hs : s.isSvc = false) : s.group.SameBut [] s.drainGroup.group :=
  Group.sameBut_of_still ((State.kept_drainGroup (s₀ := s) rfl).group hs)

theorem tqdone_answers (hq : s.quiet (.tqdone o) = true) (hp : s.doers (.tqdone o) ≠ 0) (hs : s.isSvc = false)
    (hr : s.isRedundant = false) {w : Nat} (hw : w = (s.group.sreg o.sa).toNat) (hlt : w < 2 ^ 16) (hv : bit w 15 = true)
    (hz : bits w 14 12 = 0) {x : TqSlot} (hx : x = s.slot s.team.grid (bits w 11 0)) (hc : 0 < x.count) :
    ∃ t, exec (.tqdone o) s = .next t ∧ Answers (.tqdone o) [o.x] s t ∧ t.mem = s.drainGroup.mem
      ∧ (o.x ≠ 0 → t.group.sreg o.x = BitVec.ofNat 64 (if x.count = 1 then 1 else 0))
      ∧ ∀ k, t.slot s.team.grid k = if k = bits w 11 0 then countedDown x s.cycle else s.slot s.team.grid k := by
  have hkept : s.Kept s.drainGroup := State.kept_drainGroup rfl
  have hslot : ∀ k, s.drainGroup.irrevocable.slot s.team.grid k = s.slot s.team.grid k := fun k =>
    State.slot_of_duties (t := s.drainGroup) s.duties_drainGroup _ _
  have hpres : (s.drainGroup.irrevocable.setSlot s.team.grid (bits w 11 0) (countedDown x s.drainGroup.cycle)).present = true :=
    ((State.irrevocable_present _).trans hkept.present).trans (State.quiet_present hq)
  have hg : (s.drainGroup.irrevocable.setSlot s.team.grid (bits w 11 0) (countedDown x s.drainGroup.cycle)).group = s.drainGroup.group :=
    s.drainGroup.irrevocable_group
  obtain ⟨t, he, ha, hm, hgr, _, hregs, _⟩ := compared_answers hq hr
    (tqdoneBody_eq hp hs hw hlt hv hz (hx.trans (hslot _).symm) hc) hpres
    (by rw [hg]; exact State.drainGroup_sameBut hs) (tqWritten_one_sameBut o _ _ _)
  refine ⟨t, he, ha, hm, fun hx => (hregs.sreg _).trans (tqWritten_one_sreg o _ _ _ hx), fun k => ?_⟩
  rw [State.slot_congr hgr, State.slot_setSlot, hkept.cycle]
  split
  · rfl
  · exact hslot k

end

/-- Settles O28: a definition writes its slot, and a TQDONE of one entry counts one slot down. -/
theorem tasksChange : Obligations.TasksChange := by
  unfold Obligations.TasksChange
  refine ⟨fun o s => ?_, fun o s => ?_⟩
  · intro i w x n hq hp hs hr h1 h2 h31
    obtain ⟨t, he, ha, hm, hres, hslot⟩ := tqdef_answers hq hp hs hr rfl h1 h2 h31
    refine ⟨t, he, ha.scalars, ha.vectors, ha.masks, ha.iters, ha.flags, ha.went, hm, hres, ?_, fun k hk => ?_⟩
    · exact (hslot _).trans (if_pos rfl)
    · exact (hslot k).trans (if_neg hk)
  · intro i w x hq hp hs hr hhi hv hz hc
    have hlt : w < 2 ^ 16 := by
      have h64 : w < 2 ^ 64 := (s.group.sreg o.sa).isLt
      unfold bits at hhi
      omega
    obtain ⟨t, he, ha, hm, hres, hslot⟩ := tqdone_answers hq hp hs hr rfl hlt hv hz rfl hc
    refine ⟨t, he, ha.scalars, ha.vectors, ha.masks, ha.iters, ha.flags, ha.went, hm, fun hx => ?_, ?_, fun k hk => ?_⟩
    · rw [hres hx]
      show BitVec.ofNat 64 (if x.count = 1 then 1 else 0) = _
      split <;> rfl
    · exact (hslot _).trans (if_pos rfl)
    · exact (hslot k).trans (if_neg hk)

end Sys2Proof.Machine
end

section
/-! PROOFS. Barriers: arrivals, phases and waits (O27). -/
namespace Sys2Proof.Machine
open Sys2Proof

/-! ## Where a barrier stands (R223)

Which core holds a barrier follows from where the teams stand and where their grids are placed; a change of a team that leaves these
alone moves no barrier. -/

/-- Where a team stands in its grid. -/
def Team.site (t : Team) : Nat × Nat × Nat × Nat := (t.grid, t.clid, t.rows, t.cols)
/-- Where the teams stand, and where their grids are placed. -/
def State.sites (s : State) : Nat × (Nat → Option (Nat × Nat × Nat × Nat)) × (Nat → List Nat) :=
  (s.core, fun k => (s.coreAt k).team.map Team.site, fun g => (s.grid g).place)
/-- The barriers of the teams. -/
def State.barrierTabs (s : State) : Nat → Option (Tbl Barrier) := fun k => (s.coreAt k).team.map Team.barriers

/-- The core that holds a barrier, from where the teams stand. -/
def siteCore (x : Nat × (Nat → Option (Nat × Nat × Nat × Nat)) × (Nat → List Nat)) (c b : Nat) : Nat :=
  if b < 16 then c
  else match x.2.1 c with
    | some (grid, clid, rows, cols) => (x.2.2 grid).getD (clid * (rows * cols)) x.1
    | none => c

theorem State.barrierCore_eq (s : State) (c b : Nat) : s.barrierCore c b = siteCore s.sites c b := by
  unfold State.barrierCore siteCore State.sites
  dsimp only
  cases (s.coreAt c).team <;> rfl

theorem State.barrier_eq (s : State) (c b : Nat) :
    s.barrier c b = match s.barrierTabs (siteCore s.sites c b) with | some l => tget {} l b | none => {} := by
  unfold State.barrier State.barrierTabs
  rw [s.barrierCore_eq]
  cases (s.coreAt (siteCore s.sites c b)).team <;> rfl

section
variable {s t : State}

theorem State.barrierCore_of_sites (h : t.sites = s.sites) (c b : Nat) : t.barrierCore c b = s.barrierCore c b := by
  rw [t.barrierCore_eq, s.barrierCore_eq, h]

theorem State.barrier_of_sites (h : t.sites = s.sites) (ht : t.barrierTabs = s.barrierTabs) (c b : Nat) :
    t.barrier c b = s.barrier c b := by
  rw [t.barrier_eq, s.barrier_eq, h, ht]

end

/-! ## Changes of teams -/

section
variable {s : State}

theorem State.teamAt_modTeamAt (s : State) (c : Nat) (f : Team → Team) (k : Nat) :
    ((s.modTeamAt c f).coreAt k).team = if k = c then (s.coreAt k).team.map f else (s.coreAt k).team := by
  unfold State.modTeamAt
  rw [State.coreAt_modCore]
  split
  · next e => rw [e]
  · rfl

/-- A view of a team that a change leaves alone. -/
theorem State.teamView_modTeamAt {α : Type} {v : Team → α} (c : Nat) {f : Team → Team} (hf : ∀ t, v (f t) = v t) (k : Nat) :
    ((s.modTeamAt c f).coreAt k).team.map v = (s.coreAt k).team.map v := by
  rw [s.teamAt_modTeamAt]
  split
  · rw [Option.map_map]
    exact congrArg (Option.map · _) (funext hf)
  · rfl

theorem State.sites_modTeamAt (c : Nat) {f : Team → Team} (hf : ∀ t, (f t).site = t.site) : (s.modTeamAt c f).sites = s.sites :=
  Prod.ext rfl (Prod.ext (funext fun k => State.teamView_modTeamAt c hf k) rfl)

theorem State.barrierTabs_modTeamAt (c : Nat) {f : Team → Team} (hf : ∀ t, (f t).barriers = t.barriers) :
    (s.modTeamAt c f).barrierTabs = s.barrierTabs := funext fun k => State.teamView_modTeamAt c hf k

theorem State.present_modTeamAt (s : State) (c : Nat) (f : Team → Team) : (s.modTeamAt c f).present = s.present := by
  show (s.isSvc || ((s.modTeamAt c f).coreAt s.core).team.isSome) = (s.isSvc || (s.coreAt s.core).team.isSome)
  rw [s.teamAt_modTeamAt]
  split
  · rw [Option.isSome_map]
  · rfl

/-- The issuing group of a team after a change of the teams of a core. -/
theorem State.group_modTeamAt (hs : s.isSvc = false) (c : Nat) (f : Team → Team) :
    (s.modTeamAt c f).group = if s.core = c then ((s.coreAt s.core).team.map f).getD {} |>.group s.grp else s.group := by
  have hs' : (s.modTeamAt c f).isSvc = false := hs
  unfold State.group
  rw [hs, hs']
  show (((s.modTeamAt c f).coreAt s.core).team.getD {}).group s.grp = _
  rw [s.teamAt_modTeamAt]
  split <;> rfl

/-- A change that keeps the groups of a team. -/
theorem State.group_modTeamAt_of_groups (hs : s.isSvc = false) (c : Nat) {f : Team → Team} (hf : ∀ t, (f t).groups = t.groups) :
    (s.modTeamAt c f).group = s.group := by
  rw [State.group_modTeamAt hs]
  split
  · unfold State.group State.team
    rw [hs]
    cases (s.coreAt s.core).team with
    | none => rfl
    | some t => exact congrArg (fun l => tget ({} : Group) l s.grp) (hf t)
  · rfl

end

/-! ## What an arrival leaves alone -/

/-- t is s but for barriers, waits, and marks of the teams. -/
structure State.StandsAs (s t : State) : Prop where
  core : t.core = s.core
  grp : t.grp = s.grp
  mem : t.mem = s.mem
  present : t.present = s.present
  sites : t.sites = s.sites
  group : s.group.SameBut [] t.group

theorem State.StandsAs.refl (s : State) : s.StandsAs s := ⟨rfl, rfl, rfl, rfl, rfl, .refl _ _⟩

theorem State.StandsAs.trans {s t u : State} (a : s.StandsAs t) (b : t.StandsAs u) : s.StandsAs u :=
  ⟨b.core.trans a.core, b.grp.trans a.grp, b.mem.trans a.mem, b.present.trans a.present, b.sites.trans a.sites, a.group.trans b.group⟩

theorem State.StandsAs.isSvc {s t : State} (a : s.StandsAs t) : t.isSvc = s.isSvc := by
  unfold State.isSvc
  rw [a.grp]

theorem State.standsAs_modTeamAt {s : State} (hs : s.isSvc = false) (c : Nat) {f : Team → Team}
    (hf : ∀ t, (f t).site = t.site ∧ (f t).groups = t.groups) : s.StandsAs (s.modTeamAt c f) :=
  ⟨rfl, rfl, rfl, s.present_modTeamAt c f, State.sites_modTeamAt c fun t => (hf t).1,
    by rw [State.group_modTeamAt_of_groups hs c fun t => (hf t).2]; exact .refl _ _⟩

/-! ## Waits that a phase ends (R224) -/

/-- A wait for a phase of barrier b that has passed. -/
def passedWait (b : Nat) (x : Barrier) (k : WaitKind) : Bool :=
  match k with | .barrier b' p => b' = b && x.passed p | _ => false

/-- The groups of a team let go of some waits. -/
def Team.releaseAll (p : WaitKind → Bool) (t : Team) : Team := { t with groups := t.groups.map (fun g => (g.1, g.2.release p)) }

theorem Team.group_releaseAll (p : WaitKind → Bool) (t : Team) (g : Nat) : (t.releaseAll p).group g = (t.group g).release p :=
  tget_map (f := Group.release p) (d := ({} : Group)) (e := ({} : Group)) rfl t.groups g

theorem State.releaseBarrier_eq (s : State) (c b : Nat) :
    s.releaseBarrier c b = (s.sharers c b).foldl (fun t d => t.modTeamAt d (Team.releaseAll (passedWait b (s.barrier c b)))) s := rfl

theorem State.release_modTeamAt {s : State} (hs : s.isSvc = false) (hp : s.present = true) (d : Nat) (p : WaitKind → Bool) :
    (s.modTeamAt d (Team.releaseAll p)).group = if s.core = d then s.group.release p else s.group := by
  rw [State.group_modTeamAt hs]
  split
  · have ht : (s.coreAt s.core).team.isSome = true := by simpa [State.present, hs] using hp
    obtain ⟨t, ht⟩ := Option.isSome_iff_exists.mp ht
    unfold State.group State.team
    rw [hs, ht]
    exact t.group_releaseAll p s.grp
  · rfl

/-- What the teams of some cores let go of, the issuing group lets go of if its core is among them. -/
theorem State.foldl_release {p : WaitKind → Bool} (l : List Nat) {s : State} (hs : s.isSvc = false) (hp : s.present = true) :
    let t := l.foldl (fun t d => t.modTeamAt d (Team.releaseAll p)) s
    s.StandsAs t ∧ t.barrierTabs = s.barrierTabs ∧ (∀ w ∈ t.group.waits, w ∈ s.group.waits)
      ∧ (s.core ∈ l → ∀ w ∈ t.group.waits, p w.kind = false) := by
  induction l generalizing s with
  | nil => exact ⟨.refl s, rfl, fun _ h => h, fun h => absurd h List.not_mem_nil⟩
  | cons d l ih =>
    have hg := State.release_modTeamAt hs hp d p
    have h1 : s.StandsAs (s.modTeamAt d (Team.releaseAll p)) := by
      refine ⟨rfl, rfl, rfl, s.present_modTeamAt d _, State.sites_modTeamAt d fun _ => rfl, ?_⟩
      rw [hg]
      split
      · exact ⟨fun _ _ => rfl, rfl, rfl, rfl, rfl, rfl, rfl⟩
      · exact .refl _ _
    obtain ⟨h2, htabs, hsub, hgone⟩ := ih (s := s.modTeamAt d (Team.releaseAll p)) hs (h1.present.trans hp)
    refine ⟨h1.trans h2, htabs.trans (State.barrierTabs_modTeamAt d fun _ => rfl), fun w hw => ?_, fun hmem w hw => ?_⟩
    · have hw := hsub w hw
      rw [hg] at hw
      split at hw
      · exact (List.mem_filter.mp hw).1
      · exact hw
    · by_cases hd : s.core = d
      · have hw := hsub w hw
        rw [hg, if_pos hd] at hw
        simpa using (List.mem_filter.mp hw).2
      · exact hgone ((List.mem_cons.mp hmem).resolve_left hd) w hw

/-- What stands in a table and is not its default is one of its pairs. -/
theorem mem_of_tget_ne {α : Type} {d : α} {l : Tbl α} {k : Nat} (h : tget d l k ≠ d) : (k, tget d l k) ∈ l := by
  induction l with
  | nil => exact absurd rfl h
  | cons x l ih =>
    unfold tget at h ⊢
    split at h
    · next e =>
      rw [if_pos e, ← e]
      exact List.mem_cons_self
    · next e =>
      rw [if_neg e]
      exact List.mem_cons_of_mem _ (ih h)

/-- A team shares its own barriers. -/
theorem State.core_mem_sharers {s : State} (c b : Nat) (ht : (s.coreAt c).team.isSome = true) : c ∈ s.sharers c b := by
  obtain ⟨t, ht⟩ := Option.isSome_iff_exists.mp ht
  unfold State.sharers
  split
  · exact List.mem_singleton.mpr rfl
  · rw [ht]
    dsimp only
    have hne : tget ({} : Core) s.cores c ≠ {} := fun h => by
      have hn : (s.coreAt c).team = none := congrArg Core.team h
      rw [hn] at ht
      cases ht
    have hxt : (tget ({} : Core) s.cores c).team = some t := ht
    exact List.mem_map.mpr ⟨_, List.mem_filter.mpr ⟨mem_of_tget_ne hne, by dsimp only; rw [hxt]; simp⟩, rfl⟩

/-! ## Phases -/

theorem State.sites_setBarrier (s : State) (c b : Nat) (x : Barrier) : (s.setBarrier c b x).sites = s.sites :=
  State.sites_modTeamAt _ fun _ => rfl

/-- A barrier that has been set, where a team holds it. -/
theorem State.barrier_setBarrier {s : State} {c b : Nat} (h : (s.coreAt (s.barrierCore c b)).team.isSome = true) (x : Barrier) :
    (s.setBarrier c b x).barrier c b = x := by
  obtain ⟨t, ht⟩ := Option.isSome_iff_exists.mp h
  unfold State.barrier
  rw [State.barrierCore_of_sites (s.sites_setBarrier c b x)]
  unfold State.setBarrier
  rw [s.teamAt_modTeamAt, if_pos rfl, ht]
  exact tget_tput_same ({} : Barrier) _ _ _

theorem State.standsAs_setBarrier {s : State} (hs : s.isSvc = false) (c b : Nat) (x : Barrier) : s.StandsAs (s.setBarrier c b x) :=
  State.standsAs_modTeamAt hs _ fun _ => ⟨rfl, rfl⟩

/-- A team that holds a barrier holds it after any such change. -/
theorem State.StandsAs.holds {s t : State} (a : s.StandsAs t) {c b : Nat} (h : (s.coreAt (s.barrierCore c b)).team.isSome = true) :
    (t.coreAt (t.barrierCore c b)).team.isSome = true := by
  rw [State.barrierCore_of_sites a.sites]
  have e : (t.coreAt (s.barrierCore c b)).team.map Team.site = (s.coreAt (s.barrierCore c b)).team.map Team.site :=
    congrFun (congrArg (·.2.1) a.sites) _
  have e := congrArg Option.isSome e
  rw [Option.isSome_map, Option.isSome_map] at e
  rw [e, h]

/-- A barrier whose phase completes (R224). -/
def Barrier.next (x : Barrier) : Barrier :=
  { x with phase := x.phase + 1, tarr := 0, earr := min x.heldArr x.ecount, heldArr := x.heldArr - min x.heldArr x.ecount, baraw := [] }

/-- A phase of a barrier completes: its waits end, and a checkpoint may be due. -/
def State.completePhase (s : State) (c b : Nat) : State :=
  let t := (s.setBarrier c b (s.barrier c b).next).releaseBarrier c b
  if b = 0 then t.modTeamAt c (fun t => { t with cpDue := t.cpDue || t.checkpoints (s.barrier c b) }) else t

theorem State.completeBarrier_of_not_full {s : State} {c b : Nat} (h : (s.barrier c b).full = false) (n : Nat) :
    s.completeBarrier c b n = s := by
  cases n with
  | zero => rfl
  | succ n =>
    unfold State.completeBarrier
    dsimp only
    rw [h]
    rfl

theorem State.completeBarrier_of_full {s : State} {c b : Nat} (h : (s.barrier c b).full = true) (n : Nat) :
    s.completeBarrier c b (n + 1) = (s.completePhase c b).completeBarrier c b n := by
  conv => lhs; unfold State.completeBarrier
  dsimp only
  rw [h]
  rfl

theorem Barrier.passed_next (x : Barrier) : x.next.passed x.phase = true := by
  have h1 : x.next.phase = x.phase + 1 := rfl
  unfold Barrier.passed
  rw [h1, show x.phase + 1 - x.phase = 1 by bv_omega]
  simp

/-- A phase that completes: the barrier stands at the next one, and no thread of the core's teams waits for the old one. -/
theorem State.completePhase_result {s : State} {b : Nat} (hs : s.isSvc = false) (hp : s.present = true)
    (hh : (s.coreAt (s.barrierCore s.core b)).team.isSome = true) : let t := s.completePhase s.core b
    s.StandsAs t ∧ t.barrier s.core b = (s.barrier s.core b).next
      ∧ ∀ w ∈ t.group.waits, w.kind ≠ .barrier b (s.barrier s.core b).phase := by
  have h1 := State.standsAs_setBarrier hs s.core b (s.barrier s.core b).next
  have hb1 := State.barrier_setBarrier hh (s.barrier s.core b).next
  generalize hu : s.setBarrier s.core b (s.barrier s.core b).next = u at h1 hb1
  have hus : u.isSvc = false := h1.isSvc.trans hs
  have hteam : (u.coreAt s.core).team.isSome = true := by
    have h := h1.present.trans hp
    unfold State.present at h
    rwa [hus, h1.core] at h
  obtain ⟨h2, htabs, -, hgone⟩ := State.foldl_release (p := passedWait b (u.barrier s.core b)) (u.sharers s.core b) hus (h1.present.trans hp)
  rw [← State.releaseBarrier_eq] at h2 htabs hgone
  have hb2 : (u.releaseBarrier s.core b).barrier s.core b = (s.barrier s.core b).next :=
    (State.barrier_of_sites h2.sites htabs s.core b).trans hb1
  have hwaits : ∀ w ∈ (u.releaseBarrier s.core b).group.waits, w.kind ≠ .barrier b (s.barrier s.core b).phase := by
    intro w hw hk
    have h := hgone (by rw [h1.core]; exact u.core_mem_sharers s.core b hteam) w hw
    rw [hk, hb1] at h
    unfold passedWait at h
    simp [Barrier.passed_next] at h
  have hvs : (u.releaseBarrier s.core b).isSvc = false := h2.isSvc.trans hus
  intro t
  unfold t State.completePhase
  dsimp only
  rw [hu]
  split
  · have hf : ∀ x : Team, ({ x with cpDue := x.cpDue || x.checkpoints (s.barrier s.core b) } : Team).site = x.site ∧
        ({ x with cpDue := x.cpDue || x.checkpoints (s.barrier s.core b) } : Team).groups = x.groups := fun _ => ⟨rfl, rfl⟩
    have h3 := State.standsAs_modTeamAt hvs s.core hf
    refine ⟨(h1.trans h2).trans h3, (State.barrier_of_sites h3.sites ?_ s.core b).trans hb2, ?_⟩
    · exact State.barrierTabs_modTeamAt s.core fun _ => rfl
    · rw [State.group_modTeamAt_of_groups hvs s.core fun x => (hf x).2]
      exact hwaits
  · exact ⟨h1.trans h2, hb2, hwaits⟩

/-! ## Arrivals (R223, R225) -/

/-- A barrier after k more arrivals, with the group and lanes of a BARAW. -/
def Barrier.arrived (x : Barrier) (k : Nat) (by_ : Option (Nat × Dword)) : Barrier :=
  { x with tarr := x.tarr + k
           baraw := match by_ with | some (g, m) => tput 0 x.baraw g (tget 0 x.baraw g ||| m) | none => x.baraw }

theorem State.arrive_eq (s : State) (c b k : Nat) (by_ : Option (Nat × Dword)) :
    s.arrive c b k by_ = (s.setBarrier c b ((s.barrier c b).arrived k by_)).completeBarrier c b ((s.barrier c b).heldArr + 1) := rfl

/-- A phase that has just completed is not full, of a barrier that counts at least one thread. -/
theorem Barrier.next_not_full {x : Barrier} (h : 0 < x.tcount) : x.next.full = false := by
  have ht : x.next.tarr = 0 := rfl
  have hc : x.next.tcount = x.tcount := rfl
  unfold Barrier.full
  rw [ht, hc]
  simp [Nat.ne_of_lt h]

theorem State.arrive_result {s : State} {b : Nat} (hs : s.isSvc = false) (hp : s.present = true)
    (hh : (s.coreAt (s.barrierCore s.core b)).team.isSome = true) (hc : 0 < (s.barrier s.core b).tcount) (k : Nat)
    (by_ : Option (Nat × Dword)) : let x := (s.barrier s.core b).arrived k by_
    let t := s.arrive s.core b k by_
    s.StandsAs t ∧ (x.full = false → t.barrier s.core b = x)
      ∧ (x.full = true → t.barrier s.core b = x.next ∧ ∀ w ∈ t.group.waits, w.kind ≠ .barrier b x.phase) := by
  intro x t
  have h1 := State.standsAs_setBarrier hs s.core b x
  have hb1 := State.barrier_setBarrier hh x
  have ht : t = (s.setBarrier s.core b x).completeBarrier s.core b ((s.barrier s.core b).heldArr + 1) := s.arrive_eq s.core b k by_
  have hh1 := h1.holds hh
  generalize s.setBarrier s.core b x = u at h1 hb1 ht hh1
  cases hf : x.full with
  | false =>
    rw [State.completeBarrier_of_not_full (by rw [hb1, hf])] at ht
    rw [ht]
    exact ⟨h1, fun _ => hb1, nofun⟩
  | true =>
    rw [State.completeBarrier_of_full (by rw [hb1, hf])] at ht
    obtain ⟨h2, hb2, hw⟩ := State.completePhase_result (s := u) (b := b) (h1.isSvc.trans hs) (h1.present.trans hp)
      (by rw [h1.core]; exact hh1)
    rw [h1.core] at h2 hb2 hw
    rw [hb1] at hb2 hw
    rw [State.completeBarrier_of_not_full (by rw [hb2]; exact Barrier.next_not_full hc)] at ht
    rw [ht]
    exact ⟨h1.trans h2, nofun, fun _ => ⟨hb2, hw⟩⟩

/-! ### What stands before the arrival: the group's earlier accesses are performed (R300) -/

theorem State.sites_of_kept {s t : State} (hk : s.Kept t) (hd : t.duties = s.duties) : t.sites = s.sites := by
  refine Prod.ext hk.core (Prod.ext (funext fun k => ?_) (funext fun g => ?_))
  · have h := congrArg (Option.map fun x : Team × (Nat → Group) => x.1.site) (hk.teamAt k)
    rw [Option.map_map, Option.map_map] at h
    exact h
  · exact (congrArg (fun x : Grid => x.place) (congrFun hd g :) :)

theorem State.barrierTabs_of_kept {s t : State} (hk : s.Kept t) : t.barrierTabs = s.barrierTabs := by
  funext k
  have h := congrArg (Option.map fun x : Team × (Nat → Group) => x.1.barriers) (hk.teamAt k)
  rw [Option.map_map, Option.map_map] at h
  exact h

/-- The state in which an arrival is counted: what the group has queued is performed, and at a cluster barrier the interval is
irrevocable (R300, R443). -/
def State.fencedFor (s : State) (b : Nat) : State := if b < 16 then s.drainGroup else s.drainGroup.irrevocable

/-- What an arrival finds is what stood before, but for memory and what the queue did to it. -/
theorem State.fencedFor_result {s : State} (hs : s.isSvc = false) (b : Nat) : let u := s.fencedFor b
    u.core = s.core ∧ u.grp = s.grp ∧ u.mem = s.drainGroup.mem ∧ u.present = s.present ∧ u.sites = s.sites
      ∧ u.barrierTabs = s.barrierTabs ∧ s.group.SameBut [] u.group := by
  have hk : s.Kept s.drainGroup := State.kept_drainGroup rfl
  have hsites := State.sites_of_kept hk s.duties_drainGroup
  have htabs := State.barrierTabs_of_kept hk
  have hg := State.drainGroup_sameBut hs
  unfold State.fencedFor
  split
  · exact ⟨hk.core, hk.grp, rfl, hk.present, hsites, htabs, hg⟩
  · refine ⟨hk.core, hk.grp, rfl, (State.irrevocable_present _).trans hk.present, ?_, ?_, ?_⟩
    · have e : s.drainGroup.irrevocable.sites = s.drainGroup.sites := State.sites_modTeamAt _ fun _ => rfl
      exact e.trans hsites
    · have e : s.drainGroup.irrevocable.barrierTabs = s.drainGroup.barrierTabs := State.barrierTabs_modTeamAt _ fun _ => rfl
      exact e.trans htabs
    · rw [State.irrevocable_group]
      exact hg

theorem State.arriveAll_eq (s : State) (b : Nat) (p : Dword) (aw : Bool) :
    s.arriveAll b p aw = (s.fencedFor b).arrive (s.fencedFor b).core b (popMask p) (if aw then some ((s.fencedFor b).grp, p) else none) := rfl

/-- The arrival of all threads of P at a barrier: counted, or the last of its phase. -/
structure State.Arrived (s : State) (b : Nat) (p : Dword) (t : State) : Prop where
  core : t.core = s.core
  grp : t.grp = s.grp
  mem : t.mem = s.drainGroup.mem
  present : t.present = s.present
  group : s.group.SameBut [] t.group
  counted : ¬ ((s.barrier s.core b).tarr + popMask p = (s.barrier s.core b).tcount ∧ (s.barrier s.core b).earr = (s.barrier s.core b).ecount) →
    (t.barrier s.core b).phase = (s.barrier s.core b).phase ∧ (t.barrier s.core b).tarr = (s.barrier s.core b).tarr + popMask p
  last : (s.barrier s.core b).tarr + popMask p = (s.barrier s.core b).tcount ∧ (s.barrier s.core b).earr = (s.barrier s.core b).ecount →
    (t.barrier s.core b).phase = (s.barrier s.core b).phase + 1 ∧ (t.barrier s.core b).tarr = 0
      ∧ (t.barrier s.core b).earr = min (s.barrier s.core b).heldArr (s.barrier s.core b).ecount
      ∧ ∀ w ∈ t.group.waits, w.kind ≠ .barrier b (s.barrier s.core b).phase

theorem popMask_pos {p : Dword} (hp : p ≠ 0) : 0 < popMask p :=
  List.length_pos_iff.mpr fun h => hp ((lanesOf_eq_nil p).mp h)

section
variable {s : State} {b : Nat} {p : Dword} (hs : s.isSvc = false) (hpr : s.present = true)
  (hh : (s.coreAt (s.barrierCore s.core b)).team.isSome = true) (hi : (s.barrier s.core b).init = true) (hp : p ≠ 0)
  (hle : (s.barrier s.core b).tarr + popMask p ≤ (s.barrier s.core b).tcount)
include hs hpr hh hi hp hle

theorem State.arriveAll_result (aw : Bool) : s.Arrived b p (s.arriveAll b p aw) := by
  obtain ⟨hcore, hgrp, hmem, hpres, hsites, htabs, hg⟩ := State.fencedFor_result hs b
  have heq := s.arriveAll_eq b p aw
  generalize s.fencedFor b = u at hcore hgrp hmem hpres hsites htabs hg heq
  have hbar : u.barrier u.core b = s.barrier s.core b := by
    rw [hcore]
    exact State.barrier_of_sites hsites htabs _ _
  have hus : u.isSvc = false := by
    unfold State.isSvc at hs ⊢
    rwa [hgrp]
  have huh : (u.coreAt (u.barrierCore u.core b)).team.isSome = true := by
    rw [State.barrierCore_of_sites hsites, hcore]
    have e := congrArg Option.isSome (congrFun htabs (s.barrierCore s.core b))
    unfold State.barrierTabs at e
    rw [Option.isSome_map, Option.isSome_map] at e
    rw [e, hh]
  have hpos := popMask_pos hp
  obtain ⟨ha, hno, hfull⟩ := State.arrive_result hus (hpres.trans hpr) huh (by rw [hbar]; omega) (popMask p)
    (if aw then some (u.grp, p) else none)
  rw [← heq, hbar] at hno hfull
  rw [← heq] at ha
  rw [hcore] at hno hfull
  have hx : ((s.barrier s.core b).arrived (popMask p) (if aw then some (u.grp, p) else none)).full = true ↔
      (s.barrier s.core b).tarr + popMask p = (s.barrier s.core b).tcount ∧ (s.barrier s.core b).earr = (s.barrier s.core b).ecount := by
    unfold Barrier.full Barrier.arrived
    simp [hi]
  refine ⟨ha.core.trans hcore, ha.grp.trans hgrp, ha.mem.trans hmem, ha.present.trans hpres, hg.trans ha.group, fun h => ?_, fun h => ?_⟩
  · rw [hno (by simpa using fun e => h (hx.mp e))]
    exact ⟨rfl, rfl⟩
  · obtain ⟨hb, hw⟩ := hfull (hx.mpr h)
    rw [hb]
    exact ⟨rfl, rfl, rfl, hw⟩

end

/-! ## The arrival instructions -/

theorem arriveSub_none {x : Barrier} {k : Nat} (hi : x.init = true) (hle : x.tarr + k ≤ x.tcount) : arriveSub x k = none := by
  unfold arriveSub
  rw [hi, if_neg (by simp), if_neg (by omega)]

section
variable {o : QOps} {s : State} {iss : Issue} (hp : iss.p ≠ 0) (hs : s.isSvc = false) (hi : (s.barrier s.core o.x).init = true)
  (hle : (s.barrier s.core o.x).tarr + popMask iss.p ≤ (s.barrier s.core o.x).tcount)
include hp hs hi hle

theorem bararrBody_eq : bararrBody o iss s = Res.group (s.arriveAll o.x iss.p false)
    (fun g => (g.setS o.sa ((s.barrier s.core o.x).phase.setWidth 64)).openWindow iss.p o.la [.s o.sa]) := by
  unfold bararrBody
  rw [teamOnly_team hs]
  dsimp only
  rw [if_neg hp, arriveSub_none hi hle]

theorem barawBody_eq : barawBody o iss s =
    if ((s.arriveAll o.x iss.p true).barrier (s.arriveAll o.x iss.p true).core o.x).passed (s.barrier s.core o.x).phase then
      .skip (s.arriveAll o.x iss.p true)
    else Res.group (s.arriveAll o.x iss.p true) (Group.hold iss.p (.barrier o.x (s.barrier s.core o.x).phase)) := by
  unfold barawBody
  rw [teamOnly_team hs]
  dsimp only
  rw [if_neg hp, arriveSub_none hi hle]

end

/-- The checkpoint that an arrival made due keeps groups and barriers (R442). -/
theorem State.checkpointIf_result {s : State} (hs : s.isSvc = false) (c : Nat) : s.StandsAs (s.checkpointIf c)
    ∧ (s.checkpointIf c).barrierTabs = s.barrierTabs ∧ (s.checkpointIf c).group = s.group := by
  unfold State.checkpointIf
  split
  · split
    · exact ⟨.refl s, rfl, rfl⟩
    split
    · exact ⟨State.standsAs_modTeamAt hs c fun _ => ⟨rfl, rfl⟩, State.barrierTabs_modTeamAt c fun _ => rfl,
        State.group_modTeamAt_of_groups hs c fun _ => rfl⟩
    · exact ⟨State.standsAs_modTeamAt hs c fun _ => ⟨rfl, rfl⟩, State.barrierTabs_modTeamAt c fun _ => rfl,
        State.group_modTeamAt_of_groups hs c fun _ => rfl⟩
  · exact ⟨.refl s, rfl, rfl⟩

/-- A change of the issuing group of a team moves no barrier. -/
theorem State.barrier_modGroup {s : State} (hs : s.isSvc = false) (f : Group → Group) (c b : Nat) :
    (s.modGroup f).barrier c b = s.barrier c b := by
  have hg : s.grp ≠ 16 := by simpa [State.isSvc] using hs
  let set : Team → Team := fun t => t.setGroup s.grp (f (t.group s.grp))
  have h : s.modGroup f = s.modTeamAt s.core set := by
    unfold State.modGroup State.modGroupAt
    rw [if_neg hg]
  rw [h]
  exact State.barrier_of_sites (State.sites_modTeamAt (f := set) _ fun _ => rfl) (State.barrierTabs_modTeamAt (f := set) _ fun _ => rfl) c b

/-- What an arrival instruction leaves, whose body leaves u. -/
theorem execArrival_result {i : Instr} {b : Nat} {body : Body} {s u : State} {rs : List Nat} (hq : s.quiet i = true)
    (hr : 16 ≤ b → s.isRedundant = false) (hs : u.isSvc = false) (hu : u.present = true) (hg : s.group.SameBut rs u.group)
    (hb : body ((s.issueOf (wordsOf i)).by (s.doers i)) s = { s := u }) :
    ∃ t, execArrival i b body s = .next t ∧ Answers i rs s t ∧ t.mem = u.mem ∧ u.group.SameRegs t.group
      ∧ (∀ c, t.barrier c b = u.barrier c b)
      ∧ ∀ w : Wait, (∀ y, w.kind ≠ .yield y) → (w ∈ t.group.waits ↔ w ∈ u.group.waits) := by
  have he : (if b < 16 then execWord i body s else execCompared i body s) = .next (s.wentOn (wordsOf i) false u) := by
    split
    · exact congrArg Host.Outcome.next (runIssue_wentOn hq hb)
    · exact execCompared_wentOn hq (hr (by omega)) hb
  have hws : (s.wentOn (wordsOf i) false u).isSvc = false := by
    unfold State.wentOn
    rw [State.modGroup_isSvc, hs]
  have ha := answers_wentOn (i := i) (sat := false) hu hg
  have hsr := s.wentOn_sameRegs (wordsOf i) false hu
  have hw := s.wentOn_waits (wordsOf i) false hu
  have hbar : ∀ c, (s.wentOn (wordsOf i) false u).barrier c b = u.barrier c b := fun c => State.barrier_modGroup hs _ c b
  have hmem := s.wentOn_mem (wordsOf i) false u
  generalize s.wentOn (wordsOf i) false u = v at he hws ha hsr hw hbar hmem
  obtain ⟨hst, htabs, hgr⟩ := State.checkpointIf_result hws v.core
  refine ⟨v.checkpointIf v.core, ?_, ?_, hst.mem.trans hmem, by rw [hgr]; exact hsr, fun c => ?_, fun w hk => ?_⟩
  · unfold execArrival
    rw [he]
  · obtain ⟨h1, h2, h3, h4, h5, h6⟩ := ha
    constructor <;> rw [hgr] <;> assumption
  · exact (State.barrier_of_sites hst.sites htabs c b).trans (hbar c)
  · rw [hgr, hw, if_neg Bool.false_ne_true, Group.mem_satisfy_waits _ _ hk]

/-- BARARR writes the phase in which its threads arrived, and may open a window (R225). -/
def Group.arrivedIn (o : QOps) (p : Dword) (ph : BitVec 32) (g : Group) : Group :=
  (g.setS o.sa (ph.setWidth 64)).openWindow p o.la [.s o.sa]

theorem Group.arrivedIn_sameBut (o : QOps) (p : Dword) (ph : BitVec 32) (g : Group) : g.SameBut [o.sa] (g.arrivedIn o p ph) :=
  (Group.sameBut_setS (by simp) _ _).trans ((Group.openWindow_sameRegs _ _ _ _).sameBut (by simp) (by simp) _)

theorem Group.arrivedIn_sreg {o : QOps} (hx : o.sa ≠ 0) (p : Dword) (ph : BitVec 32) (g : Group) :
    (g.arrivedIn o p ph).sreg o.sa = ph.setWidth 64 := by
  refine ((Group.openWindow_sameRegs _ _ _ _).sreg o.sa).trans ?_
  rw [Group.sreg_setS]
  simp [hx]

theorem Group.arrivedIn_waits (o : QOps) (p : Dword) (ph : BitVec 32) (g : Group) : (g.arrivedIn o p ph).waits = g.waits := by
  unfold Group.arrivedIn
  rw [Group.openWindow_waits]
  unfold Group.setS
  split <;> rfl

section
variable {o : QOps} {s : State} {p : Dword}

/-- A BARARR that its barrier counts. -/
theorem execArrival_bararr {u : State} (hq : s.quiet (.bararr o) = true) (hr : 16 ≤ o.x → s.isRedundant = false)
    (hs : u.isSvc = false) (hu : u.present = true) (hg : s.group.SameBut [] u.group) {ph : BitVec 32}
    (hb : bararrBody o ((s.issueOf (wordsOf (.bararr o))).by (s.doers (.bararr o))) s =
      Res.group u (Group.arrivedIn o (s.doers (.bararr o)) ph)) :
    ∃ t, exec (.bararr o) s = .next t ∧ Answers (.bararr o) [o.sa] s t ∧ t.mem = u.mem
      ∧ t.barrier s.core o.x = u.barrier s.core o.x ∧ (o.sa ≠ 0 → t.group.sreg o.sa = ph.setWidth 64)
      ∧ ∀ w : Wait, (∀ y, w.kind ≠ .yield y) → (w ∈ t.group.waits ↔ w ∈ u.group.waits) := by
  have hgr := u.group_modGroup (Group.arrivedIn o (s.doers (.bararr o)) ph) hu
  obtain ⟨t, he, hans, hmem, hregs, hbar, hw⟩ := execArrival_result (rs := [o.sa]) (b := o.x) hq hr
    ((State.modGroup_isSvc _ _).trans hs) ((State.modGroup_present _ _).trans hu)
    (by rw [hgr]; exact (hg.mono fun _ h => absurd h List.not_mem_nil).trans (Group.arrivedIn_sameBut _ _ _ _)) hb
  rw [hgr] at hregs hw
  refine ⟨t, he, hans, hmem.trans (State.modGroup_mem _ _), (hbar s.core).trans (State.barrier_modGroup hs _ _ _), fun hx => ?_,
    fun w hk => ?_⟩
  · rw [hregs.sreg, Group.arrivedIn_sreg hx]
  · rw [hw w hk, Group.arrivedIn_waits]

/-- A BARAW whose threads go on, since their arrival completed the phase. -/
theorem execArrival_baraw_skip {u : State} (hq : s.quiet (.baraw o) = true) (hr : 16 ≤ o.x → s.isRedundant = false)
    (hs : u.isSvc = false) (hu : u.present = true) (hg : s.group.SameBut [] u.group)
    (hb : barawBody o ((s.issueOf (wordsOf (.baraw o))).by (s.doers (.baraw o))) s = .skip u) :
    ∃ t, exec (.baraw o) s = .next t ∧ Answers (.baraw o) [] s t ∧ t.mem = u.mem
      ∧ t.barrier s.core o.x = u.barrier s.core o.x
      ∧ ∀ w : Wait, (∀ y, w.kind ≠ .yield y) → (w ∈ t.group.waits ↔ w ∈ u.group.waits) := by
  obtain ⟨t, he, hans, hmem, -, hbar, hw⟩ := execArrival_result (rs := []) (b := o.x) hq hr hs hu hg hb
  exact ⟨t, he, hans, hmem, hbar s.core, hw⟩

/-- A BARAW whose threads wait for the phase. -/
theorem execArrival_baraw_hold {u : State} (hq : s.quiet (.baraw o) = true) (hp : s.doers (.baraw o) ≠ 0)
    (hr : 16 ≤ o.x → s.isRedundant = false) (hs : u.isSvc = false) (hu : u.present = true) (hg : s.group.SameBut [] u.group)
    {ph : BitVec 32} (hb : barawBody o ((s.issueOf (wordsOf (.baraw o))).by (s.doers (.baraw o))) s =
      Res.group u (Group.hold (s.doers (.baraw o)) (.barrier o.x ph))) :
    ∃ t, exec (.baraw o) s = .next t ∧ Answers (.baraw o) [] s t ∧ t.mem = u.mem
      ∧ t.barrier s.core o.x = u.barrier s.core o.x ∧ ⟨s.doers (.baraw o), .barrier o.x ph⟩ ∈ t.group.waits := by
  have hgr := u.group_modGroup (Group.hold (s.doers (.baraw o)) (.barrier o.x ph)) hu
  have hsame : u.group.SameBut [] (u.group.hold (s.doers (.baraw o)) (.barrier o.x ph)) :=
    (Group.hold_sameRegs _ _ _).sameBut (by simp) (by simp) _
  obtain ⟨t, he, hans, hmem, -, hbar, hw⟩ := execArrival_result (rs := []) (b := o.x) hq hr
    ((State.modGroup_isSvc _ _).trans hs) ((State.modGroup_present _ _).trans hu) (by rw [hgr]; exact hg.trans hsame) hb
  rw [hgr] at hw
  refine ⟨t, he, hans, hmem.trans (State.modGroup_mem _ _), (hbar s.core).trans (State.barrier_modGroup hs _ _ _), ?_⟩
  rw [hw _ (fun _ => WaitKind.noConfusion), Group.hold_waits, if_neg hp]
  simp

end

/-! ## The family -/

/-- What an arrival of P answers (R223 to R225). -/
structure ArrivalAnswers (i : Instr) (rs : List Nat) (b : Nat) (aw : Bool) (s t : State) : Prop where
  answers : Answers i rs s t
  mem : t.mem = s.drainGroup.mem
  counted : ¬ ((s.barrier s.core b).tarr + popMask (s.doers i) = (s.barrier s.core b).tcount
      ∧ (s.barrier s.core b).earr = (s.barrier s.core b).ecount) →
    (t.barrier s.core b).phase = (s.barrier s.core b).phase
      ∧ (t.barrier s.core b).tarr = (s.barrier s.core b).tarr + popMask (s.doers i)
      ∧ (aw = true → ⟨s.doers i, .barrier b (s.barrier s.core b).phase⟩ ∈ t.group.waits)
  last : (s.barrier s.core b).tarr + popMask (s.doers i) = (s.barrier s.core b).tcount
      ∧ (s.barrier s.core b).earr = (s.barrier s.core b).ecount →
    (t.barrier s.core b).phase = (s.barrier s.core b).phase + 1 ∧ (t.barrier s.core b).tarr = 0
      ∧ (t.barrier s.core b).earr = min (s.barrier s.core b).heldArr (s.barrier s.core b).ecount
      ∧ ∀ w ∈ t.group.waits, w.kind ≠ .barrier b (s.barrier s.core b).phase

theorem State.Arrived.isSvc {s t : State} {b : Nat} {p : Dword} (a : s.Arrived b p t) (hs : s.isSvc = false) : t.isSvc = false := by
  unfold State.isSvc at hs ⊢
  rwa [a.grp]

section
variable {o : QOps} {s : State} (hs : s.isSvc = false) (hr : 16 ≤ o.x → s.isRedundant = false)
  (hh : (s.coreAt (s.barrierCore s.core o.x)).team.isSome = true) (hi : (s.barrier s.core o.x).init = true)
include hs hr hh hi

/-- BARARR counts its threads, and writes the phase in which they arrived. -/
theorem bararr_answers (hq : s.quiet (.bararr o) = true) (hp : s.doers (.bararr o) ≠ 0)
    (hle : (s.barrier s.core o.x).tarr + popMask (s.doers (.bararr o)) ≤ (s.barrier s.core o.x).tcount) :
    ∃ t, exec (.bararr o) s = .next t ∧ ArrivalAnswers (.bararr o) [o.sa] o.x false s t
      ∧ (o.sa ≠ 0 → t.group.sreg o.sa = (s.barrier s.core o.x).phase.setWidth 64) := by
  have hpr := State.quiet_present hq
  have ha := State.arriveAll_result hs hpr hh hi hp hle false
  have hb := bararrBody_eq (o := o) (iss := (s.issueOf (wordsOf (.bararr o))).by (s.doers (.bararr o))) hp hs hi hle
  obtain ⟨t, he, hans, hmem, hbar, hsreg, hw⟩ := execArrival_bararr hq hr (ha.isSvc hs) (ha.present.trans hpr) ha.group hb
  refine ⟨t, he, ⟨hans, hmem.trans ha.mem, fun h => ?_, fun h => ?_⟩, hsreg⟩
  · rw [hbar]
    exact ⟨(ha.counted h).1, (ha.counted h).2, nofun⟩
  · obtain ⟨h1, h2, h3, h4⟩ := ha.last h
    rw [hbar]
    exact ⟨h1, h2, h3, fun w hwt hk => h4 w ((hw w fun y => by rw [hk]; exact WaitKind.noConfusion).mp hwt) hk⟩

/-- BARAW counts its threads, which wait unless their arrival completed the phase. -/
theorem baraw_answers (hq : s.quiet (.baraw o) = true) (hp : s.doers (.baraw o) ≠ 0)
    (hle : (s.barrier s.core o.x).tarr + popMask (s.doers (.baraw o)) ≤ (s.barrier s.core o.x).tcount) :
    ∃ t, exec (.baraw o) s = .next t ∧ ArrivalAnswers (.baraw o) [] o.x true s t := by
  have hpr := State.quiet_present hq
  have ha := State.arriveAll_result hs hpr hh hi hp hle true
  have hb := barawBody_eq (o := o) (iss := (s.issueOf (wordsOf (.baraw o))).by (s.doers (.baraw o))) hp hs hi hle
  have hb : barawBody o ((s.issueOf (wordsOf (.baraw o))).by (s.doers (.baraw o))) s =
      if ((s.arriveAll o.x (s.doers (.baraw o)) true).barrier (s.arriveAll o.x (s.doers (.baraw o)) true).core o.x).passed
        (s.barrier s.core o.x).phase then .skip (s.arriveAll o.x (s.doers (.baraw o)) true)
      else Res.group (s.arriveAll o.x (s.doers (.baraw o)) true)
        (Group.hold (s.doers (.baraw o)) (.barrier o.x (s.barrier s.core o.x).phase)) := hb
  generalize s.arriveAll o.x (s.doers (.baraw o)) true = u at ha hb
  rw [ha.core] at hb
  by_cases hf : (s.barrier s.core o.x).tarr + popMask (s.doers (.baraw o)) = (s.barrier s.core o.x).tcount
      ∧ (s.barrier s.core o.x).earr = (s.barrier s.core o.x).ecount
  · obtain ⟨h1, h2, h3, h4⟩ := ha.last hf
    have hpass : (u.barrier s.core o.x).passed (s.barrier s.core o.x).phase = true := by
      unfold Barrier.passed
      rw [h1, show (s.barrier s.core o.x).phase + 1 - (s.barrier s.core o.x).phase = 1 by bv_omega]
      simp
    rw [if_pos hpass] at hb
    obtain ⟨t, he, hans, hmem, hbar, hw⟩ := execArrival_baraw_skip hq hr (ha.isSvc hs) (ha.present.trans hpr) ha.group hb
    refine ⟨t, he, hans, hmem.trans ha.mem, fun h => absurd hf h, fun _ => ?_⟩
    rw [hbar]
    exact ⟨h1, h2, h3, fun w hwt hk => h4 w ((hw w fun y => by rw [hk]; exact WaitKind.noConfusion).mp hwt) hk⟩
  · obtain ⟨h1, h2⟩ := ha.counted hf
    have hpass : ¬ (u.barrier s.core o.x).passed (s.barrier s.core o.x).phase = true := by
      unfold Barrier.passed
      rw [h1]
      simp
    rw [if_neg hpass] at hb
    obtain ⟨t, he, hans, hmem, hbar, hw⟩ := execArrival_baraw_hold hq hp hr (ha.isSvc hs) (ha.present.trans hpr) ha.group hb
    refine ⟨t, he, hans, hmem.trans ha.mem, fun _ => ?_, fun h => absurd h hf⟩
    rw [hbar]
    exact ⟨h1, h2, fun _ => hw⟩

end

/-- A phase has passed when it is behind by less than 2^31 (R224). -/
theorem Barrier.passed_iff (x : Barrier) (p : BitVec 32) : x.passed p = true ↔ (x.phase - p).toNat ∈ Set.Ico 1 (2 ^ 31) := by
  unfold Barrier.passed
  rw [Set.mem_Ico, Bool.and_eq_true, decide_eq_true_eq, decide_eq_true_eq]
  refine and_congr ⟨fun h => ?_, fun h e => ?_⟩ Iff.rfl
  · bv_omega
  · rw [e] at h
    simp at h

theorem barwaitBody_eq {o : QOps} {s : State} {iss : Issue} (hp : iss.p ≠ 0) (hs : s.isSvc = false)
    (hi : (s.barrier s.core o.x).init = true) : barwaitBody o iss s =
      if (s.barrier s.core o.x).passed ((s.group.sreg o.sa).setWidth 32) then .skip s
      else Res.group s (Group.hold iss.p (.barrier o.x ((s.group.sreg o.sa).setWidth 32))) := by
  unfold barwaitBody
  rw [teamOnly_team hs]
  dsimp only
  rw [if_neg hp, hi]
  rfl

/-- BARWAIT waits for a phase that has not passed, and for no other. -/
theorem barwait_answers {o : QOps} {s : State} (hq : s.quiet (.barwait o) = true) (hp : s.doers (.barwait o) ≠ 0) (hs : s.isSvc = false)
    (hi : (s.barrier s.core o.x).init = true) : let ph := (s.group.sreg o.sa).setWidth 32
    ∃ t, exec (.barwait o) s = .next t ∧ Changes (.barwait o) [] [] [] [] s t ∧ t.group.flags = s.group.flags
      ∧ ((s.barrier s.core o.x).passed ph = true → ∀ w ∈ t.group.waits, (∀ y, w.kind ≠ .yield y) → w ∈ s.group.waits)
      ∧ ((s.barrier s.core o.x).passed ph = false → ⟨s.doers (.barwait o), .barrier o.x ph⟩ ∈ t.group.waits) := by
  intro ph
  have hpr := State.quiet_present hq
  have hb := barwaitBody_eq (o := o) (iss := (s.issueOf (wordsOf (.barwait o))).by (s.doers (.barwait o))) hp hs hi
  cases hpass : (s.barrier s.core o.x).passed ph with
  | true =>
    rw [if_pos hpass] at hb
    obtain ⟨t, he, hc, hregs⟩ := execWord_skip (vs := []) hq hb
    have hwent : execWord (.barwait o) (barwaitBody o) s = .next (s.wentOn (wordsOf (.barwait o)) false s) :=
      congrArg Host.Outcome.next (runIssue_wentOn hq hb)
    obtain rfl : s.wentOn (wordsOf (.barwait o)) false s = t := Host.Outcome.next.inj (hwent.symm.trans he)
    refine ⟨_, he, hc, hregs.flags, fun _ w hw hk => ?_, nofun⟩
    rw [State.wentOn_waits _ _ _ hpr, if_neg Bool.false_ne_true, Group.mem_satisfy_waits _ _ hk] at hw
    exact hw
  | false =>
    rw [if_neg (by rw [hpass]; exact Bool.false_ne_true)] at hb
    obtain ⟨t, he, hc, hfl, hw⟩ := execWord_hold hq hp (fun _ => WaitKind.noConfusion) hb
    exact ⟨t, he, hc, hfl, nofun, fun _ => hw⟩

/-- Settles O27: an arrival counts, and the one that fills a barrier completes its phase and lets its waits go. -/
theorem barrierPhases : Obligations.BarrierPhases := by
  unfold Obligations.BarrierPhases
  refine ⟨fun aw o s => ?_, fun o s => ?_⟩
  · intro i p x full hq hp hs hr hh hi hle
    cases aw with
    | true =>
      obtain ⟨t, he, ha⟩ := baraw_answers hs hr hh hi hq hp hle
      refine ⟨t, he, ha.mem, ha.answers.went, ha.answers.scalars, ha.answers.vectors, ha.answers.masks, ha.answers.iters,
        ha.answers.flags, nofun, ha.counted, ha.last⟩
    | false =>
      obtain ⟨t, he, ha, hsreg⟩ := bararr_answers hs hr hh hi hq hp hle
      refine ⟨t, he, ha.mem, ha.answers.went, ha.answers.scalars, ha.answers.vectors, ha.answers.masks, ha.answers.iters,
        ha.answers.flags, fun _ => hsreg, ha.counted, ha.last⟩
  · intro i x ph hq hp hs hi
    obtain ⟨t, he, hc, hfl, hpass, hwait⟩ := barwait_answers hq hp hs hi
    refine ⟨t, he, hc, hfl, fun h => hpass ((Barrier.passed_iff _ _).mpr h), fun h => hwait ?_⟩
    exact Bool.eq_false_iff.mpr fun e => h ((Barrier.passed_iff _ _).mp e)

end Sys2Proof.Machine
end

section
/-! PROOFS. Loads of buffers and of scratchpads (O23). -/
namespace Sys2Proof.Machine
open Sys2Proof

/-! ## Lanes of an access -/

/-- Lanes that all pass and change nothing. -/
theorem runLanes_pass {α : Type} {f : State → Nat → State × (Trap ⊕ α)} {v : Nat → α} {s : State} {ls : List Nat}
    (h : ∀ l ∈ ls, f s l = (s, .inr (v l))) : runLanes f ls s = { s := s, ok := ls.map (fun l => (l, v l)) } := by
  have key : ∀ ok0, ls.foldl (fun (out : LaneOut α) l =>
      match f out.s l with
      | (s, .inr v) => { out with s := s, ok := out.ok ++ [(l, v)] }
      | (s, .inl x) => { out with s := s, bad := out.bad ++ [(l, x)] }) { s := s, ok := ok0 }
        = { s := s, ok := ok0 ++ ls.map (fun l => (l, v l)) } := by
    induction ls with
    | nil => intro ok0; simp
    | cons l ls ih =>
      intro ok0
      rw [List.foldl_cons, h l List.mem_cons_self]
      dsimp only
      rw [ih fun k hk => h k (List.mem_cons_of_mem l hk)]
      simp
  exact key []

/-- The lanes of a scalar access: the lowest one. -/
theorem accessLanes_ds {o : MOps} (h : o.ds = true) {p : Dword} (hp : p ≠ 0) : accessLanes o p = [lowLane p] := by
  obtain ⟨l, ls, hl⟩ := List.exists_cons_of_ne_nil (mt (lanesOf_eq_nil p).mp hp)
  unfold accessLanes lowLane
  rw [if_pos h, hl]
  rfl

theorem accessLanes_all {o : MOps} (h : o.ds = false) (p : Dword) : accessLanes o p = lanesOf p :=
  if_neg (by rw [h]; exact Bool.false_ne_true)

theorem lowLane_laneBit {l : Nat} (hl : l < 64) : lowLane (laneBit l) = l := by
  unfold lowLane
  rw [lanesOf_laneBit hl]
  rfl

/-- An access of one lane, or of a group-uniform register, is performed for one lane. -/
theorem accessLanes_one {o : MOps} {p : Dword} {l : Nat} (hl : l < 64)
    (hp : p = laneBit l ∨ (o.ds = true ∧ p ≠ 0 ∧ l = lowLane p)) : accessLanes o p = [l] := by
  cases hds : o.ds with
  | true =>
    rcases hp with rfl | ⟨-, hp, rfl⟩
    · rw [accessLanes_ds hds (laneBit_ne_zero hl), lowLane_laneBit hl]
    · exact accessLanes_ds hds hp
  | false =>
    rcases hp with rfl | ⟨hds', -, -⟩
    · rw [accessLanes_all hds, lanesOf_laneBit hl]
    · rw [hds] at hds'; cases hds'

theorem accessLanes_ne_nil {o : MOps} {p : Dword} (hp : p ≠ 0) : accessLanes o p ≠ [] := by
  cases hds : o.ds with
  | true => rw [accessLanes_ds hds hp]; exact List.cons_ne_nil _ _
  | false => rw [accessLanes_all hds]; exact mt (lanesOf_eq_nil p).mp hp

theorem accessLanes_sub {o : MOps} {p : Dword} {l : Nat} (h : l ∈ accessLanes o p) : l < 64 ∧ p.getLsbD l = true := by
  have hm : l ∈ lanesOf p := by
    unfold accessLanes at h
    split at h
    · exact List.mem_of_mem_take h
    · exact h
  rw [mem_lanesOf] at hm
  exact ⟨BitVec.lt_of_getLsbD hm, hm⟩

theorem accessRaised_none (o : MOps) (p : Dword) : accessRaised o p [] = {} := by
  unfold accessRaised
  cases o.ds <;> rfl

/-! ## What a load leaves (R211) -/

/-- The outstanding result of a load whose lanes have read the bytes `vs`. -/
def loadResult (o : MOps) (missed : Bool) (vs : List (Nat × List Byte)) : Outstanding :=
  { dests := [if o.ds then Dest.s o.d else Dest.v o.d]
    results := [if o.ds then Result.scalar o.d (BitVec.ofNat 64 (leNat ((vs.headD (0, [])).2)))
      else Result.vec o.d o.tag (vs.map (fun v => (v.1, loadSlot o v.2)))]
    missed := missed }

theorem loadResult_scalar {o : MOps} (h : o.ds = true) (missed : Bool) (vs : List (Nat × List Byte)) : loadResult o missed vs =
    { dests := [.s o.d], missed := missed, results := [.scalar o.d (BitVec.ofNat 64 (leNat ((vs.headD (0, [])).2)))] } := by
  unfold loadResult
  rw [h]
  rfl

theorem loadResult_vector {o : MOps} (h : o.ds = false) (missed : Bool) (vs : List (Nat × List Byte)) : loadResult o missed vs =
    { dests := [.v o.d], missed := missed, results := [.vec o.d o.tag (vs.map (fun v => (v.1, loadSlot o v.2)))] } := by
  unfold loadResult
  rw [h]
  rfl

/-- A group that waits for a load. -/
def Group.loads (o : MOps) (p : Dword) (x : Outstanding) (g : Group) : Group :=
  ({ g with outstanding := g.outstanding ++ [x] } : Group).openWindow p o.la [if o.ds then Dest.s o.d else Dest.v o.d]

theorem loadDone_eq {o : MOps} {p : Dword} {missed : Bool} {u : State} {vs : List (Nat × List Byte)} (h : vs ≠ []) :
    loadDone o p missed { s := u, ok := vs } = Res.group u (Group.loads o p (loadResult o missed vs)) := by
  have hm : p &&& ~~~(({} : Raised).mask) = p := by
    have h0 : ({} : Raised).mask = 0 := rfl
    rw [h0]
    exact BitVec.and_allOnes
  obtain ⟨v, vs, rfl⟩ := List.exists_cons_of_ne_nil h
  unfold loadDone
  dsimp only
  rw [accessRaised_none, hm]
  rfl

theorem Group.loads_sameRegs (o : MOps) (p : Dword) (x : Outstanding) (g : Group) :
    ({ g with outstanding := g.outstanding ++ [x] } : Group).SameRegs (g.loads o p x) := Group.openWindow_sameRegs _ _ _ _

/-- The state after a load that leaves a result outstanding. -/
structure State.Loaded (i : Instr) (s : State) (x : Outstanding) (t : State) : Prop where
  registers : s.group.SameRegisters t.group
  went : s.group.Went t.group (wordsOf i) 0 0
  exited : t.group.exited = s.group.exited
  frame : t.group.frame = s.group.frame
  outstanding : t.group.outstanding = s.group.outstanding ++ [x]

theorem State.loaded_wentOn {i : Instr} {s u : State} {o : MOps} {p : Dword} {x : Outstanding} (hu : u.present = true)
    (hg : u.group = s.group) : State.Loaded i s x (s.wentOn (wordsOf i) false (u.modGroup (Group.loads o p x))) := by
  have hp : (u.modGroup (Group.loads o p x)).present = true := (u.modGroup_present _).trans hu
  have hug : (u.modGroup (Group.loads o p x)).group = s.group.loads o p x := by rw [u.group_modGroup _ hu, hg]
  have hl := s.group.loads_sameRegs o p x
  have hr := s.wentOn_sameRegs (wordsOf i) false hp
  rw [hug] at hr
  have hall := hl.trans hr
  obtain ⟨hs, hv, hm, hit, hf⟩ := hall.sameRegisters
  refine ⟨⟨hs, hv, hm, hit, hf⟩, s.wentOn_went (wordsOf i) false hp ?_ ?_, hall.exited, hall.frame, hall.outstanding⟩
  · rw [hug]; exact Group.openWindow_pc _ _ _ _
  · rw [hug]; exact Group.openWindow_repcnt _ _ _ _

/-! ## Views of a state -/

section
variable {s t : State} (h : t.ground = s.ground)
include h

theorem State.core_of_ground : t.core = s.core := congrArg (fun x => x.1.core) h
theorem State.grp_of_ground : t.grp = s.grp := congrArg (fun x => x.1.grp) h
theorem State.access_of_ground (m pa : Nat) (need : Need) : t.access? m pa need = s.access? m pa need :=
  congrArg (fun x => x.1.access? m pa need) h
theorem State.isReg_of_ground (pa : Nat) : t.isReg pa = s.isReg pa := congrArg (fun x => x.1.isReg pa) h
theorem State.isSvc_of_ground : t.isSvc = s.isSvc := congrArg (fun x => x.1.isSvc) h
theorem State.svc_of_ground (c : Nat) : (t.coreAt c).svc = (s.coreAt c).svc :=
  (congrArg Core.svc (congrFun (congrArg Prod.snd h) c) :)
theorem State.ownTeam_of_ground : t.team = s.team := by
  unfold State.team
  rw [State.core_of_ground h, State.team_of_ground h]
theorem State.group_of_ground : t.group = s.group := by
  unfold State.group
  rw [State.isSvc_of_ground h, State.core_of_ground h, State.svc_of_ground h, State.ownTeam_of_ground h, State.grp_of_ground h]
theorem State.present_of_ground : t.present = s.present := by
  unfold State.present
  rw [State.isSvc_of_ground h, State.core_of_ground h, State.team_of_ground h]
theorem State.isRedundant_of_ground : t.isRedundant = s.isRedundant := by
  unfold State.isRedundant
  rw [State.isSvc_of_ground h, State.grid_congr (State.grids_of_ground h), State.ownTeam_of_ground h]

end

theorem State.seen_plain {s : State} (h : s.isRedundant = false) (va : Nat) (bs : List Byte) : s.seen va bs = bs :=
  if_neg (by rw [h]; exact Bool.false_ne_true)

/-! ## Loads of one lane of a buffer (R213, R294) -/

theorem State.drainOwn_nil {s : State} (h : s.stores = []) (pa n : Nat) : s.drainOwn pa n = s := by
  unfold State.drainOwn
  rw [h]
  rfl

/-- A line that a core can read need not be sought. -/
theorem State.readable_of_canRead {s : State} {pa : Nat} (h : s.canRead pa = true) : s.readable pa = s := by
  unfold State.readable
  split
  · rfl
  · next hr =>
    have hper : permits (s.line s.core (pa / 128)) 3 = true := by
      unfold State.canRead at h
      simpa [hr] using h
    unfold State.obtain
    rw [if_pos hper]
    exact if_neg (fun h => by cases h.1)

theorem State.moves_readable (s : State) (pa : Nat) : s.Moves (s.readable pa) := by
  unfold State.readable
  exact moves_ite .refl (State.moves_obtain .refl)

/-- A load of one lane, with no store queued and its line at hand. -/
theorem State.loadLanes_one {s : State} {n l pa va : Nat} (hst : s.stores = []) (hrs : (s.readable pa).stores = [])
    (hc : (s.readable pa).canRead pa = true) :
    s.loadLanes n [(l, pa, va)] = (s.readable pa,
      [(l, (s.readable pa).seen va ((s.readable pa).readAcc ((s.readable pa).access? (dieOf (s.readable pa).core) pa { r := true }) n))],
      !permits (s.line s.core (pa / 128)) 3, true) := by
  have h1 : s.drainOwn pa n = s := State.drainOwn_nil hst pa n
  have h2 := State.drainOwn_nil hrs pa n
  have h3 := State.readable_of_canRead hc
  unfold State.loadLanes
  simp only [List.foldl_cons, List.foldl_nil, List.map_cons, List.map_nil, List.any_cons, List.any_nil, h1, Bool.or_false, Bool.true_and,
    hc, hrs, Bool.not_false]
  unfold State.loadBytes
  rw [h2, h3]

theorem ldCheck_ok {o : MOps} {g : Group} {s u : State} {l pa va : Nat} {so : Bool}
    (hb : s.bufCheck (bufIndex g o.br o.bt) o.br (effOff g o.ov o.off o.lit l) (effOff g o.ov o.off o.lit l) (MemSize o) .load
      = (u, .ok pa va so))
    (hr : u.readCheck (bufIndex g o.br o.bt) (effOff g o.ov o.off o.lit l) pa va { r := true } = none) :
    ldCheck o g s l = (u, .inr (pa, va)) := by
  unfold ldCheck
  dsimp only
  rw [hb]
  dsimp only
  rw [hr]

theorem runLanes_one {α : Type} {f : State → Nat → State × (Trap ⊕ α)} {s u : State} {l : Nat} {v : α}
    (h : f s l = (u, .inr v)) : runLanes f [l] s = { s := u, ok := [(l, v)] } := by
  unfold runLanes
  rw [List.foldl_cons, h]
  rfl

/-- What stands when a load's checks have been made and its line has been sought is what stood before. -/
theorem State.ground_readable {s u : State} (hu : u.steady = s.steady) (hpart : ∀ c ∈ s.cores, c.2.partials = [])
    (hlog : s.domain.failed = [] ∨ (s.logTail + 1) % 4096 = s.logHead) (pa : Nat) : (u.readable pa).ground = s.ground := by
  have hg := State.ground_of_steady hu
  have hc : s.Calm := ⟨State.partials_eq_nil hpart, hlog⟩
  exact ((u.moves_readable pa).ground (hc.of_ground hg)).trans hg

theorem ld_loads {o : MOps} {s u : State} {l pa va key : Nat} {so : Bool} (hq : s.quiet (.ld o) = true)
    (hp : s.doers (.ld o) = laneBit l ∨ (o.ds = true ∧ s.doers (.ld o) ≠ 0 ∧ l = lowLane (s.doers (.ld o)))) (hl : l < 64)
    (htag : offTagOk s.group o.ov o.off = true)
    (hb : s.bufCheck (bufIndex s.group o.br o.bt) o.br (effOff s.group o.ov o.off o.lit l) (effOff s.group o.ov o.off o.lit l) (MemSize o)
      .load = (u, .ok pa va so))
    (hr : u.readCheck (bufIndex s.group o.br o.bt) (effOff s.group o.ov o.off o.lit l) pa va { r := true } = none)
    (ha : u.access? (dieOf s.core) pa { r := true } = .mem key) (hred : s.isRedundant = false) (hst : s.stores = [])
    (hpart : ∀ c ∈ s.cores, c.2.partials = []) (hlog : s.domain.failed = [] ∨ (s.logTail + 1) % 4096 = s.logHead)
    (hcan : (u.readable pa).canRead pa = true) :
    ∃ t, exec (.ld o) s = .next t ∧ t.mem = s.mem ∧ State.Loaded (.ld o) s
      (loadResult o (!permits (s.line s.core (pa / 128)) 3) [(l, s.bytesAt key (MemSize o))]) t := by
  have hu : u.steady = s.steady := (congrArg (fun x => x.1.steady) hb).symm.trans (s.steady_bufCheck _ _ _ _ _ _)
  have hug := State.ground_of_steady hu
  have hg := State.ground_readable hu hpart hlog pa
  have hust : u.stores = [] := (State.stores_of_steady hu).trans hst
  have hrst : (u.readable pa).stores = [] := (State.stores_of_ground hg).trans hst
  have hlanes := State.loadLanes_one (n := MemSize o) (l := l) (va := va) hust hrst hcan
  have hbytes : (u.readable pa).seen va
      ((u.readable pa).readAcc ((u.readable pa).access? (dieOf (u.readable pa).core) pa { r := true }) (MemSize o))
      = s.bytesAt key (MemSize o) := by
    rw [State.seen_plain ((State.isRedundant_of_ground hg).trans hred), State.core_of_ground hg,
      State.access_of_ground (hg.trans hug.symm), ha]
    exact State.bytesAt_of_ground hg _ _
  rw [hbytes, State.line_of_steady hu, State.core_of_steady hu] at hlanes
  have hbody : ldBody o ((s.issueOf (wordsOf (.ld o))).by (s.doers (.ld o))) s = Res.group (u.readable pa)
      (Group.loads o (s.doers (.ld o)) (loadResult o (!permits (s.line s.core (pa / 128)) 3) [(l, s.bytesAt key (MemSize o))])) := by
    unfold ldBody
    rw [checkTags_ok htag]
    unfold ldGo
    have hout : runLanes (ldCheck o s.group) (accessLanes o ((s.issueOf (wordsOf (.ld o))).by (s.doers (.ld o))).p) s
        = { s := u, ok := [(l, (pa, va))] } := by
      rw [show ((s.issueOf (wordsOf (.ld o))).by (s.doers (.ld o))).p = s.doers (.ld o) from rfl, accessLanes_one hl hp]
      exact runLanes_one (ldCheck_ok hb hr)
    dsimp only
    rw [hout]
    dsimp only
    rw [hlanes]
    exact (if_pos rfl).trans (loadDone_eq (List.cons_ne_nil _ _))
  have hpres : (u.readable pa).present = true := (State.present_of_ground hg).trans (State.quiet_present hq)
  refine ⟨_, congrArg Host.Outcome.next (runIssue_wentOn hq hbody), ?_, State.loaded_wentOn hpres (State.group_of_ground hg)⟩
  rw [State.wentOn_mem, State.modGroup_mem]
  exact State.mem_of_ground hg

/-! ## Loads of scratchpads (R214) -/

theorem scratchCheck_ok {t : Team} {off size : Nat} (h1 : off + size ≤ t.scratchSize) (h2 : off % size = 0) (x : Bool) :
    scratchCheck t off size x = none := by
  unfold scratchCheck
  rw [if_neg (Nat.not_lt.mpr h1), if_neg (not_not.mpr h2)]

theorem scopeFault_ok {o : MOps} {x : Bool} {s : State} (h : x = true → rankOf o s.group < s.team.rows * s.team.cols) (p : Dword) :
    scopeFault o x s p = none := by
  unfold scopeFault
  exact if_neg fun hc => Nat.not_lt.mpr hc.2.2 (h hc.1)

/-- A change of the issuing group leaves its team's scratchpad. -/
theorem State.scratch_modGroup (s : State) (f : Group → Group) : (s.modGroup f).team.scratch = s.team.scratch := by
  show (((s.modGroup f).coreAt (s.modGroup f).core).team.getD {}).scratch = ((s.coreAt s.core).team.getD {}).scratch
  rw [State.modGroup_core]
  by_cases hg : s.grp = 16
  · rw [s.modGroup_svc f hg, State.coreAt_modCore, if_pos rfl]
  · rw [s.modGroup_team f hg, State.coreAt_modCore, if_pos rfl]
    cases (s.coreAt s.core).team <;> rfl

theorem State.scratch_irrevocable (s : State) : s.irrevocable.team.scratch = s.team.scratch := by
  show ((s.irrevocable.coreAt s.core).team.getD {}).scratch = ((s.coreAt s.core).team.getD {}).scratch
  rw [s.irrevocable_coreAt, if_pos rfl]
  cases (s.coreAt s.core).team <;> rfl

/-- The state in which a scratchpad access of some lanes ends: another core's is an irrevocable step (R443). -/
def State.reached (s : State) (o : MOps) (x : Bool) : State :=
  if x && s.scratchTarget o x ≠ s.core then s.irrevocable else s

theorem State.reached_cases (s : State) (o : MOps) (x : Bool) : s.reached o x = s.irrevocable ∨ s.reached o x = s := by
  unfold State.reached
  split
  · exact .inl rfl
  · exact .inr rfl

section
variable {o : MOps} {x : Bool} {s : State}

/-- The bytes that a lane of a scratchpad load reads. -/
def State.padBytes (s : State) (o : MOps) (x : Bool) (l : Nat) : List Byte :=
  s.padAt (s.scratchTarget o x) (effOff s.group o.ov o.off o.lit l) (MemSize o)

theorem scratchLane_load {l : Nat}
    (h : effOff s.group o.ov o.off o.lit l + MemSize o ≤ s.team.scratchSize ∧ effOff s.group o.ov o.off o.lit l % MemSize o = 0) :
    scratchLane o x true (s.scratchTarget o x) s.group s l = (s, .inr (s.padBytes o x l)) := by
  unfold scratchLane
  dsimp only
  rw [scratchCheck_ok h.1 h.2]
  rfl

theorem scratchBody_load {iss : Issue} (hp : iss.p ≠ 0) (htag : offTagOk s.group o.ov o.off = true)
    (hscope : x = true → rankOf o s.group < s.team.rows * s.team.cols)
    (hin : ∀ l < 64, iss.p.getLsbD l = true → effOff s.group o.ov o.off o.lit l + MemSize o ≤ s.team.scratchSize
      ∧ effOff s.group o.ov o.off o.lit l % MemSize o = 0) :
    scratchBody o x true iss s = Res.group (s.reached o x) (Group.loads o iss.p
      (loadResult o false ((accessLanes o iss.p).map (fun l => (l, s.padBytes o x l))))) := by
  have hrel : s.release o true = s := if_neg (by simp)
  have hout := runLanes_pass (s := s) (f := scratchLane o x true (s.scratchTarget o x) s.group) (v := s.padBytes o x)
    fun l (hl : l ∈ accessLanes o iss.p) => scratchLane_load (hin l (accessLanes_sub hl).1 (accessLanes_sub hl).2)
  have hne : (accessLanes o iss.p).map (fun l => (l, s.padBytes o x l)) ≠ [] := by
    rw [Ne, List.map_eq_nil_iff]
    exact accessLanes_ne_nil hp
  have hempty := (Bool.not_eq_true _).mp (mt List.isEmpty_iff.mp hne)
  unfold scratchBody
  rw [checkTags_ok (by rw [htag]; rfl)]
  unfold scratchGo
  rw [scopeFault_ok hscope]
  dsimp only
  rw [if_neg hp, hrel, hout]
  dsimp only
  rw [if_pos rfl, hempty, Bool.not_false, Bool.and_true]
  exact loadDone_eq hne

/-- A scratchpad load issues as a plain instruction, or at a comparison point outside redundant grids. -/
theorem exec_scratch {o : MOps} {x : Bool} {s u : State} (hq : s.quiet (if x then .ldx o else .sld o) = true)
    (hred : x = true → s.isRedundant = false)
    (hb : scratchBody o x true ((s.issueOf (wordsOf (if x then .ldx o else .sld o))).by (s.doers (if x then .ldx o else .sld o))) s
      = { s := u }) :
    exec (if x then .ldx o else .sld o) s = .next (s.wentOn (wordsOf (if x then .ldx o else .sld o)) false u) := by
  cases x with
  | false => exact congrArg Host.Outcome.next (runIssue_wentOn hq hb)
  | true =>
    show execLdx o s = _
    unfold execLdx
    split
    · exact execCompared_wentOn hq (hred rfl) hb
    · exact congrArg Host.Outcome.next (runIssue_wentOn hq hb)

theorem scratch_loads {i : Instr} (hi : i = if x then .ldx o else .sld o) (hq : s.quiet i = true) (hp : s.doers i ≠ 0)
    (htag : offTagOk s.group o.ov o.off = true)
    (hx : x = true → rankOf o s.group < s.team.rows * s.team.cols ∧ s.isRedundant = false)
    (hin : ∀ l < 64, (s.doers i).getLsbD l = true → effOff s.group o.ov o.off o.lit l + MemSize o ≤ s.team.scratchSize
      ∧ effOff s.group o.ov o.off o.lit l % MemSize o = 0) :
    ∃ t, exec i s = .next t ∧ t.mem = s.mem ∧ t.team.scratch = s.team.scratch ∧ State.Loaded i s
      (loadResult o false ((accessLanes o (s.doers i)).map (fun l => (l, s.padBytes o x l)))) t := by
  subst hi
  have hb := scratchBody_load (o := o) (x := x) (s := s)
    (iss := (s.issueOf (wordsOf (if x then .ldx o else .sld o))).by (s.doers (if x then .ldx o else .sld o)))
    hp htag (fun h => (hx h).1) hin
  have hv : (s.reached o x).mem = s.mem ∧ (s.reached o x).present = true ∧ (s.reached o x).group = s.group
      ∧ (s.reached o x).team.scratch = s.team.scratch := by
    rcases s.reached_cases o x with e | e <;> rw [e]
    · exact ⟨rfl, (State.irrevocable_present s).trans (State.quiet_present hq), s.irrevocable_group, s.scratch_irrevocable⟩
    · exact ⟨rfl, State.quiet_present hq, rfl, rfl⟩
  obtain ⟨hmem, hpres, hgrp, hscr⟩ := hv
  refine ⟨_, exec_scratch hq (fun h => (hx h).2) hb, ?_, ?_, State.loaded_wentOn hpres hgrp⟩
  · rw [State.wentOn_mem, State.modGroup_mem]; exact hmem
  · exact ((State.scratch_modGroup _ _).trans (State.scratch_modGroup _ _)).trans hscr

end

/-- Settles O23, by a lemma each for a buffer load of one lane and for a scratchpad load: the checks and the movement of the line leave
all that the load reads as it was, and the end of the issue keeps what the body leaves. -/
theorem loadsReturn : Obligations.LoadsReturn := by
  unfold Obligations.LoadsReturn
  refine ⟨fun o s u l pa va key so => ?_, fun x o s => ?_⟩
  · intro i p g size off idx missed hq hp hl htag hb hr ha hred hst hpart hlog hcan
    obtain ⟨t, he, hm, hx⟩ := ld_loads hq hp hl htag hb hr ha hred hst hpart hlog hcan
    refine ⟨t, he, hm, hx.registers, hx.went, hx.exited, hx.frame, hx.outstanding.trans ?_⟩
    refine congrArg (fun y => g.outstanding ++ [y]) ?_
    cases hds : o.ds with
    | true => exact loadResult_scalar hds _ _
    | false => exact loadResult_vector hds _ _
  · intro i p g off c bytes hq hp htag hx hin
    obtain ⟨t, he, hm, hscr, hl⟩ := scratch_loads (x := x) rfl hq hp htag hx hin
    refine ⟨t, he, hm, hl.registers, hl.went, hscr, hl.outstanding.trans ?_⟩
    refine congrArg (fun y => g.outstanding ++ [y]) ?_
    cases hds : o.ds with
    | true =>
      rw [accessLanes_ds hds hp]
      exact loadResult_scalar hds _ _
    | false =>
      rw [accessLanes_all hds, loadResult_vector hds, List.map_map]
      rfl

end Sys2Proof.Machine
end

section
/-! PROOFS. Request numbers that checks use: a state whose walks refute O24 and O25. -/
namespace Sys2Proof.Machine
open Sys2Proof

/-! ## Request numbers while translations walk (R426, R468)

A read of another module's memory is a message, which takes the next request number. A store or an atomic that misses the TLBs joins
the walk for its page; when that walk ends, the one that waits for its walker begins, and its reads may be such messages. So the checks
of an access may use request numbers before the access takes its own. -/

theorem State.reqId_transmit (s : State) (m : Msg) : (s.transmit m).1.reqId = s.reqId := by
  unfold State.transmit
  split
  · rfl
  · split <;> rfl

theorem State.reqId_post (s : State) (m : Msg) : (s.post m).reqId = s.reqId := by
  unfold State.post
  split
  · exact s.reqId_transmit m
  · rfl

theorem State.reqId_postAbroad (s : State) (vc flits ptr ln : Nat) :
    (s.postAbroad vc flits ptr ln).reqId = if ptr / 8 = s.domain.module then s.reqId else s.reqId + 1 := by
  unfold State.postAbroad
  split
  · rfl
  · exact State.reqId_post _ _

theorem State.reqId_le_reach (s : State) (die : Nat) (a : Acc) (rd : Bool) : s.reqId ≤ (s.reach die a rd).reqId := by
  cases a with
  | peer pa =>
    refine Nat.le_trans ?_ (s.reqId_postAbroad _ _ _ _).ge
    split
    · exact Nat.le_refl _
    · exact Nat.le_succ _
  | _ => exact Nat.le_refl _

theorem Walked.reqId_le_reach (w : Walked) (die : Nat) (s : State) : s.reqId ≤ (w.reach die s).reqId :=
  List.foldlRecOn (motive := fun t : State => s.reqId ≤ t.reqId) w.reads _ (Nat.le_refl _)
    fun t ht a _ => Nat.le_trans ht (t.reqId_le_reach die a true)

theorem State.reqId_le_startWalks (die n : Nat) (s : State) : s.reqId ≤ (State.startWalks die n s).reqId := by
  induction n generalizing s with
  | zero => exact Nat.le_refl _
  | succ n ih =>
    unfold State.startWalks
    split
    · exact Nat.le_refl _
    split
    · exact Nat.le_refl _
    next w _ =>
    refine Nat.le_trans ((s.walkDie die w.ctx (65536 * w.page)).reqId_le_reach die s) (Nat.le_trans ?_ (ih _))
    split <;> exact Nat.le_refl _

/-- A walk of the lowest table reads one entry, on another module where the table lies there. -/
theorem State.reads_walkFrom_peer {s : State} {m ctx va table p : Nat}
    (h : s.access? m (table + 8 * levelIndex 0 va) { r := true } = .peer p) : (s.walkFrom m ctx va 1 table).reads = [.peer p] := by
  unfold State.walkFrom
  dsimp only
  rw [h]
  dsimp only
  rw [if_neg Bool.false_ne_true, if_pos (.inl rfl : 0 = 0 ∨ _)]
  split
  · rfl
  split
  · rfl
  split
  · split <;> rfl
  · rfl

/-- The walk that begins first reads another module's memory. -/
theorem State.reqId_startWalks_peer {s : State} {die p : Nat} {w : PtWalk} {e : TabEntry} (n : Nat)
    (hfew : (s.walking die).length < 64) (hw : s.unwalked die = some w)
    (he : tabFind (tget [] s.dieTabs die) w.ctx (65536 * w.page) = some e) (hlv : e.level = 1)
    (ha : s.access? die (e.table + 8 * levelIndex 0 (65536 * w.page)) { r := true } = .peer p)
    (hp : lineModule (p / 128) ≠ s.domain.module) : s.reqId < (State.startWalks die (n + 1) s).reqId := by
  have hreads : (s.walkDie die w.ctx (65536 * w.page)).reads = [.peer p] := by
    unfold State.walkDie
    rw [he]
    dsimp only
    rw [hlv]
    exact State.reads_walkFrom_peer ha
  have hreach : ((s.walkDie die w.ctx (65536 * w.page)).reach die s).reqId = s.reqId + 1 := by
    unfold Walked.reach
    rw [hreads]
    refine (s.reqId_postAbroad _ _ _ _).trans (if_neg ?_)
    rwa [Nat.mul_div_cancel_left _ (by decide)]
  unfold State.startWalks
  rw [if_neg (Nat.not_le.mpr hfew), hw]
  dsimp only
  refine Nat.lt_of_lt_of_le (Nat.lt_of_lt_of_eq (Nat.lt_succ_self _) hreach.symm) (Nat.le_trans ?_ (State.reqId_le_startWalks _ _ _))
  split <;> exact Nat.le_refl _

theorem State.reqId_tlbAdd (s : State) (core : Nat) (e : TlbEntry) : (s.tlbAdd core e).reqId = s.reqId := by
  unfold State.tlbAdd State.dieAdd
  dsimp only
  split <;> rfl

/-! ## An access that joins a walk -/

theorem State.walkUntil_met {s : State} {die : Nat} {p : State → Bool} (h : p s = true) (n : Nat) : State.walkUntil die p n s = s := by
  cases n with
  | zero => rfl
  | succ n =>
    unfold State.walkUntil
    exact if_pos h

/-- A miss joins the walk for its page, which has found its leaf and ends. -/
theorem State.leafOf_joins {s : State} {core ctx va lv pte : Nat} {w : PtWalk} (h1 : tlbFind (s.coreAt core).tlb ctx va = none)
    (h2 : tlbFind (tget [] s.dieTlb (dieOf core)) ctx va = none) (hw : s.walkFor core ctx va = some w)
    (hr : w.res = some (.leaf lv pte)) :
    s.leafOf core ctx va = ((s.endWalk w).tlbAdd core (leafEntry ctx va lv pte), .leaf lv pte) := by
  have hu : State.walkUntil (dieOf core) (fun s => (s.walkFor core ctx va).all (fun w => w.res.isSome)) s.walks.length s = s :=
    State.walkUntil_met (by rw [hw, Option.all_some, hr]; rfl) _
  have hm : s.missWalk core ctx va = (s.endWalk w, .leaf lv pte) := by
    unfold State.missWalk
    rw [hw]
    dsimp only
    rw [hu, hw]
    dsimp only
    rw [hr]
  unfold State.leafOf
  rw [h1, h2]
  dsimp only
  rw [hm]

/-- The checks of an access at offset 0 that joins a walk, of a descriptor that the die keeps (R213, R426, R427). -/
theorem State.bufCheck_joins {s : State} {idx size va lv pte : Nat} {k : AKind} {d : Nat × BitVec 512} {w : PtWalk}
    (hd : s.descs.find? (fun d => d.1 = descKey (dieOf s.core) s.ctx idx) = some d) (hc : descCheck s.ctx idx d.2.toNat k = none)
    (hlen : size ≤ bits d.2.toNat 111 64) (hva : bits d.2.toNat 56 8 * 256 = va)
    (hl : s.leafOf s.core s.ctx va = ((s.endWalk w).tlbAdd s.core (leafEntry s.ctx va lv pte), .leaf lv pte))
    (hneed : ((k.need.r && !bit pte 55) || (k.need.w && !bit pte 56) || (k.need.x && !bit pte 57)) = false) :
    s.bufCheck idx false 0 0 size k = ((s.endWalk w).tlbAdd s.core (leafEntry s.ctx va lv pte),
      .ok (bits pte 51 8 * 256 / 2 ^ levelShift lv * 2 ^ levelShift lv + va % 2 ^ levelShift lv) va (bits pte 1 0 = 1)) := by
  have hdesc : s.desc (dieOf s.core) s.ctx idx = (s, d.2.toNat) := by
    unfold State.desc
    rw [hd]
  have ht : s.translate s.core s.ctx va k.need = ((s.endWalk w).tlbAdd s.core (leafEntry s.ctx va lv pte),
      .ok (bits pte 51 8 * 256 / 2 ^ levelShift lv * 2 ^ levelShift lv + va % 2 ^ levelShift lv) (bits pte 1 0)) := by
    unfold State.translate
    rw [hl]
    dsimp only
    rw [hneed, if_neg Bool.false_ne_true]
  unfold State.bufCheck
  rw [if_neg (fun h => absurd h.1 Bool.false_ne_true), hdesc]
  dsimp only
  rw [hc]
  dsimp only
  rw [if_neg (by omega), if_neg (not_not.mpr (Nat.zero_mod _)), Nat.add_zero, hva, ht]

/-! ## What a store and an atomic of one lane leave -/

theorem State.reqId_modGroup (s : State) (f : Group → Group) : (s.modGroup f).reqId = s.reqId := by
  by_cases hg : s.grp = 16
  · rw [s.modGroup_svc f hg]; rfl
  · rw [s.modGroup_team f hg]; rfl

theorem State.stores_modGroup (s : State) (f : Group → Group) : (s.modGroup f).stores = s.stores := by
  by_cases hg : s.grp = 16
  · rw [s.modGroup_svc f hg]; rfl
  · rw [s.modGroup_team f hg]; rfl

/-- A plain store queues a request with the next number. -/
theorem State.stores_storeBytes {s : State} (h : s.isRedundant = false) (pa va : Nat) (bs : List Byte) (lane pc bt off : Nat) :
    ∃ r, (s.storeBytes pa va bs lane pc bt off).stores = s.stores ++ [r] ∧ r.id = s.reqId := by
  unfold State.storeBytes
  rw [h]
  exact ⟨_, rfl, rfl⟩

/-- A store of a word by lane 0 that passes its checks queues a request with the number that the checks left next. -/
theorem st_queues {s u : State} {pa va : Nat} (hq : s.quiet (.st {}) = true) (hp : s.doers (.st {}) = laneBit 0)
    (htag : dataTagOk s.group {} = true) (hred : s.isRedundant = false)
    (hb : s.bufCheck 0 false (effOff s.group false 0 none 0) (effOff s.group false 0 none 0) 4 .store = (u, .ok pa va false)) :
    ∃ t r, exec (.st {}) s = .next t ∧ t.stores = s.stores ++ [r] ∧ r.id = u.reqId := by
  have hu : u.steady = s.steady := (congrArg (fun x => x.1.steady) hb).symm.trans (s.steady_bufCheck _ _ _ _ _ _)
  have hured : u.isRedundant = false := (State.isRedundant_of_ground (State.ground_of_steady hu)).trans hred
  generalize hiss : (s.issueOf (wordsOf (.st {}))).by (s.doers (.st {})) = iss
  have hip : iss.p = laneBit 0 := by rw [← hiss]; exact hp
  have hlane : stLane {} iss.ownPc s.group s 0 = (u.storeBytes pa va (storeData {} s.group 0) 0 iss.ownPc (0 % 4096)
      (effOff s.group false 0 none 0), .inr false) := by
    unfold stLane
    dsimp only [bufIndex, MemSize]
    simp only [Nat.reduceEqDiff, Bool.false_eq_true, false_and, if_false, if_true]
    rw [hb]
  obtain ⟨r, hst, hr⟩ := State.stores_storeBytes hured pa va (storeData {} s.group 0) 0 iss.ownPc (0 % 4096) (effOff s.group false 0 none 0)
  generalize u.storeBytes pa va (storeData {} s.group 0) 0 iss.ownPc (0 % 4096) (effOff s.group false 0 none 0) = v at hlane hst
  have hbody : stBody {} iss s = { s := v.irrevocable } := by
    unfold stBody
    rw [checkTags_ok (by rw [htag]; rfl)]
    unfold stGo
    dsimp only
    rw [hip, accessLanes_one (l := 0) (by decide) (.inl rfl), runLanes_one hlane]
    rfl
  subst hiss
  refine ⟨_, r, congrArg Host.Outcome.next (runIssue_wentOn hq hbody), ?_, hr⟩
  refine (State.stores_modGroup _ _).trans ((hst : v.irrevocable.stores = _).trans ?_)
  rw [State.stores_of_steady hu]

/-- A read that its home lets through, of sound data. -/
theorem State.readCheck_ok {s : State} {pa key : Nat} {need : Need} (ha : s.access? (dieOf s.core) pa need = .mem key)
    (hp : s.poisoned key = false) (idx off va : Nat) : s.readCheck idx off pa va need = none := by
  unfold State.readCheck
  dsimp only
  rw [ha]
  exact if_neg (by rw [hp]; exact Bool.false_ne_true)

/-- An AMO of lane 0 that passes its checks leaves as next number the one that the checks left next, after its own has been taken. -/
theorem amo_reqId {s u : State} {pa va : Nat} (hq : s.quiet (.amo {}) = true) (hp : s.doers (.amo {}) = laneBit 0)
    (htag : atomTagOk 0 (s.group.tag 0) = true)
    (hred : s.isRedundant = false)
    (hb : s.fresh.1.bufCheck 0 false (effOff s.group false 0 none 0) (effOff s.group false 0 none 0) 4 .atomic = (u, .ok pa va false))
    (hr : u.readCheck 0 (effOff s.group false 0 none 0) pa va { r := true, w := true } = none) :
    ∃ t, exec (.amo {}) s = .next t ∧ t.reqId = u.reqId := by
  generalize hiss : (s.issueOf (wordsOf (.amo {}))).by (s.doers (.amo {})) = iss
  have hip : iss.p = laneBit 0 := by rw [← hiss]; exact hp
  have hlane : ∃ r, amoLane {} false s.reqId iss.ownPc s.group s.fresh.1 0 = (u.enqueue r, .inr false) := by
    unfold amoLane
    dsimp only [bufIndex]
    simp only [Bool.false_eq_true, if_false]
    rw [hb]
    dsimp only
    rw [hr]
    exact ⟨_, rfl⟩
  obtain ⟨r, hlane⟩ := hlane
  have hbody : ∃ f, amoBody {} false iss s = { s := (u.enqueue r).irrevocable.modGroup f } := by
    unfold amoBody
    rw [checkTags_ok (by rw [htag]; rfl)]
    unfold amoGo
    dsimp only [State.fresh] at hlane ⊢
    rw [hip, lanesOf_laneBit (by decide), runLanes_one hlane]
    exact ⟨_, rfl⟩
  obtain ⟨f, hbody⟩ := hbody
  subst hiss
  refine ⟨_, execCompared_wentOn hq hred hbody, ?_⟩
  exact (State.reqId_modGroup _ _).trans (State.reqId_modGroup _ _)

/-! ## Sixty-four walks in flight, and one that waits -/

/-- A leaf of 1 GiB at address 0 with every right. -/
def openLeaf : Nat := 8 + 2 ^ 55 + 2 ^ 56 + 2 ^ 57

/-- A descriptor of context 1 for 64 KiB at 0x200000, with every right. -/
def openDesc : BitVec 512 := BitVec.ofNat 512 (0x200000 + 2 ^ 80 + 2 ^ 160 + 15 * 2 ^ 168 + 2 ^ 176)

/-- The walk of a page that has found that leaf. -/
def foundWalk (page : Nat) : PtWalk := { die := 0, ctx := 1, page := page, res := some (.leaf 2 openLeaf) }

/-- One thread stands in group 0 of core 0, buffer 0 covers 64 KiB at 0x200000. No TLB keeps that page, and the oldest of 64 walks in
flight is the one for it; the walk behind them waits for its walker, and will read a table that lies on module 1. -/
def walksAbroad : State :=
  { reqId := 1
    chsets := [(0, { chmask := 1, nlive := 1, state := 1, csize := 24576, en := true })]
    access := [(0, BitVec.ofNat 64 (0xFFFF * 2 ^ 48 + 3 * 2 ^ 44 + 0x7FFF * 2 ^ 15))]
    domain := { peers := [1] }
    descs := [(descKey 0 1 0, openDesc)]
    dieTabs := [(0, [⟨1, 1, 3, 2 ^ 47⟩])]
    walks := (List.range 64).map (fun k => foundWalk (32 + k)) ++ [{ die := 0, ctx := 1, page := 96 }]
    cores := [(0, { team := some { ctx := 1, groups := [(0, { exited := BitVec.allOnes 64 - 1 })] } })] }

/-- The state when the walk that the access joins has ended, before another begins. -/
def State.walkEnded (s : State) (w : PtWalk) : State :=
  let s := { s with walks := s.walks.erase w }
  match w.res with | some r => s.keepWalk w.die w.ctx (65536 * w.page) r w.tabs | none => s

theorem State.endWalk_eq (s : State) (w : PtWalk) :
    s.endWalk w = State.startWalks w.die (s.walkEnded w).walks.length (s.walkEnded w) := rfl

/-- What the checks of an access to buffer 0 of `walksAbroad` rest on, whatever the next request number is. -/
structure State.Abroad (s : State) : Prop where
  core : s.core = 0
  ctx : s.ctx = 1
  desc : s.descs.find? (fun d => d.1 = descKey 0 1 0)
    = some (4096, openDesc)
  coreTlb : tlbFind (s.coreAt 0).tlb 1 0x200000 = none
  dieTlb : tlbFind (tget [] s.dieTlb (dieOf 0)) 1 0x200000 = none
  joins : s.walkFor 0 1 0x200000 = some (foundWalk 32)
  length : (s.walkEnded (foundWalk 32)).walks.length = 63 + 1
  few : ((s.walkEnded (foundWalk 32)).walking 0).length < 64
  waits : (s.walkEnded (foundWalk 32)).unwalked 0 = some { die := 0, ctx := 1, page := 96 }
  table : tabFind (tget [] (s.walkEnded (foundWalk 32)).dieTabs 0) 1 (65536 * 96) = some ⟨1, 1, 3, 2 ^ 47⟩
  peer : (s.walkEnded (foundWalk 32)).access? 0 (2 ^ 47 + 8 * levelIndex 0 (65536 * 96)) { r := true } = .peer (2 ^ 47)
  abroad : lineModule (2 ^ 47 / 128) ≠ (s.walkEnded (foundWalk 32)).domain.module
  number : (s.walkEnded (foundWalk 32)).reqId = s.reqId

theorem walksAbroad_abroad : walksAbroad.Abroad := by
  constructor <;> decide +kernel

theorem fresh_walksAbroad_abroad : walksAbroad.fresh.1.Abroad := by
  constructor <;> decide +kernel

/-- The checks of an access to buffer 0 pass, and use a request number. -/
theorem State.Abroad.bufCheck {s : State} (h : s.Abroad) {k : AKind} (hk : k = .store ∨ k = .atomic) :
    ∃ u, s.bufCheck 0 false 0 0 4 k = (u, .ok 0x200000 0x200000 false) ∧ s.reqId < u.reqId := by
  obtain ⟨hcore, hctx, hdesc, htlb, hdie, hjoins, hlen, hfew, hwaits, htable, hpeer, habroad, hnum⟩ := h
  have hl := State.leafOf_joins (lv := 2) (pte := openLeaf) htlb hdie hjoins rfl
  have hb := State.bufCheck_joins (s := s) (idx := 0) (size := 4) (va := 0x200000) (k := k) (lv := 2) (pte := openLeaf) (w := foundWalk 32)
    (by rw [hcore, hctx]; exact hdesc) (by rw [hctx]; rcases hk with rfl | rfl <;> decide +kernel) (by decide +kernel)
    (by decide +kernel) (by rw [hcore, hctx]; exact hl) (by rcases hk with rfl | rfl <;> decide +kernel)
  refine ⟨_, hb.trans (congrArg (Prod.mk _) (by decide +kernel)), ?_⟩
  rw [State.reqId_tlbAdd, State.endWalk_eq, hlen]
  exact hnum.symm.trans_lt (State.reqId_startWalks_peer 63 hfew hwaits htable rfl hpeer habroad)

/-- Refutes O24: in `walksAbroad` the checks of the store use request number 1, so the store that is queued has a later one. -/
theorem not_storesWrite : ¬ Obligations.StoresWrite := by
  unfold Obligations.StoresWrite
  rintro ⟨hst, -⟩
  obtain ⟨u, hb, hlt⟩ := walksAbroad_abroad.bufCheck (k := .store) (.inl rfl)
  have hoff : effOff walksAbroad.group false 0 none 0 = 0 := by decide +kernel
  have hq : walksAbroad.quiet (.st {}) = true := by decide +kernel
  have hp : walksAbroad.doers (.st {}) = laneBit 0 := by decide +kernel
  have htag : dataTagOk walksAbroad.group {} = true := by decide +kernel
  have hred : walksAbroad.isRedundant = false := by decide +kernel
  obtain ⟨t, he, -, -, -, -, hstores⟩ := hst {} walksAbroad u 0 0x200000 0x200000 hq (.inl hp) (by decide) rfl htag hred
    (by dsimp only; rw [hoff]; exact hb)
  obtain ⟨t', r, he', hstores', hr⟩ := st_queues hq hp htag hred (by rw [hoff]; exact hb)
  obtain rfl : t = t' := Host.Outcome.next.inj (he.symm.trans he')
  have hsame := (List.append_cancel_left (hstores'.symm.trans hstores) :)
  have hid := congrArg MemReq.id (List.cons.inj hsame).1
  rw [hr] at hid
  exact absurd hid (Nat.ne_of_gt hlt)

/-- Refutes O25: in `walksAbroad` the checks of the AMO use a request number after its own has been taken, so the next number rises by
more than one. -/
theorem not_atomicsIssue : ¬ Obligations.AtomicsIssue := by
  unfold Obligations.AtomicsIssue
  rintro ⟨hamo, -⟩
  obtain ⟨u, hb, -⟩ := walksAbroad_abroad.bufCheck (k := .atomic) (.inr rfl)
  obtain ⟨v, hb', hlt⟩ := fresh_walksAbroad_abroad.bufCheck (k := .atomic) (.inr rfl)
  have hoff : effOff walksAbroad.group false 0 none 0 = 0 := by decide +kernel
  have hq : walksAbroad.quiet (.amo {}) = true := by decide +kernel
  have hp : walksAbroad.doers (.amo {}) = laneBit 0 := by decide +kernel
  have htag : atomTagOk 0 (walksAbroad.group.tag 0) = true := by decide +kernel
  have hred : walksAbroad.isRedundant = false := by decide +kernel
  have hread : ∀ w : State, w.steady = walksAbroad.steady ∨ w.steady = walksAbroad.fresh.1.steady →
      w.readCheck 0 0 0x200000 0x200000 { r := true, w := true } = none := by
    intro w hw
    have hg : w.ground = walksAbroad.ground := hw.elim State.ground_of_steady fun h => State.ground_of_steady (s := walksAbroad) h
    refine State.readCheck_ok (key := 0x200000) ?_ ?_ _ _ _
    · rw [State.core_of_ground hg, State.access_of_ground hg]; decide +kernel
    · exact (congrArg (fun x => x.1.poisoned 0x200000) hg :).trans (by decide +kernel)
  have hu := hread u (.inl ((congrArg (fun x => x.1.steady) hb).symm.trans (State.steady_bufCheck _ _ _ _ _ _ _)))
  have hv := hread v (.inr ((congrArg (fun x => x.1.steady) hb').symm.trans (State.steady_bufCheck _ _ _ _ _ _ _)))
  obtain ⟨t, he, -, -, -, hid, -, -⟩ := hamo false {} walksAbroad u 0 0x200000 0x200000 hq (by decide) hp rfl htag nofun hred rfl
    (by dsimp only; rw [hoff]; exact hb) (by dsimp only; rw [hoff]; exact hu)
  obtain ⟨t', he', hid'⟩ := amo_reqId hq hp htag hred (by rw [hoff]; exact hb') (by rw [hoff]; exact hv)
  obtain rfl : t = t' := Host.Outcome.next.inj (he.symm.trans he')
  rw [hid', ← Nat.succ_eq_add_one] at hid
  exact absurd hid (Nat.ne_of_gt hlt)

end Sys2Proof.Machine
end
